-- ==== Sys2Proof/Word.lean ====
section
/-! DEFINITION. The words of the machine (00 R5, 01 R14): bytes, 32-bit instruction words, 64-bit
scalar words, 1,024-bit vector registers, and the plainest arithmetic on them. -/

namespace Sys2Proof

abbrev Byte := BitVec 8
/-- An instruction word (02 R27). -/
abbrev IWord := BitVec 32
/-- A scalar register (01 R14). -/
abbrev Word := BitVec 64
/-- A vector register, 32 lanes of 32 bits (01 R14). -/
abbrev VWord := BitVec 1024

/-- Bits `h` down to `l` of a word as an unsigned number (00 R5, `Bits(x, h, l)`). -/
def bits (x : BitVec w) (h l : Nat) : Nat := x.toNat / 2 ^ l % 2 ^ (h + 1 - l)

/-- `SignExt(x, n)` of 00 R5. -/
def signExt (x : BitVec n) : Word := x.signExtend 64

/-- `ZeroExt(x, n)` of 00 R5. -/
def zeroExt (x : BitVec n) : Word := x.zeroExtend 64

end Sys2Proof
end

