-- ==== Sys2Proof/Syntax.lean ====
section
/-! DEFINITION. The operations of the machine, one constructor for each row of spec/opcode_table.json:
236 instruction words (02 R27 to R47) and 92 steps of the engines and of the outside world
(spec/95_what_each_step_holds.md). A word's constructor holds its fields; the first is the S-marker
(02 R28). A step's constructor holds what the step is about and what the outside world brings in with
it (log 10). -/

namespace Sys2Proof

/-- A scalar or vector register number (02 R27). -/
abbrev Reg := BitVec 5
/-- A mask register number; a field that names one has bits 4:3 clear (02 R45). -/
abbrev KReg := BitVec 3
/-- A panel number (02 R46). -/
abbrev ZReg := BitVec 4
/-- The S-marker, bit 31 of every word (02 R28). -/
abbrev SMark := Bool

/-- Scopes, codes 0 to 5 (02 R53). -/
inductive Scope | str | tile | clu | die | pkg | sys
  deriving DecidableEq, Repr

/-- Access widths B, H, W, D, codes 0 to 3 (02 R37). -/
inductive Width | b | h | w | d
  deriving DecidableEq, Repr

/-- Scalar floating-point formats, f3 of opcode 0x0B (02 R36). -/
inductive Prec | f32 | f64
  deriving DecidableEq, Repr

/-- Vector element types, f3 of opcodes 0x20 to 0x27 (02 R45). -/
inductive ETy | int8 | int16 | int32 | bf16 | fp32
  deriving DecidableEq, Repr

/-- Tensor formats, the 3-bit codes of 03 R60. -/
inductive TFmt | bf16 | e4m3 | e5m2 | e2m3 | e3m2 | e2m1 | int8 | ts8
  deriving DecidableEq, Repr

/-- Accumulation of MMA: FP32, INT32 wrapping, INT32 saturating (02 R30). -/
inductive Acc | f32 | i32w | i32s
  deriving DecidableEq, Repr

/-- Conversion codes of FCVT, 0 to 8 (02 R36). -/
inductive CvtOp | fromOther | fromL | fromLU | fromW | fromWU | toL | toLU | toW | toWU
  deriving DecidableEq, Repr

/-- Vote operations (02 R44). -/
inductive VoteOp | and | or | sum
  deriving DecidableEq, Repr

/-- A fence set: reads, writes, engine operations (02 R40). -/
structure FenceSet where
  r : Bool
  w : Bool
  e : Bool
  deriving DecidableEq, Repr

/-- The two side cores of a tile (06 R123). -/
inductive Side | loader | storer
  deriving DecidableEq, Repr

/-- The write forms of the CSR class (05 R100). -/
inductive CsrForm | wr | set | clr
  deriving DecidableEq, Repr

/-- Where an error strikes, with the 8-byte words that it touches (21 R349, R351): words of a tile store; of a slice or of
memory, by physical address divided by 8; of a panel, 24 to a row and then the scale strip; of an L1; of the replicas in a
slice; of a cluster unit; of the data that flight `n` carries. -/
inductive ErrPlace
  | store (tile : Nat) (words : List Nat)
  | memory (words : List Nat)
  | panel (tile : Nat) (z : ZReg) (words : List Nat)
  | l1 (tile : Nat) (words : List Nat)
  | copy (slice : Nat) (words : List Nat)
  | cluster (cu : Nat) (words : List Nat)
  | flit (n : Nat) (words : List Nat)
  deriving DecidableEq, Repr

/-- What the steward does with a pair of workspace and page it serves (13 R270): it installs the given
entry at a level of the page's tables, or refuses; or it installs an entry for a unit of the device that is no agent of a
tile; or, without a pair, it writes OWNER of a role-map entry (11 R223, R224, log 72). -/
inductive PageAnswer | install (level : BitVec 2) (pte : BitVec 64) | refuse | serve (ws : BitVec 12) (va : BitVec 64) (level : BitVec 2) (pte : BitVec 64)
  | owner (ltid ws : BitVec 12)
  deriving DecidableEq, Repr

/-- The operations of the machine. Register fields are named by 02 R29: `rd` (or `vd`), `rs1`, `rs2`. -/
inductive Instr
  -- OP-IMM (02 R34)
  | addi (m : SMark) (rd rs1 : Reg) (imm : BitVec 11)
  | slli (m : SMark) (rd rs1 : Reg) (sh : BitVec 6)
  | srli (m : SMark) (rd rs1 : Reg) (sh : BitVec 6)
  | srai (m : SMark) (rd rs1 : Reg) (sh : BitVec 6)
  | slti (m : SMark) (rd rs1 : Reg) (imm : BitVec 11)
  | sltiu (m : SMark) (rd rs1 : Reg) (imm : BitVec 11)
  | xori (m : SMark) (rd rs1 : Reg) (imm : BitVec 11)
  | addiw (m : SMark) (rd rs1 : Reg) (imm : BitVec 11)
  | ori (m : SMark) (rd rs1 : Reg) (imm : BitVec 11)
  | andi (m : SMark) (rd rs1 : Reg) (imm : BitVec 11)
  -- OP (02 R34)
  | add (m : SMark) (rd rs1 rs2 : Reg)
  | sub (m : SMark) (rd rs1 rs2 : Reg)
  | sll (m : SMark) (rd rs1 rs2 : Reg)
  | srl (m : SMark) (rd rs1 rs2 : Reg)
  | sra (m : SMark) (rd rs1 rs2 : Reg)
  | slt (m : SMark) (rd rs1 rs2 : Reg)
  | sltu (m : SMark) (rd rs1 rs2 : Reg)
  | and (m : SMark) (rd rs1 rs2 : Reg)
  | or (m : SMark) (rd rs1 rs2 : Reg)
  | xor (m : SMark) (rd rs1 rs2 : Reg)
  | min (m : SMark) (rd rs1 rs2 : Reg)
  | max (m : SMark) (rd rs1 rs2 : Reg)
  | minu (m : SMark) (rd rs1 rs2 : Reg)
  | maxu (m : SMark) (rd rs1 rs2 : Reg)
  | addw (m : SMark) (rd rs1 rs2 : Reg)
  | subw (m : SMark) (rd rs1 rs2 : Reg)
  | sllw (m : SMark) (rd rs1 rs2 : Reg)
  | srlw (m : SMark) (rd rs1 rs2 : Reg)
  | sraw (m : SMark) (rd rs1 rs2 : Reg)
  | clz (m : SMark) (rd rs1 : Reg)
  | ctz (m : SMark) (rd rs1 : Reg)
  | popc (m : SMark) (rd rs1 : Reg)
  | sextB (m : SMark) (rd rs1 : Reg)
  | sextH (m : SMark) (rd rs1 : Reg)
  | sextW (m : SMark) (rd rs1 : Reg)
  | zextW (m : SMark) (rd rs1 : Reg)
  -- MULDIV (02 R34)
  | mul (m : SMark) (rd rs1 rs2 : Reg)
  | mulh (m : SMark) (rd rs1 rs2 : Reg)
  | mulhu (m : SMark) (rd rs1 rs2 : Reg)
  | mulw (m : SMark) (rd rs1 rs2 : Reg)
  | div (m : SMark) (rd rs1 rs2 : Reg)
  | divu (m : SMark) (rd rs1 rs2 : Reg)
  | rem (m : SMark) (rd rs1 rs2 : Reg)
  | remu (m : SMark) (rd rs1 rs2 : Reg)
  | divW (m : SMark) (rd rs1 rs2 : Reg)
  | divuW (m : SMark) (rd rs1 rs2 : Reg)
  | remW (m : SMark) (rd rs1 rs2 : Reg)
  | remuW (m : SMark) (rd rs1 rs2 : Reg)
  -- upper immediates, jumps, branches (02 R35)
  | lui (m : SMark) (rd : Reg) (imm : BitVec 19)
  | auipc (m : SMark) (rd : Reg) (imm : BitVec 19)
  | jal (m : SMark) (rd : Reg) (imm : BitVec 19)
  | jalr (m : SMark) (rd rs1 : Reg) (imm : BitVec 11)
  | beq (m : SMark) (rs1 rs2 : Reg) (imm : BitVec 11)
  | bne (m : SMark) (rs1 rs2 : Reg) (imm : BitVec 11)
  | blt (m : SMark) (rs1 rs2 : Reg) (imm : BitVec 11)
  | bge (m : SMark) (rs1 rs2 : Reg) (imm : BitVec 11)
  | bltu (m : SMark) (rs1 rs2 : Reg) (imm : BitVec 11)
  | bgeu (m : SMark) (rs1 rs2 : Reg) (imm : BitVec 11)
  -- FP (02 R36)
  | fadd (m : SMark) (p : Prec) (rd rs1 rs2 : Reg)
  | fsub (m : SMark) (p : Prec) (rd rs1 rs2 : Reg)
  | fmul (m : SMark) (p : Prec) (rd rs1 rs2 : Reg)
  | fmac (m : SMark) (p : Prec) (rd rs1 rs2 : Reg)
  | fdiv (m : SMark) (p : Prec) (rd rs1 rs2 : Reg)
  | fsqrt (m : SMark) (p : Prec) (rd rs1 : Reg)
  | fmin (m : SMark) (p : Prec) (rd rs1 rs2 : Reg)
  | fmax (m : SMark) (p : Prec) (rd rs1 rs2 : Reg)
  | fcmpEq (m : SMark) (p : Prec) (rd rs1 rs2 : Reg)
  | fcmpLt (m : SMark) (p : Prec) (rd rs1 rs2 : Reg)
  | fcmpLe (m : SMark) (p : Prec) (rd rs1 rs2 : Reg)
  | fclass (m : SMark) (p : Prec) (rd rs1 : Reg)
  | fsgnj (m : SMark) (p : Prec) (rd rs1 rs2 : Reg)
  | fsgnjN (m : SMark) (p : Prec) (rd rs1 rs2 : Reg)
  | fsgnjX (m : SMark) (p : Prec) (rd rs1 rs2 : Reg)
  | fcvt (m : SMark) (p : Prec) (op : CvtOp) (rd rs1 : Reg)
  -- LOAD, STORE (02 R37)
  | lb (m : SMark) (rd rs1 : Reg) (imm : BitVec 11)
  | lbu (m : SMark) (rd rs1 : Reg) (imm : BitVec 11)
  | lh (m : SMark) (rd rs1 : Reg) (imm : BitVec 11)
  | lhu (m : SMark) (rd rs1 : Reg) (imm : BitVec 11)
  | lw (m : SMark) (rd rs1 : Reg) (imm : BitVec 11)
  | lwu (m : SMark) (rd rs1 : Reg) (imm : BitVec 11)
  | ld (m : SMark) (rd rs1 : Reg) (imm : BitVec 11)
  | lacq (m : SMark) (sc : Scope) (wd : Width) (rd rs1 : Reg)
  | sb (m : SMark) (rs1 rs2 : Reg) (imm : BitVec 11)
  | sh (m : SMark) (rs1 rs2 : Reg) (imm : BitVec 11)
  | sw (m : SMark) (rs1 rs2 : Reg) (imm : BitVec 11)
  | sd (m : SMark) (rs1 rs2 : Reg) (imm : BitVec 11)
  | srel (m : SMark) (sc : Scope) (wd : Width) (rs1 rs2 : Reg)
  | pref (m : SMark) (l2 : Bool) (rs1 : Reg) (imm : BitVec 11)
  -- CSR, SYSTEM, REGION (02 R38, R39)
  | csrrd (m : SMark) (rd : Reg) (csr : BitVec 11)
  | csrwr (m : SMark) (rd rs1 : Reg) (csr : BitVec 11)
  | csrset (m : SMark) (rd rs1 : Reg) (csr : BitVec 11)
  | csrclr (m : SMark) (rd rs1 : Reg) (csr : BitVec 11)
  | ecall (m : SMark) (code : BitVec 11)
  | ebreak (m : SMark) (code : BitVec 11)
  | eret (m : SMark)
  | wfi (m : SMark)
  | halt (m : SMark)
  | tlbsync (m : SMark)
  | rgn (m : SMark) (d : BitVec 23)
  | rgnv (m : SMark) (count : BitVec 18)
  -- ATOMIC, BANKFN, FENCE (02 R40)
  | amoadd (m : SMark) (sc : Scope) (dw : Bool) (rd rs1 rs2 : Reg)
  | amoand (m : SMark) (sc : Scope) (dw : Bool) (rd rs1 rs2 : Reg)
  | amoor (m : SMark) (sc : Scope) (dw : Bool) (rd rs1 rs2 : Reg)
  | amoxor (m : SMark) (sc : Scope) (dw : Bool) (rd rs1 rs2 : Reg)
  | amomin (m : SMark) (sc : Scope) (dw : Bool) (rd rs1 rs2 : Reg)
  | amomax (m : SMark) (sc : Scope) (dw : Bool) (rd rs1 rs2 : Reg)
  | amominu (m : SMark) (sc : Scope) (dw : Bool) (rd rs1 rs2 : Reg)
  | amomaxu (m : SMark) (sc : Scope) (dw : Bool) (rd rs1 rs2 : Reg)
  | amoswp (m : SMark) (sc : Scope) (dw : Bool) (rd rs1 rs2 : Reg)
  | amocas (m : SMark) (sc : Scope) (dw : Bool) (rd rs1 rs2 : Reg)
  | amofadd (m : SMark) (sc : Scope) (p : Prec) (rd rs1 rs2 : Reg)
  | bfnld (m : SMark) (slot : BitVec 3) (rs1 : Reg)
  | bupd (m : SMark) (slot : BitVec 3) (rs1 rs2 : Reg)
  | fence (m : SMark) (sc : Scope) (pred succ : FenceSet)
  | fenceE (m : SMark) (sc : Scope)
  -- TAGMEM (02 R41)
  | ldf (m : SMark) (rd rs1 : Reg) (imm : BitVec 11)
  | ldff (m : SMark) (rd rs1 : Reg) (imm : BitVec 11)
  | ste (m : SMark) (rs1 rs2 : Reg) (imm : BitVec 11)
  | stf (m : SMark) (rs1 rs2 : Reg) (imm : BitVec 11)
  | tgset (m : SMark) (rs1 : Reg) (imm : BitVec 11)
  | tgclr (m : SMark) (rs1 : Reg) (imm : BitVec 11)
  -- WEIR (02 R42)
  | winit (m : SMark) (rs1 rs2 : Reg)
  | wjoin (m : SMark) (rs1 : Reg)
  | wleave (m : SMark) (rs1 : Reg)
  | warr (m : SMark) (rs1 rs2 : Reg)
  | warrd (m : SMark) (rs1 : Reg)
  | wexp (m : SMark) (rd rs1 rs2 : Reg)
  | wwait (m : SMark) (rs1 rs2 : Reg)
  | wwaitt (m : SMark) (rd rs1 rs2 : Reg)
  | wtest (m : SMark) (rd rs1 : Reg)
  -- MAILBOX, MSG, FURROW (02 R43)
  | mrecv (m : SMark) (rd rs1 : Reg)
  | mpeek (m : SMark) (rd rs1 : Reg)
  | mwait (m : SMark)
  | put (m : SMark) (wd : Width) (rs1 rs2 : Reg)
  | get (m : SMark) (wd : Width) (rd rs1 : Reg)
  | notify (m : SMark) (rs1 rs2 : Reg)
  | fopen (m : SMark) (rd rs1 rs2 : Reg)
  | fsend (m : SMark) (rd rs1 rs2 : Reg)
  | frecv (m : SMark) (rd rs1 rs2 : Reg)
  | fclose (m : SMark) (rd rs1 rs2 : Reg)
  -- SCHED, DOMAIN, ROLE, COPY, QUEUE (02 R44)
  | enq (m : SMark) (rd rs1 rs2 : Reg)
  | rclaim (m : SMark) (rd rs1 rs2 : Reg)
  | rsplit (m : SMark) (rd rs1 rs2 : Reg)
  | depdec (m : SMark) (rd rs1 : Reg)
  | tdone (m : SMark)
  | susp (m : SMark) (rd rs1 : Reg)
  | yield (m : SMark)
  | gbar (m : SMark) (ch : BitVec 3)
  | gbwait (m : SMark) (rd : Reg) (ch : BitVec 3)
  | vote (m : SMark) (op : VoteOp) (ch : BitVec 3) (rs1 : Reg)
  | ssend (m : SMark) (slot : BitVec 6) (rs1 : Reg)
  | lease (m : SMark) (rd rs1 rs2 : Reg)
  | unlease (m : SMark) (rd rs1 rs2 : Reg)
  | roleq (m : SMark) (rd rs1 rs2 : Reg)
  | ntcack (m : SMark) (rd rs1 rs2 : Reg)
  | tcopy (m : SMark) (rd rs1 rs2 : Reg)
  | cpcancel (m : SMark) (rd rs1 rs2 : Reg)
  | cpstat (m : SMark) (rd rs1 rs2 : Reg)
  | qpush (m : SMark) (q : BitVec 2) (rs1 : Reg)
  | qpop (m : SMark) (rd : Reg) (q : BitVec 2)
  -- VECTOR (02 R45); `mk` is the mask field, `t` the element type
  | vadd (m : SMark) (mk : KReg) (t : ETy) (vd vs1 vs2 : Reg)
  | vsub (m : SMark) (mk : KReg) (t : ETy) (vd vs1 vs2 : Reg)
  | vmul (m : SMark) (mk : KReg) (t : ETy) (vd vs1 vs2 : Reg)
  | vfma (m : SMark) (mk : KReg) (t : ETy) (vd vs1 vs2 : Reg)
  | vmin (m : SMark) (mk : KReg) (t : ETy) (vd vs1 vs2 : Reg)
  | vmax (m : SMark) (mk : KReg) (t : ETy) (vd vs1 vs2 : Reg)
  | vabs (m : SMark) (mk : KReg) (t : ETy) (vd vs1 : Reg)
  | vneg (m : SMark) (mk : KReg) (t : ETy) (vd vs1 : Reg)
  | vand (m : SMark) (mk : KReg) (t : ETy) (vd vs1 vs2 : Reg)
  | vor (m : SMark) (mk : KReg) (t : ETy) (vd vs1 vs2 : Reg)
  | vxor (m : SMark) (mk : KReg) (t : ETy) (vd vs1 vs2 : Reg)
  | vshl (m : SMark) (mk : KReg) (t : ETy) (vd vs1 vs2 : Reg)
  | vshr (m : SMark) (mk : KReg) (t : ETy) (vd vs1 vs2 : Reg)
  | vsra (m : SMark) (mk : KReg) (t : ETy) (vd vs1 vs2 : Reg)
  | vsel (m : SMark) (mk : KReg) (t : ETy) (vd vs1 vs2 : Reg)
  | vmv (m : SMark) (mk : KReg) (t : ETy) (vd vs1 : Reg)
  | vcmpEq (m : SMark) (mk : KReg) (t : ETy) (kd : KReg) (vs1 vs2 : Reg)
  | vcmpNe (m : SMark) (mk : KReg) (t : ETy) (kd : KReg) (vs1 vs2 : Reg)
  | vcmpLt (m : SMark) (mk : KReg) (t : ETy) (kd : KReg) (vs1 vs2 : Reg)
  | vcmpLe (m : SMark) (mk : KReg) (t : ETy) (kd : KReg) (vs1 vs2 : Reg)
  | vcmpGt (m : SMark) (mk : KReg) (t : ETy) (kd : KReg) (vs1 vs2 : Reg)
  | vcmpGe (m : SMark) (mk : KReg) (t : ETy) (kd : KReg) (vs1 vs2 : Reg)
  | vcmpLtu (m : SMark) (mk : KReg) (t : ETy) (kd : KReg) (vs1 vs2 : Reg)
  | vcmpGeu (m : SMark) (mk : KReg) (t : ETy) (kd : KReg) (vs1 vs2 : Reg)
  | vbcast (m : SMark) (mk : KReg) (t : ETy) (vd rs1 : Reg)
  | vextr (m : SMark) (t : ETy) (rd vs1 rs2 : Reg)
  | vins (m : SMark) (t : ETy) (vd rs1 rs2 : Reg)
  | vperm (m : SMark) (mk : KReg) (t : ETy) (vd vs1 vs2 : Reg)
  | vslide (m : SMark) (mk : KReg) (t : ETy) (vd vs1 rs2 : Reg)
  | viota (m : SMark) (mk : KReg) (t : ETy) (vd : Reg) (ks1 : KReg)
  | vmpop (m : SMark) (mk : KReg) (rd : Reg) (ks1 : KReg)
  | vredsum (m : SMark) (mk : KReg) (t : ETy) (rd vs1 rs2 : Reg)
  | vredmax (m : SMark) (mk : KReg) (t : ETy) (rd vs1 rs2 : Reg)
  | vredmin (m : SMark) (mk : KReg) (t : ETy) (rd vs1 rs2 : Reg)
  | vscan (m : SMark) (mk : KReg) (t : ETy) (vd vs1 rs2 : Reg)
  | vcvt (m : SMark) (mk : KReg) (t : ETy) (dst : ETy) (vd vs1 : Reg)
  | vpack (m : SMark) (mk : KReg) (t : ETy) (vd vs1 vs2 : Reg)
  | vunpack (m : SMark) (mk : KReg) (t : ETy) (hi : Bool) (vd vs1 : Reg)
  | vdot (m : SMark) (mk : KReg) (t : ETy) (vd vs1 vs2 : Reg)
  | vld (m : SMark) (mk : KReg) (t : ETy) (vd rs1 rs2 : Reg)
  | vst (m : SMark) (mk : KReg) (t : ETy) (vd rs1 rs2 : Reg)
  | vlds (m : SMark) (mk : KReg) (t : ETy) (vd rs1 rs2 : Reg)
  | vsts (m : SMark) (mk : KReg) (t : ETy) (vd rs1 rs2 : Reg)
  | vgath (m : SMark) (mk : KReg) (t : ETy) (vd rs1 vs2 : Reg)
  | vscat (m : SMark) (mk : KReg) (t : ETy) (vd rs1 vs2 : Reg)
  | vldg (m : SMark) (mk : KReg) (t : ETy) (vd rs1 rs2 : Reg)
  | vstg (m : SMark) (mk : KReg) (t : ETy) (vd rs1 rs2 : Reg)
  | vexp2 (m : SMark) (mk : KReg) (t : ETy) (vd vs1 : Reg)
  | vlog2 (m : SMark) (mk : KReg) (t : ETy) (vd vs1 : Reg)
  | vrcp (m : SMark) (mk : KReg) (t : ETy) (vd vs1 : Reg)
  | vrsqrt (m : SMark) (mk : KReg) (t : ETy) (vd vs1 : Reg)
  | vquant (m : SMark) (mk : KReg) (t : ETy) (f : TFmt) (vd vs1 : Reg)
  | vdeq (m : SMark) (mk : KReg) (t : ETy) (f : TFmt) (vd vs1 : Reg)
  | kand (m : SMark) (kd ks1 ks2 : KReg)
  | kor (m : SMark) (kd ks1 ks2 : KReg)
  | kxor (m : SMark) (kd ks1 ks2 : KReg)
  | knot (m : SMark) (kd ks1 : KReg)
  -- PANEL and TENSOR (02 R46)
  | mma (m : SMark) (fb fa : TFmt) (zb za zc : ZReg) (acc : Acc)
  | zld (m : SMark) (z : ZReg) (rs1 rs2 : Reg)
  | zst (m : SMark) (z : ZReg) (rs1 rs2 : Reg)
  | zzero (m : SMark) (zc : ZReg)
  | zcvt (m : SMark) (fa : TFmt) (zc za : ZReg)
  | zscl (m : SMark) (zc za : ZReg)
  | zxp (m : SMark) (zc za : ZReg)
  | zmovv (m : SMark) (z : ZReg) (vs1 rs2 : Reg)
  | vmovz (m : SMark) (vd : Reg) (z : ZReg) (rs2 : Reg)
  -- SERVE, KV, DAE (02 R47)
  | bform (m : SMark) (rd rs1 rs2 : Reg)
  | bcommit (m : SMark) (rd rs1 rs2 : Reg)
  | rqfork (m : SMark) (rd rs1 rs2 : Reg)
  | rqevict (m : SMark) (rd rs1 rs2 : Reg)
  | rqstat (m : SMark) (rd rs1 rs2 : Reg)
  | slotrd (m : SMark) (rd rs1 rs2 : Reg)
  | kvapp (m : SMark) (rd rs1 rs2 : Reg)
  | kvlook (m : SMark) (rd rs1 rs2 : Reg)
  | kvrel (m : SMark) (rd rs1 rs2 : Reg)
  | dattn (m : SMark) (rd rs1 rs2 : Reg)
  -- CSR accesses with a step of their own (09 R195, 08 R163, R165, 15 R294, 06 R125)
  | cpGo (m : SMark) (rd : Reg)
  | ttinv (m : SMark) (f : CsrForm) (rd rs1 : Reg)
  | zcfgWrite (m : SMark) (f : CsrForm) (z : ZReg) (rd rs1 : Reg)
  | xsdataWrite (m : SMark) (f : CsrForm) (rd rs1 : Reg)
  | sideCoreGo (m : SMark) (sd : Side) (f : CsrForm) (rd rs1 : Reg)
  | sideCoreStop (m : SMark) (sd : Side) (f : CsrForm) (rd rs1 : Reg)
  -- steps of a tile's core
  | sideImageLoaded (tile : Nat) (sd : Side)
  | sideCoreTrap (tile : Nat) (sd : Side)
  | recordPickup (tile : Nat) (c : Fin 8)
  | preemption (tile : Nat) (c : Fin 8)
  | trapDelivery (tile : Nat) (c : Fin 8)
  | suspensionRetry (tile : Nat) (c : Fin 8)
  | faultQueueRetry (n : Nat)
  | remoteResultArrival (n : Nat) (outside : List Byte)
  | contextSwitch (tile : Nat)
  | runlimitExpiry (tile : Nat)
  | wfiTimeout (tile : Nat) (c : Fin 8)
  | wwaittTimeout (tile : Nat) (a : Fin 10)
  | gbwaitTimeout (tile : Nat) (c : Fin 8)
  | mailboxDeferredPlace (tile : Nat)
  | copyPiece (tile : Nat) (chan : Fin 4)
  | copyCompletion (tile : Nat) (chan : Fin 4)
  | copyCompletionPlaced (tile : Nat) (chan : Fin 4)
  -- steps of the mesh and of furrows
  | packetArrival (n : Nat)
  | nackReceipt (n : Nat)
  | replay (tile dst : Nat)
  | acceptAck (n : Nat)
  | replayExpiry (tile dst : Nat)
  | furrowDatumArrival (n : Nat)
  | creditReturn (n : Nat)
  -- steps of the census
  | tick
  | epochEnd (die : Fin 4) (pc ps pl : Nat) (rowStall : List Nat)
  | leaseExpiry (ltid : BitVec 12)
  | noticeDeadline (ltid : BitVec 12) (nid : Byte)
  | enterMoving (ltid : BitVec 12)
  | moveComplete (ltid : BitVec 12)
  | pageFlip (n : Nat)
  | roleCacheInvalidation (tile : Nat) (ltid : BitVec 12)
  -- steps of the slices and of translation
  | storeRegistration (n : Nat)
  | registrationAck (n : Nat)
  | sliceFill (n : Nat)
  | forwardedRead (n : Nat)
  | writeBack (tile line : Nat)
  | leave (n : Nat)
  | registryErrorRecall (line : Nat)
  | replicaLapse (line helper : Nat)
  | tableWalk (n : Nat)
  | stewardPageService (n : Nat) (a : PageAnswer)
  | icacheFill (n : Nat)
  -- steps of the host port
  | hostReadShared (pa : Nat)
  | hostReadOwn (pa : Nat)
  | hostWriteback (pa : Nat) (data : List Byte) (keep : Bool)
  | hostUncachedWrite (pa : Nat) (data : List Byte)
  | backInvalidationResponse (pa : Nat) (data : List Byte)
  | hostSnoop (pa : Nat)
  -- steps of the scheduler and of barriers
  | dispatch (die : Fin 4)
  | schedulerSplit (die : Fin 4)
  | headgateAdmission (die : Fin 4)
  | stagingDeadline (die : Fin 4) (n : Nat)
  | counterSignal (n : Nat)
  | counterEnqueueRetry (n : Nat)
  | barrierRelease (die : Fin 4) (ch : BitVec 3)
  | scheduledInjection (tile : Nat) (slot : BitVec 6) (late : Bool)
  | memberLost (tile : Nat) (c : Fin 8)
  | dattnCompletion (die : Fin 4)
  | enqWindowGo (i : Fin 4)
  -- steward commands: SCMD written with the command's code (05 R113)
  | wswrite
  | tlbinv
  | ttflush
  | rgnmake
  | rgngrant
  | rgnfree
  | forcecast
  | taskstop
  | mgmtRegisterWrite (off : BitVec 32) (v : Word)
  -- trust, bring-up, reliability
  | attestationRequest (nonce : BitVec 256)
  | attestationReportReady
  | imageVerify (key : BitVec 3072) (image : List Byte) (sig : BitVec 3072) (version : Word)
  | powerOnReset (pass : BitVec 4)
  | fullServiceSwitch (dies : BitVec 4) (hbm : BitVec 8) (cxl : BitVec 4) (fab : BitVec 16) (node : BitVec 6)
  | ue (p : ErrPlace)
  | ce (die : Fin 5) (unit : BitVec 3) (loc : BitVec 12)
  | linkCrcFailure (link : BitVec 12) (again : Bool)
  | thermalHold (temp : Byte)
  | thermalShutdown (temp : Byte)
  | clockStep (watts : BitVec 16)
  | wearUpdate (pct : Byte) (days : BitVec 32)
  | remoteAccessTimeout (n : Nat)
  | replyArrival (n : Nat)
  | tensorEngineCompletion (tile : Nat)
  | thermalHoldEnd
  | badcmd (code : Word)
  deriving DecidableEq, Repr

end Sys2Proof
end

