-- ==== Sys2Proof/WellFormed.lean ====
section
/-! DEFINITION. Which terms of the syntax are instructions: the checks of R32 that the types of the fields
do not already make, and the ranges of the arguments of the steps. -/

namespace Sys2Proof

/-- The integer element types, set I of R45. -/
def ETy.isInt : ETy → Bool
  | .int8 | .int16 | .int32 => true
  | .bf16 | .fp32 => false

/-- The floating-point element types, set F of R45. -/
def ETy.isFloat : ETy → Bool
  | .bf16 | .fp32 => true
  | .int8 | .int16 | .int32 => false

/-- The element types of VDOT (02 R45, 07 R141). -/
def ETy.isDot : ETy → Bool
  | .int8 | .bf16 => true
  | .int16 | .int32 | .fp32 => false

/-- Physical tiles are numbered 0 to 1,023 (00 R1). -/
def tileOk (t : Nat) : Bool := t < 1024

/-- Well-formed instructions: an atomic names no scope 0 (02 R40), a vector operation names a type of its
set (02 R45), a step names tiles and places that exist. -/
def Instr.wf : Instr → Bool
  | .amoadd _ sc .. | .amoand _ sc .. | .amoor _ sc .. | .amoxor _ sc .. | .amomin _ sc .. | .amomax _ sc ..
  | .amominu _ sc .. | .amomaxu _ sc .. | .amoswp _ sc .. | .amocas _ sc .. | .amofadd _ sc .. => sc != .str
  | .vand _ _ t .. | .vor _ _ t .. | .vxor _ _ t .. | .vshl _ _ t .. | .vshr _ _ t .. | .vsra _ _ t ..
  | .vcmpLtu _ _ t .. | .vcmpGeu _ _ t .. | .viota _ _ t .. => t.isInt
  | .vdot _ _ t .. => t.isDot
  | .vexp2 _ _ t .. | .vlog2 _ _ t .. | .vrcp _ _ t .. | .vrsqrt _ _ t .. | .vquant _ _ t .. | .vdeq _ _ t .. => t.isFloat
  | .sideImageLoaded tile _ | .sideCoreTrap tile _ | .recordPickup tile _ | .preemption tile _ | .trapDelivery tile _
  | .suspensionRetry tile _ | .contextSwitch tile | .runlimitExpiry tile | .wfiTimeout tile _ | .wwaittTimeout tile _
  | .gbwaitTimeout tile _ | .mailboxDeferredPlace tile | .copyPiece tile _ | .copyCompletion tile _
  | .copyCompletionPlaced tile _ | .roleCacheInvalidation tile _ | .writeBack tile _ | .scheduledInjection tile _ _
  | .memberLost tile _ | .tensorEngineCompletion tile => tileOk tile
  | .replay tile dst | .replayExpiry tile dst => tileOk tile && decide (dst < 4096)
  | .ue (.store tile ws) => tileOk tile && ws.all fun w => decide (w < 0x30000)
  | .ue (.panel tile _ ws) => tileOk tile && ws.all fun w => decide (w < 2448)
  | .ue (.l1 tile _) => tileOk tile
  | .ue (.copy slice _) => decide (slice < 256)
  | .ue (.cluster cu _) => decide (cu < 64)
  | .hostWriteback _ d _ | .backInvalidationResponse _ d => d.length == 64
  | _ => true

end Sys2Proof
end

