-- ==== Sys2Proof/Decode.lean ====
section
/-! DEFINITION. The decoder: from the bytes at an address to an instruction or to the name of what makes
the word illegal (02 R27 to R32, R34 to R47); after it the encoder, written from the same tables. -/

namespace Sys2Proof

/-- What makes a word no instruction (02 R32). Every one of these takes the trap ILLEGAL at run time. -/
inductive DecodeError
  /-- The major opcode is reserved (02 R31). -/
  | reservedOpcode
  /-- The function code is not allocated (02 R34 to R47). -/
  | reservedFunction
  /-- A field that the tables mark "0" is nonzero. -/
  | nonzeroField
  /-- A register field limited to a smaller file holds a higher number. -/
  | registerRange
  /-- The scope field holds 6 or 7, or a scope the class forbids. -/
  | badScope
  /-- An element type outside the operation's set (02 R45). -/
  | elementType
  /-- A T-format acc field holds 3 to 7. -/
  | badAcc
  /-- Fewer than four bytes were given. -/
  | tooShort
  deriving DecidableEq, Repr

abbrev Decoded := Except DecodeError Instr

/-! Fields of a word (02 R27, R29). -/

def fOp (w : IWord) : BitVec 7 := w.extractLsb' 0 7
def fRd (w : IWord) : Reg := w.extractLsb' 7 5
def fF3 (w : IWord) : BitVec 3 := w.extractLsb' 12 3
def fRs1 (w : IWord) : Reg := w.extractLsb' 15 5
def fRs2 (w : IWord) : Reg := w.extractLsb' 20 5
def fF6 (w : IWord) : BitVec 6 := w.extractLsb' 25 6
def fF3b (w : IWord) : BitVec 3 := w.extractLsb' 25 3
/-- The scope of the M format, the mask of the V format. -/
def fTop (w : IWord) : BitVec 3 := w.extractLsb' 28 3
def fImmI (w : IWord) : BitVec 11 := w.extractLsb' 20 11
/-- The immediate of the S and B formats, bits 10:5 in 30:25 and bits 4:0 in 11:7. -/
def fImmS (w : IWord) : BitVec 11 := fF6 w ++ fRd w
def fImmU (w : IWord) : BitVec 19 := w.extractLsb' 12 19
def fS (w : IWord) : SMark := w.extractLsb' 31 1 == 1#1
/-! Fields of the T format (02 R29). -/
def fTF3 (w : IWord) : BitVec 3 := w.extractLsb' 7 3
def fAcc (w : IWord) : BitVec 3 := w.extractLsb' 10 3
def fZc (w : IWord) : ZReg := w.extractLsb' 13 4
def fZa (w : IWord) : ZReg := w.extractLsb' 17 4
def fZb (w : IWord) : ZReg := w.extractLsb' 21 4
def fFmtA (w : IWord) : BitVec 3 := w.extractLsb' 25 3
def fFmtB (w : IWord) : BitVec 3 := w.extractLsb' 28 3

/-! Codes of the fields that are not numbers (02 R36, R37, R44, R45, R53, 03 R60). -/

def scopeOf (c : BitVec 3) : Option Scope :=
  match c.toNat with
  | 0 => some .str | 1 => some .tile | 2 => some .clu | 3 => some .die | 4 => some .pkg | 5 => some .sys
  | _ => none

def widthOf (c : BitVec 2) : Width :=
  match c.toNat with
  | 0 => .b | 1 => .h | 2 => .w | _ => .d

def etyOf (c : BitVec 3) : Option ETy :=
  match c.toNat with
  | 0 => some .int8 | 1 => some .int16 | 2 => some .int32 | 3 => some .bf16 | 4 => some .fp32
  | _ => none

def tfmtOf (c : BitVec 3) : TFmt :=
  match c.toNat with
  | 0 => .bf16 | 1 => .e4m3 | 2 => .e5m2 | 3 => .e2m3 | 4 => .e3m2 | 5 => .e2m1 | 6 => .int8
  | _ => .ts8

def accOf (c : BitVec 3) : Option Acc :=
  match c.toNat with
  | 0 => some .f32 | 1 => some .i32w | 2 => some .i32s
  | _ => none

def precOf (c : BitVec 3) : Option Prec :=
  match c.toNat with
  | 0 => some .f32 | 1 => some .f64
  | _ => none

def cvtOf (c : BitVec 5) : Option CvtOp :=
  match c.toNat with
  | 0 => some .fromOther | 1 => some .fromL | 2 => some .fromLU | 3 => some .fromW | 4 => some .fromWU
  | 5 => some .toL | 6 => some .toLU | 7 => some .toW | 8 => some .toWU
  | _ => none

def voteOf (c : BitVec 2) : Option VoteOp :=
  match c.toNat with
  | 0 => some .and | 1 => some .or | 2 => some .sum
  | _ => none

def fenceSetOf (c : BitVec 3) : FenceSet := ⟨c.getLsbD 0, c.getLsbD 1, c.getLsbD 2⟩

/-- A k register in a five-bit field: bits 4:3 must be clear (02 R45). -/
def kregOf (c : Reg) : Option KReg := if c.extractLsb' 3 2 = 0 then some (c.extractLsb' 0 3) else none
/-- A panel in a five-bit field: bit 4 must be clear (02 R46). -/
def zregOf (c : Reg) : Option ZReg := if c.extractLsb' 4 1 = 0 then some (c.extractLsb' 0 4) else none
/-- A queue in a five-bit field (02 R44). -/
def qregOf (c : Reg) : Option (BitVec 2) := if c.extractLsb' 2 3 = 0 then some (c.extractLsb' 0 2) else none

/-! Checks of R32. -/

/-- Fields the tables mark "0". -/
def needZero (c : Bool) (k : Decoded) : Decoded := if c then k else .error .nonzeroField
/-- The element type of a vector instruction, within the set the operation allows. -/
def needType (t : BitVec 3) (ok : ETy → Bool) (k : ETy → Decoded) : Decoded :=
  match etyOf t with
  | some t => if ok t then k t else .error .elementType
  | none => .error .elementType
def needScope (c : BitVec 3) (k : Scope → Decoded) : Decoded :=
  match scopeOf c with
  | some sc => k sc
  | none => .error .badScope
/-- Scopes 1 to 5, for the atomics (02 R40). -/
def needScope1 (c : BitVec 3) (k : Scope → Decoded) : Decoded :=
  match scopeOf c with
  | some sc => if sc = .str then .error .badScope else k sc
  | none => .error .badScope
def needK (c : Reg) (k : KReg → Decoded) : Decoded :=
  match kregOf c with
  | some r => k r
  | none => .error .registerRange
def needZ (c : Reg) (k : ZReg → Decoded) : Decoded :=
  match zregOf c with
  | some r => k r
  | none => .error .registerRange
def needQ (c : Reg) (k : BitVec 2 → Decoded) : Decoded :=
  match qregOf c with
  | some r => k r
  | none => .error .registerRange


/-- LOAD, opcode 0x01 (02 R37). An f3b of 4 to 7 is reserved for LACQ. -/
def decodeLoad (w : IWord) : Decoded :=
  match (fF3 w).toNat with
  | 0 => .ok (.lb (fS w) (fRd w) (fRs1 w) (fImmI w))
  | 1 => .ok (.lbu (fS w) (fRd w) (fRs1 w) (fImmI w))
  | 2 => .ok (.lh (fS w) (fRd w) (fRs1 w) (fImmI w))
  | 3 => .ok (.lhu (fS w) (fRd w) (fRs1 w) (fImmI w))
  | 4 => .ok (.lw (fS w) (fRd w) (fRs1 w) (fImmI w))
  | 5 => .ok (.lwu (fS w) (fRd w) (fRs1 w) (fImmI w))
  | 6 => .ok (.ld (fS w) (fRd w) (fRs1 w) (fImmI w))
  | 7 => needScope (fTop w) fun sc => needZero (fRs2 w == 0 && w.extractLsb' 27 1 == 0#1) (.ok (.lacq (fS w) sc (widthOf (w.extractLsb' 25 2)) (fRd w) (fRs1 w)))
  | _ => .error .reservedFunction

/-- STORE, opcode 0x02 (02 R37). -/
def decodeStore (w : IWord) : Decoded :=
  match (fF3 w).toNat with
  | 0 => .ok (.sb (fS w) (fRs1 w) (fRs2 w) (fImmS w))
  | 1 => .ok (.sh (fS w) (fRs1 w) (fRs2 w) (fImmS w))
  | 2 => .ok (.sw (fS w) (fRs1 w) (fRs2 w) (fImmS w))
  | 3 => .ok (.sd (fS w) (fRs1 w) (fRs2 w) (fImmS w))
  | 4 => needScope (fTop w) fun sc => needZero (fRd w == 0 && w.extractLsb' 27 1 == 0#1) (.ok (.srel (fS w) sc (widthOf (w.extractLsb' 25 2)) (fRs1 w) (fRs2 w)))
  | 5 => if (fRs2 w).toNat < 2 then .ok (.pref (fS w) (fRs2 w == 1) (fRs1 w) (fImmS w)) else .error .reservedFunction
  | _ => .error .reservedFunction

/-- SLLI, SRLI, SRAI: the kind is imm[10:9] (02 R34). -/
def decodeShiftImm (w : IWord) : Decoded :=
  match (w.extractLsb' 29 2).toNat with
  | 0 => .ok (.slli (fS w) (fRd w) (fRs1 w) (w.extractLsb' 20 6))
  | 1 => .ok (.srli (fS w) (fRd w) (fRs1 w) (w.extractLsb' 20 6))
  | 2 => .ok (.srai (fS w) (fRd w) (fRs1 w) (w.extractLsb' 20 6))
  | _ => .error .reservedFunction

/-- OP-IMM, opcode 0x03 (02 R34); imm[8:6] of the shifts is 0. -/
def decodeOpImm (w : IWord) : Decoded :=
  match (fF3 w).toNat with
  | 0 => .ok (.addi (fS w) (fRd w) (fRs1 w) (fImmI w))
  | 1 => needZero (w.extractLsb' 26 3 == 0#3) (decodeShiftImm w)
  | 2 => .ok (.slti (fS w) (fRd w) (fRs1 w) (fImmI w))
  | 3 => .ok (.sltiu (fS w) (fRd w) (fRs1 w) (fImmI w))
  | 4 => .ok (.xori (fS w) (fRd w) (fRs1 w) (fImmI w))
  | 5 => .ok (.addiw (fS w) (fRd w) (fRs1 w) (fImmI w))
  | 6 => .ok (.ori (fS w) (fRd w) (fRs1 w) (fImmI w))
  | 7 => .ok (.andi (fS w) (fRd w) (fRs1 w) (fImmI w))
  | _ => .error .reservedFunction

/-- OP, opcode 0x04 (02 R34). -/
def decodeOp (w : IWord) : Decoded :=
  match (fF3 w).toNat, (fF6 w).toNat with
  | 0, 0 => .ok (.add (fS w) (fRd w) (fRs1 w) (fRs2 w))
  | 0, 1 => .ok (.sub (fS w) (fRd w) (fRs1 w) (fRs2 w))
  | 1, 0 => .ok (.sll (fS w) (fRd w) (fRs1 w) (fRs2 w))
  | 1, 1 => .ok (.srl (fS w) (fRd w) (fRs1 w) (fRs2 w))
  | 1, 2 => .ok (.sra (fS w) (fRd w) (fRs1 w) (fRs2 w))
  | 2, 0 => .ok (.slt (fS w) (fRd w) (fRs1 w) (fRs2 w))
  | 2, 1 => .ok (.sltu (fS w) (fRd w) (fRs1 w) (fRs2 w))
  | 3, 0 => .ok (.and (fS w) (fRd w) (fRs1 w) (fRs2 w))
  | 3, 1 => .ok (.or (fS w) (fRd w) (fRs1 w) (fRs2 w))
  | 3, 2 => .ok (.xor (fS w) (fRd w) (fRs1 w) (fRs2 w))
  | 4, 0 => .ok (.min (fS w) (fRd w) (fRs1 w) (fRs2 w))
  | 4, 1 => .ok (.max (fS w) (fRd w) (fRs1 w) (fRs2 w))
  | 4, 2 => .ok (.minu (fS w) (fRd w) (fRs1 w) (fRs2 w))
  | 4, 3 => .ok (.maxu (fS w) (fRd w) (fRs1 w) (fRs2 w))
  | 5, 0 => .ok (.addw (fS w) (fRd w) (fRs1 w) (fRs2 w))
  | 5, 1 => .ok (.subw (fS w) (fRd w) (fRs1 w) (fRs2 w))
  | 5, 2 => .ok (.sllw (fS w) (fRd w) (fRs1 w) (fRs2 w))
  | 5, 3 => .ok (.srlw (fS w) (fRd w) (fRs1 w) (fRs2 w))
  | 5, 4 => .ok (.sraw (fS w) (fRd w) (fRs1 w) (fRs2 w))
  | 6, 0 => needZero (fRs2 w == 0) (.ok (.clz (fS w) (fRd w) (fRs1 w)))
  | 6, 1 => needZero (fRs2 w == 0) (.ok (.ctz (fS w) (fRd w) (fRs1 w)))
  | 6, 2 => needZero (fRs2 w == 0) (.ok (.popc (fS w) (fRd w) (fRs1 w)))
  | 6, 3 => needZero (fRs2 w == 0) (.ok (.sextB (fS w) (fRd w) (fRs1 w)))
  | 6, 4 => needZero (fRs2 w == 0) (.ok (.sextH (fS w) (fRd w) (fRs1 w)))
  | 6, 5 => needZero (fRs2 w == 0) (.ok (.sextW (fS w) (fRd w) (fRs1 w)))
  | 6, 6 => needZero (fRs2 w == 0) (.ok (.zextW (fS w) (fRd w) (fRs1 w)))
  | _, _ => .error .reservedFunction

/-- MULDIV, opcode 0x05 (02 R34). -/
def decodeMulDiv (w : IWord) : Decoded :=
  match (fF3 w).toNat, (fF6 w).toNat with
  | 0, 0 => .ok (.mul (fS w) (fRd w) (fRs1 w) (fRs2 w))
  | 1, 0 => .ok (.mulh (fS w) (fRd w) (fRs1 w) (fRs2 w))
  | 2, 0 => .ok (.mulhu (fS w) (fRd w) (fRs1 w) (fRs2 w))
  | 3, 0 => .ok (.mulw (fS w) (fRd w) (fRs1 w) (fRs2 w))
  | 4, 0 => .ok (.div (fS w) (fRd w) (fRs1 w) (fRs2 w))
  | 5, 0 => .ok (.divu (fS w) (fRd w) (fRs1 w) (fRs2 w))
  | 6, 0 => .ok (.rem (fS w) (fRd w) (fRs1 w) (fRs2 w))
  | 7, 0 => .ok (.remu (fS w) (fRd w) (fRs1 w) (fRs2 w))
  | 4, 1 => .ok (.divW (fS w) (fRd w) (fRs1 w) (fRs2 w))
  | 5, 1 => .ok (.divuW (fS w) (fRd w) (fRs1 w) (fRs2 w))
  | 6, 1 => .ok (.remW (fS w) (fRd w) (fRs1 w) (fRs2 w))
  | 7, 1 => .ok (.remuW (fS w) (fRd w) (fRs1 w) (fRs2 w))
  | _, _ => .error .reservedFunction

/-- LUI, opcode 0x06 (02 R35). -/
def decodeLui (w : IWord) : Decoded :=
  .ok (.lui (fS w) (fRd w) (fImmU w))

/-- AUIPC, opcode 0x07 (02 R35). -/
def decodeAuipc (w : IWord) : Decoded :=
  .ok (.auipc (fS w) (fRd w) (fImmU w))

/-- JAL, opcode 0x08 (02 R35). -/
def decodeJal (w : IWord) : Decoded :=
  .ok (.jal (fS w) (fRd w) (fImmU w))

/-- JALR, opcode 0x09 (02 R35). -/
def decodeJalr (w : IWord) : Decoded :=
  match (fF3 w).toNat with
  | 0 => .ok (.jalr (fS w) (fRd w) (fRs1 w) (fImmI w))
  | _ => .error .reservedFunction

/-- BRANCH, opcode 0x0A (02 R35). -/
def decodeBranch (w : IWord) : Decoded :=
  match (fF3 w).toNat with
  | 0 => .ok (.beq (fS w) (fRs1 w) (fRs2 w) (fImmS w))
  | 1 => .ok (.bne (fS w) (fRs1 w) (fRs2 w) (fImmS w))
  | 4 => .ok (.blt (fS w) (fRs1 w) (fRs2 w) (fImmS w))
  | 5 => .ok (.bge (fS w) (fRs1 w) (fRs2 w) (fImmS w))
  | 6 => .ok (.bltu (fS w) (fRs1 w) (fRs2 w) (fImmS w))
  | 7 => .ok (.bgeu (fS w) (fRs1 w) (fRs2 w) (fImmS w))
  | _ => .error .reservedFunction

/-- The operations of FP in the format `p` (02 R36). -/
def decodeFpOp (w : IWord) (p : Prec) : Decoded :=
  match (fF6 w).toNat with
  | 0 => .ok (.fadd (fS w) p (fRd w) (fRs1 w) (fRs2 w))
  | 1 => .ok (.fsub (fS w) p (fRd w) (fRs1 w) (fRs2 w))
  | 2 => .ok (.fmul (fS w) p (fRd w) (fRs1 w) (fRs2 w))
  | 3 => .ok (.fmac (fS w) p (fRd w) (fRs1 w) (fRs2 w))
  | 4 => .ok (.fdiv (fS w) p (fRd w) (fRs1 w) (fRs2 w))
  | 5 => needZero (fRs2 w == 0) (.ok (.fsqrt (fS w) p (fRd w) (fRs1 w)))
  | 6 => .ok (.fmin (fS w) p (fRd w) (fRs1 w) (fRs2 w))
  | 7 => .ok (.fmax (fS w) p (fRd w) (fRs1 w) (fRs2 w))
  | 8 => .ok (.fcmpEq (fS w) p (fRd w) (fRs1 w) (fRs2 w))
  | 9 => .ok (.fcmpLt (fS w) p (fRd w) (fRs1 w) (fRs2 w))
  | 10 => .ok (.fcmpLe (fS w) p (fRd w) (fRs1 w) (fRs2 w))
  | 11 => needZero (fRs2 w == 0) (.ok (.fclass (fS w) p (fRd w) (fRs1 w)))
  | 12 => .ok (.fsgnj (fS w) p (fRd w) (fRs1 w) (fRs2 w))
  | 13 => .ok (.fsgnjN (fS w) p (fRd w) (fRs1 w) (fRs2 w))
  | 14 => .ok (.fsgnjX (fS w) p (fRd w) (fRs1 w) (fRs2 w))
  | 15 => match cvtOf (fRs2 w) with
    | some c => .ok (.fcvt (fS w) p c (fRd w) (fRs1 w))
    | none => .error .reservedFunction
  | _ => .error .reservedFunction

/-- FP, opcode 0x0B (02 R36). -/
def decodeFp (w : IWord) : Decoded :=
  match precOf (fF3 w) with
  | some p => decodeFpOp w p
  | none => .error .reservedFunction

/-- CSR, opcode 0x0C (02 R38). -/
def decodeCsr (w : IWord) : Decoded :=
  match (fF3 w).toNat with
  | 0 => needZero (fRs1 w == 0) (.ok (.csrrd (fS w) (fRd w) (fImmI w)))
  | 1 => .ok (.csrwr (fS w) (fRd w) (fRs1 w) (fImmI w))
  | 2 => .ok (.csrset (fS w) (fRd w) (fRs1 w) (fImmI w))
  | 3 => .ok (.csrclr (fS w) (fRd w) (fRs1 w) (fImmI w))
  | _ => .error .reservedFunction

/-- SYSTEM, opcode 0x0D (02 R38). -/
def decodeSystem (w : IWord) : Decoded :=
  match (fF3 w).toNat with
  | 0 => needZero (fRd w == 0 && fRs1 w == 0) (.ok (.ecall (fS w) (fImmI w)))
  | 1 => needZero (fRd w == 0 && fRs1 w == 0) (.ok (.ebreak (fS w) (fImmI w)))
  | 2 => needZero (fImmI w == 0 && fRd w == 0 && fRs1 w == 0) (.ok (.eret (fS w)))
  | 3 => needZero (fImmI w == 0 && fRd w == 0 && fRs1 w == 0) (.ok (.wfi (fS w)))
  | 4 => needZero (fImmI w == 0 && fRd w == 0 && fRs1 w == 0) (.ok (.halt (fS w)))
  | 5 => needZero (fImmI w == 0 && fRd w == 0 && fRs1 w == 0) (.ok (.tlbsync (fS w)))
  | _ => .error .reservedFunction

/-- REGION, opcode 0x0E (02 R39): bit 30 selects RGN or RGNV. -/
def decodeRegion (w : IWord) : Decoded :=
  if w.extractLsb' 30 1 = 0#1 then .ok (.rgn (fS w) (w.extractLsb' 7 23))
  else needZero (fRd w == 0) (.ok (.rgnv (fS w) (w.extractLsb' 12 18)))

/-- The atomics by f3 and the upper bits of f3b; the lowest bit of f3b is the width (02 R40). -/
def decodeAtomicOp (w : IWord) (sc : Scope) (dw : Bool) : Decoded :=
  match (fF3 w).toNat, (w.extractLsb' 26 2).toNat with
  | 0, 1 => .ok (.amoadd (fS w) sc dw (fRd w) (fRs1 w) (fRs2 w))
  | 1, 1 => .ok (.amoand (fS w) sc dw (fRd w) (fRs1 w) (fRs2 w))
  | 2, 1 => .ok (.amoor (fS w) sc dw (fRd w) (fRs1 w) (fRs2 w))
  | 3, 1 => .ok (.amoxor (fS w) sc dw (fRd w) (fRs1 w) (fRs2 w))
  | 4, 1 => .ok (.amomin (fS w) sc dw (fRd w) (fRs1 w) (fRs2 w))
  | 5, 1 => .ok (.amomax (fS w) sc dw (fRd w) (fRs1 w) (fRs2 w))
  | 6, 1 => .ok (.amominu (fS w) sc dw (fRd w) (fRs1 w) (fRs2 w))
  | 7, 1 => .ok (.amomaxu (fS w) sc dw (fRd w) (fRs1 w) (fRs2 w))
  | 0, 3 => .ok (.amoswp (fS w) sc dw (fRd w) (fRs1 w) (fRs2 w))
  | 1, 3 => .ok (.amocas (fS w) sc dw (fRd w) (fRs1 w) (fRs2 w))
  | 2, 3 => .ok (.amofadd (fS w) sc (if dw then .f64 else .f32) (fRd w) (fRs1 w) (fRs2 w))
  | _, _ => .error .reservedFunction

/-- ATOMIC, opcode 0x10 (02 R40): scopes 1 to 5. -/
def decodeAtomic (w : IWord) : Decoded :=
  needScope1 (fTop w) fun sc => decodeAtomicOp w sc (w.extractLsb' 25 1 == 1#1)

/-- BANKFN, opcode 0x11 (02 R40). -/
def decodeBankfn (w : IWord) : Decoded :=
  match (fF3 w).toNat with
  | 0 => needZero (fRd w == 0 && fRs2 w == 0 && fTop w == 0) (.ok (.bfnld (fS w) (fF3b w) (fRs1 w)))
  | 1 => needZero (fRd w == 0 && fTop w == 0) (.ok (.bupd (fS w) (fF3b w) (fRs1 w) (fRs2 w)))
  | _ => .error .reservedFunction

/-- FENCE, opcode 0x12 (02 R40). -/
def decodeFence (w : IWord) : Decoded :=
  match (fF3 w).toNat with
  | 0 => needScope (fTop w) fun sc => needZero (w.extractLsb' 10 2 == 0#2 && fRs1 w == 0 && fRs2 w == 0) (.ok (.fence (fS w) sc (fenceSetOf (fF3b w)) (fenceSetOf (w.extractLsb' 7 3))))
  | 1 => needScope (fTop w) fun sc => needZero (fF3b w == 0 && fRd w == 0 && fRs1 w == 0 && fRs2 w == 0) (.ok (.fenceE (fS w) sc))
  | _ => .error .reservedFunction

/-- TAGMEM, opcode 0x13 (02 R41). -/
def decodeTagmem (w : IWord) : Decoded :=
  match (fF3 w).toNat with
  | 0 => .ok (.ldf (fS w) (fRd w) (fRs1 w) (fImmI w))
  | 1 => .ok (.ldff (fS w) (fRd w) (fRs1 w) (fImmI w))
  | 2 => .ok (.ste (fS w) (fRs1 w) (fRs2 w) (fImmS w))
  | 3 => .ok (.stf (fS w) (fRs1 w) (fRs2 w) (fImmS w))
  | 4 => needZero (fRd w == 0) (.ok (.tgset (fS w) (fRs1 w) (fImmI w)))
  | 5 => needZero (fRd w == 0) (.ok (.tgclr (fS w) (fRs1 w) (fImmI w)))
  | _ => .error .reservedFunction

/-- The weir operations (02 R42). -/
def decodeWeirOp (w : IWord) : Decoded :=
  match (fF3 w).toNat, (fF3b w).toNat with
  | 0, 0 => needZero (fRd w == 0) (.ok (.winit (fS w) (fRs1 w) (fRs2 w)))
  | 1, 0 => needZero (fRd w == 0 && fRs2 w == 0) (.ok (.wjoin (fS w) (fRs1 w)))
  | 2, 0 => needZero (fRd w == 0 && fRs2 w == 0) (.ok (.wleave (fS w) (fRs1 w)))
  | 3, 0 => needZero (fRd w == 0) (.ok (.warr (fS w) (fRs1 w) (fRs2 w)))
  | 4, 0 => needZero (fRd w == 0 && fRs2 w == 0) (.ok (.warrd (fS w) (fRs1 w)))
  | 5, 0 => .ok (.wexp (fS w) (fRd w) (fRs1 w) (fRs2 w))
  | 6, 0 => needZero (fRd w == 0) (.ok (.wwait (fS w) (fRs1 w) (fRs2 w)))
  | 6, 1 => .ok (.wwaitt (fS w) (fRd w) (fRs1 w) (fRs2 w))
  | 7, 0 => needZero (fRs2 w == 0) (.ok (.wtest (fS w) (fRd w) (fRs1 w)))
  | _, _ => .error .reservedFunction

/-- WEIR, opcode 0x14 (02 R42): the scope field is 0. -/
def decodeWeir (w : IWord) : Decoded :=
  if fTop w = 0 then decodeWeirOp w else .error .badScope

/-- MAILBOX, opcode 0x15 (02 R43). -/
def decodeMailbox (w : IWord) : Decoded :=
  match (fF3 w).toNat with
  | 0 => needZero (fRs2 w == 0 && fF6 w == 0) (.ok (.mrecv (fS w) (fRd w) (fRs1 w)))
  | 1 => needZero (fRs2 w == 0 && fF6 w == 0) (.ok (.mpeek (fS w) (fRd w) (fRs1 w)))
  | 2 => needZero (fRd w == 0 && fRs1 w == 0 && fRs2 w == 0 && fF6 w == 0) (.ok (.mwait (fS w)))
  | _ => .error .reservedFunction

/-- The message operations (02 R43); an f3b of 4 to 7 is no width. -/
def decodeMsgOp (w : IWord) : Decoded :=
  match (fF3 w).toNat with
  | 0 => if w.extractLsb' 27 1 = 0#1 then needZero (fRd w == 0) (.ok (.put (fS w) (widthOf (w.extractLsb' 25 2)) (fRs1 w) (fRs2 w))) else .error .reservedFunction
  | 1 => if w.extractLsb' 27 1 = 0#1 then needZero (fRs2 w == 0) (.ok (.get (fS w) (widthOf (w.extractLsb' 25 2)) (fRd w) (fRs1 w))) else .error .reservedFunction
  | 2 => needZero (fF3b w == 0 && fRd w == 0) (.ok (.notify (fS w) (fRs1 w) (fRs2 w)))
  | _ => .error .reservedFunction

/-- MSG, opcode 0x16 (02 R43): the scope field is 0. -/
def decodeMsg (w : IWord) : Decoded :=
  if fTop w = 0 then decodeMsgOp w else .error .badScope

/-- FURROW (02 R43). -/
def decodeFurrowOp (w : IWord) : Decoded :=
  match (fF3 w).toNat with
  | 0 => .ok (.fopen (fS w) (fRd w) (fRs1 w) (fRs2 w))
  | 1 => .ok (.fsend (fS w) (fRd w) (fRs1 w) (fRs2 w))
  | 2 => .ok (.frecv (fS w) (fRd w) (fRs1 w) (fRs2 w))
  | 3 => .ok (.fclose (fS w) (fRd w) (fRs1 w) (fRs2 w))
  | _ => .error .reservedFunction

/-- Opcode 0x17: f6 is 0. -/
def decodeFurrow (w : IWord) : Decoded := needZero (fF6 w == 0) (decodeFurrowOp w)

/-- SCHED (02 R44). -/
def decodeSchedOp (w : IWord) : Decoded :=
  match (fF3 w).toNat with
  | 0 => .ok (.enq (fS w) (fRd w) (fRs1 w) (fRs2 w))
  | 1 => .ok (.rclaim (fS w) (fRd w) (fRs1 w) (fRs2 w))
  | 2 => .ok (.rsplit (fS w) (fRd w) (fRs1 w) (fRs2 w))
  | 3 => needZero (fRs2 w == 0) (.ok (.depdec (fS w) (fRd w) (fRs1 w)))
  | 4 => needZero (fRd w == 0 && fRs1 w == 0 && fRs2 w == 0) (.ok (.tdone (fS w)))
  | 5 => needZero (fRs2 w == 0) (.ok (.susp (fS w) (fRd w) (fRs1 w)))
  | 6 => needZero (fRd w == 0 && fRs1 w == 0 && fRs2 w == 0) (.ok (.yield (fS w)))
  | _ => .error .reservedFunction

/-- Opcode 0x18: f6 is 0. -/
def decodeSched (w : IWord) : Decoded := needZero (fF6 w == 0) (decodeSchedOp w)

/-- VOTE: imm[4:3] is the operation (02 R44). -/
def decodeVote (w : IWord) : Decoded :=
  match voteOf (w.extractLsb' 23 2) with
  | some o => .ok (.vote (fS w) o (w.extractLsb' 20 3) (fRs1 w))
  | none => .error .reservedFunction

/-- DOMAIN, opcode 0x19, I format (02 R44). The rd and rs1 fields that carry no operand are 0 (15 R293). -/
def decodeDomain (w : IWord) : Decoded :=
  match (fF3 w).toNat with
  | 0 => needZero (w.extractLsb' 23 8 == 0#8 && fRd w == 0 && fRs1 w == 0) (.ok (.gbar (fS w) (w.extractLsb' 20 3)))
  | 1 => needZero (w.extractLsb' 23 8 == 0#8 && fRs1 w == 0) (.ok (.gbwait (fS w) (fRd w) (w.extractLsb' 20 3)))
  | 2 => needZero (w.extractLsb' 25 6 == 0#6 && fRd w == 0) (decodeVote w)
  | 3 => needZero (w.extractLsb' 26 5 == 0#5) (.ok (.ssend (fS w) (w.extractLsb' 20 6) (fRs1 w)))
  | _ => .error .reservedFunction

/-- ROLE (02 R44). -/
def decodeRoleOp (w : IWord) : Decoded :=
  match (fF3 w).toNat with
  | 0 => .ok (.lease (fS w) (fRd w) (fRs1 w) (fRs2 w))
  | 1 => .ok (.unlease (fS w) (fRd w) (fRs1 w) (fRs2 w))
  | 2 => .ok (.roleq (fS w) (fRd w) (fRs1 w) (fRs2 w))
  | 3 => .ok (.ntcack (fS w) (fRd w) (fRs1 w) (fRs2 w))
  | _ => .error .reservedFunction

/-- Opcode 0x1A: f6 is 0. -/
def decodeRole (w : IWord) : Decoded := needZero (fF6 w == 0) (decodeRoleOp w)

/-- COPY (02 R44). -/
def decodeCopyOp (w : IWord) : Decoded :=
  match (fF3 w).toNat with
  | 0 => .ok (.tcopy (fS w) (fRd w) (fRs1 w) (fRs2 w))
  | 1 => .ok (.cpcancel (fS w) (fRd w) (fRs1 w) (fRs2 w))
  | 2 => .ok (.cpstat (fS w) (fRd w) (fRs1 w) (fRs2 w))
  | _ => .error .reservedFunction

/-- Opcode 0x1B: f6 is 0. -/
def decodeCopy (w : IWord) : Decoded := needZero (fF6 w == 0) (decodeCopyOp w)

/-- QUEUE, opcode 0x1C (02 R44): QPUSH names its queue in rd, QPOP in rs1. -/
def decodeQueue (w : IWord) : Decoded :=
  match (fF3 w).toNat with
  | 0 => needZero (fF6 w == 0 && fRs2 w == 0) (needQ (fRd w) fun q => .ok (.qpush (fS w) q (fRs1 w)))
  | 1 => needZero (fF6 w == 0 && fRs2 w == 0) (needQ (fRs1 w) fun q => .ok (.qpop (fS w) (fRd w) q))
  | _ => .error .reservedFunction

/-- VECTOR, opcode 0x20 (02 R45, 07 R137 to R158). -/
def decodeVec20 (w : IWord) : Decoded :=
  match (fF3b w).toNat with
  | 0 => needType (fF3 w) (fun _ => true) fun t => .ok (.vadd (fS w) (fTop w) t (fRd w) (fRs1 w) (fRs2 w))
  | 1 => needType (fF3 w) (fun _ => true) fun t => .ok (.vsub (fS w) (fTop w) t (fRd w) (fRs1 w) (fRs2 w))
  | 2 => needType (fF3 w) (fun _ => true) fun t => .ok (.vmul (fS w) (fTop w) t (fRd w) (fRs1 w) (fRs2 w))
  | 3 => needType (fF3 w) (fun _ => true) fun t => .ok (.vfma (fS w) (fTop w) t (fRd w) (fRs1 w) (fRs2 w))
  | 4 => needType (fF3 w) (fun _ => true) fun t => .ok (.vmin (fS w) (fTop w) t (fRd w) (fRs1 w) (fRs2 w))
  | 5 => needType (fF3 w) (fun _ => true) fun t => .ok (.vmax (fS w) (fTop w) t (fRd w) (fRs1 w) (fRs2 w))
  | 6 => needType (fF3 w) (fun _ => true) fun t => needZero (fRs2 w == 0) (.ok (.vabs (fS w) (fTop w) t (fRd w) (fRs1 w)))
  | 7 => needType (fF3 w) (fun _ => true) fun t => needZero (fRs2 w == 0) (.ok (.vneg (fS w) (fTop w) t (fRd w) (fRs1 w)))
  | _ => .error .reservedFunction

/-- VECTOR, opcode 0x21 (02 R45, 07 R137 to R158). -/
def decodeVec21 (w : IWord) : Decoded :=
  match (fF3b w).toNat with
  | 0 => needType (fF3 w) (ETy.isInt) fun t => .ok (.vand (fS w) (fTop w) t (fRd w) (fRs1 w) (fRs2 w))
  | 1 => needType (fF3 w) (ETy.isInt) fun t => .ok (.vor (fS w) (fTop w) t (fRd w) (fRs1 w) (fRs2 w))
  | 2 => needType (fF3 w) (ETy.isInt) fun t => .ok (.vxor (fS w) (fTop w) t (fRd w) (fRs1 w) (fRs2 w))
  | 3 => needType (fF3 w) (ETy.isInt) fun t => .ok (.vshl (fS w) (fTop w) t (fRd w) (fRs1 w) (fRs2 w))
  | 4 => needType (fF3 w) (ETy.isInt) fun t => .ok (.vshr (fS w) (fTop w) t (fRd w) (fRs1 w) (fRs2 w))
  | 5 => needType (fF3 w) (ETy.isInt) fun t => .ok (.vsra (fS w) (fTop w) t (fRd w) (fRs1 w) (fRs2 w))
  | 6 => needType (fF3 w) (fun _ => true) fun t => .ok (.vsel (fS w) (fTop w) t (fRd w) (fRs1 w) (fRs2 w))
  | 7 => needType (fF3 w) (fun _ => true) fun t => needZero (fRs2 w == 0) (.ok (.vmv (fS w) (fTop w) t (fRd w) (fRs1 w)))
  | _ => .error .reservedFunction

/-- VECTOR, opcode 0x22 (02 R45, 07 R137 to R158). -/
def decodeVec22 (w : IWord) : Decoded :=
  match (fF3b w).toNat with
  | 0 => needType (fF3 w) (fun _ => true) fun t => needK (fRd w) fun kd => .ok (.vcmpEq (fS w) (fTop w) t kd (fRs1 w) (fRs2 w))
  | 1 => needType (fF3 w) (fun _ => true) fun t => needK (fRd w) fun kd => .ok (.vcmpNe (fS w) (fTop w) t kd (fRs1 w) (fRs2 w))
  | 2 => needType (fF3 w) (fun _ => true) fun t => needK (fRd w) fun kd => .ok (.vcmpLt (fS w) (fTop w) t kd (fRs1 w) (fRs2 w))
  | 3 => needType (fF3 w) (fun _ => true) fun t => needK (fRd w) fun kd => .ok (.vcmpLe (fS w) (fTop w) t kd (fRs1 w) (fRs2 w))
  | 4 => needType (fF3 w) (fun _ => true) fun t => needK (fRd w) fun kd => .ok (.vcmpGt (fS w) (fTop w) t kd (fRs1 w) (fRs2 w))
  | 5 => needType (fF3 w) (fun _ => true) fun t => needK (fRd w) fun kd => .ok (.vcmpGe (fS w) (fTop w) t kd (fRs1 w) (fRs2 w))
  | 6 => needType (fF3 w) (ETy.isInt) fun t => needK (fRd w) fun kd => .ok (.vcmpLtu (fS w) (fTop w) t kd (fRs1 w) (fRs2 w))
  | 7 => needType (fF3 w) (ETy.isInt) fun t => needK (fRd w) fun kd => .ok (.vcmpGeu (fS w) (fTop w) t kd (fRs1 w) (fRs2 w))
  | _ => .error .reservedFunction

/-- VECTOR, opcode 0x23 (02 R45, 07 R137 to R158). -/
def decodeVec23 (w : IWord) : Decoded :=
  match (fF3b w).toNat with
  | 0 => needType (fF3 w) (fun _ => true) fun t => needZero (fRs2 w == 0) (.ok (.vbcast (fS w) (fTop w) t (fRd w) (fRs1 w)))
  | 1 => needType (fF3 w) (fun _ => true) fun t => needZero (fTop w == 0) (.ok (.vextr (fS w) t (fRd w) (fRs1 w) (fRs2 w)))
  | 2 => needType (fF3 w) (fun _ => true) fun t => needZero (fTop w == 0) (.ok (.vins (fS w) t (fRd w) (fRs1 w) (fRs2 w)))
  | 3 => needType (fF3 w) (fun _ => true) fun t => .ok (.vperm (fS w) (fTop w) t (fRd w) (fRs1 w) (fRs2 w))
  | 4 => needType (fF3 w) (fun _ => true) fun t => .ok (.vslide (fS w) (fTop w) t (fRd w) (fRs1 w) (fRs2 w))
  | 5 => needType (fF3 w) (ETy.isInt) fun t => needZero (fRs2 w == 0) (needK (fRs1 w) fun ks => .ok (.viota (fS w) (fTop w) t (fRd w) ks))
  | 6 => needZero (fRs2 w == 0 && fF3 w == 0) (needK (fRs1 w) fun ks => .ok (.vmpop (fS w) (fTop w) (fRd w) ks))
  | _ => .error .reservedFunction

/-- VECTOR, opcode 0x24 (02 R45, 07 R137 to R158). -/
def decodeVec24 (w : IWord) : Decoded :=
  match (fF3b w).toNat with
  | 0 => needType (fF3 w) (fun _ => true) fun t => .ok (.vredsum (fS w) (fTop w) t (fRd w) (fRs1 w) (fRs2 w))
  | 1 => needType (fF3 w) (fun _ => true) fun t => .ok (.vredmax (fS w) (fTop w) t (fRd w) (fRs1 w) (fRs2 w))
  | 2 => needType (fF3 w) (fun _ => true) fun t => .ok (.vredmin (fS w) (fTop w) t (fRd w) (fRs1 w) (fRs2 w))
  | 3 => needType (fF3 w) (fun _ => true) fun t => .ok (.vscan (fS w) (fTop w) t (fRd w) (fRs1 w) (fRs2 w))
  | 4 => needType (fF3 w) (fun _ => true) fun t => needZero (w.extractLsb' 23 2 == 0#2) (needType (w.extractLsb' 20 3) (fun _ => true) fun d => .ok (.vcvt (fS w) (fTop w) t d (fRd w) (fRs1 w)))
  | 5 => needType (fF3 w) (fun _ => true) fun t => .ok (.vpack (fS w) (fTop w) t (fRd w) (fRs1 w) (fRs2 w))
  | 6 => needType (fF3 w) (fun _ => true) fun t => if w.extractLsb' 21 4 = 0#4 then .ok (.vunpack (fS w) (fTop w) t (fRs2 w == 1) (fRd w) (fRs1 w)) else .error .reservedFunction
  | 7 => needType (fF3 w) (ETy.isDot) fun t => .ok (.vdot (fS w) (fTop w) t (fRd w) (fRs1 w) (fRs2 w))
  | _ => .error .reservedFunction

/-- VECTOR, opcode 0x25 (02 R45, 07 R137 to R158). -/
def decodeVec25 (w : IWord) : Decoded :=
  match (fF3b w).toNat with
  | 0 => needType (fF3 w) (fun _ => true) fun t => .ok (.vld (fS w) (fTop w) t (fRd w) (fRs1 w) (fRs2 w))
  | 1 => needType (fF3 w) (fun _ => true) fun t => .ok (.vst (fS w) (fTop w) t (fRd w) (fRs1 w) (fRs2 w))
  | 2 => needType (fF3 w) (fun _ => true) fun t => .ok (.vlds (fS w) (fTop w) t (fRd w) (fRs1 w) (fRs2 w))
  | 3 => needType (fF3 w) (fun _ => true) fun t => .ok (.vsts (fS w) (fTop w) t (fRd w) (fRs1 w) (fRs2 w))
  | 4 => needType (fF3 w) (fun _ => true) fun t => .ok (.vgath (fS w) (fTop w) t (fRd w) (fRs1 w) (fRs2 w))
  | 5 => needType (fF3 w) (fun _ => true) fun t => .ok (.vscat (fS w) (fTop w) t (fRd w) (fRs1 w) (fRs2 w))
  | 6 => needType (fF3 w) (fun _ => true) fun t => .ok (.vldg (fS w) (fTop w) t (fRd w) (fRs1 w) (fRs2 w))
  | 7 => needType (fF3 w) (fun _ => true) fun t => .ok (.vstg (fS w) (fTop w) t (fRd w) (fRs1 w) (fRs2 w))
  | _ => .error .reservedFunction

/-- VECTOR, opcode 0x26 (02 R45, 07 R137 to R158). -/
def decodeVec26 (w : IWord) : Decoded :=
  match (fF3b w).toNat with
  | 0 => needType (fF3 w) (ETy.isFloat) fun t => needZero (fRs2 w == 0) (.ok (.vexp2 (fS w) (fTop w) t (fRd w) (fRs1 w)))
  | 1 => needType (fF3 w) (ETy.isFloat) fun t => needZero (fRs2 w == 0) (.ok (.vlog2 (fS w) (fTop w) t (fRd w) (fRs1 w)))
  | 2 => needType (fF3 w) (ETy.isFloat) fun t => needZero (fRs2 w == 0) (.ok (.vrcp (fS w) (fTop w) t (fRd w) (fRs1 w)))
  | 3 => needType (fF3 w) (ETy.isFloat) fun t => needZero (fRs2 w == 0) (.ok (.vrsqrt (fS w) (fTop w) t (fRd w) (fRs1 w)))
  | 4 => needType (fF3 w) (ETy.isFloat) fun t => needZero (w.extractLsb' 23 2 == 0#2) (.ok (.vquant (fS w) (fTop w) t (tfmtOf (w.extractLsb' 20 3)) (fRd w) (fRs1 w)))
  | 5 => needType (fF3 w) (ETy.isFloat) fun t => needZero (w.extractLsb' 23 2 == 0#2) (.ok (.vdeq (fS w) (fTop w) t (tfmtOf (w.extractLsb' 20 3)) (fRd w) (fRs1 w)))
  | _ => .error .reservedFunction

/-- VECTOR, opcode 0x27 (02 R45, 07 R137 to R158). -/
def decodeVec27 (w : IWord) : Decoded :=
  match (fF3b w).toNat with
  | 0 => needZero (fF3 w == 0 && fTop w == 0) (needK (fRd w) fun kd => needK (fRs1 w) fun a => needK (fRs2 w) fun b => .ok (.kand (fS w) kd a b))
  | 1 => needZero (fF3 w == 0 && fTop w == 0) (needK (fRd w) fun kd => needK (fRs1 w) fun a => needK (fRs2 w) fun b => .ok (.kor (fS w) kd a b))
  | 2 => needZero (fF3 w == 0 && fTop w == 0) (needK (fRd w) fun kd => needK (fRs1 w) fun a => needK (fRs2 w) fun b => .ok (.kxor (fS w) kd a b))
  | 3 => needZero (fF3 w == 0 && fTop w == 0 && fRs2 w == 0) (needK (fRd w) fun kd => needK (fRs1 w) fun a => .ok (.knot (fS w) kd a))
  | _ => .error .reservedFunction

/-- MMA, opcode 0x30 (02 R46). -/
def decodeMma (w : IWord) : Decoded :=
  if fTF3 w = 0 then
    match accOf (fAcc w) with
    | some a => .ok (.mma (fS w) (tfmtOf (fFmtB w)) (tfmtOf (fFmtA w)) (fZb w) (fZa w) (fZc w) a)
    | none => .error .badAcc
  else .error .reservedFunction

/-- ZLD and ZST, opcode 0x31, R format (02 R46). -/
def decodePanelMem (w : IWord) : Decoded :=
  match (fF3 w).toNat with
  | 0 => needZero (fF6 w == 0) (needZ (fRd w) fun z => .ok (.zld (fS w) z (fRs1 w) (fRs2 w)))
  | 1 => needZero (fF6 w == 0) (needZ (fRd w) fun z => .ok (.zst (fS w) z (fRs1 w) (fRs2 w)))
  | _ => .error .reservedFunction

/-- ZZERO, ZCVT, ZSCL, ZXP, opcode 0x32, T format (02 R46). -/
def decodePanelOp (w : IWord) : Decoded :=
  match (fTF3 w).toNat with
  | 0 => needZero (fFmtB w == 0 && fFmtA w == 0 && fZb w == 0 && fZa w == 0 && fAcc w == 0) (.ok (.zzero (fS w) (fZc w)))
  | 1 => needZero (fFmtB w == 0 && fZb w == 0 && fAcc w == 0) (.ok (.zcvt (fS w) (tfmtOf (fFmtA w)) (fZc w) (fZa w)))
  | 2 => needZero (fFmtB w == 0 && fFmtA w == 0 && fZb w == 0 && fAcc w == 0) (.ok (.zscl (fS w) (fZc w) (fZa w)))
  | 3 => needZero (fFmtB w == 0 && fFmtA w == 0 && fZb w == 0 && fAcc w == 0) (.ok (.zxp (fS w) (fZc w) (fZa w)))
  | _ => .error .reservedFunction

/-- ZMOVV and VMOVZ, opcode 0x33, R format (02 R46). DESIGN CHOICE: a nonzero f6 takes ILLEGAL, which neither 02 R46 nor
08 R180 says of these two (log 77). -/
def decodePanelMove (w : IWord) : Decoded :=
  match (fF3 w).toNat with
  | 0 => needZero (fF6 w == 0) (needZ (fRd w) fun z => .ok (.zmovv (fS w) z (fRs1 w) (fRs2 w)))
  | 1 => needZero (fF6 w == 0) (needZ (fRs1 w) fun z => .ok (.vmovz (fS w) (fRd w) z (fRs2 w)))
  | _ => .error .reservedFunction

/-- SERVE (02 R47). -/
def decodeServeOp (w : IWord) : Decoded :=
  match (fF3 w).toNat with
  | 0 => .ok (.bform (fS w) (fRd w) (fRs1 w) (fRs2 w))
  | 1 => .ok (.bcommit (fS w) (fRd w) (fRs1 w) (fRs2 w))
  | 2 => .ok (.rqfork (fS w) (fRd w) (fRs1 w) (fRs2 w))
  | 3 => .ok (.rqevict (fS w) (fRd w) (fRs1 w) (fRs2 w))
  | 4 => .ok (.rqstat (fS w) (fRd w) (fRs1 w) (fRs2 w))
  | 5 => .ok (.slotrd (fS w) (fRd w) (fRs1 w) (fRs2 w))
  | _ => .error .reservedFunction

/-- Opcode 0x38: f6 is 0. -/
def decodeServe (w : IWord) : Decoded := needZero (fF6 w == 0) (decodeServeOp w)

/-- KV (02 R47). -/
def decodeKvOp (w : IWord) : Decoded :=
  match (fF3 w).toNat with
  | 0 => .ok (.kvapp (fS w) (fRd w) (fRs1 w) (fRs2 w))
  | 1 => .ok (.kvlook (fS w) (fRd w) (fRs1 w) (fRs2 w))
  | 2 => .ok (.kvrel (fS w) (fRd w) (fRs1 w) (fRs2 w))
  | _ => .error .reservedFunction

/-- Opcode 0x39: f6 is 0. -/
def decodeKv (w : IWord) : Decoded := needZero (fF6 w == 0) (decodeKvOp w)

/-- DAE (02 R47). -/
def decodeDaeOp (w : IWord) : Decoded :=
  match (fF3 w).toNat with
  | 0 => .ok (.dattn (fS w) (fRd w) (fRs1 w) (fRs2 w))
  | _ => .error .reservedFunction

/-- Opcode 0x3A: f6 is 0. -/
def decodeDae (w : IWord) : Decoded := needZero (fF6 w == 0) (decodeDaeOp w)

/-- A word, by its major opcode (02 R31). Every opcode not listed is reserved, 0x00 forever. -/
def decodeWord (w : IWord) : Decoded :=
  match (fOp w).toNat with
  | 0x01 => decodeLoad w
  | 0x02 => decodeStore w
  | 0x03 => decodeOpImm w
  | 0x04 => decodeOp w
  | 0x05 => decodeMulDiv w
  | 0x06 => decodeLui w
  | 0x07 => decodeAuipc w
  | 0x08 => decodeJal w
  | 0x09 => decodeJalr w
  | 0x0A => decodeBranch w
  | 0x0B => decodeFp w
  | 0x0C => decodeCsr w
  | 0x0D => decodeSystem w
  | 0x0E => decodeRegion w
  | 0x10 => decodeAtomic w
  | 0x11 => decodeBankfn w
  | 0x12 => decodeFence w
  | 0x13 => decodeTagmem w
  | 0x14 => decodeWeir w
  | 0x15 => decodeMailbox w
  | 0x16 => decodeMsg w
  | 0x17 => decodeFurrow w
  | 0x18 => decodeSched w
  | 0x19 => decodeDomain w
  | 0x1A => decodeRole w
  | 0x1B => decodeCopy w
  | 0x1C => decodeQueue w
  | 0x20 => decodeVec20 w
  | 0x21 => decodeVec21 w
  | 0x22 => decodeVec22 w
  | 0x23 => decodeVec23 w
  | 0x24 => decodeVec24 w
  | 0x25 => decodeVec25 w
  | 0x26 => decodeVec26 w
  | 0x27 => decodeVec27 w
  | 0x30 => decodeMma w
  | 0x31 => decodePanelMem w
  | 0x32 => decodePanelOp w
  | 0x33 => decodePanelMove w
  | 0x38 => decodeServe w
  | 0x39 => decodeKv w
  | 0x3A => decodeDae w
  | _ => .error .reservedOpcode

/-- Four bytes, little-endian (02 R27). -/
def wordOfBytes (b0 b1 b2 b3 : Byte) : IWord := b3 ++ b2 ++ b1 ++ b0

/-- The instruction at the head of a list of bytes, with the bytes after it. -/
def decode (bs : List Byte) : Except DecodeError (Instr × List Byte) :=
  match bs with
  | b0 :: b1 :: b2 :: b3 :: rest =>
    match decodeWord (wordOfBytes b0 b1 b2 b3) with
    | .ok i => .ok (i, rest)
    | .error e => .error e
  | _ => .error .tooShort

/-- The bytes of a word as memory holds them (02 R27). -/
def bytesOfWord (w : IWord) : List Byte :=
  [w.extractLsb' 0 8, w.extractLsb' 8 8, w.extractLsb' 16 8, w.extractLsb' 24 8]

/-- The instruction the decoder reads from the table's numbering of a word's bits. -/
def decodeTableWord (_nbits w : Nat) : Option Instr :=
  match decode (bytesOfWord (BitVec.ofNat 32 w)) with
  | .ok (i, _) => some i
  | .error _ => none

/-! The encoder, from the same tables. The formats of 02 R29: -/

def packR (m : SMark) (f6 : BitVec 6) (rs2 rs1 : Reg) (f3 : BitVec 3) (rd : Reg) (op : BitVec 7) : IWord :=
  BitVec.ofBool m ++ f6 ++ rs2 ++ rs1 ++ f3 ++ rd ++ op
def packI (m : SMark) (imm : BitVec 11) (rs1 : Reg) (f3 : BitVec 3) (rd : Reg) (op : BitVec 7) : IWord :=
  BitVec.ofBool m ++ imm ++ rs1 ++ f3 ++ rd ++ op
/-- The S and B formats. -/
def packS (m : SMark) (imm : BitVec 11) (rs2 rs1 : Reg) (f3 : BitVec 3) (op : BitVec 7) : IWord :=
  packR m (imm.extractLsb' 5 6) rs2 rs1 f3 (imm.extractLsb' 0 5) op
/-- The U and J formats. -/
def packU (m : SMark) (imm : BitVec 19) (rd : Reg) (op : BitVec 7) : IWord :=
  BitVec.ofBool m ++ imm ++ rd ++ op
/-- The M format. -/
def packM (m : SMark) (scope f3b : BitVec 3) (rs2 rs1 : Reg) (f3 : BitVec 3) (rd : Reg) (op : BitVec 7) : IWord :=
  packR m (scope ++ f3b) rs2 rs1 f3 rd op
/-- The V format. -/
def packV (m : SMark) (mask f3b : BitVec 3) (vs2 vs1 : Reg) (f3 : BitVec 3) (vd : Reg) (op : BitVec 7) : IWord :=
  packR m (mask ++ f3b) vs2 vs1 f3 vd op
def packT (m : SMark) (fmtB fmtA : BitVec 3) (zb za zc : ZReg) (acc f3 : BitVec 3) (op : BitVec 7) : IWord :=
  BitVec.ofBool m ++ fmtB ++ fmtA ++ zb ++ za ++ zc ++ acc ++ f3 ++ op

def Scope.code : Scope → BitVec 3
  | .str => 0 | .tile => 1 | .clu => 2 | .die => 3 | .pkg => 4 | .sys => 5
/-- The width as a three-bit f3b field (02 R37). -/
def Width.code : Width → BitVec 3
  | .b => 0 | .h => 1 | .w => 2 | .d => 3
def ETy.code : ETy → BitVec 3
  | .int8 => 0 | .int16 => 1 | .int32 => 2 | .bf16 => 3 | .fp32 => 4
def TFmt.code : TFmt → BitVec 3
  | .bf16 => 0 | .e4m3 => 1 | .e5m2 => 2 | .e2m3 => 3 | .e3m2 => 4 | .e2m1 => 5 | .int8 => 6 | .ts8 => 7
def Acc.code : Acc → BitVec 3
  | .f32 => 0 | .i32w => 1 | .i32s => 2
def Prec.code : Prec → BitVec 3
  | .f32 => 0 | .f64 => 1
def CvtOp.code : CvtOp → BitVec 5
  | .fromOther => 0 | .fromL => 1 | .fromLU => 2 | .fromW => 3 | .fromWU => 4 | .toL => 5 | .toLU => 6 | .toW => 7 | .toWU => 8
def VoteOp.code : VoteOp → BitVec 2
  | .and => 0 | .or => 1 | .sum => 2
def FenceSet.code (f : FenceSet) : BitVec 3 := BitVec.ofBool f.e ++ BitVec.ofBool f.w ++ BitVec.ofBool f.r


def CsrForm.f3 : CsrForm → BitVec 3
  | .wr => 1 | .set => 2 | .clr => 3
/-- LDRCTL and STRCTL (06 R124). -/
def Side.ctlCsr : Side → BitVec 11
  | .loader => 0x021 | .storer => 0x022

/-- The word of an instruction; none for a step that has no word. The CSR accesses with a row of their own
have the words of the CSR class. -/
def encode (i : Instr) : Option IWord :=
  match i with
  | .lb m rd rs1 imm => some (packI m imm rs1 0 rd 0x01)
  | .lbu m rd rs1 imm => some (packI m imm rs1 1 rd 0x01)
  | .lh m rd rs1 imm => some (packI m imm rs1 2 rd 0x01)
  | .lhu m rd rs1 imm => some (packI m imm rs1 3 rd 0x01)
  | .lw m rd rs1 imm => some (packI m imm rs1 4 rd 0x01)
  | .lwu m rd rs1 imm => some (packI m imm rs1 5 rd 0x01)
  | .ld m rd rs1 imm => some (packI m imm rs1 6 rd 0x01)
  | .lacq m sc wd rd rs1 => some (packM m sc.code wd.code 0 rs1 7 rd 0x01)
  | .sb m rs1 rs2 imm => some (packS m imm rs2 rs1 0 0x02)
  | .sh m rs1 rs2 imm => some (packS m imm rs2 rs1 1 0x02)
  | .sw m rs1 rs2 imm => some (packS m imm rs2 rs1 2 0x02)
  | .sd m rs1 rs2 imm => some (packS m imm rs2 rs1 3 0x02)
  | .srel m sc wd rs1 rs2 => some (packM m sc.code wd.code rs2 rs1 4 0 0x02)
  | .pref m l2 rs1 imm => some (packS m imm (if l2 then 1 else 0) rs1 5 0x02)
  | .addi m rd rs1 imm => some (packI m imm rs1 0 rd 0x03)
  | .slti m rd rs1 imm => some (packI m imm rs1 2 rd 0x03)
  | .sltiu m rd rs1 imm => some (packI m imm rs1 3 rd 0x03)
  | .xori m rd rs1 imm => some (packI m imm rs1 4 rd 0x03)
  | .addiw m rd rs1 imm => some (packI m imm rs1 5 rd 0x03)
  | .ori m rd rs1 imm => some (packI m imm rs1 6 rd 0x03)
  | .andi m rd rs1 imm => some (packI m imm rs1 7 rd 0x03)
  | .slli m rd rs1 sh => some (packI m ((0 : BitVec 2) ++ (0 : BitVec 3) ++ sh) rs1 1 rd 0x03)
  | .srli m rd rs1 sh => some (packI m ((1 : BitVec 2) ++ (0 : BitVec 3) ++ sh) rs1 1 rd 0x03)
  | .srai m rd rs1 sh => some (packI m ((2 : BitVec 2) ++ (0 : BitVec 3) ++ sh) rs1 1 rd 0x03)
  | .add m rd rs1 rs2 => some (packR m 0 rs2 rs1 0 rd 0x04)
  | .sub m rd rs1 rs2 => some (packR m 1 rs2 rs1 0 rd 0x04)
  | .sll m rd rs1 rs2 => some (packR m 0 rs2 rs1 1 rd 0x04)
  | .srl m rd rs1 rs2 => some (packR m 1 rs2 rs1 1 rd 0x04)
  | .sra m rd rs1 rs2 => some (packR m 2 rs2 rs1 1 rd 0x04)
  | .slt m rd rs1 rs2 => some (packR m 0 rs2 rs1 2 rd 0x04)
  | .sltu m rd rs1 rs2 => some (packR m 1 rs2 rs1 2 rd 0x04)
  | .and m rd rs1 rs2 => some (packR m 0 rs2 rs1 3 rd 0x04)
  | .or m rd rs1 rs2 => some (packR m 1 rs2 rs1 3 rd 0x04)
  | .xor m rd rs1 rs2 => some (packR m 2 rs2 rs1 3 rd 0x04)
  | .min m rd rs1 rs2 => some (packR m 0 rs2 rs1 4 rd 0x04)
  | .max m rd rs1 rs2 => some (packR m 1 rs2 rs1 4 rd 0x04)
  | .minu m rd rs1 rs2 => some (packR m 2 rs2 rs1 4 rd 0x04)
  | .maxu m rd rs1 rs2 => some (packR m 3 rs2 rs1 4 rd 0x04)
  | .addw m rd rs1 rs2 => some (packR m 0 rs2 rs1 5 rd 0x04)
  | .subw m rd rs1 rs2 => some (packR m 1 rs2 rs1 5 rd 0x04)
  | .sllw m rd rs1 rs2 => some (packR m 2 rs2 rs1 5 rd 0x04)
  | .srlw m rd rs1 rs2 => some (packR m 3 rs2 rs1 5 rd 0x04)
  | .sraw m rd rs1 rs2 => some (packR m 4 rs2 rs1 5 rd 0x04)
  | .clz m rd rs1 => some (packR m 0 0 rs1 6 rd 0x04)
  | .ctz m rd rs1 => some (packR m 1 0 rs1 6 rd 0x04)
  | .popc m rd rs1 => some (packR m 2 0 rs1 6 rd 0x04)
  | .sextB m rd rs1 => some (packR m 3 0 rs1 6 rd 0x04)
  | .sextH m rd rs1 => some (packR m 4 0 rs1 6 rd 0x04)
  | .sextW m rd rs1 => some (packR m 5 0 rs1 6 rd 0x04)
  | .zextW m rd rs1 => some (packR m 6 0 rs1 6 rd 0x04)
  | .mul m rd rs1 rs2 => some (packR m 0 rs2 rs1 0 rd 0x05)
  | .mulh m rd rs1 rs2 => some (packR m 0 rs2 rs1 1 rd 0x05)
  | .mulhu m rd rs1 rs2 => some (packR m 0 rs2 rs1 2 rd 0x05)
  | .mulw m rd rs1 rs2 => some (packR m 0 rs2 rs1 3 rd 0x05)
  | .div m rd rs1 rs2 => some (packR m 0 rs2 rs1 4 rd 0x05)
  | .divu m rd rs1 rs2 => some (packR m 0 rs2 rs1 5 rd 0x05)
  | .rem m rd rs1 rs2 => some (packR m 0 rs2 rs1 6 rd 0x05)
  | .remu m rd rs1 rs2 => some (packR m 0 rs2 rs1 7 rd 0x05)
  | .divW m rd rs1 rs2 => some (packR m 1 rs2 rs1 4 rd 0x05)
  | .divuW m rd rs1 rs2 => some (packR m 1 rs2 rs1 5 rd 0x05)
  | .remW m rd rs1 rs2 => some (packR m 1 rs2 rs1 6 rd 0x05)
  | .remuW m rd rs1 rs2 => some (packR m 1 rs2 rs1 7 rd 0x05)
  | .lui m rd imm => some (packU m imm rd 0x06)
  | .auipc m rd imm => some (packU m imm rd 0x07)
  | .jal m rd imm => some (packU m imm rd 0x08)
  | .jalr m rd rs1 imm => some (packI m imm rs1 0 rd 0x09)
  | .beq m rs1 rs2 imm => some (packS m imm rs2 rs1 0 0x0A)
  | .bne m rs1 rs2 imm => some (packS m imm rs2 rs1 1 0x0A)
  | .blt m rs1 rs2 imm => some (packS m imm rs2 rs1 4 0x0A)
  | .bge m rs1 rs2 imm => some (packS m imm rs2 rs1 5 0x0A)
  | .bltu m rs1 rs2 imm => some (packS m imm rs2 rs1 6 0x0A)
  | .bgeu m rs1 rs2 imm => some (packS m imm rs2 rs1 7 0x0A)
  | .fadd m p rd rs1 rs2 => some (packR m 0 rs2 rs1 p.code rd 0x0B)
  | .fsub m p rd rs1 rs2 => some (packR m 1 rs2 rs1 p.code rd 0x0B)
  | .fmul m p rd rs1 rs2 => some (packR m 2 rs2 rs1 p.code rd 0x0B)
  | .fmac m p rd rs1 rs2 => some (packR m 3 rs2 rs1 p.code rd 0x0B)
  | .fdiv m p rd rs1 rs2 => some (packR m 4 rs2 rs1 p.code rd 0x0B)
  | .fsqrt m p rd rs1 => some (packR m 5 0 rs1 p.code rd 0x0B)
  | .fmin m p rd rs1 rs2 => some (packR m 6 rs2 rs1 p.code rd 0x0B)
  | .fmax m p rd rs1 rs2 => some (packR m 7 rs2 rs1 p.code rd 0x0B)
  | .fcmpEq m p rd rs1 rs2 => some (packR m 8 rs2 rs1 p.code rd 0x0B)
  | .fcmpLt m p rd rs1 rs2 => some (packR m 9 rs2 rs1 p.code rd 0x0B)
  | .fcmpLe m p rd rs1 rs2 => some (packR m 10 rs2 rs1 p.code rd 0x0B)
  | .fclass m p rd rs1 => some (packR m 11 0 rs1 p.code rd 0x0B)
  | .fsgnj m p rd rs1 rs2 => some (packR m 12 rs2 rs1 p.code rd 0x0B)
  | .fsgnjN m p rd rs1 rs2 => some (packR m 13 rs2 rs1 p.code rd 0x0B)
  | .fsgnjX m p rd rs1 rs2 => some (packR m 14 rs2 rs1 p.code rd 0x0B)
  | .fcvt m p op rd rs1 => some (packR m 15 op.code rs1 p.code rd 0x0B)
  | .csrrd m rd csr => some (packI m csr 0 0 rd 0x0C)
  | .csrwr m rd rs1 csr => some (packI m csr rs1 1 rd 0x0C)
  | .csrset m rd rs1 csr => some (packI m csr rs1 2 rd 0x0C)
  | .csrclr m rd rs1 csr => some (packI m csr rs1 3 rd 0x0C)
  | .ecall m code => some (packI m code 0 0 0 0x0D)
  | .ebreak m code => some (packI m code 0 1 0 0x0D)
  | .eret m => some (packI m 0 0 2 0 0x0D)
  | .wfi m => some (packI m 0 0 3 0 0x0D)
  | .halt m => some (packI m 0 0 4 0 0x0D)
  | .tlbsync m => some (packI m 0 0 5 0 0x0D)
  | .rgn m d => some (BitVec.ofBool m ++ 0#1 ++ d ++ 0x0E#7)
  | .rgnv m count => some (BitVec.ofBool m ++ 1#1 ++ count ++ 0#5 ++ 0x0E#7)
  | .amoadd m sc dw rd rs1 rs2 => some (packM m sc.code (1#2 ++ BitVec.ofBool dw) rs2 rs1 0 rd 0x10)
  | .amoand m sc dw rd rs1 rs2 => some (packM m sc.code (1#2 ++ BitVec.ofBool dw) rs2 rs1 1 rd 0x10)
  | .amoor m sc dw rd rs1 rs2 => some (packM m sc.code (1#2 ++ BitVec.ofBool dw) rs2 rs1 2 rd 0x10)
  | .amoxor m sc dw rd rs1 rs2 => some (packM m sc.code (1#2 ++ BitVec.ofBool dw) rs2 rs1 3 rd 0x10)
  | .amomin m sc dw rd rs1 rs2 => some (packM m sc.code (1#2 ++ BitVec.ofBool dw) rs2 rs1 4 rd 0x10)
  | .amomax m sc dw rd rs1 rs2 => some (packM m sc.code (1#2 ++ BitVec.ofBool dw) rs2 rs1 5 rd 0x10)
  | .amominu m sc dw rd rs1 rs2 => some (packM m sc.code (1#2 ++ BitVec.ofBool dw) rs2 rs1 6 rd 0x10)
  | .amomaxu m sc dw rd rs1 rs2 => some (packM m sc.code (1#2 ++ BitVec.ofBool dw) rs2 rs1 7 rd 0x10)
  | .amoswp m sc dw rd rs1 rs2 => some (packM m sc.code (3#2 ++ BitVec.ofBool dw) rs2 rs1 0 rd 0x10)
  | .amocas m sc dw rd rs1 rs2 => some (packM m sc.code (3#2 ++ BitVec.ofBool dw) rs2 rs1 1 rd 0x10)
  | .amofadd m sc p rd rs1 rs2 => some (packM m sc.code (3#2 ++ BitVec.ofBool (p == .f64)) rs2 rs1 2 rd 0x10)
  | .bfnld m slot rs1 => some (packM m 0 slot 0 rs1 0 0 0x11)
  | .bupd m slot rs1 rs2 => some (packM m 0 slot rs2 rs1 1 0 0x11)
  | .fence m sc pred succ => some (packM m sc.code pred.code 0 0 0 (0#2 ++ succ.code) 0x12)
  | .fenceE m sc => some (packM m sc.code 0 0 0 1 0 0x12)
  | .ldf m rd rs1 imm => some (packI m imm rs1 0 rd 0x13)
  | .ldff m rd rs1 imm => some (packI m imm rs1 1 rd 0x13)
  | .ste m rs1 rs2 imm => some (packS m imm rs2 rs1 2 0x13)
  | .stf m rs1 rs2 imm => some (packS m imm rs2 rs1 3 0x13)
  | .tgset m rs1 imm => some (packI m imm rs1 4 0 0x13)
  | .tgclr m rs1 imm => some (packI m imm rs1 5 0 0x13)
  | .winit m rs1 rs2 => some (packM m 0 0 rs2 rs1 0 0 0x14)
  | .wjoin m rs1 => some (packM m 0 0 0 rs1 1 0 0x14)
  | .wleave m rs1 => some (packM m 0 0 0 rs1 2 0 0x14)
  | .warr m rs1 rs2 => some (packM m 0 0 rs2 rs1 3 0 0x14)
  | .warrd m rs1 => some (packM m 0 0 0 rs1 4 0 0x14)
  | .wexp m rd rs1 rs2 => some (packM m 0 0 rs2 rs1 5 rd 0x14)
  | .wwait m rs1 rs2 => some (packM m 0 0 rs2 rs1 6 0 0x14)
  | .wwaitt m rd rs1 rs2 => some (packM m 0 1 rs2 rs1 6 rd 0x14)
  | .wtest m rd rs1 => some (packM m 0 0 0 rs1 7 rd 0x14)
  | .mrecv m rd rs1 => some (packR m 0 0 rs1 0 rd 0x15)
  | .mpeek m rd rs1 => some (packR m 0 0 rs1 1 rd 0x15)
  | .mwait m => some (packR m 0 0 0 2 0 0x15)
  | .put m wd rs1 rs2 => some (packM m 0 wd.code rs2 rs1 0 0 0x16)
  | .get m wd rd rs1 => some (packM m 0 wd.code 0 rs1 1 rd 0x16)
  | .notify m rs1 rs2 => some (packM m 0 0 rs2 rs1 2 0 0x16)
  | .fopen m rd rs1 rs2 => some (packR m 0 rs2 rs1 0 rd 0x17)
  | .fsend m rd rs1 rs2 => some (packR m 0 rs2 rs1 1 rd 0x17)
  | .frecv m rd rs1 rs2 => some (packR m 0 rs2 rs1 2 rd 0x17)
  | .fclose m rd rs1 rs2 => some (packR m 0 rs2 rs1 3 rd 0x17)
  | .enq m rd rs1 rs2 => some (packR m 0 rs2 rs1 0 rd 0x18)
  | .rclaim m rd rs1 rs2 => some (packR m 0 rs2 rs1 1 rd 0x18)
  | .rsplit m rd rs1 rs2 => some (packR m 0 rs2 rs1 2 rd 0x18)
  | .depdec m rd rs1 => some (packR m 0 0 rs1 3 rd 0x18)
  | .tdone m => some (packR m 0 0 0 4 0 0x18)
  | .susp m rd rs1 => some (packR m 0 0 rs1 5 rd 0x18)
  | .yield m => some (packR m 0 0 0 6 0 0x18)
  | .gbar m ch => some (packI m (0#8 ++ ch) 0 0 0 0x19)
  | .gbwait m rd ch => some (packI m (0#8 ++ ch) 0 1 rd 0x19)
  | .vote m op ch rs1 => some (packI m (0#6 ++ op.code ++ ch) rs1 2 0 0x19)
  | .ssend m slot rs1 => some (packI m (0#5 ++ slot) rs1 3 0 0x19)
  | .lease m rd rs1 rs2 => some (packR m 0 rs2 rs1 0 rd 0x1A)
  | .unlease m rd rs1 rs2 => some (packR m 0 rs2 rs1 1 rd 0x1A)
  | .roleq m rd rs1 rs2 => some (packR m 0 rs2 rs1 2 rd 0x1A)
  | .ntcack m rd rs1 rs2 => some (packR m 0 rs2 rs1 3 rd 0x1A)
  | .tcopy m rd rs1 rs2 => some (packR m 0 rs2 rs1 0 rd 0x1B)
  | .cpcancel m rd rs1 rs2 => some (packR m 0 rs2 rs1 1 rd 0x1B)
  | .cpstat m rd rs1 rs2 => some (packR m 0 rs2 rs1 2 rd 0x1B)
  | .qpush m q rs1 => some (packR m 0 0 rs1 0 (0#3 ++ q) 0x1C)
  | .qpop m rd q => some (packR m 0 0 (0#3 ++ q) 1 rd 0x1C)
  | .vadd m mk t vd vs1 vs2 => some (packV m mk 0 vs2 vs1 t.code vd 0x20)
  | .vsub m mk t vd vs1 vs2 => some (packV m mk 1 vs2 vs1 t.code vd 0x20)
  | .vmul m mk t vd vs1 vs2 => some (packV m mk 2 vs2 vs1 t.code vd 0x20)
  | .vfma m mk t vd vs1 vs2 => some (packV m mk 3 vs2 vs1 t.code vd 0x20)
  | .vmin m mk t vd vs1 vs2 => some (packV m mk 4 vs2 vs1 t.code vd 0x20)
  | .vmax m mk t vd vs1 vs2 => some (packV m mk 5 vs2 vs1 t.code vd 0x20)
  | .vabs m mk t vd vs1 => some (packV m mk 6 0 vs1 t.code vd 0x20)
  | .vneg m mk t vd vs1 => some (packV m mk 7 0 vs1 t.code vd 0x20)
  | .vand m mk t vd vs1 vs2 => some (packV m mk 0 vs2 vs1 t.code vd 0x21)
  | .vor m mk t vd vs1 vs2 => some (packV m mk 1 vs2 vs1 t.code vd 0x21)
  | .vxor m mk t vd vs1 vs2 => some (packV m mk 2 vs2 vs1 t.code vd 0x21)
  | .vshl m mk t vd vs1 vs2 => some (packV m mk 3 vs2 vs1 t.code vd 0x21)
  | .vshr m mk t vd vs1 vs2 => some (packV m mk 4 vs2 vs1 t.code vd 0x21)
  | .vsra m mk t vd vs1 vs2 => some (packV m mk 5 vs2 vs1 t.code vd 0x21)
  | .vsel m mk t vd vs1 vs2 => some (packV m mk 6 vs2 vs1 t.code vd 0x21)
  | .vmv m mk t vd vs1 => some (packV m mk 7 0 vs1 t.code vd 0x21)
  | .vcmpEq m mk t kd vs1 vs2 => some (packV m mk 0 vs2 vs1 t.code (0#2 ++ kd) 0x22)
  | .vcmpNe m mk t kd vs1 vs2 => some (packV m mk 1 vs2 vs1 t.code (0#2 ++ kd) 0x22)
  | .vcmpLt m mk t kd vs1 vs2 => some (packV m mk 2 vs2 vs1 t.code (0#2 ++ kd) 0x22)
  | .vcmpLe m mk t kd vs1 vs2 => some (packV m mk 3 vs2 vs1 t.code (0#2 ++ kd) 0x22)
  | .vcmpGt m mk t kd vs1 vs2 => some (packV m mk 4 vs2 vs1 t.code (0#2 ++ kd) 0x22)
  | .vcmpGe m mk t kd vs1 vs2 => some (packV m mk 5 vs2 vs1 t.code (0#2 ++ kd) 0x22)
  | .vcmpLtu m mk t kd vs1 vs2 => some (packV m mk 6 vs2 vs1 t.code (0#2 ++ kd) 0x22)
  | .vcmpGeu m mk t kd vs1 vs2 => some (packV m mk 7 vs2 vs1 t.code (0#2 ++ kd) 0x22)
  | .vbcast m mk t vd vs1 => some (packV m mk 0 0 vs1 t.code vd 0x23)
  | .vextr m t vd vs1 vs2 => some (packV m 0 1 vs2 vs1 t.code vd 0x23)
  | .vins m t vd vs1 vs2 => some (packV m 0 2 vs2 vs1 t.code vd 0x23)
  | .vperm m mk t vd vs1 vs2 => some (packV m mk 3 vs2 vs1 t.code vd 0x23)
  | .vslide m mk t vd vs1 vs2 => some (packV m mk 4 vs2 vs1 t.code vd 0x23)
  | .viota m mk t vd ks => some (packV m mk 5 0 (0#2 ++ ks) t.code vd 0x23)
  | .vmpop m mk rd ks => some (packV m mk 6 0 (0#2 ++ ks) 0 rd 0x23)
  | .vredsum m mk t vd vs1 vs2 => some (packV m mk 0 vs2 vs1 t.code vd 0x24)
  | .vredmax m mk t vd vs1 vs2 => some (packV m mk 1 vs2 vs1 t.code vd 0x24)
  | .vredmin m mk t vd vs1 vs2 => some (packV m mk 2 vs2 vs1 t.code vd 0x24)
  | .vscan m mk t vd vs1 vs2 => some (packV m mk 3 vs2 vs1 t.code vd 0x24)
  | .vcvt m mk t dst vd vs1 => some (packV m mk 4 (0#2 ++ dst.code) vs1 t.code vd 0x24)
  | .vpack m mk t vd vs1 vs2 => some (packV m mk 5 vs2 vs1 t.code vd 0x24)
  | .vunpack m mk t hi vd vs1 => some (packV m mk 6 (0#4 ++ BitVec.ofBool hi) vs1 t.code vd 0x24)
  | .vdot m mk t vd vs1 vs2 => some (packV m mk 7 vs2 vs1 t.code vd 0x24)
  | .vld m mk t vd vs1 vs2 => some (packV m mk 0 vs2 vs1 t.code vd 0x25)
  | .vst m mk t vd vs1 vs2 => some (packV m mk 1 vs2 vs1 t.code vd 0x25)
  | .vlds m mk t vd vs1 vs2 => some (packV m mk 2 vs2 vs1 t.code vd 0x25)
  | .vsts m mk t vd vs1 vs2 => some (packV m mk 3 vs2 vs1 t.code vd 0x25)
  | .vgath m mk t vd vs1 vs2 => some (packV m mk 4 vs2 vs1 t.code vd 0x25)
  | .vscat m mk t vd vs1 vs2 => some (packV m mk 5 vs2 vs1 t.code vd 0x25)
  | .vldg m mk t vd vs1 vs2 => some (packV m mk 6 vs2 vs1 t.code vd 0x25)
  | .vstg m mk t vd vs1 vs2 => some (packV m mk 7 vs2 vs1 t.code vd 0x25)
  | .vexp2 m mk t vd vs1 => some (packV m mk 0 0 vs1 t.code vd 0x26)
  | .vlog2 m mk t vd vs1 => some (packV m mk 1 0 vs1 t.code vd 0x26)
  | .vrcp m mk t vd vs1 => some (packV m mk 2 0 vs1 t.code vd 0x26)
  | .vrsqrt m mk t vd vs1 => some (packV m mk 3 0 vs1 t.code vd 0x26)
  | .vquant m mk t f vd vs1 => some (packV m mk 4 (0#2 ++ f.code) vs1 t.code vd 0x26)
  | .vdeq m mk t f vd vs1 => some (packV m mk 5 (0#2 ++ f.code) vs1 t.code vd 0x26)
  | .kand m kd ks1 ks2 => some (packV m 0 0 (0#2 ++ ks2) (0#2 ++ ks1) 0 (0#2 ++ kd) 0x27)
  | .kor m kd ks1 ks2 => some (packV m 0 1 (0#2 ++ ks2) (0#2 ++ ks1) 0 (0#2 ++ kd) 0x27)
  | .kxor m kd ks1 ks2 => some (packV m 0 2 (0#2 ++ ks2) (0#2 ++ ks1) 0 (0#2 ++ kd) 0x27)
  | .knot m kd ks1 => some (packV m 0 3 0 (0#2 ++ ks1) 0 (0#2 ++ kd) 0x27)
  | .mma m fb fa zb za zc acc => some (packT m fb.code fa.code zb za zc acc.code 0 0x30)
  | .zld m z rs1 rs2 => some (packR m 0 rs2 rs1 0 (0#1 ++ z) 0x31)
  | .zst m z rs1 rs2 => some (packR m 0 rs2 rs1 1 (0#1 ++ z) 0x31)
  | .zzero m zc => some (packT m 0 0 0 0 zc 0 0 0x32)
  | .zcvt m fa zc za => some (packT m 0 fa.code 0 za zc 0 1 0x32)
  | .zscl m zc za => some (packT m 0 0 0 za zc 0 2 0x32)
  | .zxp m zc za => some (packT m 0 0 0 za zc 0 3 0x32)
  | .zmovv m z vs1 rs2 => some (packR m 0 rs2 vs1 0 (0#1 ++ z) 0x33)
  | .vmovz m vd z rs2 => some (packR m 0 rs2 (0#1 ++ z) 1 vd 0x33)
  | .bform m rd rs1 rs2 => some (packR m 0 rs2 rs1 0 rd 0x38)
  | .bcommit m rd rs1 rs2 => some (packR m 0 rs2 rs1 1 rd 0x38)
  | .rqfork m rd rs1 rs2 => some (packR m 0 rs2 rs1 2 rd 0x38)
  | .rqevict m rd rs1 rs2 => some (packR m 0 rs2 rs1 3 rd 0x38)
  | .rqstat m rd rs1 rs2 => some (packR m 0 rs2 rs1 4 rd 0x38)
  | .slotrd m rd rs1 rs2 => some (packR m 0 rs2 rs1 5 rd 0x38)
  | .kvapp m rd rs1 rs2 => some (packR m 0 rs2 rs1 0 rd 0x39)
  | .kvlook m rd rs1 rs2 => some (packR m 0 rs2 rs1 1 rd 0x39)
  | .kvrel m rd rs1 rs2 => some (packR m 0 rs2 rs1 2 rd 0x39)
  | .dattn m rd rs1 rs2 => some (packR m 0 rs2 rs1 0 rd 0x3A)
  -- words of the CSR class whose access is a step with a row of its own
  | .cpGo m rd => some (packI m 0x054 0 0 rd 0x0C)
  | .ttinv m f rd rs1 => some (packI m 0x040 rs1 f.f3 rd 0x0C)
  | .zcfgWrite m f z rd rs1 => some (packI m (0x03#7 ++ z) rs1 f.f3 rd 0x0C)
  | .xsdataWrite m f rd rs1 => some (packI m 0x083 rs1 f.f3 rd 0x0C)
  | .sideCoreGo m side f rd rs1 | .sideCoreStop m side f rd rs1 => some (packI m side.ctlCsr rs1 f.f3 rd 0x0C)
  | _ => none

/-- The instruction of the CSR class whose word a CSR row's own constructor shares. -/
def csrWriteInstr (m : SMark) (f : CsrForm) (rd rs1 : Reg) (csr : BitVec 11) : Instr :=
  match f with
  | .wr => .csrwr m rd rs1 csr
  | .set => .csrset m rd rs1 csr
  | .clr => .csrclr m rd rs1 csr

/-- The instruction that the decoder names for an instruction's word: the same, but for the CSR accesses with
a row of their own, which decode as the CSR class (02 R38). -/
def Instr.canon : Instr → Instr
  | .cpGo m rd => .csrrd m rd 0x054
  | .ttinv m f rd rs1 => csrWriteInstr m f rd rs1 0x040
  | .zcfgWrite m f z rd rs1 => csrWriteInstr m f rd rs1 (0x03#7 ++ z)
  | .xsdataWrite m f rd rs1 => csrWriteInstr m f rd rs1 0x083
  | .sideCoreGo m side f rd rs1 | .sideCoreStop m side f rd rs1 => csrWriteInstr m f rd rs1 side.ctlCsr
  | i => i

end Sys2Proof
end

