-- ==== Sys2Proof/Config.lean ====
section
/-! DEFINITION. What the implementation or the outside world fixes, and the free values: constants without a
body, of which nothing can be proved. -/

namespace Sys2Proof.Config

/-- Capacity of the CXL port `p` in units of 256 MiB (18 R313); free (log 10). -/
opaque cxlUnits : Nat → Nat

/-- The byte at a physical address that the host gives: of its own memory, which a slice fetches (18 R316), or of a sector of
HBM that it owns (18 R315); the second argument counts these; free (log 10). -/
opaque hostByte : Nat → Nat → Byte

/-- Whether the fill queue of a tile is full at a PREF, by a counter (04 R98); free, since the spec gives no size (log 10). -/
opaque fillQueueFull : Nat → Bool

/-- Whether the 256 cycles in which the reads of a sealed line are counted have passed at this read, by a counter of reads
(13 R264); free, since cycles are not counted (log 3). -/
opaque hotLapse : Nat → Bool

/-- A byte of another node's memory that an engine of this one reads; the last argument counts reads (22 R360); free
(log 13). -/
opaque nodeByte : Nat → Nat → Nat → Byte

/-- Whether a word of another node's memory that reaches this one is poisoned; the last argument counts reads (22 R360); free
(log 13). -/
opaque nodePoison : Nat → Nat → Nat → Bool

/-- The store pressure of an epoch, from the bytes that the headgate refused and from what else the epoch end samples (11 R227,
15 R298); free, since the spec gives no formula (log 10). -/
opaque storePressure : Nat → Nat → Nat

/-- Where the steward puts the backing and the store table of its `n`-th region, physical addresses (11 R240); free
(log 10). -/
opaque regionBack : Nat → Nat
opaque regionTable : Nat → Nat

/-- The fuses: digests of four public keys, each with its revocation (21 R355); free (log 15). -/
opaque keyFuse : Fin 4 → BitVec 256
opaque keyRevoked : Fin 4 → Bool

/-- SHA-256 of the security processor's own code, and the signature of the device key (21 R356); free (log 15). -/
opaque spDigest : BitVec 256
opaque reportSign : List Byte → BitVec 3072

/-- A byte of the device key's certificate (21 R356); free (log 15). -/
opaque certByte : Nat → Byte

/-- AGE_PCT and EOL_DAYS as the steward derives them from its monitors at a tick (21 R353); free (log 4). -/
opaque wearPct : Nat → Byte
opaque wearDays : Nat → BitVec 32

/-- The junction temperature at a tick, in °C (21 R357); free (log 4). -/
opaque junction : Nat → Byte

/-- A value of which the spec says nothing; the argument counts them (log 10). -/
opaque freeWord : Nat → Word

end Sys2Proof.Config
end

