-- ==== Sys2Proof/Machine/Numbers.lean ====
section
/-! DEFINITION. The number formats, rounding, flags and conversions of 03 R56 to R74: exact values as a
sign, a magnitude and a power of two, rounded once at the end. -/

namespace Sys2Proof.Machine

/-- The sticky flags, in the bit order of FFLAGS (01 R16). -/
abbrev Flags := BitVec 7

abbrev flNone : Flags := 0
abbrev flNX : Flags := 0x01
abbrev flUF : Flags := 0x02
abbrev flOF : Flags := 0x04
abbrev flDZ : Flags := 0x08
abbrev flNV : Flags := 0x10
abbrev flSAT : Flags := 0x20
abbrev flTSX : Flags := 0x40

def flagIf (c : Bool) (f : Flags) : Flags := if c then f else flNone

/-- Rounding modes, FRM.RM (01 R16, 03 R67). -/
inductive RM | ne | tz | dn | up | na
  deriving DecidableEq, Repr

/-- FRM.RM holds 0 to 4 (01 R16). -/
def RM.ofBits (b : BitVec 3) : RM :=
  match b.toNat with
  | 1 => .tz | 2 => .dn | 3 => .up | 4 => .na | _ => .ne

/-- An exact value. `fin neg m e st` is the number of magnitude m·2^e, or, with `st`, a number strictly
between m·2^e and (m+1)·2^e. -/
inductive Exact
  | nan
  | inf (neg : Bool)
  | fin (neg : Bool) (man : Nat) (exp : Int) (sticky : Bool)
  deriving DecidableEq, Repr

/-- The kinds of specials of a format (03 R56, R58). -/
inductive Specials
  /-- Infinities and NaNs in the exponent of all ones (03 R56). -/
  | ieee
  /-- Only the codes with every exponent and significand bit 1 are NaN, and there is no infinity (E4M3, 03 R58). -/
  | nanOnly
  /-- Every code is finite (FP6, FP4). -/
  | none
  deriving DecidableEq, Repr

/-- A binary floating-point format: the widths of exponent and significand, the bias, the specials. -/
structure FFmt where
  eb : Nat
  mb : Nat
  bias : Int
  sp : Specials
  deriving DecidableEq, Repr

def fp64 : FFmt := ⟨11, 52, 1023, .ieee⟩
def fp32 : FFmt := ⟨8, 23, 127, .ieee⟩
def bf16 : FFmt := ⟨8, 7, 127, .ieee⟩
def e4m3 : FFmt := ⟨4, 3, 7, .nanOnly⟩
def e5m2 : FFmt := ⟨5, 2, 15, .ieee⟩
def e2m3 : FFmt := ⟨2, 3, 1, .none⟩
def e3m2 : FFmt := ⟨3, 2, 3, .none⟩
def e2m1 : FFmt := ⟨2, 1, 1, .none⟩

namespace FFmt

def width (f : FFmt) : Nat := 1 + f.eb + f.mb
/-- The exponent field of all ones. -/
def topExp (f : FFmt) : Nat := 2 ^ f.eb - 1
/-- The code of the largest finite magnitude (03 R56, R58). -/
def maxCode (f : FFmt) : Nat :=
  match f.sp with
  | .ieee => f.topExp * 2 ^ f.mb - 1
  | .nanOnly => 2 ^ (f.eb + f.mb) - 2
  | .none => 2 ^ (f.eb + f.mb) - 1
def infCode (f : FFmt) : Nat := f.topExp * 2 ^ f.mb
/-- The canonical NaN (03 R56, R58). -/
def nanCode (f : FFmt) : Nat :=
  match f.sp with
  | .ieee => f.topExp * 2 ^ f.mb + 2 ^ (f.mb - 1)
  | .nanOnly => 2 ^ (f.eb + f.mb) - 1
  | .none => 0
def signBit (f : FFmt) (x : Nat) : Bool := x / 2 ^ (f.eb + f.mb) % 2 == 1
def magBits (f : FFmt) (x : Nat) : Nat := x % 2 ^ (f.eb + f.mb)
def withSign (f : FFmt) (neg : Bool) (mag : Nat) : Nat := if neg then mag + 2 ^ (f.eb + f.mb) else mag
/-- The exponent of one unit in the last place of subnormals. -/
def minUlp (f : FFmt) : Int := 1 - f.bias - f.mb

def isNan (f : FFmt) (x : Nat) : Bool :=
  match f.sp with
  | .ieee => f.infCode < f.magBits x
  | .nanOnly => f.magBits x == f.nanCode
  | .none => false
def isInf (f : FFmt) (x : Nat) : Bool := f.sp == .ieee && f.magBits x == f.infCode
/-- A NaN whose significand's top bit is 0 is signalling (03 R57); E4M3's NaN has it set. -/
def isSnan (f : FFmt) (x : Nat) : Bool := f.isNan x && x / 2 ^ (f.mb - 1) % 2 == 0

/-- The exact value of a finite magnitude code. -/
def magnitude (f : FFmt) (mag : Nat) : Nat × Int :=
  let e := mag / 2 ^ f.mb
  let m := mag % 2 ^ f.mb
  if e = 0 then (m, f.minUlp) else (m + 2 ^ f.mb, f.minUlp + (e - 1))

/-- The value of a code (03 R56, R58). -/
def decode (f : FFmt) (x : Nat) : Exact :=
  if f.isNan x then .nan
  else if f.isInf x then .inf (f.signBit x)
  else
    let (m, e) := f.magnitude (f.magBits x)
    .fin (f.signBit x) m e false

end FFmt

/-- `m1·2^e1 < m2·2^e2`. -/
def magLt (m1 : Nat) (e1 : Int) (m2 : Nat) (e2 : Int) : Bool :=
  if e1 ≤ e2 then m1 < m2 * 2 ^ (e2 - e1).toNat else m1 * 2 ^ (e1 - e2).toNat < m2

/-- Number of bits of a magnitude. -/
def bitLen (m : Nat) : Nat := if m = 0 then 0 else m.log2 + 1

/-- Round a magnitude to a whole number of units 2^e by the mode (03 R67): the units, and whether inexact. -/
def roundAt (rm : RM) (neg : Bool) (man : Nat) (exp : Int) (st : Bool) (e : Int) : Nat × Bool :=
  if e ≤ exp then
    let q := man * 2 ^ (exp - e).toNat
    -- a sticky tail below whole units
    let up := st && (match rm with | .up => !neg | .dn => neg | _ => false)
    (if up then q + 1 else q, st)
  else
    let sh := (e - exp).toNat
    let q := man / 2 ^ sh
    let r := man % 2 ^ sh
    let half := 2 ^ (sh - 1)
    let inexact := r != 0 || st
    let above := half < r || (r == half && st)
    let tie := r == half && !st
    let up := match rm with
      | .ne => above || (tie && q % 2 == 1)
      | .na => above || tie
      | .tz => false
      | .up => inexact && !neg
      | .dn => inexact && neg
    (if up then q + 1 else q, inexact)

/-- What becomes of a finite value beyond the largest finite one, or of an infinite source (03 R70). -/
def FFmt.overflow (f : FFmt) (nanov : Bool) (rm : RM) (neg : Bool) : Nat × Flags :=
  match f.sp with
  | .ieee =>
    let toInf := match rm with
      | .ne | .na => true
      | .tz => false
      | .up => !neg
      | .dn => neg
    (f.withSign neg (if toInf then f.infCode else f.maxCode), flOF ||| flNX)
  | .nanOnly => if nanov then (f.nanCode, flOF ||| flNX) else (f.withSign neg f.maxCode, flOF ||| flNX ||| flSAT)
  | .none => (f.withSign neg f.maxCode, flOF ||| flNX ||| flSAT)

/-- Round a nonzero finite magnitude into a format (03 R67, R68, R70). -/
def FFmt.roundFin (f : FFmt) (nanov : Bool) (rm : RM) (neg : Bool) (man : Nat) (exp : Int) (st : Bool) : Nat × Flags :=
  let p := f.mb + 1
  let eu : Int := bitLen man + exp - p
  -- the result with an unbounded exponent
  let (qu, _) := roundAt rm neg man exp st eu
  let (mm, me) := f.magnitude f.maxCode
  if magLt mm me qu eu then f.overflow nanov rm neg
  else
    let e := max eu f.minUlp
    let (q, inexact) := roundAt rm neg man exp st e
    let tiny := magLt qu eu 1 (1 - f.bias)
    let code := if q < 2 ^ f.mb then q else ((e - f.minUlp).toNat + 1) * 2 ^ f.mb + (q - 2 ^ f.mb)
    (f.withSign neg code, flagIf inexact flNX ||| flagIf (tiny && inexact) flUF)

/-- Deliver an exact value in a format (03 R57, R70). -/
def FFmt.round (f : FFmt) (nanov : Bool) (rm : RM) (x : Exact) : Nat × Flags :=
  match x with
  | .nan => (f.nanCode, flagIf (f.sp == .none) flNV)
  | .inf neg =>
    match f.sp with
    | .ieee => (f.withSign neg f.infCode, flNone)
    | .nanOnly => if nanov then (f.nanCode, flNone) else (f.withSign neg f.maxCode, flSAT)
    | .none => (f.withSign neg f.maxCode, flSAT)
  | .fin neg man exp st => if man = 0 && !st then (f.withSign neg 0, flNone) else f.roundFin nanov rm neg man exp st

/-! Exact arithmetic. The flag beside a value is NV for an invalid operation. -/

/-- The signed sum of two finite values at a common exponent. -/
def addFin (rm : RM) (n1 : Bool) (m1 : Nat) (e1 : Int) (n2 : Bool) (m2 : Nat) (e2 : Int) : Exact :=
  let e := min e1 e2
  let a := m1 * 2 ^ (e1 - e).toNat
  let b := m2 * 2 ^ (e2 - e).toNat
  if n1 == n2 then .fin n1 (a + b) e false
  else if a == b then .fin (rm == .dn) 0 0 false   -- the sign of an exact zero sum (04 R86)
  else if b < a then .fin n1 (a - b) e false
  else .fin n2 (b - a) e false

/-- a + b (04 R86). -/
def Exact.add (rm : RM) (a b : Exact) : Exact × Flags :=
  match a, b with
  | .nan, _ | _, .nan => (.nan, flNone)
  | .inf x, .inf y => if x == y then (.inf x, flNone) else (.nan, flNV)
  | .inf x, _ => (.inf x, flNone)
  | _, .inf y => (.inf y, flNone)
  | .fin n1 m1 e1 _, .fin n2 m2 e2 _ => (addFin rm n1 m1 e1 n2 m2 e2, flNone)

def Exact.neg : Exact → Exact
  | .nan => .nan
  | .inf n => .inf (!n)
  | .fin n m e s => .fin (!n) m e s

/-- a × b, exact. -/
def Exact.mul (a b : Exact) : Exact × Flags :=
  match a, b with
  | .nan, _ | _, .nan => (.nan, flNone)
  | .inf x, .inf y => (.inf (x != y), flNone)
  | .inf x, .fin y m _ _ | .fin y m _ _, .inf x => if m = 0 then (.nan, flNV) else (.inf (x != y), flNone)
  | .fin n1 m1 e1 _, .fin n2 m2 e2 _ => (.fin (n1 != n2) (m1 * m2) (e1 + e2) false, flNone)

/-- Bits of a quotient or a root beyond every format's precision. -/
def guardBits : Nat := 130

/-- a / b (04 R86): division of a finite nonzero value by zero is DZ. -/
def Exact.div (a b : Exact) : Exact × Flags :=
  match a, b with
  | .nan, _ | _, .nan => (.nan, flNone)
  | .inf _, .inf _ => (.nan, flNV)
  | .inf x, .fin y _ _ _ => (.inf (x != y), flNone)
  | .fin x _ _ _, .inf y => (.fin (x != y) 0 0 false, flNone)
  | .fin n1 m1 e1 _, .fin n2 m2 e2 _ =>
    if m2 = 0 then (if m1 = 0 then (.nan, flNV) else (.inf (n1 != n2), flDZ))
    else
      let k := guardBits + bitLen m2
      (.fin (n1 != n2) (m1 * 2 ^ k / m2) (e1 - e2 - k) (m1 * 2 ^ k % m2 != 0), flNone)

/-- The integer square root, one bit at a time from bit `k`. -/
def isqrtFrom (n : Nat) : Nat → Nat → Nat
  | 0, acc => if (acc + 1) * (acc + 1) ≤ n then acc + 1 else acc
  | k + 1, acc =>
    let t := acc + 2 ^ (k + 1)
    isqrtFrom n k (if t * t ≤ n then t else acc)

def isqrt (n : Nat) : Nat := isqrtFrom n (bitLen n / 2 + 1) 0

/-- √(m·2^e) of a positive magnitude. -/
def sqrtFin (m : Nat) (e : Int) : Exact :=
  let s := 2 * guardBits + (if (e % 2) = 0 then 0 else 1)
  let n := m * 2 ^ s
  let r := isqrt n
  .fin false r ((e - s) / 2) (r * r != n)

/-- √a (04 R86). -/
def Exact.sqrt (a : Exact) : Exact × Flags :=
  match a with
  | .nan => (.nan, flNone)
  | .inf n => if n then (.nan, flNV) else (.inf false, flNone)
  | .fin n m e _ => if m = 0 then (.fin n 0 0 false, flNone) else if n then (.nan, flNV) else (sqrtFin m e, flNone)

/-- The order of exact non-NaN values: `lt`, with zeros equal. -/
def Exact.lt (a b : Exact) : Bool :=
  match a, b with
  | .nan, _ | _, .nan => false
  | .inf x, .inf y => x && !y
  | .inf x, _ => x
  | _, .inf y => !y
  | .fin n1 m1 e1 _, .fin n2 m2 e2 _ =>
    if m1 = 0 then !n2 && m2 != 0
    else if m2 = 0 then n1
    else if n1 != n2 then n1
    else if n1 then magLt m2 e2 m1 e1 else magLt m1 e1 m2 e2

def Exact.isNan : Exact → Bool
  | .nan => true
  | _ => false

/-- The value equality of non-NaN values. -/
def Exact.eq (a b : Exact) : Bool := !a.isNan && !b.isNan && !a.lt b && !b.lt a

/-- An integer as an exact value. -/
def Exact.ofInt (i : Int) : Exact := .fin (i < 0) i.natAbs 0 false

/-! Scalar and elementwise operations on codes. -/

/-- A signalling NaN among the operands raises NV (03 R57). -/
def snanFlag (f : FFmt) (xs : List Nat) : Flags := flagIf (xs.any f.isSnan) flNV

def FFmt.add (f : FFmt) (rm : RM) (a b : Nat) : Nat × Flags :=
  let (x, fl) := Exact.add rm (f.decode a) (f.decode b)
  let (r, fl2) := f.round false rm x
  (r, snanFlag f [a, b] ||| fl ||| fl2)

def FFmt.flipSign (f : FFmt) (a : Nat) : Nat := f.withSign (!f.signBit a) (f.magBits a)

def FFmt.sub (f : FFmt) (rm : RM) (a b : Nat) : Nat × Flags := f.add rm a (f.flipSign b)

def FFmt.mul (f : FFmt) (rm : RM) (a b : Nat) : Nat × Flags :=
  let (x, fl) := Exact.mul (f.decode a) (f.decode b)
  let (r, fl2) := f.round false rm x
  (r, snanFlag f [a, b] ||| fl ||| fl2)

def FFmt.div (f : FFmt) (rm : RM) (a b : Nat) : Nat × Flags :=
  let (x, fl) := Exact.div (f.decode a) (f.decode b)
  let (r, fl2) := f.round false rm x
  (r, snanFlag f [a, b] ||| fl ||| fl2)

/-- c + a × b with the product unrounded (04 R86). -/
def FFmt.fma (f : FFmt) (rm : RM) (c a b : Nat) : Nat × Flags :=
  let (pr, fl) := Exact.mul (f.decode a) (f.decode b)
  let (x, fl1) := Exact.add rm (f.decode c) pr
  let (r, fl2) := f.round false rm x
  (r, snanFlag f [a, b, c] ||| fl ||| fl1 ||| fl2)

def FFmt.sqrt (f : FFmt) (rm : RM) (a : Nat) : Nat × Flags :=
  let (x, fl) := Exact.sqrt (f.decode a)
  let (r, fl2) := f.round false rm x
  (r, snanFlag f [a] ||| fl ||| fl2)

/-- The order of FMIN and FMAX: −0 below +0 (04 R87). -/
def FFmt.ltZero (f : FFmt) (a b : Nat) : Bool :=
  (f.decode a).lt (f.decode b) || (f.magBits a == 0 && f.magBits b == 0 && f.signBit a && !f.signBit b)

/-- FMIN and FMAX (04 R87). -/
def FFmt.minmax (f : FFmt) (wantMax : Bool) (a b : Nat) : Nat × Flags :=
  let r :=
    if f.isNan a then (if f.isNan b then f.nanCode else b)
    else if f.isNan b then a
    else if wantMax then (if f.ltZero a b then b else a) else (if f.ltZero b a then b else a)
  (r, snanFlag f [a, b])

/-- The relations of the comparisons (02 R36). -/
inductive FRel | eq | lt | le
  deriving DecidableEq, Repr

/-- FCMP (04 R88). -/
def FFmt.cmp (f : FFmt) (r : FRel) (a b : Nat) : Bool × Flags :=
  let nan := f.isNan a || f.isNan b
  let x := f.decode a
  let y := f.decode b
  match r with
  | .eq => (x.eq y, snanFlag f [a, b])
  | .lt => (x.lt y, flagIf nan flNV)
  | .le => (x.lt y || x.eq y, flagIf nan flNV)

/-- The number of the class of FCLASS (04 R89). -/
def FFmt.classify (f : FFmt) (a : Nat) : Nat :=
  let n := f.signBit a
  let m := f.magBits a
  if f.isNan a then (if f.isSnan a then 8 else 9)
  else if f.isInf a then (if n then 0 else 7)
  else if m = 0 then (if n then 3 else 4)
  else if m < 2 ^ f.mb then (if n then 2 else 5)
  else if n then 1 else 6

/-- A float format converted to another (03 R70, 04 R91). -/
def FFmt.convert (src dst : FFmt) (nanov : Bool) (rm : RM) (a : Nat) : Nat × Flags :=
  let (r, fl) := dst.round nanov rm (src.decode a)
  (r, snanFlag src [a] ||| fl)

/-- A float converted to an integer in [lo, hi] (03 R71). -/
def toInt (rm : RM) (lo hi : Int) (x : Exact) : Int × Flags :=
  match x with
  | .nan => (0, flNV)
  | .inf neg => (if neg then lo else hi, flSAT)
  | .fin neg man exp st =>
    let (q, inexact) := roundAt rm neg man exp st 0
    let v : Int := if neg then -(q : Int) else q
    if v < lo then (lo, flSAT) else if hi < v then (hi, flSAT) else (v, flagIf inexact flNX)

/-- An integer converted to a float (04 R91). -/
def FFmt.ofInt (f : FFmt) (rm : RM) (i : Int) : Nat × Flags := f.round false rm (.ofInt i)

/-- Clamp to a range, with SAT when it clamps (03 R55). -/
def clampInt (lo hi v : Int) : Int × Flags :=
  if v < lo then (lo, flSAT) else if hi < v then (hi, flSAT) else (v, flNone)

/-! TS8 (03 R64, R65). -/

/-- One term in units of 2^−6. -/
def ts8Term (s : Bool) (k : Nat) : Int := if k = 7 then 0 else if s then -(2 ^ (6 - k) : Int) else 2 ^ (6 - k)

/-- The value of a TS8 byte in units of 2^−6. -/
def ts8Units (x : Nat) : Int :=
  ts8Term (x / 128 % 2 == 1) (x / 16 % 8) + ts8Term (x / 8 % 2 == 1) (x % 8)

/-- An absent term with sign 1 (03 R64). -/
def ts8Tsx (x : Nat) : Bool := (x / 16 % 8 == 7 && x / 128 % 2 == 1) || (x % 8 == 7 && x / 8 % 2 == 1)

def ts8Decode (x : Nat) : Exact :=
  let u := ts8Units x
  .fin (u < 0) u.natAbs (-6) false

/-- The canonical byte of the magnitude `n`·2^−6 with a sign, where there is one (03 R65). -/
def ts8Canon (neg : Bool) (n : Nat) : Option Nat :=
  let s := if neg then 1 else 0
  let byte (s1 k1 s2 k2 : Nat) := s1 * 128 + k1 * 16 + s2 * 8 + k2
  if n = 0 then some 0x77
  else if n = 128 then some (byte s 0 s 0)
  else
    let r := List.range 7
    match r.find? fun a => n == 2 ^ (6 - a) with
    | some a => some (byte s a 0 7)
    | none =>
      let pairs := r.flatMap fun a => (r.filter (a < ·)).map fun b => (a, b)
      match pairs.find? fun ab => n == 2 ^ (6 - ab.1) + 2 ^ (6 - ab.2) with
      | some (a, b) => some (byte s a s b)
      | none =>
        match pairs.find? fun ab => ab.1 + 3 ≤ ab.2 && n == 2 ^ (6 - ab.1) - 2 ^ (6 - ab.2) with
        | some (a, b) => some (byte s a (1 - s) b)
        | none => none

/-- The distance of m·2^e from n·2^−6, in units of the smaller of 2^e and 2^−6. -/
def ts8Dist (m : Nat) (e : Int) (n : Nat) : Nat :=
  let c := min e (-6)
  let a := m * 2 ^ (e - c).toNat
  let b := n * 2 ^ (-6 - c).toNat
  if a < b then b - a else a - b

/-- The nearest TS8 magnitude, in units of 2^−6; a tie goes to the smaller (03 R65). -/
def ts8Nearest (m : Nat) (e : Int) : Nat :=
  (List.range 129).foldl
    (fun best n => if (ts8Canon false n).isSome && ts8Dist m e n < ts8Dist m e best then n else best) 0

/-- A scaled value written as TS8 (03 R65). -/
def ts8Encode (x : Exact) : Nat × Flags :=
  match x with
  | .nan => (0x77, flNV)
  | .inf neg => ((ts8Canon neg 128).getD 0, flSAT ||| flNX)
  | .fin neg m e st =>
    if magLt 2 0 m e then ((ts8Canon neg 128).getD 0, flSAT ||| flNX)
    else
      let n := ts8Nearest m e
      let inexact := st || ts8Dist m e n != 0
      ((ts8Canon neg n).getD 0, flagIf inexact flNX ||| flagIf (inexact && m != 0 && magLt m e 1 (-6)) flUF)

/-! Scales and tensor formats (03 R60 to R62, R66). -/

/-- The floating-point format of a tensor format, none for INT8 and TS8. -/
def TFmt.ffmt : TFmt → Option FFmt
  | .bf16 => some Machine.bf16
  | .e4m3 => some Machine.e4m3
  | .e5m2 => some Machine.e5m2
  | .e2m3 => some Machine.e2m3
  | .e3m2 => some Machine.e3m2
  | .e2m1 => some Machine.e2m1
  | .int8 | .ts8 => none

/-- Bits of an element. -/
def TFmt.bits : TFmt → Nat
  | .bf16 => 16
  | .e4m3 | .e5m2 | .int8 | .ts8 => 8
  | .e2m3 | .e3m2 => 6
  | .e2m1 => 4

/-- The block length B of a scaled kind; none for BF16 and INT8, which carry no scale (03 R62). -/
def TFmt.block : TFmt → Option Nat
  | .bf16 | .int8 => none
  | .ts8 => some 48
  | .e4m3 | .e5m2 | .e2m3 | .e3m2 | .e2m1 => some 32

/-- emax of R58, 0 for TS8 (03 R66). -/
def TFmt.emax : TFmt → Int
  | .e4m3 => 8 | .e5m2 => 15 | .e2m3 => 2 | .e3m2 => 4 | .e2m1 => 2
  | .bf16 | .int8 | .ts8 => 0

/-- The value of an element's bits, unscaled. -/
def TFmt.decode (f : TFmt) (x : Nat) : Exact :=
  match TFmt.ffmt f with
  | some g => g.decode x
  | none => if f = .ts8 then ts8Decode x else .ofInt (BitVec.ofNat 8 x).toInt

/-- Flags that reading an element's bits raises: TSX of TS8, NV of a signalling NaN. -/
def TFmt.readFlags (f : TFmt) (x : Nat) : Flags :=
  match TFmt.ffmt f with
  | some g => snanFlag g [x]
  | none => flagIf (f = .ts8 && ts8Tsx x) flTSX

/-- ScaleOf(e) × v; a NaN scale makes the value NaN and raises NV (03 R61, R62). -/
def scaleBy (e : Nat) (v : Exact) : Exact × Flags :=
  if e = 0xFF then (.nan, flNV)
  else match v with
    | .nan => (.nan, flNone)
    | .inf n => (.inf n, flNone)
    | .fin n m x s => (.fin n m (x + e - 127) s, flNone)

/-- v / ScaleOf(e); a NaN scale makes the quotient NaN (03 R66). -/
def unscaleBy (e : Nat) (v : Exact) : Exact :=
  if e = 0xFF then .nan else match v with
  | .nan => .nan
  | .inf n => .inf n
  | .fin n m x s => .fin n m (x - e + 127) s

/-- floor(log2) of the larger of two magnitudes, none for zero. -/
def expOf (m : Nat) (e : Int) : Option Int := if m = 0 then none else some (m.log2 + e)

/-- The largest exponent of the finite values of a block. -/
def blockExp (vs : List Exact) : Option Int :=
  vs.foldl (fun acc v =>
    match v with
    | .fin _ m e _ =>
      match expOf m e, acc with
      | some x, some y => some (max x y)
      | some x, none => some x
      | none, a => a
    | _ => acc) none

/-- The scale byte chosen for a block (03 R66), with its flag. -/
def chooseScale (f : TFmt) (vs : List Exact) : Nat × Flags :=
  if vs.any fun v => match v with | .fin .. => false | _ => true then (0xFF, flNV)
  else match blockExp vs with
    | none => (0x7F, flNone)
    | some x => ((max 0 (min 0xFE (x - TFmt.emax f + 127))).toNat, flNone)

/-- One element converted to the bits of a tensor format, round to nearest even (03 R65, R66, R70). -/
def TFmt.encode (f : TFmt) (nanov : Bool) (rm : RM) (v : Exact) : Nat × Flags :=
  match TFmt.ffmt f with
  | some g => g.round nanov rm v
  | none => if f = .ts8 then ts8Encode v else
    let (i, fl) := toInt rm (-128) 127 v
    ((BitVec.ofInt 8 i).toNat, fl)

/-! The functions of R153: a fixed-point evaluation with far more bits than any format's, rounded once
(log 9). -/

/-- Fraction bits of the fixed point. -/
def fxBits : Nat := 320
def fxOne : Nat := 2 ^ fxBits

/-- z + z³/3 + z⁵/5 + … for 0 ≤ z ≤ 1/3. `p` is the current odd power of z. -/
def fxAtanhSum (z2 : Nat) : Nat → Nat → Nat → Nat → Nat
  | 0, _, _, acc => acc
  | n + 1, k, p, acc => fxAtanhSum z2 n (k + 2) (p * z2 / fxOne) (acc + p / k)

def fxAtanh (z : Nat) : Nat := fxAtanhSum (z * z / fxOne) 110 1 z 0

/-- ln 2 = 2·atanh(1/3). -/
def fxLn2 : Nat := 2 * fxAtanh (fxOne / 3)

/-- 1 + y + y²/2 + …: `t` is the current term. -/
def fxExpSum (y : Nat) : Nat → Nat → Nat → Nat → Nat
  | 0, _, _, acc => acc
  | n + 1, k, t, acc => fxExpSum y n (k + 1) (t * y / fxOne / k) (acc + t)

def fxExp (y : Nat) : Nat := fxExpSum y 80 1 fxOne 0

/-- 2^a of a finite value: exact when a is an integer. -/
def exp2Fin (neg : Bool) (m : Nat) (e : Int) : Exact :=
  if !magLt m e 16384 0 then
    -- far beyond every format's range either way
    .fin false 1 (if neg then -100000 else 100000) false
  else
    let mag : Nat := if 0 ≤ e then m * 2 ^ e.toNat * fxOne else m * fxOne / 2 ^ (-e).toNat
    let whole := mag / fxOne
    let frac := mag % fxOne
    if frac = 0 then .fin false 1 (if neg then -(whole : Int) else whole) false
    else
      let (w, f) : Int × Nat := if neg then (-(whole : Int) - 1, fxOne - frac) else (whole, frac)
      .fin false (fxExp (f * fxLn2 / fxOne)) (w - fxBits) true

/-- log2 of a positive finite value: exact for a power of two. -/
def log2Fin (m : Nat) (e : Int) : Exact :=
  let k := m.log2
  if m = 2 ^ k then .ofInt (k + e)
  else
    -- m·2^e = t·2^x with t in [3/4, 3/2)
    let t0 := m * fxOne / 2 ^ k
    let big := decide (3 * fxOne ≤ 2 * t0)
    let t := if big then t0 / 2 else t0
    let x : Int := k + e + (if big then 1 else 0)
    let below := decide (t < fxOne)
    let z := (if below then fxOne - t else t - fxOne) * fxOne / (t + fxOne)
    let l := 2 * fxAtanh z * fxOne / fxLn2
    let v : Int := x * fxOne + (if below then -(l : Int) else l)
    .fin (v < 0) v.natAbs (-(fxBits : Int)) true

/-- 1/√(m·2^e) of a positive magnitude. -/
def rsqrtFin (m : Nat) (e : Int) : Exact :=
  -- e made even, so that 1/√ has a whole power of two
  let m' := if e % 2 = 0 then m else 2 * m
  let e' := if e % 2 = 0 then e else e - 1
  let k := guardBits + bitLen m'
  let r := isqrt (2 ^ (2 * k) / m')
  .fin false r (-(e' / 2) - k) (r * r * m' != 2 ^ (2 * k))

end Sys2Proof.Machine
end

