-- ==== Sys2Proof/Machine/Sparse.lean ====
section
/-! DEFINITION. Sparse data by key: lists of key and value with strictly rising keys; byte memories in the
canonical form in which no entry equals what an unlisted address reads as (log 2). -/

namespace Sys2Proof.Machine

/-- The value at a key. -/
def sget (k : Nat) : List (Nat × α) → Option α
  | [] => none
  | (k', v) :: r => if k = k' then some v else sget k r

/-- The list with the value at a key set, keys kept rising. -/
def sset (k : Nat) (v : α) : List (Nat × α) → List (Nat × α)
  | [] => [(k, v)]
  | (k', v') :: r => if k = k' then (k, v) :: r else if k < k' then (k, v) :: (k', v') :: r else (k', v') :: sset k v r

/-- The list without a key. -/
def sdel (k : Nat) : List (Nat × α) → List (Nat × α)
  | [] => []
  | (k', v') :: r => if k = k' then sdel k r else (k', v') :: sdel k r

/-- Strictly rising keys. -/
def keysRise : List (Nat × α) → Bool
  | [] => true
  | [_] => true
  | (k, _) :: (k', v') :: r => k < k' && keysRise ((k', v') :: r)

/-- A byte memory. -/
abbrev Mem := List Host.Cell

/-- The bytes of a workspace table entry that nothing has written: HPRIO 7 and SPSZ 16 (05 R111), HC, HS and HL 100
(11 R227); every other field 0. -/
def wstDefault (i : Nat) : Byte :=
  if i = 16 then 0x87 else if i = 48 then 0x64 else if i = 49 then 0x90 else if i = 50 then 0x41 else if i = 51 then 0x06 else 0

/-- Offset in a die's HBM of the 1 MiB that holds the workspace table, where the die holds it (05 R112, log 6). -/
def wstOff : Nat := 0x7F0_0000

/-- What an address that no entry lists reads as (log 2): zero, and in the workspace table the entries' reset values
(log 6). The addresses of the dies' HBM are those of 18 R311. -/
def memDefault (a : Nat) : Byte :=
  if a / 2 ^ 39 = 1 && a % 2 ^ 37 / 2 ^ 20 = wstOff / 2 ^ 20 then wstDefault (a % 256) else 0

/-- One byte. -/
def mget (m : Mem) (a : Nat) : Byte := (sget a m).getD (memDefault a)

/-- One byte written: writing the default removes the entry. -/
def mset (m : Mem) (a : Nat) (b : Byte) : Mem := if b = memDefault a then sdel a m else sset a b m

/-- The canonical form: addresses strictly rising, no entry equal to the default. -/
def Mem.wf (m : Mem) : Bool := keysRise m && m.all (fun c => c.2 != memDefault c.1)

/-- `n` bytes from an address up. -/
def mread (m : Mem) (a : Nat) : Nat → List Byte
  | 0 => []
  | n + 1 => mget m a :: mread m (a + 1) n

/-- The same bytes as `mread`, in one pass over a list whose first key is not below the address. -/
def mdenseFrom : Nat → Nat → Mem → List Byte
  | 0, _, _ => []
  | n + 1, a, [] => memDefault a :: mdenseFrom n (a + 1) []
  | n + 1, a, (k, v) :: r => if k = a then v :: mdenseFrom n (a + 1) r else memDefault a :: mdenseFrom n (a + 1) ((k, v) :: r)

def mdense (m : Mem) (a n : Nat) : List Byte := mdenseFrom n a (m.dropWhile fun c => c.1 < a)

/-- A memory that holds these bytes from an address up. -/
def memOf (a : Nat) : List Byte → Mem
  | [] => []
  | b :: r => if b = memDefault a then memOf (a + 1) r else (a, b) :: memOf (a + 1) r

/-- Bytes written from an address up. -/
def mwrite (m : Mem) (a : Nat) : List Byte → Mem
  | [] => m
  | b :: r => mwrite (mset m a b) (a + 1) r

/-- Little-endian value of bytes (00 R5). -/
def leNat : List Byte → Nat
  | [] => 0
  | b :: r => b.toNat + 256 * leNat r

/-- Bits `l` to `l + n - 1` of a number. -/
def nbit (x l n : Nat) : Nat := x / 2 ^ l % 2 ^ n

/-- Bytes up to a multiple of 64. -/
def pad64 (n : Nat) : Nat := (n + 63) / 64 * 64

/-- The `n` low bytes of a number, little-endian. -/
def leBytes (v : Nat) : Nat → List Byte
  | 0 => []
  | n + 1 => BitVec.ofNat 8 v :: leBytes (v / 256) n

def mreadNat (m : Mem) (a n : Nat) : Nat := leNat (mread m a n)
def mwriteNat (m : Mem) (a n v : Nat) : Mem := mwrite m a (leBytes v n)

/-- A set of numbers, rising with no repeats. -/
abbrev NatSet := List Nat

def nsMem (k : Nat) (s : NatSet) : Bool := s.any (· == k)

def nsAdd (k : Nat) : NatSet → NatSet
  | [] => [k]
  | a :: r => if k = a then a :: r else if k < a then k :: a :: r else a :: nsAdd k r

def nsDel (k : Nat) (s : NatSet) : NatSet := s.filter (· != k)

/-- The element at an index replaced. -/
def lset (l : List α) (n : Nat) (v : α) : List α := l.set n v

end Sys2Proof.Machine
end

