-- ==== Sys2Proof/Machine/State.lean ====
section
/-! DEFINITION. The state of the package as plain data, every piece the spec names; the reasons a step
stops; the state after reset. -/

namespace Sys2Proof.Machine

abbrev Wsid := BitVec 12
abbrev Ltid := BitVec 12

/-- The agents of a core: eight contexts and two side cores (06 R120, R123). -/
inductive Agent | ctx (c : Fin 8) | loader | storer
  deriving DecidableEq, Repr

/-- Who issued an access or a message. `inc` tells one residency of a context from the next, so that what
comes back for a strand that has left is known as such. -/
structure Src where
  tile : Nat
  agent : Agent
  inc : Nat
  ws : Wsid
  deriving DecidableEq, Repr

/-- A set of registers and panels: live-ins and written registers (05 R102, 02 R39). -/
structure RegSet where
  x : BitVec 32
  v : BitVec 32
  k : BitVec 8
  z : BitVec 16
  deriving DecidableEq, Repr

/-- Where a remote result lands (01 R17): an x register, extended by sign or by zeros, or the bytes of a
v register that were active at issue (07 R156). -/
inductive RDest
  | x (r : Reg) (signed : Bool)
  | v (r : Reg) (active : BitVec 128)
  deriving DecidableEq, Repr

/-- An outstanding result of the remote class (01 R17). -/
structure Remote where
  /-- Names it to what is in flight for it. -/
  tag : Nat
  dest : RDest
  /-- PC and address of the load, for POISON (04 R94). -/
  pc : Word
  addr : Word
  /-- The bytes that have arrived. -/
  bytes : List (Option Byte)
  poison : Bool
  /-- A GET whose window was dropped: the number of messages dropped (10 R214). -/
  dropped : Option Nat
  /-- An LACQ: its scope (04 R96). -/
  acquire : Option Scope
  deriving DecidableEq, Repr

/-- The copy CSRs of an agent (09 R193, R194). -/
structure CopyCsrs where
  src : Word
  dst : Word
  len : Word
  opt : Word
  overrun : BitVec 32
  fxid : BitVec 16
  fcode : BitVec 4
  faddr : Word
  deriving DecidableEq, Repr

/-- What a strand and a side core have in common (01 R14, R16, 06 R123). -/
structure Thread where
  x : Vector Word 32
  pc : Word
  fflags : Flags
  rm : BitVec 3
  nanov : Bool
  oorf : Bool
  oora : Word
  cp : CopyCsrs
  /-- Outstanding remote results, in order of issue (01 R17). -/
  outs : List Remote
  /-- A read of the engine-operation order: copies and panel operations launched after a FENCE.E wait for
  every operation launched before it; the number counts the fences (10 R209). -/
  fenceE : Nat
  deriving DecidableEq, Repr

/-- Where execution continues after a trap (05 R110). -/
inductive Resume | at (pc : Word) | region
  deriving DecidableEq, Repr

/-- A trap on its way to delivery (05 R108 to R110). -/
structure Trap where
  code : Byte
  tpc : Word
  taddr : Word
  tinfo : Word
  resume : Resume
  deriving DecidableEq, Repr

/-- What a Waiting context waits for (02 R28). -/
inductive Wait
  /-- Every outstanding remote result has arrived (02 R28). -/
  | results
  /-- The read of an LACQ has performed (04 R96). -/
  | acquire
  /-- The agent's earlier loads and stores have performed (04 R97, 06 R129, 10 R212). -/
  | release (sc : Scope)
  /-- The strand's stores are acknowledged at package scope (05 R116, R118, R119). -/
  | stores
  /-- Engine operations and accesses named by a FENCE (10 R208). -/
  | fence (sc : Scope) (p : FenceSet)
  /-- The translation of a page is being walked or served (04 R93, 13 R271). -/
  | walk (ws : Wsid) (page : Nat)
  /-- An instruction-cache line is on its way (06 R374). -/
  | fetch (pa : Nat)
  /-- A sector waits on the host (18 R315). -/
  | host (sector : Nat)
  /-- A queue register holds an entry (06 R129). -/
  | queue (q : BitVec 2)
  /-- A full queue register takes an entry (06 R129). -/
  | room (q : BitVec 2)
  /-- The tag of a word (09 R191). -/
  | tag (off : Nat) (full : Bool)
  /-- A message the agent may take (09 R192). -/
  | message
  /-- A weir's phase differs from the operand; WWAITT has a limit (09 R187). -/
  | phase (off : Nat) (p : Bool) (limit : Bool)
  /-- WFI, with the places of the tile store whose PHASE bit was set at its issue (05 R117, log 23). -/
  | wfi (phases : NatSet)
  /-- Room in the replay window of a destination (10 R214). -/
  | window (dst : Ltid)
  /-- The earlier accesses of the sender of a NOTIFY (10 R212). -/
  | notify (dst : Ltid)
  /-- The reply to a request (02 R28). -/
  | reply
  /-- Furrow credit, and a furrow datum or a close (10 R216). -/
  | credit (ep : BitVec 2)
  | datum (ep : BitVec 2)
  /-- The release of a channel on which the tile has arrived, before an arrival with its vote (15 R292). -/
  | arrive (ch : BitVec 3) (vote : Option (VoteOp × Nat))
  /-- The strand's stores and the tile's scheduled sends, before an arrival with its vote (15 R292). -/
  | gather (ch : BitVec 3) (vote : Option (VoteOp × Nat))
  /-- A grid-barrier release (15 R293). -/
  | barrier (ch : BitVec 3)
  /-- A spill frame for SUSP or YIELD (05 R107). -/
  | frame
  /-- Remote results that must arrive before a trap is delivered (05 R108). -/
  | trap
  /-- A tensor table entry or stream being served by the steward (08 R175). -/
  | stream
  deriving DecidableEq, Repr

/-- The four states of a context (06 R120). -/
inductive CtxState | free | ready | running | waiting (w : Wait)
  deriving DecidableEq, Repr

/-- The kinds of work a strand may belong to (15 R281). -/
inductive Work
  | plain
  /-- The range array and the index it works on. -/
  | range (array : Word) (index : Nat)
  /-- The die and number of its gang. -/
  | gang (die : Nat) (id : Nat)
  deriving DecidableEq, Repr

/-- A context and the strand resident in it (01 R14 to R16, 06 R120). -/
structure Context where
  st : CtxState
  inc : Nat
  th : Thread
  v : Vector VWord 32
  k : Vector (BitVec 32) 8
  rgnpc : Word
  live : RegSet
  written : RegSet
  trec : Word
  runlimit : BitVec 24
  gbtimeout : BitVec 32
  joins : Vector Word 4
  wsid : Wsid
  domain : Byte
  prio : BitVec 3
  gang : Bool
  unstaged : Bool
  /-- The address of the strand's continuation record (01 R9). -/
  recAddr : Word
  /-- The argument-area claim (06 R132). -/
  claim : Bool
  /-- A trap that waits for a boundary or for results (05 R108, 10 R214, 08 R175). -/
  pending : Option Trap
  /-- The wait that was released, for the re-issue (09 R187, 15 R293). -/
  released : Bool
  /-- The wait's time limit has passed (09 R187, 05 R117, 15 R293). -/
  expired : Bool
  /-- A pre-emption under way, with the CAUSE it will write: issue has stopped (05 R105). -/
  evict : Option Byte
  /-- The spill frame taken for it before issue stopped (05 R105 step 4). -/
  frame : Option Nat
  /-- A scheduler's pre-emption that found no frame, with the tick of its last try (05 R106). -/
  evictAt : Option Nat
  /-- The tick of the last retry of a suspension (05 R107). -/
  retryTick : Nat
  /-- The strand waits at a SUSP or YIELD for a frame, its retries included (05 R107). -/
  suspending : Bool
  deriving DecidableEq, Repr

/-- The states of a side core (06 R124). -/
inductive SideState | stopped | loading | running | trapped
  deriving DecidableEq, Repr

/-- The loader or the storer (06 R123, R124). -/
structure SideCore where
  th : Thread
  inc : Nat
  /-- The instruction store, 32 KiB (06 R123). -/
  imem : Mem
  /-- The loaded length L (02 R49). -/
  loaded : Nat
  len : BitVec 17
  /-- What the GO under way loads: LEN and the image address as they stood at it (06 R125). -/
  goLen : BitVec 17
  goImg : Word
  st : SideState
  tcode : Byte
  spc : BitVec 16
  wsid : Wsid
  img : Word
  stall : Option Wait
  /-- A DELIVERY_FAULT or other trap for the next boundary (10 R214). -/
  pending : Option Trap
  released : Bool
  expired : Bool
  deriving DecidableEq, Repr

/-- A panel: 96 rows of 192 bytes and of 12 scale bytes, and its configuration (08 R161, R162). -/
structure Panel where
  data : Mem
  strip : Mem
  poison : NatSet
  fmt : BitVec 3
  w32 : Bool
  rows : BitVec 7
  cols : BitVec 9
  deriving DecidableEq, Repr

/-- The states of a word held in an L1 (13 R254); a word not listed is Invalid. -/
inductive L1St | valid | registered
  deriving DecidableEq, Repr

/-- A word of an L1 or of a cluster unit's atomic cache (13 R254, R255). -/
structure L1Word where
  st : L1St
  bytes : List Byte
  poison : Bool
  ws : Wsid
  sealed : Bool
  /-- Merging: the bytes its stores have written (13 R255). -/
  merging : Option Byte
  deriving DecidableEq, Repr

/-- A TLB entry: one leaf translation (13 R269). -/
structure TlbEntry where
  ws : Wsid
  /-- First virtual address and size of the page. -/
  va : Nat
  size : Nat
  pa : Nat
  r : Bool
  w : Bool
  x : Bool
  sealed : Bool
  deriving DecidableEq, Repr

/-- A line of the instruction cache with its 128 bytes: stores do not update it (06 R374). -/
structure ICLine where
  ws : Wsid
  line : Nat
  bytes : List Byte
  deriving DecidableEq, Repr

/-- A tensor table entry as the cache holds it: 128 bytes (08 R165). -/
structure TtEntry where
  ws : Wsid
  tid : BitVec 10
  bytes : List Byte
  deriving DecidableEq, Repr

/-- A queued instruction of the tensor engine with what was fixed at issue (08 R163, R164). -/
structure TensorOp where
  src : Src
  instr : Instr
  pc : Word
  a : Word
  b : Word
  nanov : Bool
  /-- The configurations read at issue: of zc, za, zb. -/
  cfg : List Word
  entry : List Byte
  fenceE : Nat
  deriving DecidableEq, Repr

/-- What a message carries (10 R207, R211, 09 R189, R196, 15 R295). -/
inductive MsgBody
  | put (off : Nat) (bytes : List Byte)
  /-- A scheduled send of a channel's exchange window (15 R295). -/
  | xput (ch : BitVec 3) (off : Nat) (bytes : List Byte)
  | get (off n : Nat) (tag : Nat)
  | notify (recv : Byte) (ltid : Nat) (agent : Nat) (payload : Word)
  | bupd (off : Nat) (slot : BitVec 3) (operand : Word)
  | depart (off : Nat) (arr : Bool) (gen : Nat)
  | piece (chan : Fin 4) (xid : BitVec 16) (seq : Nat) (off : Nat) (bytes : List Byte) (poison : Bool)
      (aop : BitVec 2) (aty : BitVec 2) (ord : Bool) (weir : Option Nat)
  deriving DecidableEq, Repr

/-- A message in a replay window (10 R214). -/
structure Msg where
  src : Src
  pc : Word
  /-- The tile address, for DELIVERY_FAULT. -/
  addr : Word
  seq : Nat
  first : Nat
  body : MsgBody
  deriving DecidableEq, Repr

/-- The replay window of one destination (10 R214). -/
structure Window where
  next : Nat
  msgs : List Msg
  /-- Consecutive refusals, which set the back-off. -/
  refusals : Nat
  /-- A refusal has come and the window waits to resend. -/
  backoff : Bool
  deriving DecidableEq, Repr

/-- A furrow's source endpoint (10 R215, R216, R218). `fid` names the furrow. -/
structure FSource where
  fid : Nat
  ws : Wsid
  sinkTile : Nat
  sinkLtid : Ltid
  sinkEp : BitVec 2
  credit : Nat
  accepted : Nat
  severed : Bool
  closed : Bool
  deriving DecidableEq, Repr

/-- A furrow's sink endpoint. -/
structure FSink where
  fid : Nat
  ws : Wsid
  srcTile : Nat
  srcEp : BitVec 2
  depth : Nat
  /-- Data with their poison. -/
  buf : List (Word × Bool)
  severed : Bool
  /-- The severed mark has been taken: what is buffered drains, then NOTOPEN (10 R218). -/
  drained : Bool
  closed : Bool
  deriving DecidableEq, Repr

/-- A bank function slot (10 R205, R206). -/
abbrev BankFn := Option (BitVec 64)

/-- The states of a copy channel (09 R197). -/
inductive ChanState | idle | running | cancelling | posting
  deriving DecidableEq, Repr

/-- A copy channel (09 R193 to R197). -/
structure Chan where
  st : ChanState
  xid : BitVec 16
  status : BitVec 4
  done : Nat
  owner : Src
  srcA : Word
  dstA : Word
  len : Nat
  opt : Word
  /-- Tensor mode: the two entries of the tensor table (08 R183). -/
  srcE : List Byte
  dstE : List Byte
  /-- Next piece, and pieces sent and not yet performed (09 R196). -/
  next : Nat
  inAir : Nat
  faddr : Word
  /-- What is still to be posted: the message, the q3 entry. -/
  postCmb : Bool
  postQ3 : Bool
  fenceE : Nat
  /-- The status with which it stops, 0 for none yet; cancelled by a re-cast (11 R233). -/
  stop : BitVec 4
  recast : Bool
  /-- A staging copy of the headgate: the packet's number (15 R298). `opt` is its target, `srcA` FIRST, `dstA` the
  offset, for target 0 the home cluster of its part, `len` COUNT, `srcE` the entry. -/
  stage : Option Nat
  /-- The bytes of a piece under way for the second of its two sectors (18 R315). -/
  half : List Byte
  deriving DecidableEq, Repr

/-- A range-lock entry: granules of 64 bytes [lo, hi) of virtual addresses (09 R198). -/
structure RangeLock where
  chan : Fin 4
  dst : Bool
  xid : BitVec 16
  lo : Nat
  hi : Nat
  deriving DecidableEq, Repr

/-- A store-window slot of a store tile: the page it holds (11 R240). -/
structure PageSlot where
  ws : Wsid
  region : Nat
  page : Nat
  deriving DecidableEq, Repr

/-- An exchange window of a tile's channel (15 R295). -/
structure ExWindow where
  ch : BitVec 3
  start : Nat
  sent : NatSet
  deriving DecidableEq, Repr

/-- A committed SSEND waiting for its slot (15 R295). -/
structure ExSend where
  src : Src
  pc : Word
  slot : BitVec 6
  /-- The entry of the schedule, as it stood. -/
  entry : Word
  bytes : List Byte
  deriving DecidableEq, Repr

/-- A compute tile with its core, L1 and interface. -/
structure Tile where
  ctx : Vector Context 8
  /-- The running context, and the context that last left issue (06 R121). -/
  run : Option (Fin 8)
  last : Fin 8
  ldr : SideCore
  str : SideCore
  /-- The tile store: bytes, full tags and poison by 8-byte word (06 R130, R131). -/
  store : Mem
  full : NatSet
  poison : NatSet
  panels : Vector Panel 16
  tq : List TensorOp
  tt : List TtEntry
  queues : Vector (List Word) 4
  mail : List (BitVec 128)
  /-- Device messages that wait for room, in raising order (06 R134). -/
  mailWait : List (BitVec 128)
  chans : Vector Chan 4
  nextXid : BitVec 16
  locks : List (Nat × RangeLock)
  bfn : Vector BankFn 8
  bfnDrop : BitVec 32
  l1 : List (Nat × L1Word)
  icache : List ICLine
  /-- TLB entries by slot, and the bits of their replacement (13 R269). -/
  tlb : List (Nat × TlbEntry)
  plru : BitVec 128
  /-- Cached role-map words: LTID and the word (11 R225). -/
  roleCache : List (Nat × Word)
  windows : List (Nat × Window)
  fsrc : Vector (Option FSource) 4
  fsink : Vector (Option FSink) 4
  xsched : List (Nat × Word)
  /-- Entries written while a window was open, for the next window (15 R294). -/
  xnew : List (Nat × Word)
  xsidx : BitVec 6
  xstat : BitVec 16
  xwin : List ExWindow
  xsend : List ExSend
  /-- Departures of strands that have ended, waiting for room in their windows (09 R189, 10 R214). -/
  departs : List (Src × Word)
  dommem : Byte
  /-- Grid-barrier channels: ARRIVED, the kind of arrival, and the last release (15 R292, R293). -/
  arrived : BitVec 8
  release : Vector (Option Word) 8
  slots : List (Nat × PageSlot)
  deriving DecidableEq, Repr

/-- A holder of a registered word (13 R260, 10 R200). -/
inductive Holder | tile (t : Nat) | cluster (c : Nat)
  deriving DecidableEq, Repr

structure Registrant where
  holder : Holder
  ws : Wsid
  deriving DecidableEq, Repr

/-- A word of a line with its data. -/
structure WordData where
  word : Nat
  bytes : List Byte
  poison : Bool
  deriving DecidableEq, Repr

/-- A line in the data array of a slice: the slice's number in the package, die × 64 + slice (13 R253). A home line's words
stand in `State.mem`; a replica of a sealed line has words of its own (13 R264, R265). -/
structure L2Line where
  slice : Nat
  line : Nat
  /-- The last writer of a dirty line. -/
  dirty : Option Wsid
  copy : Option (List WordData)
  deriving DecidableEq, Repr

/-- An entry of a slice's hot table: reads of a sealed line counted, and the clusters that read it (13 R264). -/
structure HotLine where
  line : Nat
  reads : Nat
  clusters : NatSet
  deriving DecidableEq, Repr

/-- The state of a host-memory sector that a slice holds (18 R316). -/
inductive HostSt | shared | owned
  deriving DecidableEq, Repr

/-- The host's hold of a sector (18 R315); HN is not listed. -/
inductive Hold | hs | ho
  deriving DecidableEq, Repr

/-- Why a message was refused (10 R213). -/
inductive Nack | unbound | full | moved | order
  deriving DecidableEq, Repr

/-- The operation of an atomic (10 R202, R203). -/
inductive AtomKind | add | and | or | xor | min | max | minu | maxu | swp | cas | fadd
  deriving DecidableEq, Repr

/-- An atomic on its way (10 R200 to R204): its bytes, the operand and, for AMOCAS, the comparand; its scope, its address;
the result it brings, if any. -/
structure AtomOp where
  kind : AtomKind
  n : Nat
  b : Nat
  cmp : Nat
  sc : Scope
  va : Nat
  tag : Nat
  keep : Bool
  deriving DecidableEq, Repr

/-- A worm on the mesh: the tiles of its route still to come, the one its head is in first; the length of the hop it leaves
by, 4 for an express hop; the routing tiles that the sender's role cache showed at injection; whether the tile its head is
in has entered moving since and drains it; the words of its data that a check has found uncorrectable (11 R221, R237,
12 R248, 21 R349). -/
structure Worm where
  path : List Nat
  hop : Nat
  view : List Nat
  drains : Bool
  bad : NatSet
  deriving DecidableEq, Repr

/-- What is in flight. -/
inductive Flight
  /-- A miss on its way to the home slice: `len` bytes at `pa`, for positions from `pos` of the result (13 R257). `keep` tells
  whether its words are kept in the L1, and which are not. -/
  | fill (src : Src) (tag pos pa len : Nat) (keep : Option NatSet) (sealed : Bool)
  /-- A fill forwarded to the registrants of the words still needed (13 R257). -/
  | fwd (src : Src) (tag pos pa len : Nat) (keep : Option NatSet) (sealed : Bool) (got : List WordData) (need : List Nat)
  /-- Data on its way back to the tile. -/
  | data (src : Src) (tag pos pa len : Nat) (keep : Option NatSet) (sealed : Bool) (got : List WordData)
  /-- A store-window access on its way to where its page stands: the owning workspace, the region, the offset
  (11 R239, R240). Of a write's data, 8 bytes at a time, a check may have found words uncorrectable (21 R349). -/
  | winRead (src : Src) (tag pos ows rid off len : Nat)
  | winWrite (src : Src) (sid ows rid off : Nat) (bytes : List Byte) (bad : NatSet)
  /-- A registration of a word, without data (13 R255); `sid` numbers the store. -/
  | regist (src : Src) (sid word : Nat)
  /-- A store carrying the bytes of a word that it writes to the home slice (13 R255), with the word's poison where the
  whole word travels. -/
  | wdata (src : Src) (sid word : Nat) (cells : List (Nat × Byte)) (poison : Bool)
  /-- An atomic on its way to its place; `old` is the value it has read there, before its write (10 R200, R201). -/
  | atom (src : Src) (op : AtomOp) (pa : Nat) (old : Option (Nat × Bool))
  | winAtom (src : Src) (op : AtomOp) (ows rid off : Nat) (old : Option (Nat × Bool))
  /-- An atomic of tile scope between its read and its write (10 R200, R201). -/
  | bankAtom (src : Src) (op : AtomOp) (off old : Nat) (poison : Bool)
  /-- A remote atomic: the fabric port it left by and the tick at which it left (22 R358, R363). -/
  | fabAtom (src : Src) (op : AtomOp) (node pa port since : Nat)
  /-- The answer to an atomic or to a GET: bytes of a result (10 R202, R211). -/
  | answer (src : Src) (tag : Nat) (bytes : List Byte) (poison : Bool)
  /-- The acknowledgement of a store; of a registration, with the word's 8 bytes (13 R255). -/
  | ack (src : Src) (word : Option WordData)
  /-- A line for the instruction cache (06 R374). -/
  | ifill (src : Src) (pa : Nat) (sealed : Bool)
  /-- A remote access on its way over the fabric to a node, a load or a store (22 R360). -/
  | fabRead (src : Src) (tag pos node pa len port since : Nat)
  | fabWrite (src : Src) (sid node pa : Nat) (bytes : List Byte) (port since : Nat)
  /-- A LEAVE of a tile to the slices, behind its write-backs (13 R262). -/
  | leave (tile : Nat)
  /-- A message, its acceptance, its refusal (10 R213, R214). -/
  | pkt (tile : Nat) (dst : Ltid) (gen : BitVec 6) (ptile : Nat) (seq : Nat) (worm : Worm)
  | accept (tile : Nat) (dst : Ltid) (seq : Nat)
  | nack (tile : Nat) (dst : Ltid) (seq : Nat) (why : Nack)
  /-- Furrow data, close markers and credit (10 R216, R217). -/
  | fdatum (src : Src) (fid : Nat) (sink : Nat) (sinkEp : BitVec 2) (v : Option Word) (worm : Worm)
  | fcredit (fid : Nat) (tile : Nat) (ep : BitVec 2)
  /-- The reply to a request: the value for rd (02 R28). -/
  | reply (src : Src) (rd : Reg) (v : Word)
  deriving DecidableEq, Repr

/-- A request joined to a walk, and what it needs of the page. Requesters are numbered tile × 16 + code: 0 to 7 a
context, 8 the loader, 9 the storer, 10 the tensor engine, 11 to 14 a copy channel. -/
structure Joiner where
  who : Nat
  r : Bool
  w : Bool
  x : Bool
  /-- A prefetch (04 R98): for whom, its address, whether it goes no further than the slice. Nothing waits for it. -/
  pref : Option (Src × Nat × Bool)
  deriving DecidableEq, Repr

/-- A walk of one page of a workspace, with the requests joined to it in arrival order (13 R271). -/
structure Walk where
  /-- The walk unit whose miss entry this is: the number of its slice. -/
  unit : Nat
  ws : Wsid
  /-- The page of 4 KiB: va / 4096. -/
  page : Nat
  /-- Waiting for the steward. -/
  steward : Bool
  joined : List Joiner
  deriving DecidableEq, Repr

/-- A replicated sealed line of a die and its helper slices (13 R264). -/
structure Coppice where
  die : Nat
  line : Nat
  helpers : NatSet
  deriving DecidableEq, Repr

/-- A request that waits for a miss entry of its walk unit (13 R271). -/
structure WalkReq where
  unit : Nat
  ws : Wsid
  page : Nat
  joiner : Joiner
  deriving DecidableEq, Repr

/-- A non-leaf entry in the walk cache of a unit: the index of the virtual address down to its level, and the table it
names (13 R269). -/
structure WalkEnt where
  unit : Nat
  ws : Wsid
  level : Nat
  index : Nat
  table : Nat
  deriving DecidableEq, Repr

/-- A refused pair: accesses of the waiting agents take their fault at their re-issue (13 R271). -/
structure Refused where
  who : Nat
  ws : Wsid
  page : Nat
  code : Byte
  deriving DecidableEq, Repr

/-- An entry of the role map (11 R224). -/
structure RoleEntry where
  ptile : BitVec 10
  role : BitVec 2
  gen : BitVec 6
  cstate : BitVec 2
  owner : Wsid
  v : Bool
  lse : Bool
  xwin : Bool
  trole : BitVec 2
  nid : Byte
  lexp : BitVec 32
  ndl : BitVec 32
  deriving DecidableEq, Repr

/-- What the census knows of the notice that a tile is under: the count of R231, the workspaces that received one, and
whether the work of R233 is done (11 R230, R231, R233). -/
structure Notice where
  nid : Byte
  why : Nat
  count : Nat
  wss : List Wsid
  cleared : Bool
  deriving DecidableEq, Repr

/-- A page of a store-window region on its way to a slot of a store tile, or to its backing (11 R236, R241). -/
structure PageMove where
  ows : Nat
  rid : Nat
  page : Nat
  dst : Option (Nat × Nat)
  deriving DecidableEq, Repr

/-- A routing tile held by an exchange window of a tile's channel (11 R232). -/
structure XHold where
  router : Nat
  tile : Nat
  ch : BitVec 3
  deriving DecidableEq, Repr

/-- A write-back's error charged to a workspace, for its fault record: the tile that wrote back (13 R267, 21 R352). -/
structure Charge where
  ws : Wsid
  tile : Nat
  pa : Nat
  deriving DecidableEq, Repr

/-- An entry of the scheduler's strand table, by record (15 R281): the queue the strand returns to, its
workspace, its successor handles, the kind of work, the die and bytes of its staging reservation. -/
structure Strand where
  queue : Word
  ws : Wsid
  succ : List Word
  work : Work
  /-- The tile where the strand was last placed (15 R290), and its place in the order of first dispatches, 0 before one
  (15 R289). -/
  tile : Nat
  disp : Nat
  die : Nat
  reserve : Nat
  deriving DecidableEq, Repr

/-- A record on a resume list (15 R281). -/
structure Resumable where
  record : Word
  queue : Word
  ws : Wsid
  prio : BitVec 3
  deriving DecidableEq, Repr

/-- A staging copy still to be launched: the target, the tile that runs it, the working-set entry; for target 0 the
home cluster of its part (15 R298). -/
structure StageCopy where
  tgt : Nat
  tile : Nat
  entry : Nat
  cluster : Nat
  deriving DecidableEq, Repr

/-- A packet the headgate keeps (15 R298). -/
structure HeadPkt where
  id : Nat
  queue : Word
  ws : Wsid
  /-- Order of arrival at the scheduler. -/
  arr : Nat
  bytes : List Byte
  /-- The 128 bytes of each of its tensor entries, as they stood when the headgate took the packet; none for an entry of size
  0 (15 R277). -/
  ents : List (List Byte)
  since : Nat
  /-- Bytes of its TGT 0 and 2 entries. -/
  total : Nat
  /-- The headgate has stopped at it: its bytes count as refused (15 R298, 11 R227). -/
  refused : Bool
  admitted : Bool
  released : Bool
  unstaged : Bool
  /-- The tile chosen for a TGT 1 packet. -/
  tile : Option Nat
  /-- Copies not yet launched, and launched ones still running. -/
  todo : List StageCopy
  running : Nat
  deriving DecidableEq, Repr

/-- A gang placed (15 R291). -/
structure Gang where
  id : Nat
  ws : Wsid
  domain : Byte
  ch : BitVec 3
  members : List Nat
  live : Nat
  failed : Bool
  succ : List Word
  deriving DecidableEq, Repr

/-- A grid-barrier channel of a die; channel 7 of the package is kept with die 0 (15 R292). -/
structure Channel where
  arrived : NatSet
  votes : List (VoteOp × Nat)
  /-- The next release carries LOST (15 R296). -/
  lost : Bool
  deriving DecidableEq, Repr

/-- A signal on its way to a dependence counter, with the LTID of the tile that raised it (15 R284, 21 R352). -/
structure Signal where
  counter : Word
  ws : Wsid
  ltid : Nat
  deriving DecidableEq, Repr

/-- A fired counter's packet, or a trap packet, that found its queue full (15 R284, 05 R111): the address concerned and the
LTID for the fault record (21 R352). -/
structure Retry where
  queue : Word
  ws : Wsid
  packet : List Byte
  since : Nat
  addr : Word
  ltid : Nat
  deriving DecidableEq, Repr

/-- A model group as the batch former keeps it: the physical address of its MGD, its MGD as it was bound, the lists of
blocks of R333, its slot table, the slots under quarantine, the slots vacated since the last step was formed
(19 R319, R320, R324, R333, R345). -/
structure Group where
  pa : Nat
  ws : Wsid
  mgd : Word
  cfg : List Byte
  step : BitVec 32
  opn : Bool
  sdrop : BitVec 32
  last : Word
  ihead : BitVec 32
  free : List Nat
  reclaim : List Nat
  slots : List (Nat × BitVec 128)
  quar : NatSet
  leaving : NatSet
  faulted : Bool
  deriving DecidableEq, Repr

/-- A request record: the physical address of its group's MGD, its sixteen words, the fault mark, the eviction mark (true for CANCEL), the copy reserve,
the marks of the step (19 R322, R325, R335, R340). -/
structure Req where
  gid : Nat
  w : List Word
  mark : Byte
  evict : Option Bool
  reserve : Option Nat
  new : Bool
  smp : Bool
  deriving DecidableEq, Repr

/-- A decode-attention descriptor in the queues of a die's two engines, with its address and its tensor entries
(19 R342). -/
structure DattnOp where
  src : Src
  addr : Word
  gid : Nat
  desc : List Byte
  slist : List Nat
  qe : List Byte
  oe : List Byte
  fenceE : Nat
  deriving DecidableEq, Repr

/-- A compute die: its scheduler, headgate and barrier channels. -/
structure Die where
  /-- Queues with packets that came to this die, with their workspaces, in order of first arrival (15 R281). -/
  queues : List (Word × Wsid)
  /-- Arrivals at the scheduler: queue and workspace, cell, order (15 R281). -/
  arrivals : List ((Word × Wsid) × Nat × Nat)
  resume : List Resumable
  heads : List HeadPkt
  l2res : Byte
  use : Nat
  /-- Bytes refused admission in the epoch (15 R298). -/
  refused : Nat
  gangs : List Gang
  chans : Vector Channel 8
  /-- CENSUS_CTL, the last notice number, the notices posted in the epoch, LTIDs whose notice waits for the next one
  (11 R227, R228, R247). -/
  ctl : Word
  lastNid : Byte
  posted : Nat
  owed : List (Nat × Nat)
  /-- The epoch whose end comes next (11 R227). -/
  epoch : Nat
  /-- LTIDs that await a compute tile (11 R235). -/
  await : List Nat
  dattn : List DattnOp
  deriving DecidableEq, Repr

/-- An ENQ window of the host (15 R280). -/
structure EnqWin where
  addr : Word
  ws : Wsid
  status : Byte
  busy : Bool
  pkt : List Byte
  deriving DecidableEq, Repr

/-- Registers of the management window and what stands behind them (05 R112, R113, 21 R355 to R357, 22 R358). -/
structure Mgmt where
  wstBase : Word
  sarg : Vector Word 7
  sstat : Byte
  sres : Word
  /-- The command that runs: RGNFREE waits for pages that move. -/
  scmd : Byte
  enq : Vector EnqWin 4
  /-- Route entries of nodes that have been written (22 R358). -/
  frt : List (Nat × Word)
  pwrcap : BitVec 16
  bootstat : Byte
  /-- An image has been accepted, and none rejected since (21 R355). -/
  booted : Bool
  version : Word
  /-- SHA-256 of the running steward firmware (21 R356). -/
  fwDigest : BitVec 256
  nonce : BitVec 256
  attReq : Word
  report : List Byte
  /-- The arithmetic clock in units of 0.1 GHz; the clock that the power cap allows and whether the hold at 1.0 GHz
  stands, both taken over at the next tick (00 R5, 21 R357). -/
  clock : Nat
  nextClock : Nat
  held : Bool
  deriving DecidableEq, Repr

/-- A step that the default order takes (log 4). -/
inductive Due
  | issue (tile : Nat) (a : Agent)
  | fill (n : Nat)
  | fwd (n : Nat)
  | result (n : Nat)
  | store (n : Nat)
  | ack (n : Nat)
  | line (n : Nat)
  | leave (n : Nat)
  | packet (n : Nat)
  | accept (n : Nat)
  | nack (n : Nat)
  | datum (n : Nat)
  | credit (n : Nat)
  | reply (n : Nat)
  | walk (n : Nat)
  | switch (tile : Nat)
  | evict (tile : Nat) (c : Fin 8)
  | trap (tile : Nat) (c : Fin 8)
  | sideTrap (tile : Nat) (sd : Side)
  | wfi (tile : Nat) (c : Fin 8)
  | wwaitt (tile : Nat) (a : Fin 10)
  | gbwait (tile : Nat) (c : Fin 8)
  | frame (tile : Nat) (c : Fin 8)
  | pickup (tile : Nat) (c : Fin 8)
  | image (tile : Nat) (sd : Side)
  | tensor (tile : Nat)
  | piece (tile : Nat) (ch : Fin 4)
  | copyEnd (tile : Nat) (ch : Fin 4)
  | copyPlaced (tile : Nat) (ch : Fin 4)
  | mail (tile : Nat)
  | replay (tile dst : Nat)
  | expiry (tile dst : Nat)
  | signal
  | cntRetry (n : Nat)
  | fqRetry (n : Nat)
  | enqGo (i : Fin 4)
  | staging (die : Fin 4) (n : Nat)
  | flip (n : Nat)
  | lease (ltid : Ltid)
  | deadline (ltid : Ltid)
  | epoch (die : Fin 4)
  | enterMoving (ltid : Ltid)
  | moveDone (ltid : Ltid)
  | roleCache (tile : Nat) (ltid : Ltid)
  | inject (tile : Nat) (slot : BitVec 6)
  | remote (n : Nat)
  | headgate (die : Fin 4)
  | dispatch (die : Fin 4)
  | split (die : Fin 4)
  | report
  | wear
  | barrier (die : Fin 4) (ch : BitVec 3)
  | dattn (die : Fin 4)
  | tick
  deriving DecidableEq, Repr

/-- What moves next: an agent issues, or a step of an engine or of the outside world happens (log 4). -/
inductive Turn
  | issue (tile : Nat) (a : Agent)
  | event (i : Instr)
  | due (d : Due)
  deriving DecidableEq, Repr

/-- The package. -/
structure State where
  /-- The tile and agent a word acts for (log 4). -/
  curTile : Nat
  curAgent : Agent
  /-- Which steps come next; empty means the default order (log 4). -/
  turns : List Turn
  tiles : List (Nat × Tile)
  /-- Physical memory as the slices and the memories hold it (18 R311), and its poisoned words (21 R350). -/
  mem : Mem
  mpoison : NatSet
  /-- Of the poisoned words, those whose poison came up in a slice's array while memory's copy was intact: it is lost with the
  line, unless the line is dirty by then (13 R253, 21 R349). -/
  l2Bad : NatSet
  /-- Registrants of words, the lines that have one with the least recently registered first, the overflowed lines with the
  oldest first (13 R260). -/
  reg : List (Nat × Registrant)
  regLines : List Nat
  regOver : List Nat
  /-- Cluster units' words (10 R200). -/
  cu : List (Nat × L1Word)
  /-- Lines that the slices hold, the oldest first (13 R253), and the slices' hot tables (13 R264). -/
  l2 : List L2Line
  hot : List HotLine
  /-- The host's holds, the oldest first, the back-invalidations under way, by 2 × sector, plus 1 for a write, and the
  accesses that wait at a sector, in order of arrival (18 R315). -/
  hold : List (Nat × Hold)
  bi : NatSet
  biOrder : List (Nat × List Nat)
  /-- Accesses whose NOMEM entry is written (18 R313). -/
  nomem : NatSet
  flights : List Flight
  coppice : List Coppice
  walks : List Walk
  walkQ : List WalkReq
  walkCache : List WalkEnt
  refused : List Refused
  tick : Nat
  roles : List (Nat × RoleEntry)
  /-- Next sequence number that the destination accepts, by sending tile × 4,096 + LTID (10 R214). -/
  expect : List (Nat × Nat)
  /-- Notices by LTID, moving pages, holds of exchange windows (11 R231, R236, R232). -/
  notices : List (Nat × Notice)
  moves : List PageMove
  xholds : List XHold
  charges : List Charge
  mgmt : Mgmt
  /-- Model groups and the package's request records, in order of arrival (19 R319, R321). -/
  groups : List Group
  reqs : List Req
  /-- Service, and what ID_CONFIG reports in full service (00 R6, 21 R354). -/
  fullService : Bool
  powered : Bool
  idDies : BitVec 4
  idHbm : Byte
  idCxl : BitVec 4
  idFab : BitVec 16
  idNode : BitVec 6
  /-- Sectors of host memory that the slices hold (18 R316). -/
  hostHeld : List (Nat × HostSt)
  /-- Links: failures of the flit that a link now replays, links taken down, the host's link among them (21 R349). -/
  linkFails : List (Nat × Nat)
  linkDown : NatSet
  /-- Error rings: entries by slot, ERRCNT.WRITTEN and ERRCNT.CE, locations with a corrected error in the
  epoch (21 R351). -/
  rings : Vector (List (Nat × BitVec 256)) 5
  errWritten : Vector (BitVec 32) 5
  errCe : Vector (BitVec 32) 5
  ceSeen : Vector NatSet 5
  /-- AGE_PCT and EOL_DAYS, and the tick at which their next update falls due (21 R353). -/
  agePct : Byte
  eolDays : BitVec 32
  wearDue : Nat
  /-- Numbers for outstanding results and the like. -/
  fresh : Nat
  /-- Counts the default turns (log 4). -/
  rota : Nat
  /-- Records of faulted strands, by `recKey`, whose trap packet waits to be dispatched, with the fault queue it was sent to
  (05 R109). -/
  faulted : List (Nat × Word)
  /-- The reserve frames in use, with their workspaces (05 R106, log 6). -/
  framesUsed : List (Nat × Wsid)
  /-- The scheduler's strand table, by `recKey`. -/
  strands : List (Nat × Strand)
  nextRec : Nat
  dies : Vector Die 4
  signals : List Signal
  cntRetry : List Retry
  fqRetry : List Retry
  deriving DecidableEq, Repr

/-- Reasons the machine stops. -/
inductive Fault
  /-- Raised by `step` for a turn that names no tile or unit of the package (log 4): safe, no such step exists. -/
  | illFormedTurn
  deriving DecidableEq, Repr

/-- Reasons a step is not given a meaning. -/
inductive Refusal
  /-- Raised by an arm of `exec` that has no meaning yet: safe. -/
  | notModelled (mnemonic : String)
  deriving DecidableEq, Repr

/-! ## Reset -/

def RegSet.empty : RegSet := ⟨0, 0, 0, 0⟩

/-- Copy CSRs at reset (09 R194; CP_SRC, CP_DST, CP_LEN: log 1). -/
def CopyCsrs.reset : CopyCsrs :=
  { src := 0, dst := 0, len := 0, opt := 0, overrun := 0, fxid := 0, fcode := 0, faddr := 0 }

/-- A thread at reset (01 R16; the x registers and the PC: log 1). -/
def Thread.reset : Thread :=
  { x := Vector.replicate 32 0, pc := 0, fflags := 0, rm := 0, nanov := false, oorf := false, oora := 0,
    cp := .reset, outs := [], fenceE := 0 }

/-- A Free context (06 R120; its registers and ids: log 1). -/
def Context.reset : Context :=
  { st := .free, inc := 0, th := .reset, v := Vector.replicate 32 0, k := Vector.replicate 8 0, rgnpc := 0,
    live := .empty, written := .empty, trec := 0, runlimit := 0, gbtimeout := 0, joins := Vector.replicate 4 0,
    wsid := 0, domain := 0, prio := 0, gang := false, unstaged := false, recAddr := 0, claim := false, pending := none, released := false, expired := false, evict := none,
    frame := none, evictAt := none, retryTick := 0, suspending := false }

/-- A stopped side core (06 R124, R127; its registers and image address: log 1). -/
def SideCore.reset : SideCore :=
  { th := .reset, inc := 0, imem := [], loaded := 0, len := 0, goLen := 0, goImg := 0, st := .stopped, tcode := 0, spc := 0, wsid := 0,
    img := 0, stall := none, pending := none, released := false, expired := false }

def Panel.reset : Panel :=
  { data := [], strip := [], poison := [], fmt := 0, w32 := false, rows := 0, cols := 0 }

def Src.none : Src := { tile := 0, agent := .ctx 0, inc := 0, ws := 0 }

def Chan.reset : Chan :=
  { st := .idle, xid := 0, status := 0, done := 0, owner := .none, srcA := 0, dstA := 0, len := 0, opt := 0,
    srcE := [], dstE := [], next := 0, inAir := 0, faddr := 0, postCmb := false, postQ3 := false, fenceE := 0, stop := 0, recast := false, half := [],
    stage := Option.none }

/-- A tile at reset: everything empty or zero; context 7 left issue last, so that context 0 is looked at first
(log 1). -/
def Tile.reset : Tile :=
  { ctx := Vector.replicate 8 .reset, run := none, last := 7, ldr := .reset, str := .reset, store := [], full := [],
    poison := [], panels := Vector.replicate 16 .reset, tq := [], tt := [], queues := Vector.replicate 4 [],
    mail := [], mailWait := [], chans := Vector.replicate 4 .reset, nextXid := 1, locks := [],
    bfn := Vector.replicate 8 none, bfnDrop := 0, l1 := [], icache := [], tlb := [], plru := 0, roleCache := [],
    windows := [], fsrc := Vector.replicate 4 none, fsink := Vector.replicate 4 none,
    xsched := [], xnew := [], xsidx := 0, xstat := 0, xwin := [], xsend := [], departs := [], dommem := 0, arrived := 0,
    release := Vector.replicate 8 none, slots := [] }

def Channel.reset : Channel := { arrived := [], votes := [], lost := false }

/-- A die at reset; L2RES is 32 (15 R297), CENSUS_CTL as 11 R227 gives. -/
def Die.reset : Die :=
  { queues := [], arrivals := [], resume := [], heads := [], l2res := 32, use := 0, refused := 0, gangs := [], chans := Vector.replicate 8 .reset,
    ctl := 0x1814, lastNid := 0, posted := 0, owed := [], epoch := 1, await := [], dattn := [] }

def EnqWin.reset : EnqWin := { addr := 0, ws := 0, status := 0, busy := false, pkt := List.replicate 256 0 }

/-- The management registers at reset: PWRCAP 2,900 (21 R357), the clock of reduced service (21 R354), WSTBASE where the
steward puts the table on die 0 (05 R112, log 6); the others 0 (log 1). -/
def Mgmt.reset : Mgmt :=
  { wstBase := 0x80_07F0_0000, sarg := Vector.replicate 7 0, sstat := 0, sres := 0, scmd := 0, enq := Vector.replicate 4 .reset, frt := [],
    pwrcap := 2900, bootstat := 0, booted := false, version := 0, fwDigest := 0, nonce := 0, attReq := 0, report := List.replicate 520 0, clock := 10, nextClock := 10,
    held := false }

/-- The package after reset: reduced service on die 0 (21 R354, log 1). -/
def State.reset : State :=
  { curTile := 0, curAgent := .ctx 0, turns := [], tiles := [], mem := [], mpoison := [], l2Bad := [], reg := [], regLines := [], regOver := [], cu := [], l2 := [], hot := [],
    hold := [], bi := [], biOrder := [], nomem := [], flights := [], coppice := [], walks := [], walkQ := [], walkCache := [], refused := [], tick := 0, roles := [], expect := [], notices := [], moves := [], xholds := [], charges := [], mgmt := .reset, groups := [], reqs := [], fullService := false,
    powered := true, idDies := 1, idHbm := 0, idCxl := 0, idFab := 0, idNode := 0, hostHeld := [], linkFails := [], linkDown := [],
    rings := Vector.replicate 5 [], errWritten := Vector.replicate 5 0, errCe := Vector.replicate 5 0,
    ceSeen := Vector.replicate 5 [], agePct := 0, eolDays := 0xFFFF_FFFF, wearDue := 60_000_000, fresh := 0, rota := 0, faulted := [], framesUsed := [],
    strands := [], nextRec := 0, dies := Vector.replicate 4 .reset, signals := [], cntRetry := [], fqRetry := [] }

end Sys2Proof.Machine
end

