-- ==== Sys2Proof/Machine/Memory.lean ====
section
/-! DEFINITION. Physical memory: the address map (18 R311, R313), error records (21 R351), the home slices with
their registries (13 R253 to R262), the L1s' words, page-table walks (13 R268), and the reads and writes of
the device's own engines. -/

namespace Sys2Proof.Machine

/-! ## Tiles -/

def State.tileAt (s : State) (t : Nat) : Tile := (sget t s.tiles).getD .reset
def State.setTile (s : State) (t : Nat) (v : Tile) : State := { s with tiles := sset t v s.tiles }

/-! ## The physical address map (18 R311, R313) -/

/-- What stands at a physical address. -/
inductive Region
  /-- Device register space. -/
  | regs
  | reserved
  /-- HBM of a die, with the offset in its range. -/
  | hbm (die off : Nat)
  /-- The CXL tier behind a port. -/
  | cxl (port off : Nat)
  | host (hpa : Nat)
  /-- The device's own storage (log 6). -/
  | device
  deriving DecidableEq, Repr

/-- The start of a die's HBM range. -/
def hbmBase (die : Nat) : Nat := 0x80_0000_0000 + die * 2 ^ 37

def regionOf (pa : Nat) : Region :=
  if pa < 0x1_0000_0000 then .regs
  else if pa < 0x80_0000_0000 then .reserved
  else if pa < 0x100_0000_0000 then .hbm ((pa - 0x80_0000_0000) / 2 ^ 37) ((pa - 0x80_0000_0000) % 2 ^ 37)
  else if pa < 0x500_0000_0000 then .cxl (pa / 2 ^ 40 % 4) (pa % 2 ^ 40)
  else if pa < 0x8_0000_0000_0000 then .reserved
  else if 2 ^ 52 ≤ pa then .device
  else .host (pa - 0x8_0000_0000_0000)

/-- The home die of an address; 4 is the I/O die. -/
def homeDie (pa : Nat) : Nat :=
  match regionOf pa with
  | .regs | .reserved => 4
  | .device => 0
  | .hbm d _ => d
  | .cxl p _ => p
  | .host _ => pa / 2 ^ 13 % 4

/-- The two stacks of a die in service. -/
def State.stackUp (s : State) (d st : Nat) : Bool := s.idHbm.getLsbD (2 * d + st)

/-- HBM backed behind a die's offset: in reduced service the 128 MiB that the slices of the one die serve
(21 R354), else by the stacks in service (18 R311). -/
def hbmBacked (s : State) (d off : Nat) : Bool :=
  if s.fullService then
    let a := s.stackUp d 0
    let b := s.stackUp d 1
    if a && b then off < 128000000000 else if a || b then off < 64000000000 else false
  else s.idDies.getLsbD d && decide (off < 64 * 0x20_0000)

/-- The HBM stack of an address, by its number in the package, and the address in the stack (18 R311). -/
def State.stackOf (s : State) (pa : Nat) : Option (Nat × Nat) :=
  match regionOf pa with
  | .hbm d off =>
    if s.stackUp d 0 && s.stackUp d 1 then
      some (2 * d + (pa / 2 ^ 13 + pa / 2 ^ 22 + pa / 2 ^ 31) % 2, off / 2 ^ 14 * 2 ^ 13 + off % 2 ^ 13)
    else if s.stackUp d 0 then some (2 * d, off)
    else if s.stackUp d 1 then some (2 * d + 1, off)
    else none
  | _ => none

/-- Links by number: fabric ports 0 to 15, CXL ports 16 to 19, the host's link 20 (21 R351). -/
def cxlLink : Nat := 16
def hostLink : Nat := 20

/-- The live ports that lead toward a node (22 R358). -/
def State.nodePorts (s : State) (n : Nat) : List Nat :=
  (List.range 16).filter fun i => (((sget n s.mgmt.frt).getD 0).setWidth 16 &&& s.idFab).getLsbD i

/-- A node is reachable: a port that leads to it is trained (22 R358). -/
def State.nodeUp (s : State) (n : Nat) : Bool := !(s.nodePorts n).isEmpty

/-- The port by which a request for a line leaves (22 R358). -/
def State.nodePort (s : State) (n pa : Nat) : Nat :=
  let ps := s.nodePorts n
  ps.getD (pa / 2 ^ 7 % 2 ^ 6 % ps.length) 0

/-- Whether an address is backed (18 R313). -/
def backed (s : State) (pa : Nat) : Bool :=
  match regionOf pa with
  | .regs | .device => true
  | .reserved => false
  | .hbm d off => hbmBacked s d off
  | .cxl p off => s.fullService && s.idCxl.getLsbD p && decide (off < Config.cxlUnits p * 2 ^ 28)
  | .host _ => s.fullService && !nsMem hostLink s.linkDown

/-- The slice of its home die that a line belongs to in full service (13 R253). -/
def sliceOf (pa : Nat) : Nat :=
  let f (l n : Nat) := pa / 2 ^ l % 2 ^ n
  ((((((f 7 6 ^^^ f 13 6) ^^^ f 19 6) ^^^ f 25 6) ^^^ f 31 6) ^^^ f 37 6) ^^^ f 43 6) ^^^ f 49 3

/-- The slice that serves an address: in reduced service slice s of the die holds 2 MiB of its HBM (21 R354). -/
def State.sliceAt (s : State) (pa : Nat) : Nat := if s.fullService then sliceOf pa else pa % 2 ^ 37 / 0x20_0000 % 64

/-- The number in the package of the slice that serves an address: die × 64 + slice. -/
def State.homeSlice (s : State) (pa : Nat) : Nat := homeDie pa * 64 + s.sliceAt pa

/-- The physical tile to whose router a slice is attached (13 R253); tile = die × 256 + y × 16 + x (11 R221). -/
def sliceTile (die sl : Nat) : Nat :=
  let c := sl / 4
  let l := sl % 4
  die * 256 + (4 * (c / 4) + 2 * (l / 2)) * 16 + (4 * (c % 4) + 2 * (l % 2))

/-- Hops from a tile to the slice of index `l` in its cluster. -/
def sliceHops (tile l : Nat) : Nat :=
  let d (a b : Nat) := if a ≤ b then b - a else a - b
  d (tile % 4) (2 * (l % 2)) + d (tile % 256 / 16 % 4) (2 * (l / 2))

/-- The slice of the tile's own cluster that is nearest the tile, ties to the lower index (13 R265, R269), by its number in
the package: its victim slice and its walk unit. -/
def nearSlice (tile : Nat) : Nat :=
  let best := (List.range 4).foldl (fun b l => if sliceHops tile l < sliceHops tile b then l else b) 0
  tile / 256 * 64 + (tile % 256 / 64 * 4 + tile % 16 / 4) * 4 + best

/-! ## Error records (21 R351) -/

/-- The entry's layout. -/
def errEntry (cls unit loc ws pa tick info : Nat) : BitVec 256 :=
  BitVec.ofNat 256 (cls % 256 + unit % 8 * 2 ^ 8 + loc % 2 ^ 12 * 2 ^ 12 + ws % 2 ^ 12 * 2 ^ 24
    + pa % 2 ^ 52 * 2 ^ 64 + tick % 2 ^ 64 * 2 ^ 128 + info % 2 ^ 64 * 2 ^ 192)

/-- No workspace is charged. -/
def noWs : Nat := 0xFFF

/-- An entry that nothing has written: WSID resets to 0xFFF, every other field to 0 (21 R351). -/
def errReset : BitVec 256 := errEntry 0 0 0 noWs 0 0 0

/-- An entry written to the ring of a die, 4 being the I/O die. -/
def State.logError (s : State) (d : Nat) (cls unit loc ws pa info : Nat) : State :=
  let n := (s.errWritten.getD d 0).toNat
  { s with
    rings := s.rings.setIfInBounds d (sset (n % 256) (errEntry cls unit loc ws pa s.tick info) (s.rings.getD d []))
    errWritten := s.errWritten.setIfInBounds d (BitVec.ofNat 32 (n + 1)) }

/-- An entry of a ring as it stands (21 R351). -/
def State.ringEntry (s : State) (d i : Nat) : BitVec 256 := (sget i (s.rings.getD d [])).getD errReset

def errUE : Nat := 1
def errEVICT : Nat := 2
def errREGISTRY : Nat := 3
def errNOMEM : Nat := 4
def errLINK : Nat := 5
def errLOST : Nat := 6
def errCE : Nat := 7
def errTHERMAL : Nat := 8

/-- The NOMEM entry of one access to unbacked memory (18 R313). -/
def State.logNomem (s : State) (pa ws : Nat) : State :=
  let d := homeDie pa
  s.logError d errNOMEM (if d = 4 then 4 else 1) (if d = 4 then 0 else s.homeSlice pa) ws (pa / 128 * 128) 0

/-- The entry of an access that performs in several pieces, which it makes once: `id` is the access's number
(18 R313). -/
def State.nomemOnce (s : State) (id pa ws : Nat) : State :=
  if backed s pa || nsMem id s.nomem then s else { s.logNomem pa ws with nomem := nsAdd id s.nomem }

/-! ## The host's part (18 R314 to R316) -/

def sectorOf (pa : Nat) : Nat := pa / 64

/-- The latest bytes of a sector stand with the host: it owns the sector of HBM, or the sector of host memory is not held
by the slice. -/
def State.hostKeeps (s : State) (pa : Nat) : Bool :=
  match regionOf pa with
  | .hbm .. => sget (sectorOf pa) s.hold == some .ho
  | .host _ => (sget (sectorOf pa) s.hostHeld).isNone
  | _ => false

/-- The 64 bytes that the host gives for a sector (log 10). -/
def State.hostBytes (s : State) (pa : Nat) : List Byte := (List.range 64).map fun i => Config.hostByte (pa / 64 * 64 + i) s.fresh

def State.setHold (s : State) (pa : Nat) (h : Option Hold) : State :=
  let rest := s.hold.filter fun e => e.1 != sectorOf pa
  { s with hold := match h with
      | some x => if (sget (sectorOf pa) s.hold).isSome then s.hold.map fun e => if e.1 = sectorOf pa then (e.1, x) else e
                  else rest ++ [(sectorOf pa, x)]
      | none => rest }

def State.setHostSt (s : State) (pa : Nat) (h : Option HostSt) : State :=
  { s with hostHeld := match h with
      | some x => sset (sectorOf pa) x s.hostHeld
      | none => sdel (sectorOf pa) s.hostHeld }

/-- The host's bytes of a sector laid in. -/
def State.laySector (s : State) (pa : Nat) : State :=
  { s with mem := mwrite s.mem (pa / 64 * 64) (s.hostBytes pa), fresh := s.fresh + 1 }

/-- A sector brought to the slice for a read or for a write by an operation that does not wait for the host by itself: host
memory is fetched, or owned (18 R316); of HBM the host's hold is lowered, its bytes laid in first (18 R315). -/
def State.takeSector (s : State) (pa : Nat) (write : Bool) : State :=
  match regionOf pa with
  | .hbm .. =>
    match sget (sectorOf pa) s.hold with
    | some .ho => (s.laySector pa).setHold pa (if write then none else some .hs)
    | some .hs => if write then s.setHold pa none else s
    | none => s
  | .host _ =>
    let s1 := if (sget (sectorOf pa) s.hostHeld).isNone then s.laySector pa else s
    if write || (sget (sectorOf pa) s.hostHeld).isNone then s1.setHostSt pa (some (if write then .owned else .shared)) else s1
  | _ => s

/-- Whether an operation on a sector must wait for the host. -/
def State.hostHolds (s : State) (pa : Nat) (write : Bool) : Bool :=
  match sget (sectorOf pa) s.hold with
  | none => false
  | some .hs => write
  | some .ho => true

/-- A sector waits for the host. -/
def State.biOn (s : State) (sector : Nat) : Bool := nsMem (2 * sector) s.bi || nsMem (2 * sector + 1) s.bi

/-- The back-invalidation of a sector asked for, for a read or for a write. -/
def State.askHost (s : State) (pa : Nat) (write : Bool) : State := { s with bi := nsAdd (2 * sectorOf pa + (if write then 1 else 0)) s.bi }

/-- The sectors that a run of bytes touches, by an address in each. -/
def sectorsOf (pa len : Nat) : List Nat :=
  if len = 0 then [] else (List.range (sectorOf (pa + len - 1) - sectorOf pa + 1)).map fun i => (sectorOf pa + i) * 64

/-! ## Words at a slice -/

/-- The slice's own copy of a word, with what the host keeps of it; unbacked words read poisoned (18 R313). `State.mem` is the
word as its slice holds it, and as memory holds it where no slice does: one of the two is read, never both. -/
def State.sliceWord (s : State) (w : Nat) : WordData :=
  { word := w
    bytes := if s.hostKeeps (8 * w) then (List.range 8).map (fun i => Config.hostByte (8 * w + i) s.fresh) else mread s.mem (8 * w) 8
    poison := nsMem w s.mpoison || !backed s (8 * w) }

/-- The bytes of a word held in an L1 or a cluster unit: those a merging word has not written come from the
slice (13 R255). -/
def State.heldBytes (s : State) (w : Nat) (l : L1Word) : List Byte :=
  match l.merging with
  | none => l.bytes
  | some m => (List.range 8).map fun i => if m.getLsbD i then l.bytes.getD i 0 else (s.sliceWord w).bytes.getD i 0

/-- The poison of a held word: a merging one takes it from the slice (13 R255, 21 R350). -/
def State.heldBad (s : State) (w : Nat) (l : L1Word) : Bool := l.poison || (l.merging.isSome && (s.sliceWord w).poison)

/-- The registrant's copy of a word. -/
def State.holderWord (s : State) (h : Holder) (w : Nat) : Option L1Word :=
  match h with
  | .tile t => sget w (s.tileAt t).l1
  | .cluster _ => sget w s.cu

/-- The latest value of a word: the registrant's, or the slice's (13 R257). -/
def State.latestWord (s : State) (w : Nat) : WordData :=
  match sget w s.reg with
  | none => s.sliceWord w
  | some r =>
    match s.holderWord r.holder w with
    | none => s.sliceWord w
    | some l => { word := w, bytes := s.heldBytes w l, poison := s.heldBad w l }

/-- Poison of a word set or cleared. -/
def State.setPoison (s : State) (w : Nat) (p : Bool) : State :=
  { s with mpoison := if p then nsAdd w s.mpoison else nsDel w s.mpoison }

/-! ## The data arrays of the slices (13 R253) -/

/-- A write-back found a word of a line uncorrectable: it is charged to the line's last writer (13 R267). -/
def State.chargeEvict (s : State) (unit loc tile : Nat) (ws : Wsid) (pa : Nat) : State :=
  let s1 := s.logError (homeDie pa) errEVICT unit loc ws.toNat (pa / 128 * 128) 0
  { s1 with charges := s1.charges ++ [{ ws := ws, tile := tile, pa := pa / 128 * 128 }] }

/-- A helper that no longer holds a line is named by no redirect (13 R264). -/
def Coppice.less (line slice : Nat) (c : Coppice) : Coppice :=
  if c.line == line && c.die == slice / 64 then { c with helpers := c.helpers.filter (· != slice % 64) } else c

/-- A helper tells the home that it has replaced a line: its redirects lapse (13 R264). -/
def State.lapse (s : State) (line slice : Nat) : State :=
  { s with coppice := (s.coppice.map (Coppice.less line slice)).filter fun c => !c.helpers.isEmpty }

/-- A line leaves a slice. A dirty home line is written back to memory, its uncorrectable words poisoned as they are
(13 R267); of a clean one memory's copy stands, without the poison that came up in the slice (13 R253). Its sectors of host
memory are given up, but those with registered words (18 R316). A replica is dropped, with its redirects (13 R264). -/
def State.dropL2 (s : State) (e : L2Line) : State :=
  let s1 := { s with l2 := s.l2.filter (· != e) }
  if e.copy.isSome then s1.lapse e.line e.slice
  else
    let bad := (List.range 16).any fun i => nsMem (16 * e.line + i) s1.mpoison
    let s2 := match e.dirty with
      | some ws => if bad then s1.chargeEvict 1 e.slice (sliceTile (e.slice / 64) (e.slice % 64)) ws (128 * e.line) else s1
      | none => { s1 with mpoison := s1.mpoison.filter fun w => !(w / 16 == e.line && nsMem w s1.l2Bad) }
    { s2 with
      l2Bad := s2.l2Bad.filter (· / 16 != e.line)
      hostHeld := s2.hostHeld.filter fun h => h.1 / 2 != e.line || s2.reg.any fun r => r.1 / 8 == h.1 }

def l2Sets : Nat := 1024
def l2Ways : Nat := 16

/-- A line enters a slice; where its set is full, the line longest there makes room (log 8). -/
def State.allocL2 (s : State) (e : L2Line) : State :=
  let same := s.l2.filter fun o => o.slice == e.slice && o.line % l2Sets == e.line % l2Sets
  let s1 := if same.length < l2Ways then s else match same with
    | v :: _ => s.dropL2 v
    | [] => s
  { s1 with l2 := s1.l2 ++ [e] }

/-- The home slice holds a line. -/
def State.l2Has (s : State) (line : Nat) : Bool := s.l2.any fun e => e.line == line && e.copy.isNone

/-- An operation at the home slice on the data of a line, which the slice fetches and allocates where it does not hold it
(13 R253). The I/O die's ranges have no home slice (18 R311); in reduced service the slices are the memory (21 R354). -/
def State.touchLine (s : State) (pa : Nat) : State :=
  if !s.fullService || homeDie pa == 4 || regionOf pa == .device || !backed s pa || s.l2Has (pa / 128) then s
  else s.allocL2 { slice := s.homeSlice pa, line := pa / 128, dirty := none, copy := none }

/-- A line is dirty, and its last writer noted (13 R253, R261). -/
def State.markDirty (s : State) (line : Nat) (ws : Wsid) : State :=
  { s with l2 := s.l2.map fun e => if e.line = line && e.copy.isNone then { e with dirty := some ws } else e }

/-- Writes have an effect: backed memory, and not register space, whose writes by agents are dropped (18 R311). -/
def writable (s : State) (pa : Nat) : Bool := regionOf pa != .regs && backed s pa

/-- Bytes written into a word at the slice: a whole-word write clears its poison (21 R350), the line is dirty and
its last writer noted (13 R253). -/
def State.putWord (s : State) (w : Nat) (cells : List (Nat × Byte)) (ws : Wsid) : State :=
  if writable s (8 * w) then
    let m := cells.foldl (fun m c => mset m (8 * w + c.1) c.2) s.mem
    (({ s with mem := m, mpoison := if cells.length = 8 then nsDel w s.mpoison else s.mpoison }).touchLine (8 * w)).markDirty (w / 16) ws
  else s

/-- The cells of a whole word. -/
def wordCells (bytes : List Byte) : List (Nat × Byte) := (List.range 8).zip bytes

/-! ## The registry (13 R260, R261) -/

/-- Registrants of the words of a line. -/
def State.lineRegs (s : State) (line : Nat) : List Registrant :=
  s.reg.filterMap fun e => if e.1 / 16 = line then some e.2 else none

/-- Two words of a line have different registrants: its registry entry overflows into the side table. -/
def State.overflowed (s : State) (line : Nat) : Bool :=
  match s.lineRegs line with
  | [] => false
  | r :: q => q.any fun o => o.holder != r.holder

/-- A line's entry after a change of its words: freed with the last of them, folded back where one registrant remains. -/
def State.foldReg (s : State) (line : Nat) : State :=
  { s with
    regLines := if (s.lineRegs line).isEmpty then s.regLines.filter (· != line) else s.regLines
    regOver := if s.overflowed line then s.regOver else s.regOver.filter (· != line) }

/-- A word without a registrant. -/
def State.unregister (s : State) (w : Nat) : State := { s with reg := sdel w s.reg }.foldReg (w / 16)

/-- A word registered: its line is the most recently registered one, and its entry may overflow or fold back. -/
def State.enroll (s : State) (w : Nat) (r : Registrant) : State :=
  let line := w / 16
  let s1 := { s with reg := sset w r s.reg, regLines := s.regLines.filter (· != line) ++ [line] }
  if s1.overflowed line && !s1.regOver.contains line then { s1 with regOver := s1.regOver ++ [line] } else s1.foldReg line

/-- The physical tile of a holder: of a cluster unit, the first tile of its cluster (log 70). -/
def holderTile : Holder → Nat
  | .tile t => t
  | .cluster c => c / 16 * 256 + c % 16 / 4 * 64 + c % 4 * 4

/-- A registered word returned to the slice: data, poison and last writer (13 R261); an uncorrectable word is
written poisoned and charged (13 R267). -/
def State.writeBackWord (s : State) (w : Nat) (l : L1Word) (h : Holder) : State :=
  let s1 := s.putWord w (wordCells (s.heldBytes w l)) l.ws
  if s.heldBad w l then (s1.setPoison w true).chargeEvict 0 (holderTile h) (holderTile h) l.ws (8 * w) else s1

/-- The acknowledgement of a registration that has been revoked since brings no bytes to the word (13 R255). -/
def Flight.ackLate (tile w : Nat) : Flight → Flight
  | .ack src (some d) => .ack src (if src.tile = tile && d.word = w then none else some d)
  | x => x

/-- The word dropped from its holder. -/
def State.dropHeld (s : State) (h : Holder) (w : Nat) : State :=
  match h with
  | .tile t =>
    { s.setTile t { s.tileAt t with l1 := sdel w (s.tileAt t).l1 } with flights := s.flights.map (Flight.ackLate t w) }
  | .cluster _ => { s with cu := sdel w s.cu }

/-- The registrant of a word, if any, returns it and makes it Invalid (13 R255, R261). -/
def State.revoke (s : State) (w : Nat) : State :=
  match sget w s.reg with
  | none => s
  | some r =>
    let s1 := match s.holderWord r.holder w with
      | some l => (s.writeBackWord w l r.holder).dropHeld r.holder w
      | none => s
    s1.unregister w

/-- Every word of a line revoked, which frees its entry (13 R260). -/
def State.recallLine (s : State) (line : Nat) : State := ((List.range 16).map (line * 16 + ·)).foldl State.revoke s

def regSets : Nat := 4096
def regWays : Nat := 8
def sideSlots : Nat := 8192

/-- Side-table entries in use at a slice: one for each registered word of an overflowed line. -/
def State.sideUse (s : State) (slice : Nat) : Nat :=
  ((s.regOver.filter fun l => s.homeSlice (128 * l) == slice).map fun l => (s.lineRegs l).length).sum

/-- A new entry finds its registry set full: the least recently registered line of the set is recalled (13 R260). -/
def State.setRoom (s : State) (line : Nat) : State :=
  if s.regLines.contains line then s
  else
    let set := s.regLines.filter fun l => s.homeSlice (128 * l) == s.homeSlice (128 * line) && l % regSets == line % regSets
    if set.length < regWays then s else match set with
      | v :: _ => s.recallLine v
      | [] => s

/-- The side table has no room for what a registration adds to it: the oldest overflowed line is recalled, until there is
room (13 R260). `fuel` bounds the recalls: each frees two entries or more, and a line takes sixteen at most. -/
def State.sideRoom (s : State) (w : Nat) (r : Registrant) : Nat → State
  | 0 => s
  | fuel + 1 =>
    let after := s.enroll w r
    if after.sideUse (s.homeSlice (8 * w)) ≤ sideSlots then s
    else match s.regOver.filter fun l => s.homeSlice (128 * l) == s.homeSlice (8 * w) with
      | v :: _ => (s.recallLine v).sideRoom w r fuel
      | [] => s

/-- A word registered, with room made for its entry (13 R260). -/
def State.register (s : State) (w : Nat) (r : Registrant) : State := ((s.setRoom (w / 16)).sideRoom w r 16).enroll w r

/-! ## Words in an L1 -/

/-- The cells of an L1 word that its stores have written, or all of them where it was whole. -/
def L1Word.cells (l : L1Word) : List (Nat × Byte) :=
  (wordCells l.bytes).filter fun c => l.merging.all fun m => m.getLsbD c.1

/-- A word whose registration is still on its way leaves its L1: the first store on its way to it carries the bytes to the
slice in place of the registration. -/
def carryBytes (tile w : Nat) (l : L1Word) : List Flight → List Flight
  | [] => []
  | .regist src sid w' :: r =>
    if src.tile = tile && w' = w then .wdata src sid w l.cells l.poison :: r else .regist src sid w' :: carryBytes tile w l r
  | f :: r => f :: carryBytes tile w l r

/-- A line is present while one of its words is not Invalid (13 R254). -/
def Tile.linePresent (t : Tile) (line : Nat) : Bool := t.l1.any fun e => e.1 / 16 == line

def Tile.l1Lines (t : Tile) : List Nat := (t.l1.map fun e => e.1 / 16).dedup

/-- The Registered words among the words that `p` names written back, and every one of these made Invalid (13 R261). A word
whose registration is still on its way is not yet the tile's at the slice: its bytes travel in the registration's place. -/
def State.evictWords (s : State) (tile : Nat) (p : Nat → Bool) : State :=
  let ws := ((s.tileAt tile).l1.filter fun e => p e.1)
  let s1 := ws.foldl (fun s e =>
    if e.2.st = .registered then
      if (sget e.1 s.reg).any (·.holder == .tile tile) then
        let s2 := (s.writeBackWord e.1 e.2 (.tile tile)).unregister e.1
        { s2 with flights := s2.flights.map (Flight.ackLate tile e.1) }
      else { s with flights := carryBytes tile e.1 e.2 s.flights }
    else s) s
  s1.setTile tile { s1.tileAt tile with l1 := (s1.tileAt tile).l1.filter fun e => !p e.1 }

/-- A line written back and made Invalid. -/
def State.evictLine (s : State) (tile line : Nat) : State := s.evictWords tile fun w => w / 16 == line

/-! ## Read-only lines (13 R263 to R265) -/

/-- A copy of a sealed line put into a slice; words it holds already are replaced. -/
def State.putCopy (s : State) (slice line : Nat) (ws : List WordData) : State :=
  match s.l2.find? fun e => e.slice == slice && e.line == line && e.copy.isSome with
  | some e =>
    let old := (e.copy.getD []).filter fun o => !ws.any fun n => n.word == o.word
    { s with l2 := s.l2.map fun o => if o = e then { e with copy := some (old ++ ws) } else o }
  | none => s.allocL2 { slice := slice, line := line, dirty := none, copy := some ws }

/-- The words of a line that a slice holds as a copy. -/
def State.copyAt (s : State) (slice line : Nat) : List WordData :=
  ((s.l2.find? fun e => e.slice == slice && e.line == line && e.copy.isSome).bind (·.copy)).getD []

/-- The line is homed on another die than the tile's. -/
def farLine (tile line : Nat) : Bool := homeDie (128 * line) < 4 && homeDie (128 * line) != tile / 256

/-- An L1 line replaced: the Valid words of a sealed line from another die are kept in the slice nearest the tile
(13 R265). -/
def State.replaceLine (s : State) (tile line : Nat) : State :=
  let kept := (s.tileAt tile).l1.filterMap fun e =>
    if e.1 / 16 = line && e.2.sealed && e.2.st = .valid then some ({ word := e.1, bytes := e.2.bytes, poison := e.2.poison } : WordData)
    else none
  let s1 := if farLine tile line && !kept.isEmpty && s.fullService then s.putCopy (nearSlice tile) line kept else s
  s1.evictLine tile line

/-- Room for a line in its set of eight (06 R133); the line replaced is the first of the set (log 8). -/
def State.makeRoom (s : State) (tile line : Nat) : State :=
  let t := s.tileAt tile
  if t.linePresent line then s
  else
    let same := t.l1Lines.filter fun l => l % 64 == line % 64
    if same.length < 8 then s else match same with
      | v :: _ => s.replaceLine tile v
      | [] => s

/-- The helper slice that serves a replicated line in a tile's quadrant of 8 × 8 tiles, as the redirect entry of the tile's
interface names it; none where the entry names the home, and where there is no entry (13 R264). -/
def State.redirectOf (s : State) (tile line : Nat) : Option Nat :=
  match s.coppice.find? fun c => c.line == line && c.die == tile / 256 with
  | some c =>
    let quad (t : Nat) := (t % 16 / 8, t % 256 / 16 / 8)
    (c.helpers.find? fun h => quad (sliceTile c.die h) == quad tile).map fun h => c.die * 64 + h
  | none => none

/-- Words of a sealed line on their way toward an L1. -/
def Flight.sealedOf (line : Nat) : Flight → Bool
  | .fwd _ _ _ pa _ k sl .. | .data _ _ _ pa _ k sl .. => sl && k.isSome && pa / 128 == line
  | _ => false

/-- What a write at the home slice of a line has to remove: replicas, redirects, words of the line held as sealed or on their way. -/
def State.sealedTrace (s : State) (line : Nat) : Bool :=
  s.l2.any (fun e => e.line == line && e.copy.isSome) || s.coppice.any (fun c => c.line == line)
  || s.flights.any (Flight.sealedOf line)
  || s.tiles.any fun e => e.2.l1.any fun x => x.1 / 16 == line && x.2.sealed

/-- Words of a line that are on their way toward an L1 and that `p` names are not kept there: those that a slice or a registrant
has sent already. What is still to be read is newer. -/
def Flight.unkeep (p : Src → Bool → Nat → Bool) : Flight → Flight
  | .fwd src tag pos pa len k sl g need =>
    .fwd src tag pos pa len (k.map (addWords (fun w => p src sl w && !need.contains w) (pa / 128))) sl g need
  | .data src tag pos pa len k sl g => .data src tag pos pa len (k.map (addWords (p src sl) (pa / 128))) sl g
  | x => x
where
  addWords (p : Nat → Bool) (line : Nat) (k : NatSet) : NatSet :=
    (((List.range 16).map (line * 16 + ·)).filter p).foldl (fun k w => nsAdd w k) k

/-- A write reaches the home slice of a sealed line through a writable mapping: every replica and redirect is removed and
every L1 on the die makes the line's words Invalid, but for the word that the writer `keep` itself has written (13 R263; L1s
of other dies: log 25). -/
def State.unseal (s : State) (w : Nat) (keep : Option Nat) : State :=
  let line := w / 16
  if !s.sealedTrace line then s
  else
    let die := homeDie (8 * w)
    let s1 := { s with
      l2 := s.l2.filter fun e => !(e.line == line && e.copy.isSome)
      coppice := s.coppice.filter fun c => c.line != line
      hot := s.hot.filter fun h => h.line != line
      flights := s.flights.map (Flight.unkeep fun src _ x => src.tile / 256 == die && x / 16 == line) }
    ((s1.tiles.map (·.1)).filter (· / 256 == die)).foldl
      (fun s t => s.evictWords t fun x => x / 16 == line && !(x == w && keep == some t)) s1

/-- Bytes written at the slice: the registrant is revoked first (13 R255), and of a sealed line every copy is removed
before the write (13 R263). -/
def State.sliceWrite (s : State) (w : Nat) (cells : List (Nat × Byte)) (ws : Wsid) : State :=
  ((s.revoke w).unseal w none).putWord w cells ws

/-! ## Runs of bytes -/

/-- The cells of a run of bytes at a physical address, word by word, over `n` words from `w`. -/
def cellsIn (pa : Nat) (bytes : List Byte) (w : Nat) : List (Nat × Byte) :=
  (List.range 8).filterMap fun i =>
    let a := 8 * w + i
    if pa ≤ a && a < pa + bytes.length then (bytes[a - pa]?).map fun b => (i, b) else none

/-- The words that `len` bytes at `pa` touch. -/
def wordsOf (pa len : Nat) : List Nat :=
  if len = 0 then [] else (List.range ((pa + len - 1) / 8 - pa / 8 + 1)).map (pa / 8 + ·)

/-- The first unbacked word of a run has its NOMEM entry, one for the run (18 R313). -/
def State.noteNomem (s : State) (pa len ws : Nat) : State :=
  match (wordsOf pa len).find? fun w => !backed s (8 * w) with
  | some w => s.logNomem (8 * w) ws
  | none => s

/-- A run of bytes written at the slices; the unbacked ones are dropped. -/
def State.writeRun (s : State) (pa : Nat) (bytes : List Byte) (ws : Wsid) : State :=
  (wordsOf pa bytes.length).foldl (fun s w => s.sliceWrite w (cellsIn pa bytes w) ws) s

/-- The entry of an access of several runs: one, for the first run with an unbacked word (18 R313). -/
def State.nomemRuns (s : State) (l : List (Nat × Nat)) (ws : Nat) : State :=
  match l.find? fun c => (wordsOf c.1 c.2).any fun w => !backed s (8 * w) with
  | some c => s.noteNomem c.1 c.2 ws
  | none => s

/-- A run of bytes written at the slices, which takes its sectors from the host first. -/
def State.putRun (s : State) (pa : Nat) (bytes : List Byte) (ws : Wsid) : State :=
  ((sectorsOf pa bytes.length).foldl (fun s a => s.takeSector a true) s).writeRun pa bytes ws

/-- A run of bytes written at the slices as one access. -/
def State.writeAt (s : State) (pa : Nat) (bytes : List Byte) (ws : Wsid) : State :=
  (s.putRun pa bytes ws).noteNomem pa bytes.length ws.toNat

/-- What a read of runs as one access does at the slices: lines are taken, their sectors fetched or taken back from the host,
and an unbacked word has its entry (13 R253, 18 R313, R315, R316). -/
def State.seeRuns (s : State) (l : List (Nat × Nat)) (ws : Nat) : State :=
  ((l.flatMap fun c => sectorsOf c.1 c.2).foldl (fun s a => (s.touchLine a).takeSector a false) s).nomemRuns l ws

/-- The latest bytes of a run, and whether any of its words is poisoned. -/
def State.readAt (s : State) (pa len : Nat) : List Byte × Bool :=
  let ws := (wordsOf pa len).map s.latestWord
  let all := ws.flatMap (·.bytes)
  ((all.drop (pa % 8)).take len, ws.any (·.poison))

/-- The latest little-endian value of `n` bytes. -/
def State.natAt (s : State) (pa n : Nat) : Nat := leNat (s.readAt pa n).1

/-- A number written as `n` little-endian bytes. -/
def State.putNat (s : State) (pa n v : Nat) (ws : Wsid) : State := s.writeAt pa (leBytes v n) ws

/-! ## Self-invalidation and cleaning (13 R258, R262) -/

/-- Self-invalidation: every Valid word becomes Invalid, Registered words and words of sealed lines are spared;
what is in flight toward the L1 is no longer kept (13 R258). -/
def State.selfInvalidate (s : State) (tile : Nat) : State :=
  let t := s.tileAt tile
  let s1 := s.setTile tile { t with l1 := t.l1.filter fun e => e.2.st == .registered || e.2.sealed }
  { s1 with flights := s1.flights.map (Flight.unkeep fun src sl _ => src.tile == tile && !sl) }

/-- Cleaning of an L1: every Registered word written back, every word Invalid, and a LEAVE sent (13 R262). -/
def State.cleanL1 (s : State) (tile : Nat) : State :=
  let s1 := (s.tileAt tile).l1Lines.foldl (fun s l => s.evictLine tile l) s
  { s1 with flights := s1.flights ++ [.leave tile] }

/-! ## Page tables (13 R268) -/

/-- A leaf translation. -/
structure Leaf where
  base : Nat
  size : Nat
  pa : Nat
  r : Bool
  w : Bool
  x : Bool
  sealed : Bool
  deriving DecidableEq, Repr

def pteBit (e n : Nat) : Bool := e / 2 ^ n % 2 == 1
def ptePa (e : Nat) : Nat := e / 2 ^ 12 % 2 ^ 40 * 2 ^ 12

/-- Well-formed entries, by level (13 R268). -/
def pteOk (e level : Nat) : Bool :=
  let leaf := pteBit e 4
  pteBit e 0 && e / 2 ^ 7 % 2 ^ 5 == 0 && e / 2 ^ 52 == 0 && !(pteBit e 2 && !pteBit e 1)
  && (if level = 3 then !leaf else if level = 0 then leaf else true)
  && !(pteBit e 5 && level != 0) && !(pteBit e 6 && !leaf)
  && !(leaf && level == 2 && ptePa e % 2 ^ 30 != 0) && !(leaf && level == 1 && ptePa e % 2 ^ 21 != 0)

def pteLeaf (e va size : Nat) : Leaf :=
  { base := va / size * size, size := size, pa := ptePa e / size * size,
    r := pteBit e 1, w := pteBit e 2, x := pteBit e 3, sealed := pteBit e 6 }

/-- Whether a level-0 entry belongs to a 64 KiB page: sixteen entries with C, equal permissions and SEAL, and
consecutive frames from a 64 KiB boundary. -/
def State.group64 (s : State) (table va : Nat) : Bool :=
  let i0 := va / 2 ^ 16 % 32 * 16
  let e0 := s.natAt (table + 8 * i0) 8
  ptePa e0 % 2 ^ 16 == 0 &&
  (List.range 16).all fun i =>
    let e := s.natAt (table + 8 * (i0 + i)) 8
    pteOk e 0 && pteBit e 5 && e % 2 ^ 7 == e0 % 2 ^ 7 && ptePa e == ptePa e0 + i * 4096

/-- The walk from a table at a level down; `fuel` is the level (13 R268). -/
def State.walkFrom (s : State) (va : Nat) : Nat → Nat → Option Leaf
  | 0, table =>
    let e := s.natAt (table + 8 * (va / 2 ^ 12 % 512)) 8
    if pteOk e 0 then
      if pteBit e 5 && s.group64 table va then
        some { pteLeaf e va 65536 with pa := ptePa e / 65536 * 65536 }
      else some (pteLeaf e va 4096)
    else none
  | l + 1, table =>
    let idx := if l + 1 = 3 then va / 2 ^ 39 % 2 ^ 17 else va / 2 ^ (12 + 9 * (l + 1)) % 512
    let e := s.natAt (table + 8 * idx) 8
    if pteOk e (l + 1) then
      if pteBit e 4 then some (pteLeaf e va (2 ^ (12 + 9 * (l + 1)))) else s.walkFrom va l (ptePa e)
    else none

end Sys2Proof.Machine
end

