-- ==== Sys2Proof/Machine/TileStore.lean ====
section
/-! DEFINITION. The tile store (06 R130, R131) with the range rule of the tile window (01 R25), and the weirs
that live in it (09 R185, R186). -/

namespace Sys2Proof.Machine

/-- Bytes of the tile store, 1.5 MiB (06 R130). -/
def storeSize : Nat := 0x180000

/-- A byte of the tile store; out of range reads zero (01 R25). -/
def Tile.byte (t : Tile) (off : Nat) : Byte := if off < storeSize then mget t.store off else 0

def Tile.bytes (t : Tile) (off n : Nat) : List Byte := (List.range n).map fun i => t.byte (off + i)

/-- Whether a word the bytes touch is poisoned. -/
def Tile.poisoned (t : Tile) (off n : Nat) : Bool := (wordsOf off n).any fun w => nsMem w t.poison

/-- Cells written: those out of range are dropped (01 R25); a whole word written clears its poison (06 R131). -/
def Tile.writeCells (t : Tile) (cells : List (Nat × Byte)) : Tile :=
  let cs := cells.filter fun c => c.1 < storeSize
  let whole (w : Nat) := (List.range 8).all fun i => cs.any fun c => c.1 == 8 * w + i
  { t with store := cs.foldl (fun m c => mset m c.1 c.2) t.store, poison := t.poison.filter fun w => !whole w }

def Tile.writeBytes (t : Tile) (off : Nat) (bs : List Byte) : Tile :=
  t.writeCells ((List.range bs.length).zip bs |>.map fun c => (off + c.1, c.2))

def Tile.natAt (t : Tile) (off n : Nat) : Nat := leNat (t.bytes off n)
def Tile.putNat (t : Tile) (off n v : Nat) : Tile := t.writeBytes off (leBytes v n)

/-- The lowest out-of-range byte among offsets (01 R25). -/
def firstOut (offs : List Nat) : Option Nat :=
  offs.foldl (fun acc o => if o < storeSize then acc else match acc with
    | none => some o
    | some a => some (min a o)) none

/-- The argument area (06 R132). -/
def argBase : Nat := 0x17FF00

/-! ## Weirs (09 R185, R186) -/

/-- The fields of a weir. -/
structure Weir where
  expa : Nat
  arra : Nat
  phase : Bool
  gen : Nat
  carry : Bool
  excess : Bool
  bsat : Bool
  zero : Bool
  spare : Nat
  depart : Nat
  expb : Nat
  arrb : Nat
  deriving DecidableEq, Repr

def Weir.ofWords (a b : Nat) : Weir :=
  let f (l n : Nat) := a / 2 ^ l % 2 ^ n
  { expa := f 0 16, arra := f 16 16, phase := f 32 1 == 1, gen := f 33 15, carry := f 48 1 == 1,
    excess := f 49 1 == 1, bsat := f 50 1 == 1, zero := f 51 1 == 1, spare := f 52 4, depart := f 56 8,
    expb := b % 2 ^ 32, arrb := b / 2 ^ 32 % 2 ^ 32 }

def Weir.w0 (w : Weir) : Nat :=
  let b (x : Bool) (n : Nat) := if x then 2 ^ n else 0
  w.expa + w.arra * 2 ^ 16 + b w.phase 32 + w.gen * 2 ^ 33 + b w.carry 48 + b w.excess 49 + b w.bsat 50 + b w.zero 51
    + w.spare * 2 ^ 52 + w.depart * 2 ^ 56

def Weir.w1 (w : Weir) : Nat := w.expb + w.arrb * 2 ^ 32

/-- SatAdd32, which sets BSAT when it clamps. -/
def satAdd32 (a n : Nat) : Nat × Bool := if a + n < 2 ^ 32 then (a + n, false) else (2 ^ 32 - 1, true)

/-- The events of a weir. -/
inductive WeirEvent
  | thread (n : Nat)
  | bytes (n : Nat)
  /-- A departure, with an arrival or alone. -/
  | depart (arrive : Bool)
  deriving DecidableEq, Repr

def Weir.addBytes (w : Weir) (n : Nat) : Weir :=
  let (v, sat) := satAdd32 w.arrb n
  { w with arrb := v, bsat := w.bsat || sat }

/-- A thread arrival: the weir and whether it was counted. -/
def Weir.arrive (w : Weir) (n : Nat) : Weir × Bool :=
  let w := w.addBytes n
  if w.arra < w.expa then ({ w with arra := w.arra + 1 }, true) else ({ w with excess := true }, false)

def Weir.addDepart (w : Weir) : Weir := if w.depart < 255 then { w with depart := w.depart + 1 } else { w with excess := true }

/-- Step 1 of R186: the event applied, and whether it counted. -/
def Weir.event (w : Weir) : WeirEvent → Weir × Bool
  | .thread n => w.arrive n
  | .bytes n => (w.addBytes n, true)
  | .depart true =>
    let (w, counted) := w.arrive 0
    if counted then (w.addDepart, true) else (w, false)
  | .depart false => (if w.expa = 0 then { w with excess := true } else w.addDepart, false)

/-- Step 2 of R186: the completion. -/
def Weir.complete (w : Weir) : Weir :=
  let arrb := w.arrb - w.expb
  let expa := w.expa - w.depart
  { w with arrb := arrb, carry := arrb != 0, expb := 0, arra := 0, expa := expa, depart := 0, zero := expa == 0,
           phase := !w.phase, gen := (w.gen + 1) % 2 ^ 15 }

/-- Steps 1 and 2 of R186. -/
def Weir.apply (w : Weir) (e : WeirEvent) : Weir :=
  let (w, counted) := w.event e
  if counted && w.arra == w.expa && decide (w.expb ≤ w.arrb) then w.complete else w

/-- Step 3 of R186: the expectation, and the credit word of R187. -/
def Weir.expect (w : Weir) (m : Nat) : Weir × Word :=
  let (v, sat) := satAdd32 w.expb m
  let w := { w with expb := v, bsat := w.bsat || sat }
  (w, BitVec.ofNat 64 ((if w.phase then 1 else 0) + w.gen * 2 + w.expb * 2 ^ 32))

def Tile.weir (t : Tile) (off : Nat) : Weir := .ofWords (t.natAt off 8) (t.natAt (off + 8) 8)
/-- A weir replaced by a bank operation, which is no write of a whole word: poison stays (06 R131). -/
def Tile.setWeir (t : Tile) (off : Nat) (w : Weir) : Tile := { t.putNat off 16 (w.w0 + w.w1 * 2 ^ 64) with poison := t.poison }

/-- The 16-byte places of the store whose word 0 has PHASE set: any of them may be a weir, and a plain store changes its phase like
an event (09 R185, R187, log 23). -/
def Tile.phases (t : Tile) : NatSet := (t.store.filter fun c => c.1 % 16 == 4 && c.2.getLsbD 0).map (·.1 / 16)

/-- Contexts at a WFI are released by an event of R117. -/
def Context.wakeWfi (c : Context) : Context :=
  match c.st with
  | .waiting (.wfi _) => { c with st := .ready, released := true }
  | _ => c

def Tile.wakeWfi (t : Tile) : Tile := { t with ctx := t.ctx.map Context.wakeWfi }

/-- A weir replaced; a phase change of any weir releases a WFI (05 R117). -/
def Tile.putWeir (t : Tile) (off : Nat) (w : Weir) : Tile :=
  let t1 := t.setWeir off w
  if w.phase != (t.weir off).phase then t1.wakeWfi else t1

/-- A weir event at an offset; an out-of-range weir drops it (09 R187, 01 R25). -/
def Tile.weirEvent (t : Tile) (off : Nat) (e : WeirEvent) : Tile :=
  if off + 16 ≤ storeSize then t.putWeir off ((t.weir off).apply e) else t

/-- A departure by a strand whose join entry says whether it arrived, and in which generation (09 R189). -/
def Tile.departure (t : Tile) (off : Nat) (arr : Bool) (gen : Nat) : Tile :=
  t.weirEvent off (.depart (!(arr && gen == (t.weir off).gen)))

end Sys2Proof.Machine
end

