-- ==== Sys2Proof/Machine/Engine.lean ====
section
/-! DEFINITION. What the device's engines use: the workspace table (05 R112), the region tables (11 R239), virtual addresses read and written
by an engine (13 R268, R270), the fault record (21 R352). -/

namespace Sys2Proof.Machine

/-! ## The workspace table (05 R111, R112) -/

/-- The address of a word of a workspace's entry (05 R112). -/
def State.wsAddr (s : State) (ws i : Nat) : Nat := s.mgmt.wstBase.toNat + 256 * (ws % 4096) + 8 * i

/-- A word of a workspace's entry, read in place (05 R112). -/
def State.wsWord (s : State) (ws i : Nat) : Word := BitVec.ofNat 64 (s.natAt (s.wsAddr ws i) 8)
def State.setWsWord (s : State) (ws i : Nat) (v : Word) : State := s.putNat (s.wsAddr ws i) 8 v.toNat (BitVec.ofNat 12 noWs)

def wFQ : Nat := 0
def wHPC : Nat := 1
def wHPRIO : Nat := 2
def wSPOOL : Nat := 3
def wTTBASE : Nat := 4
def wPTROOT : Nat := 7
def wDTBASE : Nat := 8
def wFRBASE : Nat := 9
def wFMBASE : Nat := 10
def wSWBASE : Nat := 11
def wSWCTL : Nat := 12
def wEVCOUNT : Nat := 13
def wWSCTL : Nat := 14

/-- Workspaces whose entry holds a byte that is not its reset value: no other one exists or has a region. -/
def State.listedWs (s : State) : List Nat :=
  let base := s.mgmt.wstBase.toNat
  ((s.mem.filter fun c => base ≤ c.1 && c.1 < base + 2 ^ 20).map fun c => (c.1 - base) / 256).dedup

/-- The workspace exists (05 R112). -/
def State.wsValid (s : State) (ws : Nat) : Bool := (s.wsWord ws wWSCTL).getLsbD 0

/-! ## Store-window regions (11 R239, R240) -/

/-- Bytes of a page of a store-window region. -/
def pageSize : Nat := 0x1_0000

structure Rgn where
  ows : Nat
  rid : Nat
  die : Nat
  npages : Nat
  nltid : Nat
  back : Nat
  pgtab : Nat
  grants : Nat
  /-- Address of the descriptor. -/
  desc : Nat
  deriving DecidableEq, Repr

/-- The descriptor of region `rid` in a workspace's table. -/
def State.rgnOf (s : State) (ws rid : Nat) : Option Rgn :=
  let base := (s.wsWord ws wSWBASE).toNat
  if base = 0 || 2 ^ min ((s.wsWord ws wSWCTL).toNat % 32) 16 ≤ rid then none
  else
    let a := base + 64 * rid
    let d := s.natAt a 64
    if nbit d 0 1 = 0 then none
    else some { ows := ws, rid := rid, die := nbit d 1 2, npages := nbit d 3 16, nltid := nbit d 19 12,
                back := nbit d 32 52, pgtab := nbit d 192 52, grants := nbit d 128 64, desc := a }

/-! ## Virtual addresses of an engine -/

def trILLEGAL : Byte := 0x01
def trFETCH_FAULT : Byte := 0x02
def trSTORE_END : Byte := 0x03
def trACCESS_FAULT : Byte := 0x04
def trPAGE_FAULT : Byte := 0x05
def trPERM_FAULT : Byte := 0x06
def trMISALIGNED : Byte := 0x07
def trRANGE_LOCKED : Byte := 0x08
def trPOISON : Byte := 0x09
def trECALL : Byte := 0x0A
def trEBREAK : Byte := 0x0B
def trBAD_RECORD : Byte := 0x0C
def trSPILL_OVERFLOW : Byte := 0x0D
def trSPILL_EMPTY : Byte := 0x0E
def trFORMAT_PAIR : Byte := 0x10
def trSLOT_VIOLATION : Byte := 0x11
def trDELIVERY_FAULT : Byte := 0x12

/-- First address past global memory (01 R24). -/
def globalEnd : Nat := 2 ^ 56

/-- The device's own storage, the same at its virtual and its physical addresses: reserve frames, then the records that the
scheduler builds (01 R9, 05 R106, log 6). -/
def devBase : Nat := 0xF0_0000_0000_0000
def isDev (va : Nat) : Bool := va / 2 ^ 48 == 0xF0
def devRecords : Nat := devBase + 2 ^ 40
/-- Bytes of a frame of the steward's reserve. -/
def reserveSize : Nat := 327680

/-- The record, or the reserve frame in use, that holds a byte of the device's storage is the workspace's. -/
def State.ownsDev (s : State) (ws va : Nat) : Bool :=
  if devRecords ≤ va then ((sget (va / 64 * 64) s.strands).map (·.ws.toNat)) == some ws
  else ((sget ((va - devBase) / reserveSize) s.framesUsed).map (·.toNat)) == some ws

/-- A byte of the device's storage that is the workspace's, where the tables map nothing (log 6). -/
def State.devLeaf (s : State) (ws va : Nat) : Option Leaf :=
  if isDev va && s.ownsDev ws va then some { base := va, size := 1, pa := va, r := true, w := true, x := false, sealed := false }
  else none

/-- The leaf of a virtual address in a workspace's tables (13 R268); where they map nothing, the workspace's own records and
reserve frames are at hand (log 6). -/
def State.leafOf (s : State) (ws va : Nat) : Option Leaf :=
  let root := (s.wsWord ws wPTROOT).toNat % 2 ^ 52
  (if root = 0 then none else s.walkFrom va 3 root).or (s.devLeaf ws va)

/-- The index of a table entry at a level (13 R268). -/
def pteIndex (level va : Nat) : Nat := if level = 3 then va / 2 ^ 39 % 2 ^ 17 else va / 2 ^ (12 + 9 * level) % 512

/-- The address of the entry of a level of a page, where the tables above it stand. -/
def State.pteAddr (s : State) (ws va level : Nat) : Option Nat :=
  let root := (s.wsWord ws wPTROOT).toNat % 2 ^ 52
  if root = 0 then none
  else
    let down (l table : Nat) : Option Nat :=
      let e := s.natAt (table + 8 * pteIndex l va) 8
      if pteOk e l && !pteBit e 4 then some (ptePa e) else none
    (((List.range 3).map (3 - ·)).foldl (fun (t : Option Nat) l => if level < l then t.bind (down l) else t) (some root)).map
      fun t => t + 8 * pteIndex level va

/-- The NOMEM entry of a walk that meets absent memory (18 R313). -/
def State.walkNomem (s : State) (ws va : Nat) : State :=
  match ((List.range 4).filterMap fun i => s.pteAddr ws va (3 - i)).find? fun pa => !backed s pa with
  | some pa => s.noteNomem pa 8 ws
  | none => s

/-- Where the fabric map puts an address (22 R359). -/
inductive FabPlace | here | node (n : Nat) | fault
  deriving DecidableEq, Repr

/-- The address of the map's byte for an address. -/
def State.fabByte (s : State) (ws va : Nat) : Nat := (s.wsWord ws wFMBASE).toNat + va / 2 ^ 49 % 128

/-- The map's byte for VA[55:49] (22 R359); a map page that is absent or not readable faults. -/
def State.fabPlace (s : State) (ws va : Nat) : FabPlace :=
  if s.wsWord ws wFMBASE = 0 then .here
  else match s.leafOf ws (s.fabByte ws va) with
    | none => .fault
    | some l =>
      if !l.r then .fault else
      let b := s.natAt (l.pa + (s.fabByte ws va - l.base)) 1
      if b / 128 % 2 = 1 && b / 64 % 2 = 0 && b % 64 != s.idNode.toNat then .node (b % 64) else .here

/-- An engine's translation of one address: physical, or the code of the fault. What these engines touch is local
(22 R360). -/
def State.xlate (s : State) (ws va : Nat) (write : Bool) : Except Byte Nat :=
  if globalEnd ≤ va then .error trACCESS_FAULT
  else match s.fabPlace ws va with
    | .fault => .error trPAGE_FAULT
    | .node _ => .error trACCESS_FAULT
    | .here =>
      match s.leafOf ws va with
      | none => .error trPAGE_FAULT
      | some l =>
        if (if write then l.w && l.r && !l.sealed else l.r) then .ok (l.pa + (va - l.base)) else .error trPERM_FAULT

/-- A run cut at page boundaries; `fuel` bounds the pieces. -/
def pageChunks : Nat → Nat → Nat → List (Nat × Nat)
  | 0, _, _ => []
  | fuel + 1, va, n =>
    if n = 0 then []
    else
      let k := min n (4096 - va % 4096)
      (va, k) :: pageChunks fuel (va + k) (n - k)

def chunksOf (va n : Nat) : List (Nat × Nat) := pageChunks (n / 4096 + 2) va n

/-- Every page of a run translated, or the first fault with its address. -/
def State.xlateRun (s : State) (ws : Nat) (write : Bool) : List (Nat × Nat) → Except (Byte × Nat) (List (Nat × Nat))
  | [] => .ok []
  | (va, n) :: r =>
    match s.xlate ws va write with
    | .error c => .error (c, va)
    | .ok pa =>
      match s.xlateRun ws write r with
      | .error e => .error e
      | .ok l => .ok ((pa, n) :: l)

/-- Bytes read by an engine, with the poison of the words they touch. -/
def State.vread (s : State) (ws va n : Nat) : Except (Byte × Nat) (List Byte × Bool) :=
  match s.xlateRun ws false (chunksOf va n) with
    | .error e => .error e
    | .ok l =>
      let rs := l.map fun c => s.readAt c.1 c.2
      .ok (rs.flatMap (·.1), rs.any (·.2))

/-- What such a read does at the slices; where it faults, only what its walk does. -/
def State.vsee (s : State) (ws va n : Nat) : State :=
  match s.xlateRun ws false (chunksOf va n) with
  | .error (_, a) => s.walkNomem ws a
  | .ok l => s.seeRuns l ws

/-- The pieces of a run written at their physical addresses. -/
def State.writePieces (s : State) (ws : Wsid) : List (Nat × Nat) → List Byte → State
  | [], _ => s
  | (pa, n) :: r, bs => (s.putRun pa (bs.take n) ws).writePieces ws r (bs.drop n)

/-- Bytes written by an engine, as one access. -/
def State.vwrite (s : State) (ws va : Nat) (bs : List Byte) : Except (Byte × Nat) State :=
  match s.xlateRun ws true (chunksOf va bs.length) with
    | .error e => .error e
    | .ok l => .ok ((s.writePieces (BitVec.ofNat 12 ws) l bs).nomemRuns l ws)

def State.vnat (s : State) (ws va n : Nat) : Option Nat :=
  match s.vread ws va n with
  | .ok (bs, _) => some (leNat bs)
  | .error _ => none

/-- A number written by an engine; nothing happens where the address faults. -/
def State.vput (s : State) (ws va n v : Nat) : State :=
  match s.vwrite ws va (leBytes v n) with
  | .ok s' => s'
  | .error _ => s

/-- The word at an address an engine has just written marked poisoned, as the data it holds is (21 R350). -/
def State.vpoison (s : State) (ws va : Nat) : State :=
  match s.xlate ws va true with
  | .ok pa => s.setPoison (pa / 8) true
  | .error _ => s

/-- The poisoned words of a readable run that begins at a word, counted from it (21 R350). -/
def State.vbad (s : State) (ws va n : Nat) : List Nat :=
  (List.range (n / 8)).filter fun i => match s.xlate ws (va + 8 * i) false with
    | .ok pa => (s.latestWord (pa / 8)).poison
    | .error _ => false

/-! ## The fault record (21 R352) -/

def satInc (n max : Nat) : Nat := if n < max then n + 1 else n

/-- The entry's bytes: code, LTID, TINFO or XID, address, TICK. -/
def faultEntry (code ltid info addr tick : Nat) : List Byte :=
  leBytes (code % 256 + ltid % 2 ^ 12 * 2 ^ 16) 8 ++ leBytes info 8 ++ leBytes addr 8 ++ leBytes tick 8

/-- One entry added to a workspace's fault record; only EVCOUNT advances where there is none or its page faults. -/
def State.faultRecord (s : State) (ws code ltid info addr : Nat) : State :=
  let fr := (s.wsWord ws wFRBASE).toNat
  let miss := s.setWsWord ws wEVCOUNT (BitVec.ofNat 64 (satInc (s.wsWord ws wEVCOUNT).toNat (2 ^ 64 - 1)))
  if fr = 0 then miss
  else match s.vnat ws fr 8 with
    | none => miss
    | some count =>
      match (s.vsee ws fr 8).vwrite ws (fr + 64 + 32 * (count % 126)) (faultEntry code ltid info addr s.tick) with
      | .error _ => miss
      | .ok s1 => s1.vput ws fr 8 (satInc count (2 ^ 64 - 1))

def frTERMINATED : Nat := 1
def frNESTED : Nat := 2
def frCOPY : Nat := 3
def frSIGNAL : Nat := 4
def frDEPART : Nat := 5
def frATOMIC : Nat := 6
def frEVICT : Nat := 7
def frGANG : Nat := 8
def frDELIVERY : Nat := 9
def frSTAGE : Nat := 0xA
def frSPILL : Nat := 0xB
def frSERVE : Nat := 0xC

/-! ## The role map (11 R223, R224) -/

/-- The entry of an LTID that nothing has written: LTID i on physical tile i below 1,024 (11 R223, R224); in reduced
service the tiles of the one die alone are bound (21 R354). -/
def RoleEntry.reset (bound : Bool) (l : Nat) : RoleEntry :=
  { ptile := if bound then BitVec.ofNat 10 l else 0, role := 0, gen := 0, cstate := 0, owner := 0xFFF,
    v := bound, lse := false, xwin := false, trole := 0, nid := 0, lexp := 0, ndl := 0 }

/-- Whether an LTID is bound to the tile of its number when nothing has changed its entry. -/
def State.boundAtStart (s : State) (l : Nat) : Bool := decide (l < 1024) && (s.fullService || s.idDies.getLsbD (l / 256))

def State.role (s : State) (l : Nat) : RoleEntry := (sget l s.roles).getD (.reset (s.boundAtStart l) l)
def State.setRole (s : State) (l : Nat) (e : RoleEntry) : State := { s with roles := sset l e s.roles }

/-- The LTID bound to a physical tile: the first bound entry that names it, looked for among the changed entries
and the reset binding. -/
def State.ltidOf (s : State) (tile : Nat) : Nat :=
  match s.roles.find? fun e => e.2.v && e.2.ptile.toNat == tile with
  | some e => e.1
  | none => tile

end Sys2Proof.Machine
end

