-- ==== Sys2Proof/Machine/TensorEntry.lean ====
section
/-! DEFINITION. Formats with their blocks and scales (03 R60 to R62) and the entries of the tensor table (08 R166,
R167). -/

namespace Sys2Proof.Machine

/-! ## Formats of panels and entries -/

/-- A format code with W32 (08 R162). -/
structure PFmt where
  fmt : BitVec 3
  w32 : Bool
  deriving DecidableEq, Repr

def PFmt.t (f : PFmt) : TFmt := tfmtOf f.fmt

/-- Bits of an element. -/
def PFmt.bits (f : PFmt) : Nat := if f.w32 then 32 else TFmt.bits f.t

/-- The block length of a scaled format (03 R62). -/
def PFmt.block (f : PFmt) : Option Nat := if f.w32 then none else TFmt.block f.t

/-- W32 goes with formats 0 and 6 (08 R163). -/
def PFmt.ok (f : PFmt) : Bool := !f.w32 || f.fmt == 0 || f.fmt == 6

/-- The value of an element's bits, unscaled. -/
def PFmt.decode (f : PFmt) (x : Nat) : Exact :=
  if f.w32 then (if f.fmt = 0 then fp32.decode x else .ofInt (BitVec.ofNat 32 x).toInt) else TFmt.decode f.t x

def PFmt.readFlags (f : PFmt) (x : Nat) : Flags :=
  if f.w32 then (if f.fmt = 0 then snanFlag fp32 [x] else flNone) else TFmt.readFlags f.t x

/-- The multiple that strides and first columns keep in sub-byte formats (08 R167, R173). -/
def PFmt.grain (f : PFmt) : Nat := if f.w32 then 1 else match f.t with
  | .e2m1 => 2
  | .e2m3 | .e3m2 => 4
  | _ => 1

/-! ## Entries (08 R166) -/

/-- A tensor-table entry. -/
structure TEnt where
  f : PFmt
  rank : Nat
  mode : Nat
  sblk : Nat
  saxis : Nat
  rag : Bool
  raxis : Nat
  slaxis : Nat
  rsel : Bool
  valid : Bool
  pad : Nat
  base : Nat
  sbase : Nat
  ext : List Nat
  str : List Int
  fw : Nat
  fh : Nat
  sx : Nat
  sy : Nat
  dx : Nat
  dy : Nat
  px : Nat
  py : Nat
  ow : Nat
  oh : Nat
  rlink : Nat
  /-- Every Z field is zero. -/
  zOk : Bool
  deriving DecidableEq, Repr

def entOf (b : List Byte) : TEnt :=
  let n := leNat b
  let f (l k : Nat) := nbit n l k
  { f := { fmt := BitVec.ofNat 3 (f 0 3), w32 := f 3 1 == 1 }
    rank := f 4 4, mode := f 8 2, sblk := f 10 1, saxis := f 11 4, rag := f 15 1 == 1, raxis := f 16 4, slaxis := f 20 4,
    rsel := f 24 1 == 1, valid := f 31 1 == 1, pad := f 32 32, base := f 64 56, sbase := f 128 56,
    ext := (List.range 9).map fun a => f (192 + 32 * a) 32,
    str := (List.range 9).map fun a => (BitVec.ofNat 32 (f (480 + 32 * a) 32)).toInt,
    fw := f 768 8, fh := f 776 8, sx := f 784 4, sy := f 788 4, dx := f 792 4, dy := f 796 4, px := f 800 8, py := f 808 8,
    ow := f 816 16, oh := f 832 16, rlink := f 896 56,
    zOk := f 25 6 == 0 && f 120 8 == 0 && f 184 8 == 0 && f 848 48 == 0 && f 952 72 == 0 }

def TEnt.e (t : TEnt) (a : Nat) : Nat := t.ext.getD a 0

/-- The convolution fields are in their ranges. -/
def TEnt.convOk (t : TEnt) : Bool :=
  t.fw != 0 && t.fh != 0 && t.sx != 0 && t.sy != 0 && t.dx != 0 && t.dy != 0 && t.ow != 0 && t.oh != 0

/-- A malformed entry (08 R167). -/
def TEnt.malformed (t : TEnt) : Bool :=
  !t.valid || !t.zOk || t.rank == 0 || decide (9 < t.rank) || decide (2 ≤ t.mode) || !t.f.ok
  || (match t.f.block with
    | some b => (if t.sblk = 1 then 48 else 32) != b || decide (t.rank ≤ t.saxis) || (t.mode == 1 && t.e 0 % b != 0)
    | none => false)
  || (t.f.grain != 1 && (t.mode == 1 || t.str.getD 0 0 != 1
        || (List.range t.rank).any fun a => a != 0 && t.str.getD a 0 % (t.f.grain : Int) != 0))
  || (t.mode == 1 && (t.rank != 4 || !t.convOk))
  || (t.rag && (t.mode == 1 || decide (t.rank ≤ t.raxis) || decide (t.rank ≤ t.slaxis) || t.raxis == t.slaxis))

/-- An entry as an engine of the device reads it in the table; none where there is no table or the read faults or
brings poison (08 R167). -/
def State.tensorEntry (s : State) (ws tid : Nat) : Option TEnt :=
  let base := (s.wsWord ws wTTBASE).toNat
  if base = 0 then none
  else match s.vread ws (base + 128 * tid) 128 with
    | .ok (b, false) => some (entOf b)
    | _ => none

end Sys2Proof.Machine
end

