-- ==== Sys2Proof/Machine/Queue.lean ====
section
/-! DEFINITION. Task queues and packets (15 R275 to R279), dependence counters (15 R283, R284), resume lists
(15 R281). -/

namespace Sys2Proof.Machine

/-! ## Packets (15 R276, R277) -/

/-- The header of a packet as one number of 16 bytes. -/
def pktHead (p : List Byte) : Nat := leNat (p.take 16)

def pkLen (h : Nat) : Nat := nbit h 0 3
def pkKind (h : Nat) : Nat := nbit h 3 3
def pkPrio (h : Nat) : Nat := nbit h 6 3
def pkNsucc (h : Nat) : Nat := nbit h 9 3
def pkWsp (h : Nat) : Nat := nbit h 12 1
def pkNws (h : Nat) : Nat := nbit h 13 2
def pkWsid (h : Nat) : Nat := nbit h 16 12
def pkDomain (h : Nat) : Nat := nbit h 28 8
def pkSdl (h : Nat) : Nat := nbit h 36 16
def pkEpc (h : Nat) : Nat := nbit h 64 56

/-- Bytes the packet occupies. -/
def pkBytes (h : Nat) : Nat := 32 * (pkLen h + 1)
/-- Working-set entries present. -/
def pkEntries (h : Nat) : Nat := pkWsp h * (pkNws h + 1)
/-- Offset of the successor handles, and of the payload. -/
def pkSuccOff (h : Nat) : Nat := 16 + 16 * pkEntries h
def pkPayOff (h : Nat) : Nat := pkSuccOff h + 8 * pkNsucc h
/-- The payload length P; negative when the parts do not fit. -/
def pkP (h : Nat) : Int := (pkBytes h : Int) - pkPayOff h

/-- Working-set entry `i` as one number of 16 bytes. -/
def pkEntry (p : List Byte) (i : Nat) : Nat := leNat ((p.drop (16 + 16 * i)).take 16)
def pkSucc (p : List Byte) (h i : Nat) : Word := BitVec.ofNat 64 (leNat ((p.drop (pkSuccOff h + 8 * i)).take 8))
def pkPayload (p : List Byte) (h : Nat) : List Byte := (p.drop (pkPayOff h)).take (pkP h).toNat

/-- Fields of a working-set entry (15 R277). -/
def weTid (e : Nat) : Nat := nbit e 0 10
def weTgt (e : Nat) : Nat := nbit e 10 2
def weFirst (e : Nat) : Nat := nbit e 32 32
def weCount (e : Nat) : Nat := nbit e 64 32
def weToff (e : Nat) : Nat := nbit e 96 32

/-- The declared size D of `n` elements of a well-formed entry, in whole 64-byte units (15 R277). -/
def TEnt.declaredSize (t : TEnt) (n : Nat) : Nat :=
  pad64 ((n * t.f.bits + 7) / 8) + (match t.f.block with
    | some b => pad64 ((n + b - 1) / b)
    | none => 0)

/-- The declared size D of an entry; 0 where the tensor table gives no well-formed entry (15 R277). -/
def State.weSize (s : State) (ws e : Nat) : Nat :=
  match s.tensorEntry ws (weTid e) with
  | none => 0
  | some t => if t.malformed then 0 else t.declaredSize (weCount e)

/-- A span of the staging pool that region 0 of a workspace does not hold (11 R240). -/
def State.poolBad (s : State) (ws e : Nat) : Bool :=
  match s.rgnOf ws 0 with
  | none => true
  | some r => decide (r.npages * pageSize < weToff e + s.weSize ws e)

/-- A working-set entry that R278 rejects, or 11 R240 as R278 does. -/
def State.weBad (s : State) (ws e : Nat) : Bool :=
  nbit e 12 20 != 0 || weTgt e == 3 || weCount e == 0 || (weTgt e == 1 && decide (argBase < weToff e + s.weSize ws e))
  || (weTgt e == 2 && s.poolBad ws e)

/-- The rejections of R278, for a queue of a workspace; a model step's payload holds at least 8 bytes (19 R329). -/
def State.pktBad (s : State) (p : List Byte) (qws : Nat) : Bool :=
  let h := pktHead p
  nbit h 15 1 != 0 || nbit h 52 12 != 0 || nbit h 120 8 != 0 || nbit h 64 2 != 0
  || decide (4 ≤ pkKind h) || decide (5 ≤ pkNsucc h) || decide (pkP h < 0) || (pkNws h != 0 && pkWsp h == 0)
  || (List.range (pkEntries h)).any (fun i => s.weBad qws (pkEntry p i))
  || pkWsid h != qws || (pkKind h == 1 && decide (pkP h < 16)) || (pkKind h == 2 && pkDomain h == 0)
  || (pkKind h == 3 && decide (pkP h < 8))

/-! ## Queues (15 R275, R279) -/

structure QHead where
  head : Nat
  tail : Nat
  log2n : Nat
  state : Nat
  aff : Nat
  ws : Nat
  /-- A Z field is nonzero or LOG2N is above 16. -/
  bad : Bool
  deriving DecidableEq, Repr

def qHeadOf (h : Nat) : QHead :=
  { head := nbit h 0 32, tail := nbit h 32 32, log2n := nbit h 64 5, state := nbit h 69 2, aff := nbit h 71 4,
    ws := nbit h 75 12, bad := nbit h 87 41 != 0 || nbit h 184 328 != 0 || decide (16 < nbit h 64 5) }

/-- The header of a queue; none where its address faults or is not 64-byte aligned. -/
def State.qHead (s : State) (ws q : Nat) : Option QHead :=
  if q % 64 = 0 then (s.vnat ws q 64).map qHeadOf else none

def qCount (h : QHead) : Nat := (h.tail + 2 ^ 32 - h.head) % 2 ^ 32

def State.setQState (s : State) (ws q st : Nat) : State :=
  if q % 64 != 0 then s
  else match s.vnat ws (q + 8) 4 with
  | some v => s.vput ws (q + 8) 4 (v - nbit v 5 2 * 32 + st * 32)
  | none => s

/-- One of the saturating counts of the header advanced, and LAST set: REJECT at 16, FETCHF at 18, DROP at 20. -/
def State.qDiscard (s : State) (ws q off last : Nat) : State :=
  match s.vnat ws (q + off) 2 with
  | some v => (s.vput ws (q + off) 2 (satInc v 65535)).vput ws (q + 22) 1 last
  | none => s

def stOK : Nat := 0
def stFULL : Nat := 1
def stCLOSED : Nat := 2
def stBROKEN : Nat := 3
def stBADPKT : Nat := 4

/-- The dies whose schedulers serve a queue: AFF, or the home die of the header (15 R275). -/
def State.qDies (s : State) (ws q : Nat) (h : QHead) : List Nat :=
  if h.aff = 0 then
    match s.xlate ws q false with
    | .ok pa => if homeDie pa < 4 then [homeDie pa] else [0]
    | .error _ => []
  else (List.range 4).filter fun d => h.aff / 2 ^ d % 2 == 1

def Die.serve (d : Die) (q : Word) (ws : Wsid) : Die :=
  if d.queues.any fun e => e.1 == q && e.2 == ws then d else { d with queues := d.queues ++ [(q, ws)] }

def State.setDie (s : State) (d : Nat) (f : Die) : State := { s with dies := s.dies.setIfInBounds d f }
def State.die (s : State) (d : Nat) : Die := s.dies.getD d .reset

/-- The place in the order of arrivals of the packet in a cell forgotten. -/
def Die.dropArrival (d : Die) (q : Word × Wsid) (cell : Nat) : Die :=
  { d with arrivals := d.arrivals.filter fun a => !(a.1 == q && a.2.1 == cell) }

/-- The schedulers told of a packet in a cell; its place in the order of arrivals. -/
def State.notifyDies (s : State) (ds : List Nat) (q : Word) (ws : Wsid) (cell : Nat) : State :=
  ds.foldl (fun s d =>
    let f := ((s.die d).serve q ws).dropArrival (q, ws) cell
    s.setDie d { f with arrivals := f.arrivals ++ [((q, ws), cell, s.fresh)] }) { s with fresh := s.fresh + 1 }

/-- The indivisible step of ENQ at the queue's home slice (15 R279); `bad` is a packet that its sender may not send. -/
def State.enqueueAs (s : State) (bad : Bool) (ws : Wsid) (q : Word) (p : List Byte) : State × Nat :=
  let w := ws.toNat
  let a := q.toNat
  match s.qHead w a with
  | none => (s.setQState w a 2, stBROKEN)
  | some h =>
    let seen := s.vsee w a 64
    if h.bad then (s.setQState w a 2, stBROKEN)
    else if h.state = 1 then (seen, stCLOSED)
    else if 2 ≤ h.state then (seen, stBROKEN)
    else if bad || s.pktBad p h.ws || !s.wsValid (pkWsid (pktHead p)) then (s.qDiscard w a 16 1, stBADPKT)
    else if qCount h = 2 ^ h.log2n then (seen, stFULL)
    else
      match s.vwrite w (a + 64 + 256 * (h.tail % 2 ^ h.log2n)) (p.take (pkBytes (pktHead p))) with
      | .error _ => (s.setQState w a 2, stBROKEN)
      | .ok s1 => ((s1.vput w (a + 4) 4 ((h.tail + 1) % 2 ^ 32)).notifyDies (s.qDies w a h) q ws h.tail, stOK)

def State.enqueue (s : State) (ws : Wsid) (q : Word) (p : List Byte) : State × Nat := s.enqueueAs false ws q p

/-! ## Resume lists (15 R281) -/

/-- A record placed on the resume list of a queue, last among its equals. The list is kept by the first die that
serves the queue, or by die 0 where the queue's header faults (log 4). -/
def State.pushResume (s : State) (q : Word) (ws : Wsid) (rec : Word) (prio : BitVec 3) : State :=
  let d := match s.qHead ws.toNat q.toNat with
    | some h => (s.qDies ws.toNat q.toNat h).headD 0
    | none => 0
  s.setDie d { s.die d with resume := (s.die d).resume ++ [{ record := rec, queue := q, ws := ws, prio := prio }] }

/-- The PRIO of a record in memory. -/
def State.recPrio (s : State) (ws : Wsid) (rec : Word) : BitVec 3 :=
  BitVec.ofNat 3 (nbit ((s.vnat ws.toNat (rec.toNat + 8) 8).getD 0) 20 3)

/-! ## Dependence counters (15 R283, R284) -/

/-- What the fired counter at `c` does with its waiting item. -/
def State.fire (s : State) (ltid : Nat) (ws : Wsid) (c : Word) (w0 : Nat) : State :=
  let q := BitVec.ofNat 64 ((s.vnat ws.toNat (c.toNat + 8) 8).getD 0)
  if nbit w0 33 1 = 0 then
    match s.vnat ws.toNat (c.toNat + 16) 16 with
    | none => s.faultRecord ws.toNat frSIGNAL ltid 0 c.toNat
    | some h =>
      match s.vread ws.toNat (c.toNat + 16) (pkBytes h) with
      | .error _ => s.faultRecord ws.toNat frSIGNAL ltid 0 c.toNat
      | .ok (p, _) =>
        let (s1, st) := (s.vsee ws.toNat (c.toNat + 16) (pkBytes h)).enqueue ws q p
        if st = stOK then s1
        else if st = stFULL then { s1 with cntRetry := s1.cntRetry ++ [{ queue := q, ws := ws, packet := p, since := s1.tick, addr := c, ltid := ltid }] }
        else s1.faultRecord ws.toNat frSIGNAL ltid 0 c.toNat
  else if nbit w0 34 1 = 1 then s.pushResume q ws (c + 16) (s.recPrio ws (c + 16))
  else s

/-- One signal, raised on the tile of an LTID, applied to a counter at its home slice: the state and the result. A counter
that cannot be read or written drops the signal (15 R284). -/
def State.signal (s : State) (ltid : Nat) (ws : Wsid) (c : Word) : State × Nat :=
  match s.vnat ws.toNat c.toNat 8 with
  | none => (s.faultRecord ws.toNat frSIGNAL ltid 0 c.toNat, 1)
  | some w0 =>
    let count := nbit w0 0 32
    if count = 0 then ((s.vsee ws.toNat c.toNat 8).faultRecord ws.toNat frSIGNAL ltid 0 c.toNat, 1)
    else
      let w1 := w0 - 1
      let w2 := if count = 1 then w1 - nbit w1 32 1 * 2 ^ 32 + 2 ^ 32 else w1
      match (s.vsee ws.toNat c.toNat 8).vwrite ws.toNat c.toNat (leBytes w2 8) with
      | .error _ => ((s.vsee ws.toNat c.toNat 8).faultRecord ws.toNat frSIGNAL ltid 0 c.toNat, 1)
      | .ok s1 => (if count = 1 then s1.fire ltid ws c w2 else s1, 0)

/-- Signals sent, to be applied one at a time in arrival order (15 R285). -/
def State.sendSignals (s : State) (ltid : Nat) (ws : Wsid) (cs : List Word) : State :=
  { s with signals := s.signals ++ cs.map fun c => { counter := c, ws := ws, ltid := ltid } }

end Sys2Proof.Machine
end

