-- ==== Sys2Proof/Machine/Mesh.lean ====
section
/-! DEFINITION. The mesh: places of tiles (11 R221, 18 R308), clusters (10 R200), the scope that holds two tiles
(10 R212), the role cache of an interface (11 R225), the tiles on a dimension-ordered route and a worm on it (11 R221,
18 R308). -/

namespace Sys2Proof.Machine

open Sys2Proof

/-- The cluster of a tile in the package: a 4×4 block of its die. -/
def clusterOf (t : Nat) : Nat := t / 256 * 16 + t % 256 / 16 / 4 * 4 + t % 16 / 4

/-- The smallest scope that holds two tiles (10 R212). -/
def tileScope (a b : Nat) : Scope :=
  if a = b then .tile else if clusterOf a = clusterOf b then .clu else if a / 256 = b / 256 then .die else .pkg

/-- Package coordinates of a tile (18 R308). -/
def pkgX (t : Nat) : Nat := t % 16 + 16 * (t / 256 % 2)
def pkgY (t : Nat) : Nat := t % 256 / 16 + 16 * (t / 256 / 2)

/-- The tile at package coordinates. -/
def tileAtXY (x y : Nat) : Nat := (x / 16 + 2 * (y / 16)) * 256 + y % 16 * 16 + x % 16

/-- The die that holds package coordinates. -/
def dieAtXY (x y : Nat) : Nat := x / 16 + 2 * (y / 16)

/-- Coordinates from one to another, both included. -/
def spanFrom (a b : Nat) : List Nat :=
  if a ≤ b then (List.range (b - a + 1)).map (a + ·) else (List.range (a - b + 1)).map (a - ·)

/-- Tiles of the route along X, then along Y. -/
def routeXY (a b : Nat) : List Nat :=
  (spanFrom (pkgX a) (pkgX b)).map (tileAtXY · (pkgY a)) ++ ((spanFrom (pkgY a) (pkgY b)).drop 1).map (tileAtXY (pkgX b) ·)

/-- Tiles of the route along Y, then along X. -/
def routeYX (a b : Nat) : List Nat :=
  (spanFrom (pkgY a) (pkgY b)).map (tileAtXY (pkgX a) ·) ++ ((spanFrom (pkgX a) (pkgX b)).drop 1).map (tileAtXY · (pkgY b))

/-- The tile of a die that meets the I/O die (18 R308). -/
def cornerOf (die : Nat) : Nat := die * 256 + (match die with
  | 0 => 255
  | 1 => 240
  | 2 => 15
  | _ => 0)

/-- Whether a die between two others is out of service. -/
def State.dieDown (s : State) (a b die : Nat) : Bool := die != a / 256 && die != b / 256 && !s.idDies.getLsbD die

/-- Tiles that a worm visits by base hops, its ends included (11 R221, 18 R308). -/
def State.route (s : State) (a b : Nat) : List Nat :=
  if !s.dieDown a b (dieAtXY (pkgX b) (pkgY a)) then routeXY a b
  else if !s.dieDown a b (dieAtXY (pkgX a) (pkgY b)) then routeYX a b
  else routeXY a (cornerOf (a / 256)) ++ routeXY (cornerOf (b / 256)) b

/-! ## Worms and express hops (11 R221, R237, 12 R248, log 75) -/

/-- A tile in the routing role. -/
def State.isRouter (s : State) (t : Nat) : Bool := let e := s.role (s.ltidOf t); e.v && e.ptile.toNat == t && e.role == 2

/-- The routing tiles that an interface's role cache shows; an entry in moving does not count (12 R248). -/
def Tile.routersSeen (t : Tile) : List Nat :=
  t.roleCache.filterMap fun e =>
    if e.2.getLsbD 44 && nbit e.2.toNat 22 2 == 2 && nbit e.2.toNat 30 2 != 3 then some (nbit e.2.toNat 12 10) else none

/-- Word 0 of a role-map entry (11 R224). -/
def RoleEntry.word0 (l : Nat) (e : RoleEntry) : Word :=
  let b (x : Bool) (n : Nat) := if x then 2 ^ n else 0
  BitVec.ofNat 64 (l % 4096 + (if e.v then e.ptile.toNat else 0) * 2 ^ 12 + e.role.toNat * 2 ^ 22 + e.gen.toNat * 2 ^ 24
    + e.cstate.toNat * 2 ^ 30 + e.owner.toNat * 2 ^ 32 + b e.v 44 + b e.lse 45 + b e.xwin 46 + e.trole.toNat * 2 ^ 48
    + e.nid.toNat * 2 ^ 56)

/-- Word 1: LEXP and NDL (11 R224). -/
def RoleEntry.word1 (e : RoleEntry) : Word := BitVec.ofNat 64 (e.lexp.toNat + e.ndl.toNat * 2 ^ 32)

/-- The role cache of a tile takes word 0 of an LTID from the census: 64 entries, the oldest replaced (11 R225, log 8). -/
def State.readRole (s : State) (tile : Nat) (l : Nat) : State × Word :=
  let t := s.tileAt tile
  let w := (s.role l).word0 l
  let cache := if (sget l t.roleCache).isSome then t.roleCache.map fun e => if e.1 = l then (l, w) else e
               else (t.roleCache ++ [(l, w)]).drop (t.roleCache.length + 1 - 64)
  (s.setTile tile { t with roleCache := cache }, w)

/-- Word 0 of an LTID as a tile's interface resolves it: cached, or read and cached (11 R225). -/
def State.resolve (s : State) (tile : Nat) (l : Nat) : State × Word :=
  match sget l (s.tileAt tile).roleCache with
  | some w => (s, w)
  | none => s.readRole tile l

/-- Two tiles of one die in one row or one column. -/
def inLine (t u : Nat) : Bool := t / 256 == u / 256 && (t / 16 == u / 16 || t % 16 == u % 16)

/-- A worm at the first tile of a path takes an express hop: the tile four positions onward is a routing tile too and lies
in the same dimension, the sender's view holds both, and the tile is not moving. -/
def State.expressHop (s : State) (view path : List Nat) : Bool :=
  match path.head?, path[4]? with
  | some t, some u => inLine t u && s.isRouter t && s.isRouter u && view.contains t && view.contains u && (s.role (s.ltidOf t)).cstate != 3
  | _, _ => false

def State.hopLen (s : State) (view path : List Nat) : Nat := if s.expressHop view path then 4 else 1

/-- Tiles that a worm's head visits on a path; `fuel` bounds the hops. -/
def State.visits (s : State) (view : List Nat) : Nat → List Nat → List Nat
  | 0, _ => []
  | _ + 1, [] => []
  | fuel + 1, t :: rest => t :: s.visits view fuel ((t :: rest).drop (s.hopLen view (t :: rest)))

/-- The interface of a tile looks for express hops on a path: each tile that a worm would visit and that has a tile four
positions onward is resolved, and that one too where the first shows the routing role; `fuel` bounds the hops. -/
def State.lookHops (s : State) (a : Nat) : Nat → List Nat → State
  | 0, _ => s
  | _ + 1, [] => s
  | fuel + 1, t :: rest =>
    let s2 := match (t :: rest)[4]? with
      | some u =>
        if !inLine t u then s
        else
          let s1 := (s.resolve a (s.ltidOf t)).1
          if (s1.tileAt a).routersSeen.contains t then (s1.resolve a (s1.ltidOf u)).1 else s1
      | none => s
    s2.lookHops a fuel ((t :: rest).drop (s2.hopLen (s2.tileAt a).routersSeen (t :: rest)))

/-- The tiles of the route from one tile to another, as the sender's interface resolves them now. -/
def State.visited (s : State) (a b : Nat) : List Nat :=
  let p := s.route a b
  s.visits ((s.lookHops a p.length p).tileAt a).routersSeen p.length p

/-- The routing-role tiles on a route (11 R222). -/
def State.routersOn (s : State) (a b : Nat) : List Nat := (s.visited a b).filter s.isRouter

/-- A worm injected at a tile for another, with what the tile's role cache then shows. -/
def State.inject (s : State) (a b : Nat) : State × Worm :=
  let p := s.route a b
  let s1 := s.lookHops a p.length p
  let view := (s1.tileAt a).routersSeen
  (s1, { path := p, hop := s1.hopLen view p, view := view, drains := false, bad := [] })

/-- The hop a worm takes: the express hop it was given while the port is live at both ends. -/
def State.hopOf (s : State) (w : Worm) : Nat := if w.hop = 4 && w.path[4]?.any s.isRouter then 4 else 1

/-- A worm after its next hop; none at its destination. -/
def State.advance (s : State) (w : Worm) : Option Worm :=
  if w.path.length ≤ 1 then none
  else
    let p := w.path.drop (s.hopOf w)
    some { path := p, hop := s.hopLen w.view p, view := w.view, drains := false, bad := w.bad }

def Flight.worm? : Flight → Option Worm
  | .pkt _ _ _ _ _ w | .fdatum _ _ _ _ _ w => some w
  | _ => none

def Flight.setWorm (w : Worm) : Flight → Flight
  | .pkt t d g p q _ => .pkt t d g p q w
  | .fdatum o f k e v _ => .fdatum o f k e v w
  | f => f

/-- The head of a worm in flight is in a tile. -/
def Flight.headIn (t : Nat) (f : Flight) : Bool := f.worm?.any fun w => w.path.head? == some t

/-- A tile that enters moving drains the worms whose heads it holds. -/
def State.drain (s : State) (t : Nat) : State :=
  { s with flights := s.flights.map fun f => match f.worm? with
      | some w => if f.headIn t then f.setWorm { w with drains := true } else f
      | none => f }

/-- A tile still drains a worm. -/
def State.draining (s : State) (t : Nat) : Bool := s.flights.any fun f => f.headIn t && f.worm?.any (·.drains)

end Sys2Proof.Machine
end

