-- ==== Sys2Proof/Machine/Message.lean ====
section
/-! DEFINITION. The sending side of tile-to-tile messages: replay windows (10 R214), the LTIDs a strand names. -/

namespace Sys2Proof.Machine

/-- A role-map entry changed: the entry's word 0 cached on every other interface is invalidated by the census's
broadcast, which reaches each interface at a step of its own (ROLE_CACHE_INVALIDATION). -/
def State.castRole (s : State) (l : Nat) (e : RoleEntry) : State := s.setRole l e

/-- The next sequence number that a destination accepts from a tile (10 R214). -/
def seqKey (tile dst : Nat) : Nat := tile * 4096 + dst
def State.expected (s : State) (tile dst : Nat) : Nat := (sget (seqKey tile dst) s.expect).getD 0

def Tile.window (t : Tile) (dst : Nat) : Window := (sget dst t.windows).getD { next := 0, msgs := [], refusals := 0, backoff := false }
def Tile.setWindow (t : Tile) (dst : Nat) (w : Window) : Tile := { t with windows := sset dst w t.windows }

/-- Destinations with messages not yet accepted. -/
def Tile.tracked (t : Tile) : List Nat := (t.windows.filter fun e => !e.2.msgs.isEmpty).map (·.1)

/-- Room for a message to a destination: 16 in its window, 32 destinations (10 R214). -/
def Tile.hasRoom (t : Tile) (dst : Nat) : Bool :=
  (t.window dst).msgs.length < 16 && (t.tracked.any (· == dst) || t.tracked.length < 32)

/-- The packet of one message put on its way with the binding the role cache resolves (11 R225); one for an LTID that the
cache shows unbound is refused at once (10 R213). -/
def State.launch (s : State) (tile dst seq : Nat) : State :=
  let (s1, w) := s.resolve tile dst
  if !w.getLsbD 44 then { s1 with flights := s1.flights ++ [.nack tile (BitVec.ofNat 12 dst) seq .unbound] }
  else let p := (w.extractLsb' 12 10).toNat
       let (s2, worm) := s1.inject tile p
       { s2 with flights := s2.flights ++ [.pkt tile (BitVec.ofNat 12 dst) (w.extractLsb' 24 6) p seq worm] }

/-- A message entered in its window and sent; behind a refusal that waits to resend it only joins the window. -/
def State.sendMsg (s : State) (tile : Nat) (dst : Nat) (src : Src) (pc addr : Word) (body : MsgBody) : State :=
  let t := s.tileAt tile
  let w := t.window dst
  let m : Msg := { src := src, pc := pc, addr := addr, seq := w.next, first := s.tick, body := body }
  let s1 := s.setTile tile (t.setWindow dst { w with next := w.next + 1, msgs := w.msgs ++ [m] })
  if w.backoff then s1 else s1.launch tile dst w.next

/-! ## The mailbox (06 R134) -/

def mailMsg (kind ctx src info : Nat) (payload : Word) : BitVec 128 :=
  BitVec.ofNat 128 (kind % 256 + ctx % 256 * 2 ^ 8 + src % 4096 * 2 ^ 16 + info % 2 ^ 32 * 2 ^ 32 + payload.toNat * 2 ^ 64)

def mkNOTIFY : Nat := 1
def mkCOPY_DONE : Nat := 2
def mkNOTICE : Nat := 3
def mkDOMAIN_FAULT : Nat := 4
def mkSIDE_TRAP : Nat := 5

/-- A device message: placed while fewer than 64 are held, else it waits in raising order (06 R134). -/
def Tile.deviceMail (t : Tile) (m : BitVec 128) : Tile :=
  if t.mail.length < 64 && t.mailWait.isEmpty then { t.wakeWfi with mail := t.mail ++ [m] } else { t with mailWait := t.mailWait ++ [m] }

/-- CTX codes of agents (06 R134). -/
def agentCode : Agent → Nat
  | .ctx c => c.val
  | .loader => 8
  | .storer => 9

end Sys2Proof.Machine
end

