-- ==== Sys2Proof/Machine/Strand.lean ====
section
/-! DEFINITION. The life of a strand outside its context: the continuation record (01 R9 to R13), the spill area
(05 R103, R104) and its frames (05 R106, R107, R111), the trap packet (05 R109), the resumption of a record
(01 R12, R19) and the end of a strand (05 R114, R118, 15 R285, R287, R291). -/

namespace Sys2Proof.Machine

/-! ## Contexts of a tile -/

def State.cx (s : State) (t : Nat) (c : Fin 8) : Context := (s.tileAt t).ctx[c]
def State.setCx (s : State) (t : Nat) (c : Fin 8) (k : Context) : State :=
  let T := s.tileAt t
  s.setTile t { T with ctx := T.ctx.set c k }

def State.srcOf (s : State) (t : Nat) (c : Fin 8) : Src :=
  { tile := t, agent := .ctx c, inc := (s.cx t c).inc, ws := (s.cx t c).wsid }

/-- A context freed: nothing of the strand stays in it, and issue leaves it (06 R120). The number of the residency
advances, so that what is still in flight for the strand finds nobody. -/
def State.freeCx (s : State) (t : Nat) (c : Fin 8) : State :=
  let T := s.tileAt t
  let was := T.run == some c
  s.setTile t { T with
    ctx := T.ctx.set c { Context.reset with inc := T.ctx[c].inc + 1 }
    run := if was then none else T.run
    last := if was then c else T.last }

/-! ## The strand table (15 R281) -/

/-- The number under which the scheduler knows a record: its virtual address, for a record in a counter's area that of its
workspace; the device's own records are one address space. -/
def recKey (ws : Wsid) (rec : Word) : Nat := if isDev rec.toNat then rec.toNat else ws.toNat * 2 ^ 64 + rec.toNat

/-- The strand table's entry of a record. -/
def State.strand (s : State) (ws : Wsid) (rec : Word) : Option Strand := sget (recKey ws rec) s.strands

/-! ## The record and the spill area -/

def b2n (b : Bool) : Nat := if b then 1 else 0

def csrDefault (c : Context) : Bool :=
  c.th.fflags == 0 && c.th.rm == 0 && !c.th.nanov && !c.th.oorf && c.th.oora == 0 && c.th.cp == .reset
  && c.runlimit == 0 && c.gbtimeout == 0 && c.trec == 0 && c.joins.all (· == 0)

/-- What a save writes (05 R103): where execution continues, the live-ins, and which parts are due. -/
structure Save where
  pc : Word
  rgnr : Bool
  cause : Nat
  sets : RegSet
  xst : Bool
  arg : Bool
  deriving DecidableEq, Repr

/-- Registers x10 to x14 travel inline (05 R102). -/
def inlineMask : BitVec 32 := 0x7C00

def popc (n : Nat) (w : BitVec k) : Nat := ((List.range n).filter fun i => w.getLsbD i).length

/-- Bytes in use of a spill area with these masks (05 R103). -/
def spillSize (arg xst : Bool) (x v : BitVec 32) (k : BitVec 8) (z : BitVec 16) : Nat :=
  64 + 256 * b2n arg + 256 * b2n xst + pad64 (8 * popc 32 x) + 128 * popc 32 v + pad64 (4 * popc 8 k) + 19648 * popc 16 z

def Save.size (sv : Save) : Nat := spillSize sv.arg sv.xst (sv.sets.x &&& ~~~inlineMask) sv.sets.v sv.sets.k sv.sets.z

/-- Whether a frame is needed (05 R105 step 4). -/
def Save.needsFrame (sv : Save) : Bool := sv.size != 64

/-- A register set in the descriptor layout of R39. -/
def RegSet.bytes (r : RegSet) : List Byte :=
  leBytes r.x.toNat 4 ++ leBytes r.v.toNat 4 ++ leBytes r.k.toNat 1 ++ [0] ++ leBytes r.z.toNat 2 ++ List.replicate 20 0

def RegSet.ofBytes (b : List Byte) : RegSet :=
  { x := BitVec.ofNat 32 (leNat (b.take 4)), v := BitVec.ofNat 32 (leNat ((b.drop 4).take 4)),
    k := BitVec.ofNat 8 (leNat ((b.drop 8).take 1)), z := BitVec.ofNat 16 (leNat ((b.drop 10).take 2)) }

/-- FRM as a CSR value (01 R16). -/
def Thread.frm (t : Thread) : Nat := t.rm.toNat + 8 * b2n t.nanov

/-- STAT of the copy CSRs (09 R194). -/
def CopyCsrs.stat (c : CopyCsrs) : Word :=
  BitVec.ofNat 64 (c.overrun.toNat + c.fxid.toNat * 2 ^ 32 + c.fcode.toNat * 2 ^ 48)

def w8 (v : Word) : List Byte := leBytes v.toNat 8

/-- The extended state block, 256 bytes (05 R104); the other per-context CSRs are RUNLIMIT, the copy CSRs (09 R193)
and GBTIMEOUT. -/
def Context.xstBlock (c : Context) : List Byte :=
  let body := leBytes c.th.fflags.toNat 8 ++ leBytes c.th.frm 8 ++ leBytes (b2n c.th.oorf) 8 ++ w8 c.th.oora
    ++ c.joins.toList.flatMap w8 ++ w8 c.rgnpc ++ c.live.bytes ++ c.written.bytes ++ w8 c.trec
    ++ leBytes c.runlimit.toNat 8 ++ w8 c.th.cp.src ++ w8 c.th.cp.dst ++ w8 c.th.cp.len ++ w8 c.th.cp.opt
    ++ w8 c.th.cp.stat ++ w8 c.th.cp.faddr ++ leBytes c.gbtimeout.toNat 8
  body ++ List.replicate (256 - body.length) 0

/-- ZCFG as a CSR value (08 R162). -/
def Panel.cfg (p : Panel) : Word :=
  BitVec.ofNat 64 (p.fmt.toNat + 8 * b2n p.w32 + p.rows.toNat * 2 ^ 4 + p.cols.toNat * 2 ^ 12)

def panelRow : Nat := 192
def panelRows : Nat := 96

def Panel.bytes (p : Panel) : List Byte :=
  w8 p.cfg ++ List.replicate 56 0 ++ mdense p.data 0 (panelRows * panelRow) ++ mdense p.strip 0 (panelRows * 12)

def padTo64 (b : List Byte) : List Byte := b ++ List.replicate (pad64 b.length - b.length) 0

def setBits (n : Nat) (w : BitVec k) : List Nat := (List.range n).filter fun i => w.getLsbD i

/-- The poisoned words of the argument area, counted from its start (06 R132, 21 R350). -/
def Tile.argPoison (t : Tile) : List Nat := (List.range 32).filter fun i => nsMem (argBase / 8 + i) t.poison

/-- The content of the frame of a save (05 R103). -/
def Tile.spillBytes (t : Tile) (c : Context) (sv : Save) : List Byte :=
  let x := sv.sets.x &&& ~~~inlineMask &&& ~~~1
  let head := leBytes x.toNat 4 ++ leBytes sv.sets.v.toNat 4 ++ leBytes (sv.sets.k.toNat + 256 * b2n sv.arg) 2
    ++ leBytes sv.sets.z.toNat 2 ++ leBytes sv.size 4
  head ++ List.replicate (64 - head.length) 0
  ++ (if sv.arg then t.bytes argBase 256 else [])
  ++ (if sv.xst then c.xstBlock else [])
  ++ padTo64 ((setBits 32 x).flatMap fun i => w8 (c.th.x.getD i 0))
  ++ (setBits 32 sv.sets.v).flatMap (fun i => leBytes (c.v.getD i 0).toNat 128)
  ++ padTo64 ((setBits 8 sv.sets.k).flatMap fun i => leBytes (c.k.getD i 0).toNat 4)
  ++ (setBits 16 sv.sets.z).flatMap (fun i => (t.panels.getD i .reset).bytes)

/-- The record of a save with the frame's address (01 R9). Of a PC of 2^56 or more, which a FETCH_FAULT names (02 R48), W0
keeps the low 56 bits (log 68). -/
def Context.recordBytes (c : Context) (sv : Save) (spill : Nat) : List Byte :=
  let livein := (List.range 5).foldl (fun acc i => acc + (if sv.sets.x.getLsbD (10 + i) then 2 ^ i else 0)) 0
  let w0 := sv.pc.toNat % 2 ^ 56 / 4 * 4 + b2n c.unstaged * 2 ^ 56 + b2n c.gang * 2 ^ 57 + b2n sv.xst * 2 ^ 58 + b2n sv.rgnr * 2 ^ 59
  let w1 := c.wsid.toNat + c.domain.toNat * 2 ^ 12 + c.prio.toNat * 2 ^ 20 + livein * 2 ^ 23 + sv.cause * 2 ^ 28
  let inl (i : Nat) : Nat := if sv.sets.x.getLsbD (10 + i) then (c.th.x.getD (10 + i) 0).toNat else 0
  leBytes w0 8 ++ leBytes w1 8 ++ leBytes spill 8 ++ (List.range 5).flatMap fun i => leBytes (inl i) 8

/-! ## Spill frames (05 R106, R107, R111) -/

/-- Address of reserve frame `i`; frames 64·d to 64·d + 63 are die d's (log 6). -/
def reserveAddr (i : Nat) : Nat := devBase + i * reserveSize

/-- Frame size of the workspace's pool (05 R111). -/
def State.poolFrame (s : State) (ws : Nat) : Nat :=
  let z := (s.wsWord ws wHPRIO).toNat / 8 % 32
  if 12 ≤ z && z ≤ 19 then 2 ^ z else 2 ^ 19

/-- The outcome of asking for a frame: the frame, or the cause of R106. -/
inductive FrameRes
  | frame (va : Nat)
  | none (cause : Byte)
  deriving DecidableEq, Repr

/-- A frame of the workspace's pool; a fault of the head or of the link word counts as an empty pool and is recorded
with the LTID of the tile whose strand is saved (05 R111, 21 R352). SPOOL = 0 is an empty pool, with no entry (DESIGN CHOICE,
log 82). -/
def State.popPool (s : State) (ltid ws need : Nat) : State × FrameRes :=
  let head := (s.wsWord ws wSPOOL).toNat
  if head = 0 then (s, .none trSPILL_EMPTY)
  else match s.vnat ws head 8 with
    | Option.none => (s.faultRecord ws frSPILL ltid 0 head, .none trSPILL_EMPTY)
    | some f =>
      let s := s.vsee ws head 8
      if f = 0 then (s, .none trSPILL_EMPTY)
      else if s.poolFrame ws < need then (s, .none trSPILL_OVERFLOW)
      else match s.vnat ws f 8 with
        | Option.none => (s.faultRecord ws frSPILL ltid 0 f, .none trSPILL_EMPTY)
        | some link =>
          match (s.vsee ws f 8).vwrite ws head (leBytes link 8) with
          | .error _ => (s.faultRecord ws frSPILL ltid 0 head, .none trSPILL_EMPTY)
          | .ok s1 => (s1, .frame f)

/-- A frame of a die's reserve (05 R106). -/
def State.popReserve (s : State) (die : Nat) (ws : Wsid) (cause : Byte) : State × FrameRes :=
  match (List.range 64).find? fun i => (sget (die * 64 + i) s.framesUsed).isNone with
  | some i => ({ s with framesUsed := sset (die * 64 + i) ws s.framesUsed }, .frame (reserveAddr (die * 64 + i)))
  | Option.none => (s, .none cause)

/-- A frame given back: to the reserve, or pushed on the pool's free list (05 R111). A push that faults is recorded
and loses the frame (log 68). -/
def State.freeFrame (s : State) (ltid ws f : Nat) : State :=
  if f = 0 then s
  else if isDev f then { s with framesUsed := sdel ((f - devBase) / reserveSize) s.framesUsed }
  else
    let head := (s.wsWord ws wSPOOL).toNat
    match s.vnat ws head 8 with
    | Option.none => s.faultRecord ws frSPILL ltid 0 head
    | some h =>
      match (s.vsee ws head 8).vwrite ws f (leBytes h 8) with
      | .error _ => s.faultRecord ws frSPILL ltid 0 f
      | .ok s1 => s1.vput ws head 8 f

/-- Whose pre-emption or suspension asks: the reserve serves deadlines and trap delivery (05 R106, R107). -/
inductive SaveMode | scheduler | suspend | deadline | trap
  deriving DecidableEq, Repr

def SaveMode.reserve : SaveMode → Bool
  | .deadline | .trap => true
  | .scheduler | .suspend => false

/-- A frame for a save of `need` bytes: of the workspace's pool, else of the reserve where the save may take one
(05 R106, R107). -/
def State.takeFrame (s : State) (t : Nat) (ws : Wsid) (need : Nat) (m : SaveMode) : State × FrameRes :=
  match s.popPool (s.ltidOf t) ws.toNat need with
  | (s1, .frame f) => (s1, .frame f)
  | (s1, .none cause) => if m.reserve then s1.popReserve (t / 256) ws cause else (s1, .none cause)

/-- The 8-byte words of a frame's argument block and panel blocks, counted from the frame, that carry poison with their data
(05 R103, 21 R350). -/
def Tile.spillPoison (t : Tile) (sv : Save) : List Nat :=
  let zs := setBits 16 sv.sets.z
  let base := sv.size - 19648 * zs.length
  (if sv.arg then (t.argPoison.map (8 + ·)) else [])
  ++ ((List.range zs.length).zip zs).flatMap fun e =>
    ((t.panels.getD e.2 .reset).poison.map fun w => (base + 19648 * e.1) / 8 + 8 + w)

/-- The content of a save written into its frame, poison with the words (05 R103, 21 R350). -/
def State.putFrame (s : State) (t : Nat) (c : Fin 8) (sv : Save) (f : Nat) : Option State :=
  let T := s.tileAt t
  let ws := (s.cx t c).wsid.toNat
  match s.vwrite ws f (T.spillBytes (s.cx t c) sv) with
  | .ok s1 => some ((T.spillPoison sv).foldl (fun s w => s.vpoison ws (f + 8 * w)) s1)
  | .error _ => none

/-- A frame filled: a frame of the pool whose write faults is never pushed back, and the save goes to the reserve; none
where that is empty (05 R111). -/
def State.fillFrame (s : State) (t : Nat) (c : Fin 8) (sv : Save) (f : Nat) : State × FrameRes :=
  match s.putFrame t c sv f with
  | some s1 => (s1, .frame f)
  | none =>
    match (s.faultRecord (s.cx t c).wsid.toNat frSPILL (s.ltidOf t) 0 f).popReserve (t / 256) (s.cx t c).wsid trSPILL_EMPTY with
    | (s1, .frame g) =>
      match s1.putFrame t c sv g with
      | some s2 => (s2, .frame g)
      | none => (s1, .none trSPILL_EMPTY)
    | r => r

/-- What became of a save: done; no frame, for the cause given; or a frame that could not be written with an empty
reserve, which ends the strand (05 R111). -/
inductive Saved
  | done
  | lack (cause : Byte)
  | broken
  deriving DecidableEq, Repr

/-- The record written with its frame (01 R9, R13). A write of the record itself that faults is dropped and the strand
is queued all the same: the spec covers faults of the pool and of the frame only (log 68). -/
def State.putRecord (s : State) (k : Context) (sv : Save) (f : Nat) : State :=
  match s.vwrite k.wsid.toNat k.recAddr.toNat (k.recordBytes sv f) with
  | .ok s1 => s1
  | .error _ => s

/-- The record and its frame written, as one release (01 R13), in a frame already taken or one taken now. -/
def State.saveStrand (s : State) (t : Nat) (c : Fin 8) (sv : Save) (m : SaveMode) : State × Saved :=
  let k := s.cx t c
  if sv.needsFrame then
    let taken := match k.frame with
      | some f => (s, FrameRes.frame f)
      | none => s.takeFrame t k.wsid sv.size m
    match taken with
    | (s1, .none cause) => (s1, .lack cause)
    | (s1, .frame f) =>
      match s1.fillFrame t c sv f with
      | (s2, .none _) => (s2.setCx t c { s2.cx t c with frame := none }, .broken)
      | (s2, .frame g) => (s2.putRecord k sv g, .done)
  else
    let s1 := match k.frame with
      | some f => s.freeFrame (s.ltidOf t) k.wsid.toNat f
      | none => s
    (s1.putRecord k sv 0, .done)

/-! ## The end of a strand -/

def joinV (e : Word) : Bool := e.getLsbD 63
def joinOff (e : Word) : Nat := nbit e.toNat 0 21
def joinLtid (e : Word) : Nat := nbit e.toNat 21 12
def joinArr (e : Word) : Bool := e.getLsbD 33
def joinGen (e : Word) : Nat := nbit e.toNat 34 15

/-- One departure, here or by a message to the weir's tile, which waits where the window has no room for it (09 R189,
10 R214). -/
def State.departEntry (s : State) (t : Nat) (src : Src) (e : Word) : State :=
  if !joinV e then s
  else if joinLtid e = s.ltidOf t then s.setTile t ((s.tileAt t).departure (joinOff e) (joinArr e) (joinGen e))
  else if !(s.tileAt t).hasRoom (joinLtid e) then s.setTile t { s.tileAt t with departs := (s.tileAt t).departs ++ [(src, e)] }
  else s.sendMsg t (joinLtid e) src 0 (BitVec.ofNat 64 (joinOff e + joinLtid e * 2 ^ 24)) (.depart (joinOff e) (joinArr e) (joinGen e))

/-- Departures from every listed weir in entry order (09 R189). -/
def State.departAll (s : State) (t : Nat) (src : Src) (joins : List Word) : State :=
  joins.foldl (fun s e => s.departEntry t src e) s

/-- Departures that waited, sent as far as their windows have room now. -/
def State.flushDeparts (s : State) : State :=
  s.tiles.foldl (fun s e =>
    if e.2.departs.isEmpty then s
    else e.2.departs.foldl (fun s d => s.departEntry e.1 d.1 d.2) (s.setTile e.1 { e.2 with departs := [] })) s

/-- The successors of a range array's template packet (15 R287). -/
def State.templateSucc (s : State) (ws array : Nat) : State × List Word :=
  match s.vnat ws (array + 16) 7 with
  | none => (s, [])
  | some p =>
    match s.vnat ws p 16 with
    | none => (s.vsee ws (array + 16) 7, [])
    | some h =>
      match s.vread ws p (pkBytes h) with
      | .error _ => (s.vsee ws (array + 16) 7, [])
      | .ok (b, _) => ((s.vsee ws (array + 16) 7).vsee ws p (pkBytes h), (List.range (pkNsucc h)).map (pkSucc b h))

/-- LIVE of a range array lowered; the last strand signals the range's successors (15 R287). -/
def State.endRange (s : State) (ltid : Nat) (ws : Wsid) (array : Word) : State :=
  match s.vnat ws.toNat (array.toNat + 4) 2 with
  | none => s
  | some live =>
    let s1 := s.vput ws.toNat (array.toNat + 4) 2 ((live + 65535) % 65536)
    if live = 1 then
      let (s2, succ) := s1.templateSucc ws.toNat array.toNat
      s2.sendSignals ltid ws succ
    else s1

/-- How a strand ends: by TDONE, HALT or ERET, or terminated. -/
inductive EndKind | tdone | halt | eret | terminated
  deriving DecidableEq, Repr

/-- The DOMAIN_FAULT messages of a lost member: its LTID and the domain (06 R134, 15 R296). -/
def State.domainFaults (s : State) (t : Nat) (g : Gang) : State :=
  let info := s.ltidOf t % 4096 + g.domain.toNat * 2 ^ 12
  (g.members.filter (· != t)).foldl (fun s m =>
    s.setTile m ((s.tileAt m).deviceMail (mailMsg mkDOMAIN_FAULT 0xFF (s.ltidOf m) info 0))) s

/-- A strand of the strand table is a member of a gang of a channel that stands on a tile. -/
def State.otherMember (s : State) (t : Nat) (ch : BitVec 3) : Bool :=
  s.strands.any fun e => e.2.tile == t && match e.2.work with
    | .gang die id => (s.die die).gangs.any fun g => g.id == id && g.ch == ch
    | _ => false

/-- A gang member's end on a tile: its membership bit clears, LIVE is lowered, and the last member's end signals the
successors of a gang that has not failed (15 R290, R291). A lost or terminated member fails the gang: the next release
of the channel carries LOST, were it the gang's last, the other members' tiles are told, and the failure is recorded (15 R296, 17 R305). -/
def State.endMember (s : State) (t die id : Nat) (ws : Wsid) (lost : Bool) : State :=
  let d := s.die die
  match d.gangs.find? fun g => g.id == id with
  | none => s
  | some g =>
    let T := s.tileAt t
    let s0 := if s.otherMember t g.ch then s else s.setTile t { T with dommem := T.dommem &&& ~~~(1#8 <<< g.ch.toNat) }
    let s1 := if lost then
      let s := if g.failed then s0 else s0.faultRecord ws.toNat frGANG (s0.ltidOf t) g.domain.toNat 0
      s.domainFaults t g
      else s0
    let g1 := { g with live := g.live - 1, failed := g.failed || lost }
    let mark (c : Channel) : Channel := { c with lost := c.lost || lost }
    let d0 := s1.die die
    let d1 := { d0 with chans := d0.chans.setIfInBounds g.ch.toNat (mark (d0.chans[g.ch.toNat]'g.ch.isLt)) }
    if g.live ≤ 1 then
      let s2 := s1.setDie die { d1 with gangs := d1.gangs.filter fun h => h.id != id }
      if g1.failed then s2 else s2.sendSignals (s2.ltidOf t) ws g.succ
    else
      s1.setDie die { d1 with gangs := d1.gangs.map fun h => if h.id == id then g1 else h }

/-- A staging reservation released (15 R298). -/
def State.release (s : State) (e : Strand) : State :=
  if e.reserve = 0 then s else s.setDie e.die { s.die e.die with use := (s.die e.die).use - e.reserve }

/-- The scheduler's part of a strand's end: the array's LIVE, the gang's count on the member's own tile, the successors of
a plain strand when TDONE ended it; the entry leaves the strand table. -/
def State.endWork (s : State) (t : Nat) (ws : Wsid) (rec : Word) (how : EndKind) : State :=
  match s.strand ws rec with
  | none => s
  | some e =>
    let s1 := ({ s with strands := sdel (recKey ws rec) s.strands }).release e
    match e.work with
    | .plain => if how = .tdone then s1.sendSignals (s1.ltidOf t) e.ws e.succ else s1
    | .range a _ => s1.endRange (s1.ltidOf t) e.ws a
    | .gang d id => s1.endMember e.tile d id e.ws (how == .terminated)

/-- Where the extended state block of a record's frame stands, if its record has one (01 R9, 05 R103). -/
def State.savedXst (s : State) (ws : Nat) (rec : Word) : Option Nat :=
  let w0 := (s.vnat ws rec.toNat 8).getD 0
  let spill := (s.vnat ws (rec.toNat + 16) 8).getD 0
  if spill != 0 && spill % 64 == 0 && nbit w0 58 1 == 1 then
    some (spill + 64 + 256 * nbit ((s.vnat ws (spill + 8) 8).getD 0) 8 1) else none

/-- TREC of a suspended strand, as its frame holds it (05 R104). -/
def State.savedTrec (s : State) (ws : Nat) (rec : Word) : Word :=
  match s.savedXst ws rec with
  | some x => BitVec.ofNat 64 ((s.vnat ws (x + 136) 8).getD 0)
  | none => 0

/-- A suspended strand terminated where its record stands: departures of the join list in its frame, its frame freed,
its work ended (05 R106). -/
def State.killOne (s : State) (t : Nat) (src : Src) (rec : Word) : State :=
  let ws := src.ws.toNat
  let spill := (s.vnat ws (rec.toNat + 16) 8).getD 0
  let named := spill != 0 && spill % 64 == 0
  let joins := match s.savedXst ws rec with
    | some x => (List.range 4).map fun i => BitVec.ofNat 64 ((s.vnat ws (x + 32 + 8 * i) 8).getD 0)
    | none => []
  let s0 := s.vsee ws rec.toNat 24
  let s1 := ((if named then s0.vsee ws spill 128 else s0).departAll t src joins).endWork t src.ws rec .terminated
  let s2 := { s1 with faulted := sdel (recKey src.ws rec) s1.faulted }
  if named then s2.freeFrame (s2.ltidOf t) ws spill else s2

/-- A suspended strand terminated; a suspended handler strand takes the strand it serves with it (05 R114). -/
def State.killRecord (s : State) (t : Nat) (src : Src) (rec : Word) : State :=
  let trec := s.savedTrec src.ws.toNat rec
  let s1 := s.killOne t src rec
  if trec = 0 then s1 else (s1.killOne t src trec).faultRecord src.ws.toNat frNESTED (s1.ltidOf t) 0 trec.toNat

/-- The bytes of a fault-record entry for a terminated strand: the cause and the trap it could not deliver (05 R106). -/
def State.recordEnd (s : State) (t : Nat) (ws : Wsid) (cause undelivered : Nat) (addr : Nat) : State :=
  s.faultRecord ws.toNat frTERMINATED (s.ltidOf t) (cause + undelivered * 256) addr

/-- Dropped results that find nobody to take their fault are recorded (05 R108, 10 R214). -/
def State.recordDrops (s : State) (t : Nat) (ws : Wsid) (rs : List Remote) : State :=
  rs.foldl (fun s r => match r.dropped with
    | some n => s.faultRecord ws.toNat frDELIVERY (s.ltidOf t) n r.addr.toNat
    | none => s) s

/-- A resident strand ended: results of dropped GETs that found nobody are recorded (10 R214), WARRD on its joined weirs,
its work ended, the strand it serves terminated when it is a handler that did not leave by ERET, with its record
(05 R114, R118), the context freed. `nested` is what the NESTED entry names: TINFO and the address of the handler's own
trap, or its TREC where it took none. -/
def State.endStrandAs (s : State) (t : Nat) (c : Fin 8) (how : EndKind) (nested : Nat × Nat) : State :=
  let k := s.cx t c
  let src := s.srcOf t c
  let s0 := s.recordDrops t k.wsid k.th.outs
  let s1 := (s0.departAll t src k.joins.toList).endWork t k.wsid k.recAddr how
  let s2 := if k.trec != 0 && how != .eret then
      (s1.killRecord t src k.trec).faultRecord k.wsid.toNat frNESTED (s1.ltidOf t) nested.1 nested.2 else s1
  let s3 := match k.frame with
    | some f => s2.freeFrame (s2.ltidOf t) k.wsid.toNat f
    | none => s2
  s3.freeCx t c

def State.endStrand (s : State) (t : Nat) (c : Fin 8) (how : EndKind) : State :=
  s.endStrandAs t c how (0, (s.cx t c).trec.toNat)

/-! ## Trap packets (05 R109) -/

/-- A trap record's 48 bytes. -/
def trapRecord (code : Byte) (ctx : Nat) (nested : Bool) (ltid : Nat) (tpc taddr tinfo rec queue : Word) : List Byte :=
  leBytes (code.toNat + ctx % 8 * 2 ^ 8 + b2n nested * 2 ^ 11 + ltid % 4096 * 2 ^ 16) 8
  ++ w8 tpc ++ w8 taddr ++ w8 tinfo ++ w8 rec ++ w8 queue

/-- The plain packet of 64 bytes that carries it. -/
def State.trapPacket (s : State) (ws : Wsid) (payload : List Byte) : List Byte :=
  let prio := (s.wsWord ws.toNat wHPRIO).toNat % 8
  leBytes (1 + prio * 2 ^ 6 + ws.toNat * 2 ^ 16) 8 ++ w8 (s.wsWord ws.toNat wHPC) ++ payload

/-- A trap packet sent to the workspace's fault queue: the state and whether the queue took it or it waits for room
(05 R111). -/
def State.sendTrap (s : State) (ws : Wsid) (payload : List Byte) : State × Bool :=
  let fq := s.wsWord ws.toNat wFQ
  if fq = 0 then (s, false)
  else
    let p := s.trapPacket ws payload
    let (s1, st) := s.enqueue ws fq p
    if st = stOK then (s1, true)
    else if st = stFULL then
      let rec' := BitVec.ofNat 64 (leNat ((payload.drop 32).take 8))
      ({ s1 with fqRetry := s1.fqRetry ++ [{ queue := fq, ws := ws, packet := p, since := s1.tick, addr := rec', ltid := nbit (leNat (payload.take 8)) 16 12 }] }, true)
    else (s1, false)

/-! ## Resumption (01 R11, R12, R19) -/

/-- What stands in a spill area's header. -/
structure SpillHead where
  x : BitVec 32
  v : BitVec 32
  k : BitVec 8
  z : BitVec 16
  arg : Bool
  ok : Bool
  deriving DecidableEq, Repr

/-- A header with a bit of XMASK set that the device never sets, x0 or an inline register, counts as one with a nonzero Z
field (log 68). -/
def spillHeadOf (h : Nat) (xst : Bool) : SpillHead :=
  let x := BitVec.ofNat 32 (nbit h 0 32)
  let v := BitVec.ofNat 32 (nbit h 32 32)
  let k := BitVec.ofNat 8 (nbit h 64 8)
  let z := BitVec.ofNat 16 (nbit h 80 16)
  let arg := nbit h 72 1 == 1
  { x := x, v := v, k := k, z := z, arg := arg,
    ok := nbit h 73 7 == 0 && nbit h 128 384 == 0 && (x &&& (inlineMask ||| 1)) == 0
      && nbit h 96 32 == spillSize arg xst x v k z }

/-- The checks of R11 on a record's words. -/
def recordOk (w0 w1 w2 : Nat) : Bool :=
  nbit w0 0 2 == 0 && nbit w0 60 4 == 0 && nbit w1 36 28 == 0 && decide (nbit w1 28 8 ≤ 6)
  && !(nbit w0 58 1 == 1 && w2 == 0) && w2 % 64 == 0

/-- The parts of a spill area cut from its bytes, for the registers of a mask. -/
def cutParts (size : Nat) : List Nat → List Byte → List (Nat × List Byte)
  | [], _ => []
  | i :: r, b => (i, b.take size) :: cutParts size r (b.drop size)

/-- The CSRs of a context from an extended state block (01 R12, 05 R104). What software has rewritten to a value that a CSR
write would refuse, FRM.RM 5 to 7, is loaded as it stands (log 68). -/
def Context.withXst (c : Context) (b : List Byte) : Context :=
  let n (off : Nat) : Nat := leNat ((b.drop off).take 8)
  let w (off : Nat) : Word := BitVec.ofNat 64 (n off)
  let cp : CopyCsrs := {
    src := w 152, dst := w 160, len := w 168, opt := w 176,
    overrun := BitVec.ofNat 32 (n 184), fxid := BitVec.ofNat 16 (n 184 / 2 ^ 32), fcode := BitVec.ofNat 4 (n 184 / 2 ^ 48),
    faddr := w 192 }
  { c with
    th := { c.th with fflags := BitVec.ofNat 7 (n 0), rm := BitVec.ofNat 3 (n 8), nanov := nbit (n 8) 3 1 == 1,
                      oorf := nbit (n 16) 0 1 == 1, oora := w 24, cp := cp }
    joins := #v[w 32, w 40, w 48, w 56]
    trec := w 136
    runlimit := BitVec.ofNat 24 (n 144)
    gbtimeout := BitVec.ofNat 32 (n 200) }

/-- The panel of a panel block (05 R103) whose 8-byte words `bad`, counted from the block's start, carry poison (21 R350);
restoring it restores its ZCFG (08 R162). A ZCFG that software has rewritten to an illegal one stands as it is (log 68). -/
def Panel.ofBytes (b : List Byte) (bad : List Nat) : Panel :=
  let cfg := leNat (b.take 8)
  { data := memOf 0 ((b.drop 64).take (panelRows * panelRow)), strip := memOf 0 ((b.drop (64 + panelRows * panelRow)).take (panelRows * 12)),
    poison := bad.filterMap fun w => if 8 ≤ w then some (w - 8) else none, fmt := BitVec.ofNat 3 cfg, w32 := nbit cfg 3 1 == 1, rows := BitVec.ofNat 7 (cfg / 16), cols := BitVec.ofNat 9 (cfg / 4096) }

/-- Panels restored by number. -/
def Tile.restorePanels (t : Tile) (ps : List (Nat × Panel)) : Tile :=
  ps.foldl (fun t p => { t with panels := t.panels.setIfInBounds p.1 p.2 }) t

/-- Registers of a spill area's blocks put into a context. -/
def Context.restoreRegs (c : Context) (xs vs ks : List (Nat × List Byte)) : Context :=
  { c with
    th := { c.th with x := xs.foldl (fun a p => a.setIfInBounds p.1 (BitVec.ofNat 64 (leNat p.2))) c.th.x }
    v := vs.foldl (fun a p => a.setIfInBounds p.1 (BitVec.ofNat 1024 (leNat p.2))) c.v
    k := ks.foldl (fun a p => a.setIfInBounds p.1 (BitVec.ofNat 32 (leNat p.2))) c.k }

/-- The context of a record without its spill area (01 R12, R19). -/
def Context.ofRecord (inc : Nat) (rec : Word) (w : List Nat) : Context :=
  let w0 := w.getD 0 0
  let w1 := w.getD 1 0
  let livein := nbit w1 23 5
  let x := (List.range 5).foldl (fun (a : Vector Word 32) i =>
    if nbit livein i 1 = 1 then a.setIfInBounds (10 + i) (BitVec.ofNat 64 (w.getD (3 + i) 0)) else a) (Vector.replicate 32 0)
  let pc := BitVec.ofNat 64 (nbit w0 2 54 * 4)
  { Context.reset with
    st := .ready, inc := inc, th := { Thread.reset with x := x, pc := pc }, rgnpc := pc,
    live := { RegSet.empty with x := BitVec.ofNat 32 (livein * 2 ^ 10) },
    wsid := BitVec.ofNat 12 (nbit w1 0 12), domain := BitVec.ofNat 8 (nbit w1 12 8), prio := BitVec.ofNat 3 (nbit w1 20 3),
    unstaged := nbit w0 56 1 == 1, gang := nbit w0 57 1 == 1, recAddr := rec }

/-- What a record brings back to a core (01 R12): the context, the bytes of the argument block with their poisoned words,
the panels, the frame or 0. -/
structure Restored where
  k : Context
  arg : List Byte
  argBad : List Nat
  panels : List (Nat × Panel)
  frame : Nat
  deriving DecidableEq, Repr

/-- A record read and checked, and what it brings; none for a BAD_RECORD. A record or a spill area that cannot be read
counts as one, and poison of it but that of the argument block and the panels is dropped (21 R350, log 68). -/
def State.readRecord (s : State) (ws : Wsid) (inc : Nat) (rec : Word) : Option Restored :=
  match s.vread ws.toNat rec.toNat 64 with
  | .error _ => none
  | .ok (b, _) =>
    let w := (List.range 8).map fun i => leNat ((b.drop (8 * i)).take 8)
    let w0 := w.getD 0 0
    let w2 := w.getD 2 0
    let xst := nbit w0 58 1 == 1
    if !recordOk w0 (w.getD 1 0) w2 then none
    else
      let c := Context.ofRecord inc rec w
      if w2 = 0 then some { k := c, arg := [], argBad := [], panels := [], frame := 0 }
      else match s.vnat ws.toNat w2 64 with
        | none => none
        | some hn =>
          let h := spillHeadOf hn xst
          if !h.ok then none
          else match s.vread ws.toNat w2 (spillSize h.arg xst h.x h.v h.k h.z) with
            | .error _ => none
            | .ok (b, _) =>
              let b1 := b.drop 64
              let argB := if h.arg then b1.take 256 else []
              let b2 := if h.arg then b1.drop 256 else b1
              let c1 := if xst then c.withXst b2 else c
              let b3 := if xst then b2.drop 256 else b2
              let xs := cutParts 8 (setBits 32 h.x) b3
              let b4 := b3.drop (pad64 (8 * xs.length))
              let vs := cutParts 128 (setBits 32 h.v) b4
              let b5 := b4.drop (128 * vs.length)
              let ks := cutParts 4 (setBits 8 h.k) b5
              let zs := cutParts 19648 (setBits 16 h.z) (b5.drop (pad64 (4 * ks.length)))
              let zoff := w2 + spillSize h.arg xst h.x h.v h.k 0
              let ps := ((List.range zs.length).zip zs).map fun e =>
                (e.2.1, Panel.ofBytes e.2.2 (s.vbad ws.toNat (zoff + 19648 * e.1) 19648))
              let c2 := c1.restoreRegs xs vs ks
              some { k := { c2 with live := { x := c2.live.x ||| h.x, v := h.v, k := h.k, z := h.z } }, arg := argB,
                     argBad := if h.arg then s.vbad ws.toNat (w2 + 64) 256 else [], panels := ps, frame := w2 }

/-- What the reads of `readRecord` do at the slices. -/
def State.seeRecord (s : State) (ws : Wsid) (rec : Word) : State :=
  let s1 := s.vsee ws.toNat rec.toNat 64
  match s.vnat ws.toNat rec.toNat 64 with
  | none => s1
  | some r =>
    let w0 := nbit r 0 64
    let w2 := nbit r 128 64
    if !recordOk w0 (nbit r 64 64) w2 || w2 = 0 then s1
    else match s.vnat ws.toNat w2 64 with
      | none => s1
      | some hn =>
        let h := spillHeadOf hn (nbit w0 58 1 == 1)
        s1.vsee ws.toNat w2 (if h.ok then spillSize h.arg (nbit w0 58 1 == 1) h.x h.v h.k h.z else 64)

/-- The argument area written and claimed (06 R132). -/
def Tile.putArgs (t : Tile) (payload : List Byte) : Tile :=
  t.writeBytes argBase (payload.take 256 ++ List.replicate (256 - payload.length) 0)

/-- The argument area restored, poison with the words (06 R132, 21 R350). -/
def Tile.restoreArgs (t : Tile) (b : List Byte) (bad : List Nat) : Tile :=
  let t1 := t.putArgs b
  { t1 with poison := bad.foldl (fun p i => nsAdd (argBase / 8 + i) p) t1.poison }

/-- The argument area is claimed by some context (06 R132). -/
def Tile.argClaimed (t : Tile) : Bool := t.ctx.any (·.claim)

end Sys2Proof.Machine
end

