-- ==== Sys2Proof/Machine/Ops.lean ====
section
/-! DEFINITION. What every instruction is made of: the acting agent's registers (01 R14, R16), the S point
(01 R17, 02 R28), switch points (06 R120, R121), region boundaries (01 R18, R20), taking a trap
(05 R108 to R111, R114, 06 R126) and issuing an instruction. -/

namespace Sys2Proof.Machine

/-! ## The acting agent -/

def State.tile (s : State) : Tile := s.tileAt s.curTile
def State.putTile (s : State) (t : Tile) : State := s.setTile s.curTile t

def Tile.side (t : Tile) : Side → SideCore
  | .loader => t.ldr
  | .storer => t.str

def Tile.setSide (t : Tile) (sd : Side) (c : SideCore) : Tile :=
  match sd with
  | .loader => { t with ldr := c }
  | .storer => { t with str := c }

def Tile.thread (t : Tile) : Agent → Thread
  | .ctx c => t.ctx[c].th
  | .loader => t.ldr.th
  | .storer => t.str.th

def Tile.setThread (t : Tile) (a : Agent) (h : Thread) : Tile :=
  match a with
  | .ctx c => { t with ctx := t.ctx.set c { t.ctx[c] with th := h } }
  | .loader => { t with ldr := { t.ldr with th := h } }
  | .storer => { t with str := { t.str with th := h } }

def State.th (s : State) : Thread := s.tile.thread s.curAgent
def State.setTh (s : State) (h : Thread) : State := s.putTile (s.tile.setThread s.curAgent h)

/-- The context that acts, or the reset context where a side core does. -/
def State.ctx (s : State) : Context :=
  match s.curAgent with
  | .ctx c => s.tile.ctx[c]
  | _ => .reset

/-- The context that acts replaced; nothing happens where a side core acts. -/
def State.setCtx (s : State) (k : Context) : State :=
  match s.curAgent with
  | .ctx c => s.putTile { s.tile with ctx := s.tile.ctx.set c k }
  | _ => s

/-- Whether a context acts, and not a side core. -/
def State.isCtx (s : State) : Bool :=
  match s.curAgent with
  | .ctx _ => true
  | _ => false

/-- The workspace of the acting agent (02 R6, 06 R123). -/
def State.ws (s : State) : Wsid :=
  match s.curAgent with
  | .ctx c => s.tile.ctx[c].wsid
  | .loader => s.tile.ldr.wsid
  | .storer => s.tile.str.wsid

def State.src (s : State) : Src :=
  { tile := s.curTile, agent := s.curAgent, ws := s.ws,
    inc := match s.curAgent with
      | .ctx c => s.tile.ctx[c].inc
      | .loader => s.tile.ldr.inc
      | .storer => s.tile.str.inc }

/-- The number under which an agent of a tile is known to a walk (13 R271). -/
def whoOf (tile code : Nat) : Nat := tile * 16 + code
def State.who (s : State) : Nat := whoOf s.curTile (agentCode s.curAgent)

/-! ## Registers -/

/-- An x register; x0 reads zero (01 R14). -/
def Thread.readX (h : Thread) (r : Reg) : Word := if r = 0 then 0 else h.x[r.toNat]'(r.isLt)
/-- A write to x0 is discarded (01 R14). -/
def Thread.writeX (h : Thread) (r : Reg) (v : Word) : Thread :=
  if r = 0 then h else { h with x := h.x.set r.toNat v r.isLt }

/-- Registers written since the region's entry (05 R102). -/
def RegSet.addX (w : RegSet) (r : Reg) : RegSet := if r = 0 then w else { w with x := w.x ||| (1#32 <<< r.toNat) }
def RegSet.addV (w : RegSet) (r : Reg) : RegSet := { w with v := w.v ||| (1#32 <<< r.toNat) }
def RegSet.addK (w : RegSet) (r : KReg) : RegSet := { w with k := w.k ||| (1#8 <<< r.toNat) }
def RegSet.addZ (w : RegSet) (z : ZReg) : RegSet := { w with z := w.z ||| (1#16 <<< z.toNat) }
def RegSet.union (a b : RegSet) : RegSet := { x := a.x ||| b.x, v := a.v ||| b.v, k := a.k ||| b.k, z := a.z ||| b.z }

def Context.writeX (c : Context) (r : Reg) (v : Word) : Context :=
  { c with th := c.th.writeX r v, written := c.written.addX r }

def Tile.writeX (t : Tile) (a : Agent) (r : Reg) (v : Word) : Tile :=
  match a with
  | .ctx c => { t with ctx := t.ctx.set c (t.ctx[c].writeX r v) }
  | .loader => { t with ldr := { t.ldr with th := t.ldr.th.writeX r v } }
  | .storer => { t with str := { t.str with th := t.str.th.writeX r v } }

def State.x (s : State) (r : Reg) : Word := s.th.readX r
def State.setX (s : State) (r : Reg) (v : Word) : State := s.putTile (s.tile.writeX s.curAgent r v)

def State.v (s : State) (r : Reg) : VWord := s.ctx.v[r.toNat]'(r.isLt)
def State.setV (s : State) (r : Reg) (v : VWord) : State :=
  s.setCtx { s.ctx with v := s.ctx.v.set r.toNat v r.isLt, written := s.ctx.written.addV r }
def State.k (s : State) (r : KReg) : BitVec 32 := s.ctx.k[r.toNat]'(r.isLt)
def State.setK (s : State) (r : KReg) (v : BitVec 32) : State :=
  s.setCtx { s.ctx with k := s.ctx.k.set r.toNat v r.isLt, written := s.ctx.written.addK r }

def State.pc (s : State) : Word := s.th.pc
def State.setPc (s : State) (pc : Word) : State := s.setTh { s.th with pc := pc }

/-- Flags ORed into FFLAGS (03 R68). -/
def State.raise (s : State) (f : Flags) : State := s.setTh { s.th with fflags := s.th.fflags ||| f }

/-- An out-of-range byte of the tile window noted, at the address of the lowest (01 R25). -/
def Thread.noteOut (h : Thread) (a : Option Word) : Thread :=
  match a with
  | some a => if h.oorf then h else { h with oorf := true, oora := a }
  | none => h
def State.noteOut (s : State) (a : Option Word) : State := s.setTh (s.th.noteOut a)

/-- The next number for something in flight. -/
def State.takeFresh (s : State) : State × Nat := ({ s with fresh := s.fresh + 1 }, s.fresh)

/-! ## Remote results (01 R17) -/

def Remote.arrived (r : Remote) : Bool := r.dropped.isSome || r.bytes.all (·.isSome)
def Remote.value (r : Remote) : Nat := leNat (r.bytes.map (·.getD 0))

/-- A number of `n` bytes extended to a register (04 R92). -/
def extendBytes (v n : Nat) (signed : Bool) : Word :=
  if signed && decide (2 ^ (8 * n - 1) ≤ v) then BitVec.ofNat 64 (2 ^ 64 + v - 2 ^ (8 * n)) else BitVec.ofNat 64 v

/-- The bytes of a v register that were active at issue replaced (07 R156). -/
def mergeBytes (old : VWord) (active : BitVec 128) (new : Nat) : VWord :=
  BitVec.ofNat 1024 (leNat ((List.range 128).map fun i =>
    if active.getLsbD i then BitVec.ofNat 8 (new / 256 ^ i) else BitVec.ofNat 8 (old.toNat / 256 ^ i)))

def Context.land (c : Context) (r : Remote) : Context :=
  match r.dest with
  | .x d signed => c.writeX d (extendBytes r.value r.bytes.length signed)
  | .v d active =>
    { c with v := c.v.set d.toNat (mergeBytes (c.v[d.toNat]'d.isLt) active r.value) d.isLt, written := c.written.addV d }

def Thread.land (h : Thread) (r : Remote) : Thread :=
  match r.dest with
  | .x d signed => h.writeX d (extendBytes r.value r.bytes.length signed)
  | .v _ _ => h

/-- Results landed in order of issue; a poisoned or dropped one lands nothing. -/
def Remote.lands (r : Remote) : Bool := r.dropped.isNone && !r.poison

def Tile.landAll (t : Tile) (a : Agent) : Tile :=
  let outs := (t.thread a).outs.filter (·.lands)
  match a with
  | .ctx c =>
    let k := outs.foldl Context.land t.ctx[c]
    { t with ctx := t.ctx.set c { k with th := { k.th with outs := [] } } }
  | .loader => { t with ldr := { t.ldr with th := { outs.foldl Thread.land t.ldr.th with outs := [] } } }
  | .storer => { t with str := { t.str with th := { outs.foldl Thread.land t.str.th with outs := [] } } }

/-! ## Leaving issue (06 R120, R121) -/

/-- A wait that leaves the claim on the argument area as it is: a fetch that misses is no switch point of the strand
(06 R120, log 69). -/
def Wait.keepsClaim : Wait → Bool
  | .fetch _ => true
  | _ => false

/-- Context `c` stops until a condition holds; a switch point ends the argument-area claim (06 R132). A fetch that misses
gives up issue as at a switch point, but 02 R28 does not name it as one: the claim stays (log 69). -/
def Tile.waitCtx (t : Tile) (c : Fin 8) (w : Wait) : Tile :=
  { t with ctx := t.ctx.set c { t.ctx[c] with st := .waiting w, claim := w.keepsClaim && t.ctx[c].claim }, run := none, last := c }

/-- The acting agent waits: a context at a switch point, a side core by a stall. -/
def State.waitOn (s : State) (w : Wait) : State :=
  match s.curAgent with
  | .ctx c => s.putTile (s.tile.waitCtx c w)
  | .loader => s.putTile { s.tile with ldr := { s.tile.ldr with stall := some w } }
  | .storer => s.putTile { s.tile with str := { s.tile.str with stall := some w } }

/-! ## What is in flight for an agent -/

/-- The source of a store on its way, and of its acknowledgement, at package scope: toward another node only system scope
orders (22 R361). -/
def Flight.storeSrc : Flight → Option Src
  | .winWrite src .. | .regist src .. | .wdata src .. | .ack src .. => some src
  | .atom src .. | .winAtom src .. | .bankAtom src .. => some src
  | _ => none

/-- ZLD and ZST move memory in streams; they are no engine operations (08 R174). -/
def TensorOp.isStream (o : TensorOp) : Bool :=
  match o.instr with
  | .zld .. | .zst .. => true
  | _ => false

/-- MMA alone of the panel instructions is an engine operation of fences (10 R208). -/
def TensorOp.isMma (o : TensorOp) : Bool :=
  match o.instr with
  | .mma .. => true
  | _ => false

/-- The tensor engine's queue holds a ZLD or a ZST of this context (08 R174). -/
def Tile.streams (t : Tile) (src : Src) (ld st : Bool) : Bool :=
  t.tq.any fun o => o.src == src && match o.instr with
    | .zld .. => ld
    | .zst .. => st
    | _ => false

/-- The strand of an agent has stores not yet acknowledged (04 R97, 05 R116, 08 R174). -/
def State.storesOut (s : State) (src : Src) : Bool :=
  s.flights.any (fun f => f.storeSrc == some src) || (s.tileAt src.tile).streams src false true

/-- The steward is serving a page of a workspace (13 R270, R271). -/
def State.stewardServes (s : State) (ws : Wsid) (page : Nat) : Bool :=
  s.walks.any fun w => w.steward && w.ws == ws && w.page == page

/-- The tensor engine holds an operation of this context (03 R69). -/
def Tile.tensorBusy (t : Tile) (src : Src) : Bool := t.tq.any fun o => o.src == src

/-- Nothing of the strand remains to arrive before a trap can be delivered (05 R108, 01 R13). -/
def State.quiet (s : State) (t : Nat) (c : Fin 8) : Bool :=
  let k := s.cx t c
  k.th.outs.all (·.arrived) && !s.storesOut (s.srcOf t c) && !(s.tileAt t).tensorBusy (s.srcOf t c)

/-! ## Traps -/

/-- A trap taken at the boundary before the instruction at `pc`, which has not executed (10 R214). -/
def Trap.atBoundary (t : Trap) (pc : Word) : Trap :=
  match t.resume with
  | .at _ => { t with resume := .at pc }
  | .region => t

/-- The frame of a trap (05 R108): every register, the panels in LIVESET or WRITTEN, the extended state block. -/
def trapSave (k : Context) (tr : Trap) : Save :=
  { pc := match tr.resume with
      | .at pc => pc
      | .region => k.rgnpc
    rgnr := tr.resume == .region, cause := 5,
    sets := { x := 0xFFFF_FFFE, v := 0xFFFF_FFFF, k := 0xFF, z := k.live.z ||| k.written.z }, xst := true, arg := k.claim }

/-- The queue a strand returns to (05 R109). -/
def State.returnQueue (s : State) (ws : Wsid) (rec : Word) : Word := ((s.strand ws rec).map (·.queue)).getD 0

/-- Delivery of a trap of the strand in context `c` of tile `t` (05 R108 to R111, R114). -/
def State.deliverTrap (s : State) (t : Nat) (c : Fin 8) (tr : Trap) : State :=
  let outs := (s.cx t c).th.outs
  let s0 := s.recordDrops t (s.cx t c).wsid outs
  let s1 :=
    if tr.code == trPOISON then s0.setCx t c { s0.cx t c with th := { (s0.cx t c).th with outs := [] } }
    else s0.setTile t ((s0.tileAt t).landAll (.ctx c))
  let k := s1.cx t c
  let ws := k.wsid
  let ltid := s1.ltidOf t
  if k.trec != 0 then
    s1.endStrandAs t c .terminated (tr.tinfo.toNat, tr.taddr.toNat)
  else if s1.wsWord ws.toNat wFQ = 0 then
    (s1.faultRecord ws.toNat frTERMINATED ltid tr.tinfo.toNat tr.taddr.toNat).endStrand t c .terminated
  else
    match s1.saveStrand t c (trapSave k tr) .trap with
    | (s2, .lack cause) => (s2.recordEnd t ws cause.toNat tr.code.toNat tr.taddr.toNat).endStrand t c .terminated
    | (s2, .broken) => (s2.recordEnd t ws trSPILL_EMPTY.toNat tr.code.toNat tr.taddr.toNat).endStrand t c .terminated
    | (s2, .done) =>
      let (s3, sent) := s2.sendTrap ws
        (trapRecord tr.code c.val false ltid tr.tpc tr.taddr tr.tinfo k.recAddr (s2.returnQueue ws k.recAddr))
      if sent then { s3.freeCx t c with faulted := sset (recKey ws k.recAddr) (s3.wsWord ws.toNat wFQ) s3.faulted }
      else
        let frame := (s3.vnat ws.toNat (k.recAddr.toNat + 16) 8).getD 0
        ((s3.faultRecord ws.toNat frTERMINATED ltid tr.tinfo.toNat tr.taddr.toNat).endStrand t c .terminated).freeFrame ltid ws.toNat frame

/-- SPC of a stop at a program counter (02 R49). -/
def spcOf (pc : Word) : BitVec 16 := if pc.toNat < 0x1_0000 then BitVec.ofNat 16 pc.toNat else 0xFFFF

/-- What a side core that stops leaves to the fault record: the fault of a dropped send that it has not taken, and dropped
results that it has not met (10 R214). -/
def State.sideLeft (s : State) (t : Nat) (sd : Side) : State :=
  let c := (s.tileAt t).side sd
  let s1 := s.recordDrops t c.wsid c.th.outs
  match c.pending with
  | some tr => if tr.code == trDELIVERY_FAULT then s1.faultRecord c.wsid.toNat frDELIVERY (s.ltidOf t) tr.tinfo.toNat tr.taddr.toNat else s1
  | none => s1

/-- A side core stopped by a trap, and its SIDE_TRAP message (06 R126, R134). Results of dropped GETs that it has not met are
recorded (10 R214). -/
def State.sideTrap (s : State) (t : Nat) (sd : Side) (code : Byte) (payload : Word) : State :=
  let s := s.recordDrops t ((s.tileAt t).side sd).wsid ((s.tileAt t).side sd).th.outs
  let T := s.tileAt t
  let c := T.side sd
  let spc := spcOf c.th.pc
  let info := (if sd = .loader then 0 else 1) + code.toNat * 2 ^ 8 + spc.toNat * 2 ^ 16
  let c1 := { c with st := .trapped, tcode := code, spc := spc, stall := none, pending := none,
                     th := { c.th with outs := [] } }
  s.setTile t ((T.setSide sd c1).deviceMail (mailMsg mkSIDE_TRAP 0xFF (s.ltidOf t) info payload))

/-- The acting agent takes a trap: a strand's is delivered, at once where nothing of it remains to arrive and
otherwise as soon as nothing does (05 R108); a side core stops (06 R126). -/
def State.takeTrap (s : State) (tr : Trap) : State :=
  match s.curAgent with
  | .ctx c =>
    if s.quiet s.curTile c then s.deliverTrap s.curTile c tr
    else
      let s1 := s.setCtx { s.ctx with pending := some tr }
      s1.putTile { s1.tile with ctx := s1.tile.ctx.set c { s1.tile.ctx[c] with st := .waiting .trap }, run := none, last := c }
  | .loader => s.sideTrap s.curTile .loader tr.code tr.taddr
  | .storer => s.sideTrap s.curTile .storer tr.code tr.taddr

/-- A trap at the present instruction that resumes at it (05 R110). -/
def State.trapHere (s : State) (code : Byte) (taddr tinfo : Word) : State :=
  s.takeTrap { code := code, tpc := s.pc, taddr := taddr, tinfo := tinfo, resume := .at s.pc }

/-- POISON restarts the region; TINFO is the load's PC (04 R94, 05 R110). -/
def State.trapPoison (s : State) (loadPc addr : Word) : State :=
  s.takeTrap { code := trPOISON, tpc := s.pc, taddr := addr, tinfo := loadPc, resume := .region }

/-! ## The S point (01 R17, 02 R28) -/

/-- A result that keeps the S-marked instruction from executing (04 R94, 10 R214). -/
def Remote.bad (r : Remote) : Bool := r.poison || r.dropped.isSome

/-- The trap of the first result that cannot land. -/
def State.landTrap (s : State) (r : Remote) : State :=
  match r.dropped with
  | some n =>
    let h := s.th
    (s.setTh { h with outs := h.outs.filter (·.tag != r.tag) }).takeTrap
      { code := trDELIVERY_FAULT, tpc := r.pc, taddr := r.addr, tinfo := BitVec.ofNat 64 n, resume := .region }
  | none => (s.setTh { s.th with outs := s.th.outs.filter (·.dropped.isSome) }).trapPoison r.pc r.addr

/-- The S point: the results landed, or the state in which the instruction waits or traps. -/
def State.sPoint (s : State) (m : SMark) : Except State State :=
  if !m || s.th.outs.isEmpty then .ok s
  else if !s.th.outs.all (·.arrived) then .error (s.waitOn .results)
  else match s.th.outs.find? (·.bad) with
    | some r => .error (s.landTrap r)
    | none => .ok (s.putTile (s.tile.landAll s.curAgent))

/-! ## Completing an instruction -/

/-- How the body of an instruction ends. -/
inductive Done
  /-- It completes; the program counter advances by 4. -/
  | ok (s : State)
  /-- It completes and ends its region (01 R20). -/
  | commit (s : State)
  /-- It completes and jumps. -/
  | jump (pc : Word) (s : State)
  /-- It traps (05 R110). -/
  | trap (t : Trap) (s : State)
  /-- It waits, and is issued again. -/
  | wait (w : Wait) (s : State)
  /-- Its request has left; the reply brings rd (02 R28). It commits or not (01 R20). -/
  | reply (commit : Bool) (s : State)
  /-- Issue is held: nothing of the instruction happens yet (06 R120). -/
  | hold (s : State)
  /-- The strand has left its context. -/
  | gone (s : State)

/-- What the completion of any instruction leaves behind in its agent. -/
def State.clearMarks (s : State) : State :=
  match s.curAgent with
  | .ctx _ => s.setCtx { s.ctx with released := false, expired := false, suspending := false }
  | .loader => s.putTile { s.tile with ldr := { s.tile.ldr with released := false, expired := false } }
  | .storer => s.putTile { s.tile with str := { s.tile.str with released := false, expired := false } }

/-- The argument-area claim ended (06 R132). -/
def State.endClaim (s : State) : State := s.setCtx { s.ctx with claim := false }

/-- A region begins after a committing instruction (01 R18). -/
def Context.boundary (c : Context) (pc : Word) : Context :=
  { c with rgnpc := pc, live := c.live.union c.written, written := .empty, claim := false }

/-- The program counter past a committing instruction, which ends its region. -/
def State.committed (s : State) : State := (s.setCtx (s.ctx.boundary (s.pc + 4))).setPc (s.pc + 4)

def State.finish : Done → State
  | .ok s => (s.setPc (s.pc + 4)).clearMarks
  | .commit s => s.committed.clearMarks
  | .reply c s => (if c then s.committed else s.setPc (s.pc + 4)).clearMarks.waitOn .reply
  | .jump pc s => (s.setPc pc).clearMarks
  | .trap t s => s.takeTrap t
  | .wait w s => s.waitOn w
  | .hold s => s
  | .gone s => s

/-- The word of an instruction, for TINFO (05 R110). -/
def wordOf (i : Instr) : Word := ((encode i).getD 0).setWidth 64

def Done.illegal (s : State) (i : Instr) : Done :=
  .trap { code := trILLEGAL, tpc := s.pc, taddr := 0, tinfo := wordOf i, resume := .at s.pc } s

def Done.trapAt (s : State) (code : Byte) (taddr tinfo : Word) : Done :=
  .trap { code := code, tpc := s.pc, taddr := taddr, tinfo := tinfo, resume := .at s.pc } s

/-- A stream of the tile's tensor engine waits for a walk. -/
def State.streamWalks (s : State) (n : Nat) : Bool :=
  s.walks.any (fun w => w.joined.any (·.who == whoOf n 10)) || s.walkQ.any (·.joiner.who == whoOf n 10)

/-- An instruction behind a stream of its context: issue is held, but while the stream waits for a walk the other contexts
go on (08 R175). -/
def State.streamHold (s : State) : Done := if s.streamWalks s.curTile then .wait .stream s else .hold s

/-- A committing instruction does not execute while a ZLD or ZST of its context has not finished its stream
(08 R175). -/
def Done.afterStreams (s : State) (d : Done) : Done :=
  match d with
  | .commit _ | .reply true _ => if s.tile.streams s.src true true then s.streamHold else d
  | _ => d

/-- An instruction issued: the S point, the class check of a side core (02 R31, R32), the body, its completion. -/
def issue (i : Instr) (m : SMark) (side : Bool) (body : State → Done) (s : State) : State :=
  match s.sPoint m with
  | .error s' => s'
  | .ok s1 =>
    let s2 := if m then s1.endClaim else s1
    State.finish (if !side && !s2.isCtx then Done.illegal s2 i else (body s2).afterStreams s2)

/-- The window for which the departures of the acting strand have to wait (09 R189, 10 R214). -/
def State.departWait (s : State) : Option Wait :=
  (s.ctx.joins.toList.find? fun e => joinV e && joinLtid e != s.ltidOf s.curTile && !s.tile.hasRoom (joinLtid e)).map fun e =>
    .window (BitVec.ofNat 12 (joinLtid e))

/-- What `exec` answers. -/
abbrev Out := Host.Outcome State Fault Refusal

end Sys2Proof.Machine
end

