-- ==== Sys2Proof/Machine/Operands.lean ====
section
/-! DEFINITION. Operand forms: immediates (02 R30), access widths (04 R92), the regions of virtual addresses
(01 R24, R25), tile addresses (02 R43, 10 R210), store-window regions (11 R239, R240). -/

namespace Sys2Proof.Machine

/-! ## Immediates (02 R30) -/

def immI (i : BitVec 11) : Word := signExt i
def immB (i : BitVec 11) : Word := signExt i * 4
def immU (i : BitVec 19) : Word := signExt i * 2048
def immJ (i : BitVec 19) : Word := signExt i * 4

/-- Bytes of an access width (02 R37). -/
def widthBytes : Width → Nat
  | .b => 1
  | .h => 2
  | .w => 4
  | .d => 8

/-! ## Regions of virtual addresses (01 R24) -/

inductive VRegion | global | window | tile | unassigned
  deriving DecidableEq, Repr

def winBase : Nat := 0xFE00_0000_0000_0000
def tileBase : Nat := 0xFF00_0000_0000_0000

def regionOfVa (va : Nat) : VRegion :=
  if va < globalEnd then .global
  else if va < winBase then .unassigned
  else if va < tileBase then .window
  else .tile

/-- The region that holds every byte of an access; bytes past the last address count to the tile window. -/
def accessRegion (va n : Nat) : VRegion :=
  let r := regionOfVa va
  if n = 0 || regionOfVa (va + n - 1) = r then r else .unassigned

/-- The offset of a tile-window address. -/
def tileOff (va : Nat) : Nat := va - tileBase

/-- The lowest out-of-range byte of tile-window spans, as an address (01 R25). -/
def outByte (spans : List (Nat × Nat)) : Option Word :=
  let outs := spans.flatMap fun sp => (List.range sp.2).map fun i => tileOff sp.1 + i
  (firstOut outs).map fun o => BitVec.ofNat 64 (tileBase + o)

/-- Runs cut at 128-byte lines, with the position of each piece in the whole. -/
def lineCut : Nat → Nat → Nat → Nat → List (Nat × Nat × Nat)
  | 0, _, _, _ => []
  | fuel + 1, pos, va, n =>
    if n = 0 then []
    else
      let k := min n (128 - va % 128)
      (pos, va, k) :: lineCut fuel (pos + k) (va + k) (n - k)

def lineChunks (pos va n : Nat) : List (Nat × Nat × Nat) := lineCut (n / 128 + 2) pos va n

/-! ## Tile addresses (02 R43, 10 R210) -/

def taOff (a : Word) : Nat := nbit a.toNat 0 21
def taLtid (a : Word) : Nat := nbit a.toNat 24 12
def taBad (a : Word) : Bool := nbit a.toNat 21 3 != 0 || nbit a.toNat 36 28 != 0

/-! ## Range locks (09 R198) -/

def lockSlots : Nat := 32

/-- The bytes of a span that a lock can cover: out-of-range bytes of the tile window pass every check (04 R93). -/
def lockable (sp : Nat × Nat) : Nat × Nat := if tileBase ≤ sp.1 then (sp.1, min sp.2 (tileBase + storeSize - sp.1)) else sp

/-- The lock entry that a byte of the spans overlaps, the lowest by number. -/
def Tile.lockHit (t : Tile) (spans : List (Nat × Nat)) : Option Nat :=
  (t.locks.find? fun e => (spans.map lockable).any fun sp => sp.2 != 0 && sp.1 < 64 * e.2.hi && 64 * e.2.lo < sp.1 + sp.2).map (·.1)

/-! ## Store-window regions (11 R239, R240) -/

/-- Whether one of the four grants gives a workspace read, or read and write. -/
def Rgn.grants? (r : Rgn) (ws : Nat) (write : Bool) : Bool :=
  (List.range 4).any fun i =>
    let g := r.grants / 2 ^ (16 * i) % 65536
    let rights := nbit g 12 2
    nbit g 0 12 == ws && (if write then rights == 3 else rights == 1 || rights == 3)

/-- Workspaces that have a region table. -/
def State.tableOwners (s : State) : List Nat := s.listedWs.filter fun w => s.wsWord w wSWBASE != 0

/-- The region an access of a workspace names: its own, or one granted to it, looked for in ascending order of the
owners (log 20). -/
def State.rgnFor (s : State) (ws rid : Nat) (write : Bool) : Option Rgn :=
  match s.rgnOf ws rid with
  | some r => some r
  | none => (s.tableOwners.filterMap fun o => if o = ws then none else s.rgnOf o rid).find? (·.grants? ws write)

def winRid (va : Nat) : Nat := nbit va 32 24
def winOff (va : Nat) : Nat := va % 2 ^ 32

/-- The entry of a page in its region's store table. -/
structure PageEnt where
  loc : Bool
  moving : Bool
  ltid : Nat
  slot : Nat
  gen : Nat
  hot : Nat
  deriving DecidableEq, Repr

def pageEntOf (e : Nat) : PageEnt :=
  { loc := nbit e 0 1 == 1, moving := nbit e 1 1 == 1, ltid := nbit e 2 12, slot := nbit e 14 5, gen := nbit e 19 6, hot := nbit e 25 8 }

def PageEnt.word (p : PageEnt) : Nat :=
  b2n p.loc + 2 * b2n p.moving + p.ltid % 4096 * 2 ^ 2 + p.slot % 32 * 2 ^ 14 + p.gen % 64 * 2 ^ 19 + min p.hot 255 * 2 ^ 25

def State.pageEnt (s : State) (r : Rgn) (page : Nat) : PageEnt := pageEntOf (s.natAt (r.pgtab + 8 * page) 8)
def State.setPageEnt (s : State) (r : Rgn) (page : Nat) (p : PageEnt) : State :=
  s.putNat (r.pgtab + 8 * page) 8 p.word (BitVec.ofNat 12 noWs)


/-- Where a byte of a region stands: in the store of a tile, or in memory at the page's backing. -/
inductive WinPlace | slot (tile off : Nat) | backing (pa : Nat) | moving
  deriving DecidableEq, Repr

def State.winPlace (s : State) (r : Rgn) (off : Nat) : WinPlace :=
  let p := s.pageEnt r (off / pageSize)
  if p.moving then .moving
  else if p.loc then .slot (s.role p.ltid).ptile.toNat (p.slot * pageSize + off % pageSize)
  else .backing (r.back + off)

/-- HOT counted for an access to a page (11 R240). -/
def State.touchPage (s : State) (r : Rgn) (off : Nat) : State :=
  let p := s.pageEnt r (off / pageSize)
  s.setPageEnt r (off / pageSize) { p with hot := satInc p.hot 255 }

end Sys2Proof.Machine
end

