-- ==== Sys2Proof/Machine/TensorView.lean ====
section
/-! DEFINITION. The two-dimensional view of a tensor's entry, but for its ragged axis (08 R168 to R171, R173), panel
configurations (08 R162), and the bytes that a queued stream may touch (08 R174). -/

namespace Sys2Proof.Machine

/-! ## The view (08 R168 to R171) -/

/-- COLS_T and ROWS_T. -/
def TEnt.colsT (t : TEnt) : Nat := if t.mode = 1 then t.e 0 * t.fw * t.fh else t.e 0
def TEnt.rowsT (t : TEnt) : Nat :=
  if t.mode = 1 then t.e 3 * t.oh * t.ow else ((List.range t.rank).filter (· != 0)).foldl (fun p a => p * t.e a) 1

/-- Coordinates of axes from 1 up, by mixed radix. -/
def radix (t : TEnt) : List Nat → Nat → List Nat
  | [], _ => []
  | a :: r, row => (row % t.e a) :: radix t r (row / t.e a)

/-- Coordinates of a plain view element. -/
def TEnt.plain (t : TEnt) (row k : Nat) : Option (List Nat) :=
  if k < t.colsT && decide (row < t.rowsT) then some (k :: radix t ((List.range t.rank).drop 1) row) else none

/-- Coordinates of a convolution view element (08 R169). -/
def TEnt.conv (t : TEnt) (p k : Nat) : Option (List Nat) :=
  let c := t.e 0
  let f := k / c
  let x : Int := (p % t.ow * t.sx + f % t.fw * t.dx : Nat) - (t.px : Int)
  let y : Int := (p / t.ow % t.oh * t.sy + f / t.fw * t.dy : Nat) - (t.py : Int)
  let n := p / (t.ow * t.oh)
  if k < t.colsT && decide (0 ≤ x) && decide (x < t.e 1) && decide (0 ≤ y) && decide (y < t.e 2) && decide (n < t.e 3) then
    some [k % c, x.toNat, y.toNat, n]
  else none

/-- A convolution position at or past the last image (08 R169). -/
def TEnt.overrun (t : TEnt) (p k : Nat) : Bool := t.mode == 1 && decide (k < t.colsT) && decide (t.e 3 ≤ p / (t.ow * t.oh))

/-- The batch slots that a block of a view names, each once: their entries are read before the first of its elements
(08 R170, log 73). -/
def TEnt.slotsIn (t : TEnt) (at' : List (Nat × Nat)) : List Nat :=
  if !t.rag then []
  else ((at'.filterMap fun p => (t.plain p.1 p.2).map fun c => c.getD t.slaxis 0).filter (· < 512)).dedup

/-- The coordinates of a view element, before what a batch slot leaves of the ragged axis (08 R168, R169, R173). -/
def TEnt.wide (t : TEnt) (row k : Nat) : Option (List Nat) :=
  if 2 ^ 32 ≤ row || decide (2 ^ 32 ≤ k) then none else if t.mode = 1 then t.conv row k else t.plain row k

/-- A position with those of its block, where the slot differs within it. -/
def TEnt.withBlock (t : TEnt) (p : Nat × Nat) : List (Nat × Nat) :=
  match t.f.block with
  | some b => if t.rag && t.slaxis = 0 then (List.range b).map fun j => (p.1, p.2 / b * b + j) else [p]
  | none => [p]

/-- The bit address of an element, and the run of bytes that holds it. -/
def TEnt.bitAddr (t : TEnt) (c : List Nat) : Nat :=
  let off := ((List.range c.length).map fun a => (c.getD a 0 : Int) * t.str.getD a 0).foldl (· + ·) 0
  (((t.base : Int) * 8 + t.f.bits * off) % 2 ^ 67).toNat

def bitRun (w a : Nat) : Nat × Nat := (a / 8, (a % 8 + w + 7) / 8)

/-- Bits that a write of an element covers: with the last one of an FP6 axis whose length is no multiple of 4 the padding of
its group is written as zero (03 R59). -/
def padBits (f : PFmt) (len i : Nat) : Nat :=
  if f.grain = 4 && i + 1 == len && len % 4 != 0 then f.bits * (5 - len % 4) else f.bits

/-- Bits that a write of the element at some coordinates covers. -/
def TEnt.storeBits (t : TEnt) (c : List Nat) : Nat := padBits t.f (t.e 0) (c.getD 0 0)

/-- The address of an element's scale (08 R166). -/
def TEnt.scaleAddr (t : TEnt) (c : List Nat) : Nat :=
  let b := t.f.block.getD 32
  let r := (List.range t.rank).foldl (fun (acc : Nat × Nat) a =>
    let i := if a = t.saxis then c.getD a 0 / b else c.getD a 0
    let d := if a = t.saxis then (t.e a + b - 1) / b else t.e a
    (acc.1 + i * acc.2, acc.2 * d)) (t.sbase, 1)
  r.1 % 2 ^ 64

/-! ## Panel configurations (08 R162) -/

/-- A configuration as its CSR value gives it (08 R162). -/
structure PCfg where
  f : PFmt
  rows : Nat
  cols : Nat
  deriving DecidableEq, Repr

def cfgOf (w : Word) : PCfg :=
  { f := { fmt := w.extractLsb' 0 3, w32 := w.getLsbD 3 }, rows := nbit w.toNat 4 7, cols := nbit w.toNat 12 9 }

/-- Elements of a row (08 R162). -/
def PFmt.capacity (f : PFmt) : Nat := 1536 / f.bits

/-- Positions of a panel's block, row by row: of its elements, and of its strip bytes. -/
def elemsAt (c : PCfg) : List (Nat × Nat) :=
  if c.cols = 0 then [] else (List.range c.rows).flatMap fun i => (List.range c.cols).map fun j => (i, j)
def blocksAt (c : PCfg) (b : Nat) : List (Nat × Nat) :=
  if c.cols = 0 then [] else (List.range c.rows).flatMap fun i => (List.range ((c.cols + b - 1) / b)).map fun k => (i, k)

/-! ## The bytes of a stream (08 R174) -/

def TensorOp.pcfg (o : TensorOp) (i : Nat) : PCfg := cfgOf (o.cfg.getD i 0)

/-- The bytes that a stream may touch, from the first to the last: of its elements and of its scales, whatever the batch
slots leave of a ragged axis. -/
def TensorOp.hull (o : TensorOp) : Option (Nat × Nat) :=
  if !o.isStream then none
  else
    let t := entOf o.entry
    let row0 := nbit o.b.toNat 32 32
    let col0 := nbit o.b.toNat 0 32
    let runs := (elemsAt (o.pcfg 0)).filterMap fun p => (t.wide (row0 + p.1) (col0 + p.2)).map fun a => bitRun t.f.bits (t.bitAddr a)
    let scales := match t.f.block with
      | none => []
      | some b => (blocksAt (o.pcfg 0) b).filterMap fun p =>
          ((List.range b).findSome? fun j => t.wide (row0 + p.1) (col0 + p.2 * b + j)).map fun a => (t.scaleAddr a, 1)
    match runs ++ scales with
    | [] => none
    | r :: rs => some (rs.foldl (fun h x => (min h.1 x.1, max h.2 (x.1 + x.2))) (r.1, r.1 + r.2))

def TensorOp.isZst (o : TensorOp) : Bool :=
  match o.instr with
  | .zst .. => true
  | _ => false

/-- A queued stream stands before a load or a store of its context at some bytes: of the same bytes, and of others of the tile
window where a store comes after it (08 R174, 01 R26, 06 R135). -/
def TensorOp.bars (o : TensorOp) (src : Src) (store : Bool) (spans : List (Nat × Nat)) : Bool :=
  o.src == src && (o.isZst || store) &&
  match o.hull with
  | none => false
  | some h =>
    let inTile (va : Nat) : Bool := regionOfVa va == .tile
    spans.any fun sp => (decide (sp.1 < h.2) && decide (h.1 < sp.1 + sp.2)) || (store && inTile sp.1 && (inTile h.1 || inTile (h.2 - 1)))

end Sys2Proof.Machine
end

