-- ==== Sys2Proof/Machine/Settle.lean ====
section
/-! DEFINITION. When what a context or a side core waits for holds (02 R28, 06 R120), and the engine operations of
an agent (10 R208). -/

namespace Sys2Proof.Machine

/-! ## Waits for earlier accesses -/

/-- Scopes of a cluster and wider. -/
def wideScope : Scope → Bool
  | .str | .tile => false
  | .clu | .die | .pkg | .sys => true

/-- A store that has not yet performed for the agents of a scope: at tile scope a store that is registered by its L1
has performed, one that travels has not; wider, every one not acknowledged (04 R97, 13 R256). Toward another node only
system scope orders (22 R361); toward itself a strand needs no wait (01 R26). -/
def Flight.holdsRelease (src : Src) (sc : Scope) : Flight → Bool
  | .wdata o .. | .winWrite o .. | .atom o .. | .winAtom o .. | .bankAtom o .. => sc != .str && o == src
  | .fabWrite o .. | .fabAtom o .. => sc == .sys && o == src
  | .regist o .. | .ack o _ => wideScope sc && o == src
  | _ => false

def State.storesHold (s : State) (src : Src) (sc : Scope) : Bool := s.flights.any (Flight.holdsRelease src sc)

/-- A load on its way, whether or not a register waits for it (04 R97); one of another node's memory orders at system scope
alone (22 R361). -/
def Flight.isLoad (src : Src) (sc : Scope) : Flight → Bool
  | .fill o .. | .fwd o .. | .data o .. | .winRead o .. => o == src
  | .fabRead o .. => sc == .sys && o == src
  | _ => false

/-- The result of a remote access that is on its way to another node. -/
def Flight.farTag (tag : Nat) : Flight → Bool
  | .fabRead _ t .. => t == tag
  | .fabAtom _ o .. => o.tag == tag
  | _ => false

/-- Earlier loads have performed at a scope (04 R97). -/
def State.loadsDone (s : State) (outs : List Remote) (src : Src) (sc : Scope) : Bool :=
  outs.all (fun r => r.arrived || (sc != .sys && s.flights.any (Flight.farTag r.tag)))
  && !s.flights.any (Flight.isLoad src sc) && !(s.tileAt src.tile).streams src true false

/-- Earlier loads have performed and earlier stores are acknowledged at a scope (04 R97). -/
def State.released (s : State) (outs : List Remote) (src : Src) (sc : Scope) : Bool :=
  s.loadsDone outs src sc && !s.storesHold src sc && (sc == .str || !(s.tileAt src.tile).streams src false true)

/-- Two sources are one agent for its engine operations: a side core for all it has launched, a context while the same strand
is resident (10 R208). -/
def Src.sameAgent (a b : Src) : Bool :=
  match a.agent with
  | .ctx _ => a == b
  | .loader | .storer => a.tile == b.tile && a.agent == b.agent

/-- The operations of an agent in the engines of its tile: copies and MMA (10 R208, 08 R174). -/
def Tile.enginesOf (t : Tile) (src : Src) : Bool :=
  t.tq.any (fun o => o.src == src && o.isMma)
  || t.chans.any fun c => c.stage.isNone && src.sameAgent c.owner && (c.st == .running || c.st == .cancelling)

/-- A decode attention of an agent is under way (10 R208, 19 R342). -/
def State.dattnOf (s : State) (src : Src) : Bool := s.dies.any fun d => d.dattn.any fun o => o.src == src

/-- A GET, which a FENCE takes as a read (10 R208). -/
def Msg.isGet (m : Msg) : Bool :=
  match m.body with
  | .get .. => true
  | _ => false

/-- Messages of an agent not yet accepted: the GETs, or the others (10 R208, R214). -/
def Tile.messagesOf (t : Tile) (src : Src) (get : Bool) : Bool :=
  t.windows.any fun e => e.2.msgs.any fun m => m.src == src && m.isGet == get

/-- The read half of an atomic, or the answer to a GET, on its way (10 R208). -/
def Flight.isRead (src : Src) (sc : Scope) : Flight → Bool
  | .atom o _ _ none | .winAtom o _ _ _ _ none | .answer o .. => o == src
  | .fabAtom o .. => sc == .sys && o == src
  | _ => false

/-- A datum of an FSEND on its way (10 R208). -/
def Flight.isDatum (src : Src) : Flight → Bool
  | .fdatum o _ _ _ v _ => o == src && v.isSome
  | _ => false

/-- The predecessor set of a FENCE has performed (10 R208). -/
def State.fenced (s : State) (outs : List Remote) (src : Src) (sc : Scope) (p : FenceSet) : Bool :=
  (!p.r || sc == .str || (s.loadsDone outs src sc && !s.flights.any (Flight.isRead src sc)
      && !(s.tileAt src.tile).messagesOf src true))
  && (!p.w || sc == .str || (!s.storesHold src sc && !(s.tileAt src.tile).messagesOf src false
      && !s.flights.any (Flight.isDatum src) && !(s.tileAt src.tile).streams src false true))
  && (!p.e || (!(s.tileAt src.tile).enginesOf src && !s.dattnOf src))

/-- The smallest scope that holds a tile and the one that a destination is bound to; of an unbound LTID, which may be bound
anywhere by the time the message is placed, the package. -/
def State.scopeTo (s : State) (tile dst : Nat) : Scope := if (s.role dst).v then tileScope tile (s.role dst).ptile.toNat else .pkg

/-- The earlier accesses of the sender of a NOTIFY have performed at the scope of both tiles; its messages to the same
destination are ordered by their numbers (10 R212). -/
def State.notifyReady (s : State) (outs : List Remote) (src : Src) (dst : Nat) : Bool :=
  s.released outs src (s.scopeTo src.tile dst)
  && !(s.tileAt src.tile).windows.any fun e => e.1 != dst && e.2.msgs.any fun m => m.src == src

/-- Scheduled sends of a tile's channel that have not been written at their destinations (15 R292, 17 R307). -/
def State.sendsOut (s : State) (tile : Nat) (ch : BitVec 3) : Bool :=
  (s.tileAt tile).xsend.any (fun x => x.entry.extractLsb' 56 3 == ch)
  || (s.tileAt tile).windows.any fun e => e.2.msgs.any fun m => match m.body with
    | .xput c .. => c == ch && decide (s.expected tile e.1 ≤ m.seq)
    | _ => false

/-- The stores of a strand are acknowledged at die scope and wider, and the scheduled sends of the tile's window have
performed (15 R292). -/
def State.gathered (s : State) (src : Src) (ch : BitVec 3) : Bool :=
  !s.storesHold src .die && !(s.tileAt src.tile).streams src false true && !s.sendsOut src.tile ch

/-! ## Messages an agent may take (06 R134) -/

def msgKind (m : BitVec 128) : Nat := nbit m.toNat 0 8
def msgCtx (m : BitVec 128) : Nat := nbit m.toNat 8 8

def mayTake (a : Agent) (m : BitVec 128) : Bool := msgCtx m == agentCode a || msgCtx m == 0xFF

/-! ## Conditions -/

/-- The tag of a tile-store word; an out-of-range word satisfies every wait (01 R25, 09 R191). -/
def Tile.tagIs (t : Tile) (off : Nat) (full : Bool) : Bool := decide (storeSize ≤ off) || nsMem (off / 8) t.full == full

/-- A datum of a furrow on its way. -/
def Flight.ofFurrow (fid : Nat) : Flight → Bool
  | .fdatum _ f _ _ _ _ => f == fid
  | _ => false

/-- Whether the condition of a wait holds for an agent. -/
def State.waitOver (s : State) (src : Src) (th : Thread) : Wait → Bool
  | .results => th.outs.all (·.arrived)
  | .acquire => th.outs.all fun r => r.acquire.isNone || r.arrived
  | .release sc => s.released th.outs src sc
  | .stores => !s.storesOut src
  | .fence sc p => s.fenced th.outs src sc p
  | .walk ws page => !s.walks.any (fun w =>
      w.ws == ws && w.page == page && w.joined.any fun j => j.who == whoOf src.tile (agentCode src.agent) && j.pref.isNone)
  | .fetch pa => !s.flights.any fun f => match f with
    | .ifill o p _ => o.tile == src.tile && p == pa
    | _ => false
  | .host sector => !s.biOn sector
  | .queue q => !((s.tileAt src.tile).queues.getD q.toNat []).isEmpty
  | .room q => decide (((s.tileAt src.tile).queues.getD q.toNat []).length < 16)
  | .tag off full => (s.tileAt src.tile).tagIs off full
  | .message => (s.tileAt src.tile).mail.any (mayTake src.agent)
  | .phase off p _ => decide (storeSize ≤ off) || ((s.tileAt src.tile).weir off).phase != p
  | .notify dst => s.notifyReady th.outs src dst.toNat
  | .gather ch _ => s.gathered src ch
  | .window dst => (s.tileAt src.tile).hasRoom dst.toNat
  | .credit ep => match (s.tileAt src.tile).fsrc.getD ep.toNat none with
    | some f => decide (0 < f.credit) || f.severed || f.closed
    | none => true
  | .datum ep => match (s.tileAt src.tile).fsink.getD ep.toNat none with
    | some f => !f.buf.isEmpty || f.severed || f.closed || (f.drained && !s.flights.any (Flight.ofFurrow f.fid))
    | none => true
  | .arrive ch _ => !(s.tileAt src.tile).arrived.getLsbD ch.toNat
  | .barrier ch => !(s.tileAt src.tile).arrived.getLsbD ch.toNat
  | .wfi was => (s.tileAt src.tile).phases != was
  | .stream => !s.streamWalks src.tile
  | .reply | .frame | .trap => false

/-- A wait whose release is remembered for the re-issue (09 R187, 15 R293). -/
def Wait.remembered : Wait → Bool
  | .phase .. | .barrier _ | .wfi _ => true
  | _ => false

def State.settleCtx (s : State) (t : Nat) (k : Context) (c : Fin 8) : Context :=
  match k.st with
  | .waiting w =>
    if k.pending.isSome && w != .trap && w != .reply then { k with st := .ready }
    else if s.waitOver { tile := t, agent := .ctx c, inc := k.inc, ws := k.wsid } k.th w then
      { k with st := .ready, released := k.released || w.remembered }
    else k
  | _ => k

def State.settleSide (s : State) (t : Nat) (a : Agent) (k : SideCore) : SideCore :=
  match k.stall with
  | some w =>
    if k.pending.isSome && w != .reply then { k with stall := none }
    else if s.waitOver { tile := t, agent := a, inc := k.inc, ws := k.wsid } k.th w then
      { k with stall := none, released := k.released || w.remembered }
    else k
  | none => k

/-- Whether any agent of a tile waits. -/
def Tile.waits (t : Tile) : Bool :=
  t.ldr.stall.isSome || t.str.stall.isSome || t.ctx.any fun k => match k.st with
    | .waiting _ => true
    | _ => false

def State.settleTile (s : State) (n : Nat) (t : Tile) : Tile :=
  if t.waits then
    { t with ctx := Vector.ofFn fun c => s.settleCtx n t.ctx[c] c,
             ldr := s.settleSide n .loader t.ldr, str := s.settleSide n .storer t.str }
  else t

/-- Write-backs' errors charged to the fault records of their workspaces (13 R267, 21 R352). -/
def State.chargeAll (s : State) : State :=
  s.charges.foldl (fun s c => s.faultRecord c.ws.toNat frEVICT (s.ltidOf c.tile) 0 c.pa) { s with charges := [] }

/-- Contexts whose condition holds become Ready, side cores go on (06 R120, 02 R28); so does one that has a trap to take
at its next boundary (08 R175, 10 R214). -/
def State.settleAll (s : State) : State := { s with tiles := s.tiles.map fun e => (e.1, s.settleTile e.1 e.2) }

end Sys2Proof.Machine
end

