-- ==== Sys2Proof/Machine/Translate.lean ====
section
/-! DEFINITION. The TLB of a tile (13 R269), the walks that its misses ask for, with their merging and their queues
(13 R270, R271). -/

namespace Sys2Proof.Machine

/-- What an access needs of its pages (13 R270). -/
structure Need where
  r : Bool
  w : Bool
  x : Bool
  deriving DecidableEq, Repr

def needLoad : Need := ⟨true, false, false⟩
def needStore : Need := ⟨false, true, false⟩
def needAtomic : Need := ⟨true, true, false⟩
def needFetch : Need := ⟨false, false, true⟩

/-- The outcome of the checks of an access. -/
inductive Reach (α : Type)
  | ok (a : α)
  | wait (w : Wait) (s : State)
  | trap (code : Byte) (addr : Nat) (s : State)

/-- Page of 4 KiB of an address. -/
def pageOf (va : Nat) : Nat := va / 4096

/-! ## The TLB (13 R269) -/

def tlbSlots : Nat := 128

/-- The entry that translates an address of a workspace, with its slot. -/
def Tile.tlbFind (t : Tile) (ws : Wsid) (va : Nat) : Option (Nat × TlbEntry) :=
  t.tlb.find? fun e => e.2.ws == ws && decide (e.2.va ≤ va) && decide (va < e.2.va + e.2.size)

def TlbEntry.allows (e : TlbEntry) (n : Need) : Bool := (!n.r || e.r) && (!n.w || e.w) && (!n.x || e.x)

/-- The bits of the replacement after a use of a slot: a tree of 127 bits over the 128 slots, bit n for node n, each bit on the
way to the slot turned to the other side (log 8). -/
def plruTouch (b : BitVec 128) (slot : Nat) : BitVec 128 :=
  (List.range 7).foldl (fun b i =>
    let child := (tlbSlots + slot) / 2 ^ i
    let bit : BitVec 128 := 1#128 <<< (child / 2)
    if child % 2 = 0 then b ||| bit else b &&& ~~~bit) b

/-- The slot that the bits point to. -/
def plruVictim (b : BitVec 128) : Nat := (List.range 7).foldl (fun n _ => 2 * n + (if b.getLsbD n then 1 else 0)) 1 - tlbSlots

/-- The slot for a new entry: the one that holds the same page already, else a free one, else the one replaced. -/
def Tile.tlbSlot (t : Tile) (e : TlbEntry) : Nat :=
  match t.tlb.find? fun o => o.2.ws == e.ws && o.2.va == e.va && o.2.size == e.size with
  | some o => o.1
  | none => ((List.range tlbSlots).find? fun i => (sget i t.tlb).isNone).getD (plruVictim t.plru)

/-- A leaf entered in a TLB. -/
def Tile.tlbAdd (t : Tile) (ws : Wsid) (l : Leaf) : Tile :=
  let e : TlbEntry := { ws := ws, va := l.base, size := l.size, pa := l.pa, r := l.r, w := l.w, x := l.x, sealed := l.sealed }
  let i := t.tlbSlot e
  { t with tlb := sset i e t.tlb, plru := plruTouch t.plru i }

/-- Entries kept. -/
def Tile.tlbKeep (t : Tile) (p : TlbEntry → Bool) : Tile := { t with tlb := t.tlb.filter fun e => p e.2 }

/-- The use of a page's entry noted for the replacement. -/
def State.touchTlb (s : State) (tile : Nat) (ws : Wsid) (va : Nat) : State :=
  match (s.tileAt tile).tlbFind ws va with
  | some e => s.setTile tile { s.tileAt tile with plru := plruTouch (s.tileAt tile).plru e.1 }
  | none => s

/-! ## Walks (13 R270, R271) -/

/-- The refusal of the steward that waits for an agent (13 R271). -/
def State.refusal (s : State) (who : Nat) (ws : Wsid) (page : Nat) : Option Byte :=
  (s.refused.find? fun r => r.who == who && r.ws == ws && r.page == page).map (·.code)

def State.dropRefusal (s : State) (who : Nat) (ws : Wsid) (page : Nat) : State :=
  { s with refused := s.refused.filter fun r => !(r.who == who && r.ws == ws && r.page == page) }

/-- Miss entries of a walk unit, requests in its queue, pairs in the steward's queue (13 R271). -/
def missSlots : Nat := 32
def walkQueueSlots : Nat := 256
def stewardSlots : Nat := 4096

def State.hasEntry (s : State) (unit : Nat) (ws : Wsid) (page : Nat) : Bool :=
  s.walks.any fun w => w.unit == unit && w.ws == ws && w.page == page

def State.missRoom (s : State) (unit : Nat) : Bool := decide ((s.walks.filter (·.unit == unit)).length < missSlots)

/-- A request joined to the entry of its pair, or given a new one. -/
def State.enterWalk (s : State) (r : WalkReq) : State :=
  if s.hasEntry r.unit r.ws r.page then
    { s with walks := s.walks.map fun w =>
        if w.unit == r.unit && w.ws == r.ws && w.page == r.page && !w.joined.contains r.joiner then { w with joined := w.joined ++ [r.joiner] }
        else w }
  else { s with walks := s.walks ++ [{ unit := r.unit, ws := r.ws, page := r.page, steward := false, joined := [r.joiner] }] }

/-- A walk asked for at the walk unit of the requester's tile: joined to its pair's entry, given a new one, or queued; with the
queue full the requester holds, and asks again (13 R271). -/
def State.joinWalk (s : State) (ws : Wsid) (page : Nat) (j : Joiner) : State :=
  let r : WalkReq := { unit := nearSlice (j.who / 16), ws := ws, page := page, joiner := j }
  if s.hasEntry r.unit ws page || s.missRoom r.unit then s.enterWalk r
  else if s.walkQ.contains r || walkQueueSlots ≤ (s.walkQ.filter (·.unit == r.unit)).length then s
  else { s with walkQ := s.walkQ ++ [r] }

/-- The walk that an access needs. -/
def State.askWalk (s : State) (who : Nat) (ws : Wsid) (page : Nat) (n : Need) : State :=
  s.joinWalk ws page { who := who, r := n.r, w := n.w, x := n.x, pref := none }

/-- Queued requests that find an entry of their pair, or room for one, in arrival order (13 R271). -/
def State.pumpWalks (s : State) : State :=
  s.walkQ.foldl (fun s r =>
    if s.hasEntry r.unit r.ws r.page || s.missRoom r.unit then ({ s with walkQ := s.walkQ.erase r } : State).enterWalk r else s) s

/-- The refusal taken, or the walk asked for and waited for. -/
def State.needWalk (s : State) (who : Nat) (ws : Wsid) (va : Nat) (n : Need) : Reach α :=
  match s.refusal who ws (pageOf va) with
  | some c => .trap c va (s.dropRefusal who ws (pageOf va))
  | none => .wait (.walk ws (pageOf va)) (s.askWalk who ws (pageOf va) n)

/-- The request of an agent for a page is being walked by the hardware: it has an entry that the steward does not serve, or
stands in the queue. -/
def State.walkRuns (s : State) (who : Nat) (ws : Wsid) (page : Nat) : Bool :=
  s.walks.any (fun w => !w.steward && w.ws == ws && w.page == page && w.joined.any fun j => j.who == who && j.pref.isNone)
  || s.walkQ.any fun r => r.ws == ws && r.page == page && r.joiner.who == who && r.joiner.pref.isNone

/-- One address translated through a tile's TLB (13 R269); a page of the device's storage that the tables do not map is at
hand (log 6). -/
def State.viaTlb (s : State) (tile who : Nat) (ws : Wsid) (va : Nat) (n : Need) : Reach (Nat × Bool) :=
  match (s.tileAt tile).tlbFind ws va with
  | some (_, e) =>
    if n.w && e.sealed then .trap trPERM_FAULT va s
    else if e.allows n then .ok (e.pa + (va - e.va), e.sealed)
    else s.needWalk who ws va n
  | none =>
    if isDev va && !n.x && (s.leafOf ws.toNat va).any (·.size = 1) then .ok (va, false) else s.needWalk who ws va n

end Sys2Proof.Machine
end

