-- ==== Sys2Proof/Machine/Access.lean ====
section
/-! DEFINITION. The accesses of agents to memory: the checks of 04 R93 and the translation of 13 R269 to R271, reads
in the remote class (01 R17, 13 R257), posted stores (04 R95, 13 R255), acquire and release (04 R96, R97). -/

namespace Sys2Proof.Machine

/-! ## Translation of an agent's access -/

/-- Where a piece of an access performs. -/
inductive Place
  | mem (pa : Nat) (sealed : Bool)
  | node (n pa : Nat)
  | win (ows rid off : Nat)
  deriving DecidableEq, Repr

/-- A piece of an access: its position in the whole, its length, where it performs. -/
structure Piece where
  pos : Nat
  len : Nat
  at' : Place
  deriving DecidableEq, Repr

/-- One address of global memory: here, or at another node (22 R359). A map read that faults makes the access take
PAGE_FAULT. -/
def State.reachGlobal (s : State) (tile who : Nat) (ws : Wsid) (va : Nat) (n : Need) : Reach Place :=
  match s.fabPlace ws.toNat va with
  | .fault =>
    match s.needWalk (α := Place) who ws (s.fabByte ws.toNat va) needLoad with
    | .trap _ _ s' => .trap trPAGE_FAULT va s'
    | r => r
  | .node k =>
    match s.viaTlb tile who ws va n with
    | .ok (pa, _) => .ok (.node k pa)
    | .wait w s' => .wait w s'
    | .trap c a s' => .trap c a s'
  | .here =>
    match s.viaTlb tile who ws va n with
    | .ok (pa, sl) => .ok (.mem pa sl)
    | .wait w s' => .wait w s'
    | .trap c a s' => .trap c a s'

/-- One address of the store window (04 R93 step 3, 11 R239); `n` bytes from it lie in one page. -/
def State.reachWindow (s : State) (ws : Wsid) (va len : Nat) (need : Need) : Reach Place :=
  match s.rgnFor ws.toNat (winRid va) need.w with
  | some r =>
    if (r.ows == ws.toNat || r.grants? ws.toNat need.w) && decide (winOff va + len ≤ r.npages * pageSize) then
      .ok (.win r.ows r.rid (winOff va))
    else .trap trPERM_FAULT va s
  | none => .trap trPERM_FAULT va s

/-- Every piece of an access translated, in ascending order of address; the first trap or wait ends it. -/
def State.reachPieces (s : State) (need : Need) : List (Nat × Nat × Nat) → Reach (List Piece)
  | [] => .ok []
  | (pos, va, n) :: r =>
    let one := match regionOfVa va with
      | .window => s.reachWindow s.ws va n need
      | _ => s.reachGlobal s.curTile s.who s.ws va need
    match one with
    | .wait w s' => .wait w s'
    | .trap c a s' => .trap c a s'
    | .ok p =>
      match s.reachPieces need r with
      | .ok ps => .ok ({ pos := pos, len := n, at' := p } :: ps)
      | e => e

/-- An access that cannot go on: while the tables are being walked a context keeps issue and the access is held; it is a
switch point once the steward serves the translation, and where the walk unit takes no request (02 R28, 06 R120,
13 R271). What stands behind accesses under way is held. -/
def Done.waits (w : Wait) (s : State) : Done :=
  match w with
  | .walk ws page => if s.isCtx && s.walkRuns s.who ws page then .hold s else .wait w s
  | .stream => .hold s
  | _ => .wait w s

/-- An LACQ whose read is outstanding holds the next access back (04 R96). -/
def State.acquiring (s : State) : Bool := s.th.outs.any fun r => r.acquire.isSome && !r.arrived

/-- An atomic of the agent at its tile's bank update unit is between its read and its write (10 R201). -/
def Flight.bankOf (src : Src) : Flight → Bool
  | .bankAtom o .. => o == src
  | _ => false

/-- What holds an access back: an LACQ whose read is outstanding (04 R96), an atomic of the agent's own that has not yet
written the tile store (01 R26), a queued ZST before a load, a queued ZLD or ZST before a store of the same bytes (08 R174). -/
def State.accessWait (s : State) (store : Bool) (spans : List (Nat × Nat)) : Option Done :=
  if s.acquiring then some (.wait .acquire s)
  else if s.tile.tq.any fun o => o.bars s.src store spans then some s.streamHold
  else if s.flights.any (Flight.bankOf s.src) then some (.hold s)
  else none

/-- The trap of an overlap with a range lock (04 R93 step 4). -/
def State.lockTrap (s : State) (va : Nat) (spans : List (Nat × Nat)) : Option Done :=
  (s.tile.lockHit spans).map fun i => Done.trapAt s trRANGE_LOCKED (BitVec.ofNat 64 va) (BitVec.ofNat 64 i)

/-- An atomic of an agent on its way to a word. -/
def Flight.atomOn (src : Src) (w : Nat) : Flight → Bool
  | .atom o _ pa _ => o == src && pa / 8 == w
  | _ => false

/-- A load or a store comes after its own agent's atomics on its words (01 R26): it is held until they have performed. One
of another agent may fall between an atomic's read and its write (10 R201). -/
def State.atomAhead (s : State) (ps : List Piece) : Bool :=
  s.flights.any fun f => ps.any fun p => match p.at' with
    | .mem pa _ => (wordsOf pa p.len).any fun w => f.atomOn s.src w
    | _ => false

/-- The uses of the pages of an access noted in the TLB. -/
def State.touchPages (s : State) (spans : List (Nat × Nat × Nat)) : State :=
  (spans.flatMap fun sp => [sp.2.1, sp.2.1 + sp.2.2 - 1]).foldl (fun s va => s.touchTlb s.curTile s.ws va) s

/-- The translation of an access outside the tile window, then what `locks` finds (04 R93 steps 2 to 4). `spans` are its bytes
with their positions. -/
def State.reachThen (s : State) (need : Need) (spans : List (Nat × Nat × Nat)) (locks : Option Done)
    (k : State → List Piece → Done) : Done :=
  match s.reachPieces need (spans.flatMap fun sp => lineChunks sp.1 sp.2.1 sp.2.2) with
  | .wait w s' => Done.waits w s'
  | .trap c a s' => Done.trapAt s' c (BitVec.ofNat 64 a) 0
  | .ok ps =>
    match locks with
    | some d => d
    | none => if !(need.r && need.w) && s.atomAhead ps then .hold s else k (s.touchPages spans) ps

/-- The checks of an access outside the tile window. -/
def State.reach (s : State) (need : Need) (va : Nat) (spans : List (Nat × Nat × Nat)) (k : State → List Piece → Done) : Done :=
  s.reachThen need spans (s.lockTrap va (spans.map (·.2))) k

/-! ## Reads of the remote class -/

/-- Bytes of an outstanding result put in place. -/
def Remote.fill (r : Remote) (pos : Nat) (bytes : List Byte) (poison : Bool) : Remote :=
  { r with
    bytes := (List.range r.bytes.length).map fun i =>
      if pos ≤ i && decide (i < pos + bytes.length) then some (bytes.getD (i - pos) 0) else r.bytes.getD i none
    poison := r.poison || poison }

/-- What a read brought back, given to the result it belongs to. Where the result completes an acquire of cluster scope
or wider, the L1 self-invalidates (13 R258). -/
def State.deliver (s : State) (src : Src) (tag pos : Nat) (bytes : List Byte) (poison : Bool) : State :=
  let t := s.tileAt src.tile
  let h := t.thread src.agent
  let outs := h.outs.map fun r => if r.tag = tag then r.fill pos bytes poison else r
  let s1 := s.setTile src.tile (t.setThread src.agent { h with outs := outs })
  match outs.find? (·.tag = tag) with
  | some r => if r.arrived && r.acquire.any wideScope then s1.selfInvalidate src.tile else s1
  | none => s1

/-- The words that a read or a store of a tile still on its way touches. -/
def Flight.touches (tile w : Nat) : Flight → Bool
  | .fill src _ _ pa len .. | .fwd src _ _ pa len .. | .data src _ _ pa len .. =>
    src.tile == tile && decide (pa / 8 ≤ w) && decide (w < (pa + len + 7) / 8)
  | .wdata src _ w' _ _ | .regist src _ w' => src.tile == tile && w' == w
  | .atom src _ pa _ => src.tile == tile && pa / 8 == w
  | _ => false

/-- A read not yet served, or a store that carries its bytes. -/
def Flight.unserved : Flight → Bool
  | .fill .. | .fwd .. | .wdata .. | .atom .. => true
  | _ => false

def Flight.isRegist : Flight → Bool
  | .regist .. => true
  | _ => false

/-- A word that another agent of the tile has written, and whose registration is still on its way: the write is not yet
visible to all, and so to none (18 R318). -/
def Flight.unseen (src : Src) (w : Nat) : Flight → Bool
  | .regist o _ x => o.tile == src.tile && o != src && x == w
  | _ => false

/-- Bytes of an L1 hit: every word held, none merging, none written by another agent and not yet registered; none for a miss
(13 R257). -/
def State.l1Hit (s : State) (src : Src) (pa len : Nat) : Option (List Byte × Bool) :=
  let t := s.tileAt src.tile
  let ws := wordsOf pa len
  let held := ws.filterMap fun w => match sget w t.l1 with
    | some l => if l.merging.isNone && !s.flights.any (Flight.unseen src w) then some l else none
    | none => none
  if held.length = ws.length then some (((held.flatMap (·.bytes)).drop (pa % 8)).take len, held.any (·.poison)) else none

/-- Words of a line that a store or an atomic of the tile is on its way to: what the slice sends of them now is older, and is
not kept (01 R26). -/
def State.ownPending (s : State) (tile line : Nat) : NatSet :=
  ((List.range 16).map (line * 16 + ·)).filter fun w => s.flights.any fun f => match f with
    | .wdata .. | .atom .. | .regist .. => f.touches tile w
    | _ => false

/-- A fill sent to the home slice of a line (13 R257). -/
def State.sendFill (s : State) (src : Src) (tag pos pa len : Nat) (keep sealed : Bool) : State :=
  { s with flights := s.flights ++ [.fill src tag pos pa len (if keep then some [] else none) sealed] }

/-- A piece of a read begun: an L1 hit brings its bytes at once, everything else travels. -/
def State.readPiece (s : State) (src : Src) (tag : Nat) (p : Piece) : State :=
  match p.at' with
  | .mem pa sealed =>
    match s.l1Hit src pa p.len with
    | some (bs, poison) => s.deliver src tag p.pos bs poison
    | none => s.sendFill src tag p.pos pa p.len true sealed
  | .node n pa => { s with flights := s.flights ++ [.fabRead src tag p.pos n pa p.len (s.nodePort n pa) s.tick] }
  | .win ows rid off => { s with flights := s.flights ++ [.winRead src tag p.pos ows rid off p.len] }

/-- A result of the remote class becomes outstanding, and its pieces are read. A load to x0 leaves nothing
outstanding (04 R76). -/
def State.beginRead (s : State) (dest : RDest) (va : Nat) (bytes : List (Option Byte)) (acq : Option Scope)
    (keep : Bool) (ps : List Piece) : State :=
  let (s1, tag) := s.takeFresh
  let r : Remote := { tag := tag, dest := dest, pc := s.pc, addr := BitVec.ofNat 64 va, bytes := bytes, poison := false,
                      dropped := none, acquire := acq }
  let s2 := if keep then s1.setTh { s1.th with outs := s1.th.outs ++ [r] } else s1
  ps.foldl (fun s p => s.readPiece s.src tag p) s2

/-! ## Loads -/

/-- A tile-window read: its bytes, or the trap of a lock or of a poisoned word (04 R93, R94). -/
def State.tileRead (s : State) (va n : Nat) (k : State → List Byte → Done) : Done :=
  match s.lockTrap va [(va, n)] with
  | some d => d
  | none =>
    if s.tile.poisoned (tileOff va) n then
      .trap { code := trPOISON, tpc := s.pc, taddr := BitVec.ofNat 64 va, tinfo := s.pc, resume := .region } s
    else k (s.noteOut (outByte [(va, n)])) (s.tile.bytes (tileOff va) n)

/-- A plain load of `n` bytes (04 R92, R93). -/
def State.load (s : State) (rd : Reg) (va : Word) (n : Nat) (signed : Bool) : Done :=
  let a := va.toNat
  match s.accessWait false [(a, n)] with
  | some d => d
  | none =>
  match accessRegion a n with
    | .unassigned => Done.trapAt s trACCESS_FAULT va 0
    | .tile => s.tileRead a n fun s bs => .ok (s.setX rd (extendBytes (leNat bs) n signed))
    | _ => s.reach needLoad a [(0, a, n)] fun s ps =>
        .ok (s.beginRead (.x rd signed) a (List.replicate n none) none (rd != 0) ps)

/-- An acquiring load (04 R96); the result of a tile-window read has arrived at once, and stays outstanding. POISON in the tile
window is taken at the load (04 R94, R99; DESIGN CHOICE, log 82). -/
def State.loadAcquire (s : State) (sc : Scope) (rd : Reg) (va : Word) (n : Nat) : Done :=
  let a := va.toNat
  match s.accessWait false [(a, n)] with
  | some d => d
  | none =>
  match accessRegion a n with
    | .unassigned => Done.trapAt s trACCESS_FAULT va 0
    | r =>
      if a % n != 0 then Done.trapAt s trMISALIGNED va 0
      else match r with
        | .tile => s.tileRead a n fun s bs =>
            let s1 := s.beginRead (.x rd true) a (bs.map some) (some sc) true []
            .ok (if wideScope sc then s1.selfInvalidate s1.curTile else s1)
        | _ => s.reach needLoad a [(0, a, n)] fun s ps =>
            .ok (s.beginRead (.x rd true) a (List.replicate n none) (some sc) true ps)

/-! ## Stores -/

/-- Stores of a strand that have not performed (04 R95). -/
def State.postedStores (s : State) (src : Src) : Nat :=
  (s.flights.filterMap fun f => match f with
    | .winWrite o sid .. | .regist o sid _ | .wdata o sid .. | .fabWrite o sid .. => if o = src then some sid else none
    | _ => none).dedup.length

/-- A full store queue: sixteen of a context (04 R95). -/
def State.storeFull (s : State) : Bool := s.isCtx && decide (16 ≤ s.postedStores s.src)

/-- A word that the tile now writes is no longer kept of what has been sent toward the L1. -/
def Flight.stale (tile w : Nat) : Flight → Flight :=
  Flight.unkeep fun src _ x => src.tile == tile && x == w

/-- Bytes of a word with some of them replaced. -/
def patchWord (old : List Byte) (cells : List (Nat × Byte)) : List Byte :=
  (List.range 8).map fun i => match cells.find? fun c => c.1 == i with
    | some c => c.2
    | none => old.getD i 0

def maskOf (cells : List (Nat × Byte)) : Byte :=
  BitVec.ofNat 8 (cells.foldl (fun m c => if m / 2 ^ c.1 % 2 = 1 then m else m + 2 ^ c.1) 0)

/-- A store into a present line: the word becomes Registered, merging where it was Invalid and only part of it is
written (13 R255). A whole-word store clears poison (04 R94); stores that cover a merging word in parts do not, and wait for
its poison as for its bytes. -/
def L1Word.store (old : Option L1Word) (cells : List (Nat × Byte)) (ws : Wsid) (sealed : Bool) : L1Word :=
  let full := cells.length == 8
  match old with
  | none =>
    { st := .registered, bytes := patchWord (List.replicate 8 0) cells, poison := false, ws := ws, sealed := sealed,
      merging := if full then none else some (maskOf cells) }
  | some l =>
    { l with st := .registered, bytes := patchWord l.bytes cells, poison := l.poison && !full, ws := ws, sealed := sealed,
             merging := l.merging.bind fun m => if full then none else some (m ||| maskOf cells) }

/-- One word of a store to global memory (13 R255). -/
def State.storeWord (s : State) (src : Src) (sid pa : Nat) (bytes : List Byte) (sealed : Bool) (w : Nat) : State :=
  let t := s.tileAt src.tile
  let cells := cellsIn pa bytes w
  let s1 := { s with flights := s.flights.map (Flight.stale src.tile w) }
  if t.linePresent (w / 16) then
    let s2 := s1.setTile src.tile { t with l1 := sset w (L1Word.store (sget w t.l1) cells src.ws sealed) t.l1 }
    { s2 with flights := s2.flights ++ [.regist src sid w] }
  else { s1 with flights := s1.flights ++ [.wdata src sid w cells false] }

/-- A piece of a posted store. -/
def State.storePiece (s : State) (src : Src) (sid : Nat) (p : Piece) (bytes : List Byte) : State :=
  match p.at' with
  | .mem pa sealed => (wordsOf pa bytes.length).foldl (fun s w => s.storeWord src sid pa bytes sealed w) s
  | .node n pa => { s with flights := s.flights ++ [.fabWrite src sid n pa bytes (s.nodePort n pa) s.tick] }
  | .win ows rid off => { s with flights := s.flights ++ [.winWrite src sid ows rid off bytes []] }

/-- A posted store of bytes at the pieces of an access. -/
def State.postStore (s : State) (ps : List Piece) (bytes : List Byte) : State :=
  let (s1, sid) := s.takeFresh
  ps.foldl (fun s p => s.storePiece s.src sid p ((bytes.drop p.pos).take p.len)) s1

/-- A plain store (04 R92 to R95). A store to the store window commits (01 R20). -/
def State.store (s : State) (va : Word) (bytes : List Byte) : Done :=
  let a := va.toNat
  let n := bytes.length
  match s.accessWait true [(a, bytes.length)] with
  | some d => d
  | none =>
  match accessRegion a n with
    | .unassigned => Done.trapAt s trACCESS_FAULT va 0
    | .tile =>
      match s.lockTrap a [(a, n)] with
      | some d => d
      | none => if s.storeFull then .hold s else .ok ((s.noteOut (outByte [(a, n)])).putTile ((s.noteOut (outByte [(a, n)])).tile.writeBytes (tileOff a) bytes))
    | .window => s.reach needStore a [(0, a, n)] fun u ps => if s.storeFull then .hold s else .commit (u.postStore ps bytes)
    | .global => s.reach needStore a [(0, a, n)] fun u ps => if s.storeFull then .hold s else .ok (u.postStore ps bytes)

/-- A releasing store waits for the earlier accesses of its agent (04 R97). -/
def State.storeRelease (s : State) (sc : Scope) (va : Word) (bytes : List Byte) : Done :=
  let a := va.toNat
  match s.accessWait true [(a, bytes.length)] with
  | some d => d
  | none =>
  match accessRegion a bytes.length with
    | .unassigned => Done.trapAt s trACCESS_FAULT va 0
    | _ =>
      if a % bytes.length != 0 then Done.trapAt s trMISALIGNED va 0
      else if !s.released s.th.outs s.src sc then .wait (.release sc) s
      else s.store va bytes

/-! ## Prefetches (04 R98) -/

/-- A prefetch at its line: into the L1 where the line is not at hand there, or as far as the home slice. -/
def State.prefLine (s : State) (src : Src) (l2 : Bool) (pa : Nat) (sealed : Bool) : State :=
  if !l2 && (s.tileAt src.tile).linePresent (pa / 128) then s
  else
    let (s1, tag) := s.takeFresh
    s1.sendFill src tag 0 (pa / 128 * 128) 128 (!l2) sealed

/-- PREF sends a fill for the line of an address that would not fault, unless the fill queue is full (log 10). Where the TLB
misses, it asks for a walk, and goes on if the leaf lets it read (13 R269). It waits for nothing and changes no architectural
state. -/
def State.prefetch (s : State) (l2 : Bool) (va : Nat) : State :=
  let s0 := { s with fresh := s.fresh + 1 }
  if regionOfVa va != .global || (s.tile.lockHit [(va, 1)]).isSome || Config.fillQueueFull s.fresh || s.fabPlace s.ws.toNat va != .here then s0
  else match s.tile.tlbFind s.ws va with
    | some (_, e) => if e.r then s0.prefLine s.src l2 (e.pa + (va - e.va)) e.sealed else s0
    | none => s0.joinWalk s.ws (pageOf va) { who := s.who, r := true, w := false, x := false, pref := some (s.src, va, l2) }

end Sys2Proof.Machine
end

