-- ==== Sys2Proof/Machine/MemEvents.lean ====
section
/-! DEFINITION. The steps of slices, L1s and translation: STORE_REGISTRATION to ICACHE_FILL
(13 R255 to R271, 06 R374), REMOTE_RESULT_ARRIVAL and REMOTE_ACCESS_TIMEOUT (22 R363). A step whose condition does not
hold leaves the state as it is (log 4). -/

namespace Sys2Proof.Machine

def State.dropFlight (s : State) (n : Nat) : State := { s with flights := s.flights.eraseIdx n }
def State.putFlight (s : State) (n : Nat) (f : Flight) : State := { s with flights := s.flights.set n f }

/-- What stands before flight `n` in the order of issue. -/
def State.before (s : State) (n : Nat) : List Flight := s.flights.take n

/-- An atomic of another agent: what an agent does may fall between its read and its write (10 R201). -/
def Flight.othersAtom (src : Src) : Flight → Bool
  | .atom o .. | .winAtom o .. => o != src
  | _ => false

/-- Nothing of the tile stands before flight `n` for any of these words, atomics of other agents apart. -/
def State.inOrder (s : State) (n : Nat) (src : Src) (ws : List Nat) : Bool :=
  !(s.before n).any fun f => (f.unserved || f.isRegist) && !f.othersAtom src && ws.any fun w => f.touches src.tile w

/-- No LEAVE of the tile stands before flight `n` (13 R262). -/
def State.noLeave (s : State) (n tile : Nat) : Bool := !(s.before n).contains (.leave tile)

/-! ## Waiting for the host (18 R315) -/

/-- The name of an access that may wait at a sector: its kind and numbers. -/
def Flight.key : Flight → List Nat
  | .fill _ tag pos .. => [0, tag, pos]
  | .regist _ sid w | .wdata _ sid w .. => [1, sid, w]
  | .atom _ o .. => [2, o.tag]
  | .ifill src pa _ => [3, src.tile, pa]
  | .winAtom _ o .. => [2, o.tag]
  | .winRead _ tag pos .. => [5, tag, pos]
  | .winWrite _ sid _ _ off .. => [6, sid, off]
  | _ => []

/-- The access of a name is still on its way. That of an engine, [4, who], is tried again while the engine has a stream or a
copy under way. -/
def State.keyLive (s : State) (k : List Nat) : Bool :=
  match k with
  | [4, who] =>
    let t := s.tileAt (who / 16)
    if who % 16 = 10 then t.tq.any (·.isStream)
    else t.chans.toList.zipIdx.any fun c => c.2 + 11 == who % 16 && (c.1.st == .running || c.1.st == .cancelling)
  | _ => s.flights.any fun f => f.key == k

/-- Nothing that came to the sector earlier waits there. -/
def State.sectorTurn (s : State) (k : List Nat) (pa : Nat) : Bool :=
  match s.biOrder.find? fun e => e.1 == sectorOf pa && s.keyLive e.2 with
  | some e => e.2 == k
  | none => true

/-- An access joins those that wait at a sector, in order of arrival; it waits at one sector at a time. -/
def State.joinOrder (s : State) (k : List Nat) (pa : Nat) : State :=
  let live := s.biOrder.filter fun e => s.keyLive e.2 && (e.1 == sectorOf pa || e.2 != k)
  { s with biOrder := if live.contains (sectorOf pa, k) then live else live ++ [(sectorOf pa, k)] }

def State.leaveOrder (s : State) (k : List Nat) : State := { s with biOrder := s.biOrder.filter fun e => e.2 != k }

/-- An operation on sectors must wait for the host, in order of arrival: the state in which it does; none where it goes on. -/
def State.hostGate (s : State) (k : List Nat) (pas : List Nat) (write : Bool) : Option State :=
  pas.findSome? fun pa =>
    if s.biOn (sectorOf pa) || !s.sectorTurn k pa then some (s.joinOrder k pa)
    else if s.hostHolds pa write then some ((s.askHost pa write).joinOrder k pa)
    else none

/-! ## Fills (13 R257) -/

/-- Words of a line with no registrant that the slice has: not those of a sector that stands with the host. -/
def State.freeWords (s : State) (pa : Nat) : List WordData :=
  ((List.range 16).map (pa / 128 * 16 + ·)).filterMap fun w =>
    if (sget w s.reg).isNone && !s.hostKeeps (8 * w) then some (s.sliceWord w) else none

/-- Words of a request that another holder has. -/
def State.heldElsewhere (s : State) (tile : Nat) (ws : List Nat) : List Nat :=
  ws.filter fun w => match sget w s.reg with
    | some r => r.holder != .tile tile
    | none => false

/-- Words of a request that the requester itself has registered. -/
def State.heldHere (s : State) (tile : Nat) (ws : List Nat) : List WordData :=
  ws.filterMap fun w => match sget w s.reg with
    | some r => if r.holder == .tile tile then some (s.latestWord w) else none
    | none => none

/-- Helper slices of a line: index l of its home in clusters 5, 6, 9 and 10, the home excluded (13 R264). -/
def helpersOf (pa : Nat) : NatSet := ([5, 6, 9, 10].map fun c => c * 4 + sliceOf pa % 4).filter (· != sliceOf pa)

def hotSlots : Nat := 32
def redirectSlots : Nat := 16
def hotReads : Nat := 32

/-- A sealed line replicated: pushed to its helpers, with a redirect entry in every interface of the die, of which each holds
sixteen, the oldest giving way (13 R264, log 8). -/
def State.replicate (s : State) (line : Nat) : State :=
  let d := homeDie (128 * line)
  let hs := helpersOf (128 * line)
  let words := ((List.range 16).map (line * 16 + ·)).map s.latestWord
  let s1 := hs.foldl (fun s h => s.putCopy (d * 64 + h) line words) s
  let mine := s1.coppice.filter (·.die == d)
  let rest := s1.coppice.filter (·.die != d)
  { s1 with
    coppice := rest ++ (mine ++ [({ die := d, line := line, helpers := hs } : Coppice)]).drop (mine.length + 1 - redirectSlots)
    hot := s1.hot.filter (·.line != line) }

/-- A read of a sealed line counted in the hot table of its home slice, whose oldest entry gives way; the count begins afresh
where the 256 cycles have passed (log 25). A line read 32 times by two clusters or more is replicated (13 R264). -/
def State.noteHot (s : State) (tile pa : Nat) (sealed : Bool) : State :=
  let line := pa / 128
  if !sealed || !s.fullService || homeDie pa == 4 || s.coppice.any (·.line == line) then s
  else
    let s1 := { s with fresh := s.fresh + 1 }
    let old := (s.hot.find? (·.line == line)).getD { line := line, reads := 0, clusters := [] }
    let base : HotLine := if Config.hotLapse s.fresh then { line := line, reads := 0, clusters := [] } else old
    let e : HotLine := { base with reads := base.reads + 1, clusters := nsAdd (clusterOf tile) base.clusters }
    let rest := s1.hot.filter (·.line != line)
    let mine := rest.filter fun h => s.homeSlice (128 * h.line) == s.homeSlice pa
    let out := (mine.take (mine.length + 1 - hotSlots)).map (·.line)
    let s2 := { s1 with hot := rest.filter (fun h => !out.contains h.line) ++ [e] }
    if hotReads ≤ e.reads && 2 ≤ e.clusters.length then s2.replicate line else s2

/-- Allocates in an L1: backed memory that is not register space (18 R311). -/
def allocates (s : State) (pa : Nat) : Bool := writable s pa

/-- The words of a sealed line that a slice nearer than its home has, where it has all that are asked for: of another die's
line the victim slice of the tile (13 R265), of a line of the own die the helper that the redirect entry names (13 R264). -/
def State.nearWords (s : State) (tile pa : Nat) (ws : List Nat) (sealed : Bool) : Option (List WordData) :=
  let line := pa / 128
  if !sealed then none
  else
    let got := if farLine tile line then s.copyAt (nearSlice tile) line
               else match s.redirectOf tile line with
                 | some h => s.copyAt h line
                 | none => []
    if ws.all fun w => got.any (·.word == w) then some got else none

def State.doSliceFill (s : State) (n : Nat) : State :=
  match s.flights[n]? with
  | some (.fill src tag pos pa len keep sealed) =>
    let ws := wordsOf pa len
    let key := [0, tag, pos]
    let send (s : State) (k : Option NatSet) (got : List WordData) : State :=
      { s.dropFlight n with flights := (s.dropFlight n).flights ++ [.data src tag pos pa len k sealed got] }
    if !s.inOrder n src ws then s
    else match s.nearWords src.tile pa ws sealed with
      | some got => send s keep got
      | none =>
        match s.hostGate key (sectorsOf pa len) false with
        | some s' => s'
        | none =>
          let s0 := ((sectorsOf pa len).foldl (fun s a => s.takeSector a false) (s.touchLine pa)).leaveOrder key
          let s1 := (s0.nomemOnce tag pa src.ws.toNat).noteHot src.tile pa sealed
          let got := s1.heldHere src.tile ws ++ s1.freeWords pa
          let need := s1.heldElsewhere src.tile ws
          let k := if allocates s1 pa then keep.map fun l => (s1.ownPending src.tile (pa / 128)).foldl (fun l w => nsAdd w l) l else none
          if need.isEmpty then send s1 k got else s1.putFlight n (.fwd src tag pos pa len k sealed got need)
  | _ => s

def State.doForwardedRead (s : State) (n : Nat) : State :=
  match s.flights[n]? with
  | some (.fwd src tag pos pa len install sealed got need) =>
    let got' := got ++ need.map s.latestWord
    { s.dropFlight n with flights := (s.dropFlight n).flights ++ [.data src tag pos pa len install sealed got'] }
  | _ => s

/-- Words that came with a fill kept as Valid where the L1 does not hold them, but those of `skip` (13 R257, R273). -/
def State.install (s : State) (src : Src) (pa : Nat) (sealed : Bool) (skip : NatSet) (got : List WordData) : State :=
  let s1 := if got.all fun g => nsMem g.word skip then s else s.makeRoom src.tile (pa / 128)
  let t := s1.tileAt src.tile
  let l1 := got.foldl (fun l g =>
    if (sget g.word l).isSome || nsMem g.word skip then l
    else sset g.word { st := .valid, bytes := g.bytes, poison := g.poison, ws := src.ws, sealed := sealed, merging := none } l) t.l1
  s1.setTile src.tile { t with l1 := l1 }

/-- The bytes of a request from the words that came. -/
def bytesOf (pa len : Nat) (got : List WordData) : List Byte :=
  (List.range len).map fun i =>
    match got.find? fun g => g.word == (pa + i) / 8 with
    | some g => g.bytes.getD ((pa + i) % 8) 0
    | none => 0

def poisonOf (pa len : Nat) (got : List WordData) : Bool :=
  got.any fun g => g.poison && decide (pa / 8 ≤ g.word) && decide (g.word < (pa + len + 7) / 8)

/-- Data of one line reach a tile in the order in which they were sent. -/
def Flight.dataFor (tile line : Nat) : Flight → Bool
  | .data src _ _ pa .. => src.tile == tile && pa / 128 == line
  | _ => false

/-- A remote access of an agent to a line of a node: they perform in program order (22 R361). -/
def Flight.farLine (src : Src) (node line : Nat) : Flight → Bool
  | .fabRead o _ _ k pa .. | .fabAtom o _ k pa .. => o == src && k == node && pa / 128 == line
  | .fabWrite o _ k pa .. => o == src && k == node && pa / 128 == line
  | _ => false

/-- Ticks after which a remote access without an answer ends (22 R363). -/
def farLimit : Nat := 100

/-- A remote access has no answer: its node is unreachable, or its limit has passed (22 R363). -/
def State.farOver (s : State) (node since : Nat) : Bool := !s.nodeUp node || decide (since + farLimit ≤ s.tick)

/-- An answer may come: no earlier remote access of the agent to the line is on its way, and the access has not ended
without one. -/
def State.farReady (s : State) (n : Nat) (src : Src) (node pa since : Nat) : Bool :=
  !s.farOver node since && !(s.before n).any (Flight.farLine src node (pa / 128))

/-- Two store-window accesses of a tile meet (11 R239). -/
def Flight.winTouches (tile ows rid off len : Nat) : Flight → Bool
  | .winRead src _ _ o r f l => src.tile == tile && o == ows && r == rid && decide (f < off + len) && decide (off < f + l)
  | .winWrite src _ o r f b _ => src.tile == tile && o == ows && r == rid && decide (f < off + len) && decide (off < f + b.length)
  | .winAtom src a o r f .. => src.tile == tile && o == ows && r == rid && decide (f < off + len) && decide (off < f + a.n)
  | _ => false

/-- A store-window access can perform: nothing of the tile before it for the same bytes, atomics of other agents apart, and
its page does not move (11 R240). -/
def State.winReady (s : State) (n : Nat) (src : Src) (ows rid off len : Nat) : Bool :=
  !(s.before n).any (fun f => !f.othersAtom src && f.winTouches src.tile ows rid off len)
  && match s.rgnOf ows rid with
    | some r => s.winPlace r off != .moving
    | none => true

/-- A store-window access to a page at its backing waits for the host like any other (18 R315). -/
def State.winGate (s : State) (k : List Nat) (ows rid off len : Nat) (write : Bool) : Option State :=
  (s.rgnOf ows rid).bind fun r => match s.winPlace r off with
    | .backing pa => s.hostGate k (sectorsOf pa len) write
    | _ => none

/-- Bytes of a store-window page, and their poison; a region freed meanwhile reads poison. -/
def State.winBytes (s : State) (ows rid off len : Nat) : List Byte × Bool :=
  match s.rgnOf ows rid with
  | none => (List.replicate len 0, true)
  | some r =>
    match s.winPlace r off with
    | .slot t o => ((s.tileAt t).bytes o len, (s.tileAt t).poisoned o len)
    | .backing pa => s.readAt pa len
    | .moving => (List.replicate len 0, true)

/-- Bytes written to a store-window page; to a region freed meanwhile they are dropped. -/
def State.winPut (s : State) (ows rid off : Nat) (bytes : List Byte) (ws : Wsid) : State :=
  match s.rgnOf ows rid with
  | none => s
  | some r =>
    match s.winPlace r off with
    | .slot t o => s.setTile t ((s.tileAt t).writeBytes o bytes)
    | .backing pa => s.writeAt pa bytes ws
    | .moving => s

/-- Words of a store-window write that a check found uncorrectable on the way, poisoned where they are written (21 R349). -/
def State.winSpoil (s : State) (ows rid off len : Nat) (bad : NatSet) : State :=
  let ws (a : Nat) : List Nat := bad.flatMap fun k => if 8 * k < len then wordsOf (a + 8 * k) (min 8 (len - 8 * k)) else []
  match (s.rgnOf ows rid).map fun r => s.winPlace r off with
  | some (.slot t o) => s.setTile t { s.tileAt t with poison := (ws o).foldl (fun p w => nsAdd w p) (s.tileAt t).poison }
  | some (.backing pa) => (ws pa).foldl (fun s w => s.setPoison w true) s
  | _ => s

/-- What a read of a store-window page does at the slice of its backing: it is taken there, and from the host (11 R240, 13 R253,
18 R315). -/
def State.winSee (s : State) (ows rid off len : Nat) (ws : Wsid) : State :=
  match (s.rgnOf ows rid).map fun r => s.winPlace r off with
  | some (.backing pa) => s.seeRuns [(pa, len)] ws.toNat
  | _ => s

def State.touchWin (s : State) (ows rid off : Nat) : State :=
  match s.rgnOf ows rid with
  | none => s
  | some r => s.touchPage r off

/-- Whether bytes that another node returns are poisoned (22 R360, log 13). -/
def State.farPoison (s : State) (node pa len : Nat) : Bool := (wordsOf pa len).any fun w => Config.nodePoison node w s.fresh

/-- The answer to a remote atomic; a poisoned one to x0 is an event of the fault record (10 R204). -/
def State.farAnswer (s : State) (src : Src) (o : AtomOp) (bytes : List Byte) (poison : Bool) : State :=
  if o.keep then s.deliver src o.tag 0 bytes poison
  else if poison then s.faultRecord src.ws.toNat frATOMIC (s.ltidOf src.tile) 0 o.va
  else s

/-- The value of a remote read reaches the tile. The bytes that a node of the fabric returns come with the step; whether they
are poisoned is free (22 R360, log 13). -/
def State.doResultArrival (s : State) (n : Nat) (outside : List Byte) : State :=
  match s.flights[n]? with
  | some (.data src tag pos pa len keep sealed got) =>
    if (s.before n).any (Flight.dataFor src.tile (pa / 128)) then s
    else
      let s1 := s.dropFlight n
      let s2 := match keep with
        | some skip => s1.install src pa sealed skip got
        | none => s1
      s2.deliver src tag pos (bytesOf pa len got) (poisonOf pa len got)
  | some (.winRead src tag pos ows rid off len) =>
    if !s.winReady n src ows rid off len then s
    else match s.winGate [5, tag, pos] ows rid off len false with
      | some s' => s'
      | none =>
        let (bs, poison) := s.winBytes ows rid off len
        ((((s.dropFlight n).leaveOrder [5, tag, pos]).winSee ows rid off len src.ws).touchWin ows rid off).deliver src tag pos bs poison
  | some (.fabRead src tag pos k pa len _ since) =>
    if s.farReady n src k pa since then
      ({ s.dropFlight n with fresh := s.fresh + 1 }).deliver src tag pos ((List.range len).map fun i => outside.getD i 0) (s.farPoison k pa len)
    else s
  | some (.fabAtom src op k pa _ since) =>
    if s.farReady n src k pa since then
      ({ s.dropFlight n with fresh := s.fresh + 1 }).farAnswer src op ((List.range op.n).map fun i => outside.getD i 0) (s.farPoison k pa op.n)
    else s
  | some (.answer src tag bytes poison) => (s.dropFlight n).deliver src tag 0 bytes poison
  | _ => s

/-- The NOMEM entry of an access that the fabric does not answer, in the ring of the I/O die (22 R363). -/
def State.farNomem (s : State) (ws : Wsid) (pa : Nat) : State := s.logError 4 errNOMEM 4 0 ws.toNat (pa / 128 * 128) 0

/-- That entry, once for the pieces of an access (18 R313); `id` is the access's number. -/
def State.farOnce (s : State) (id : Nat) (ws : Wsid) (pa : Nat) : State :=
  if nsMem id s.nomem then s else { s.farNomem ws pa with nomem := nsAdd id s.nomem }

/-- A remote access without an answer completes as unbacked (22 R363). -/
def State.doRemoteTimeout (s : State) (n : Nat) : State :=
  match s.flights[n]? with
  | some (.fabRead src tag pos k pa len _ since) =>
    if s.farOver k since then ((s.dropFlight n).farOnce tag src.ws pa).deliver src tag pos (List.replicate len 0) true else s
  | some (.fabWrite src sid k pa _ _ since) => if s.farOver k since then (s.dropFlight n).farOnce sid src.ws pa else s
  | some (.fabAtom src op k pa _ since) =>
    if s.farOver k since then ((s.dropFlight n).farOnce op.tag src.ws pa).farAnswer src op (List.replicate op.n 0) true else s
  | _ => s

/-! ## Stores at the slice (13 R255, R256) -/

/-- A Valid copy of the writing tile takes the bytes its own store wrote at the slice (01 R26). -/
def State.patchOwn (s : State) (tile w : Nat) (cells : List (Nat × Byte)) : State :=
  let t := s.tileAt tile
  match sget w t.l1 with
  | some l =>
    if l.st = .valid then
      s.setTile tile { t with l1 := sset w { l with bytes := patchWord l.bytes cells, poison := l.poison && cells.length != 8 } t.l1 }
    else s
  | none => s

def State.doStoreRegistration (s : State) (n : Nat) : State :=
  match s.flights[n]? with
  | some (.regist src sid w) =>
    if !s.inOrder n src [w] || !s.noLeave n src.tile then s
    else match s.hostGate [1, sid, w] [8 * w] true with
    | some s' => s'
    | none =>
      let mine := match sget w (s.tileAt src.tile).l1 with
        | some l => l.st == .registered
        | none => false
      if !mine then (s.leaveOrder [1, sid, w]).putFlight n (.ack src none)
      else
        let s0 := (s.takeSector (8 * w) true).leaveOrder [1, sid, w]
        let s1 := (if (sget w s0.reg).any (·.holder == .tile src.tile) then s0 else s0.revoke w).unseal w (some src.tile)
        let s2 := s1.register w { holder := .tile src.tile, ws := src.ws }
        s2.putFlight n (.ack src (some (s2.sliceWord w)))
  | some (.wdata src sid w cells poison) =>
    if !s.inOrder n src [w] then s
    else match s.hostGate [1, sid, w] [8 * w] true with
    | some s' => s'
    | none =>
      let s0 := (((s.takeSector (8 * w) true).leaveOrder [1, sid, w]).sliceWrite w cells src.ws).patchOwn src.tile w cells
      let s1 := if poison then s0.setPoison w true else s0
      (s1.nomemOnce sid (8 * w) src.ws.toNat).putFlight n (.ack src none)
  | some (.winWrite src sid ows rid off bytes bad) =>
    if !s.winReady n src ows rid off bytes.length then s
    else match s.winGate [6, sid, off] ows rid off bytes.length true with
      | some s' => s'
      | none =>
        ((((s.leaveOrder [6, sid, off]).winPut ows rid off bytes src.ws).winSpoil ows rid off bytes.length bad).touchWin ows rid off).putFlight n
          (.ack src none)
  | _ => s

/-- The acknowledgement reaches the tile: a merging word takes the bytes its stores did not write (13 R255). That of a
remote store returns over the fabric (22 R360). -/
def State.doRegistrationAck (s : State) (n : Nat) : State :=
  match s.flights[n]? with
  | some (.ack src none) => let _ := src; s.dropFlight n
  | some (.ack src (some d)) =>
    let s1 := s.dropFlight n
    let t := s1.tileAt src.tile
    match sget d.word t.l1 with
    | some l =>
      match l.merging with
      | some m =>
        let bytes := (List.range 8).map fun i => if m.getLsbD i then l.bytes.getD i 0 else d.bytes.getD i 0
        s1.setTile src.tile { t with l1 := sset d.word { l with bytes := bytes, merging := none, poison := l.poison || d.poison } t.l1 }
      | none => s1
    | none => s1
  | some (.fabWrite src _ k pa _ _ since) => if s.farReady n src k pa since then s.dropFlight n else s
  | _ => s

/-! ## Write-backs and LEAVE (13 R261, R262, R264, R266) -/

/-- A line of an L1 is replaced (13 R261, R265). -/
def State.doWriteBack (s : State) (tile line : Nat) : State :=
  if (s.tileAt tile).linePresent line then s.replaceLine tile line else s

/-- The tile removed from every registry and side-table entry (13 R262). -/
def State.doLeave (s : State) (n : Nat) : State :=
  match s.flights[n]? with
  | some (.leave tile) =>
    let s1 := s.dropFlight n
    ((s1.reg.filter fun e => e.2.holder == .tile tile).map (·.1)).foldl State.unregister s1
  | _ => s

/-- Tiles and cluster units that answer a recall (13 R266). -/
def State.recallCount (s : State) : Nat := if s.fullService then 1024 + 64 else 256 + 16

def State.doRegistryRecall (s : State) (line : Nat) : State :=
  let pa := line * 128
  let s1 := s.recallLine line
  let s2 := (s1.tiles.map (·.1)).foldl (fun s t => s.evictLine t line) s1
  let s3 := { s2 with cu := s2.cu.filter fun e => e.1 / 16 != line }
  let d := homeDie pa
  s3.logError d errREGISTRY 1 (s.homeSlice pa) noWs pa s.recallCount

/-- A helper replaces a replicated line and tells the home, which removes the redirects for that helper (13 R264). -/
def State.doReplicaLapse (s : State) (line helper : Nat) : State :=
  let slice := homeDie (128 * line) * 64 + helper
  { s.lapse line slice with
    l2 := s.l2.filter fun e => !(e.slice == slice && e.line == line && e.copy.isSome) }

/-! ## Walks (13 R269 to R271) -/

def walkCacheSlots : Nat := 512

/-- The table that a unit's walk cache names for a level of an address (13 R269). -/
def State.walkHit (s : State) (unit : Nat) (ws : Wsid) (level index : Nat) : Option Nat :=
  (s.walkCache.find? fun e => e.unit == unit && e.ws == ws && e.level == level && e.index == index).map (·.table)

/-- A non-leaf entry kept in a walk cache; the oldest of the unit gives way (log 8). -/
def State.walkKeep (s : State) (e : WalkEnt) : State :=
  let mine := s.walkCache.filter (·.unit == e.unit)
  let rest := s.walkCache.filter (·.unit != e.unit)
  { s with walkCache := rest ++ (mine ++ [e]).drop (mine.length + 1 - walkCacheSlots) }

/-- A page-table entry read at its home slice, past the L1s (13 R269). -/
def State.readPte (s : State) (ws : Wsid) (pa : Nat) : State × Nat :=
  let s1 := ((s.touchLine pa).takeSector pa false).noteNomem pa 8 ws.toNat
  (s1, s1.natAt pa 8)

/-- A walk at a walk unit from a table at a level down: each level that the cache lacks is read (13 R268, R269). -/
def State.walkAt (s : State) (unit : Nat) (ws : Wsid) (va : Nat) : Nat → Nat → State × Option Leaf
  | 0, table => ((s.readPte ws (table + 8 * pteIndex 0 va)).1, s.walkFrom va 0 table)
  | l + 1, table =>
    let index := va / 2 ^ (12 + 9 * (l + 1))
    match s.walkHit unit ws (l + 1) index with
    | some t => s.walkAt unit ws va l t
    | none =>
      let (s1, e) := s.readPte ws (table + 8 * pteIndex (l + 1) va)
      if !pteOk e (l + 1) then (s1, none)
      else if pteBit e 4 then (s1, some (pteLeaf e va (2 ^ (12 + 9 * (l + 1)))))
      else (s1.walkKeep { unit := unit, ws := ws, level := l + 1, index := index, table := ptePa e }).walkAt unit ws va l (ptePa e)

/-- The walk of a page of a workspace (13 R268, R269). -/
def State.walkPage (s : State) (unit : Nat) (ws : Wsid) (va : Nat) : State × Option Leaf :=
  let root := (s.wsWord ws.toNat wPTROOT).toNat % 2 ^ 52
  if root = 0 then (s, none) else s.walkAt unit ws va 3 root

/-- What a request met by a leaf leaves: the leaf in its tile's TLB, and a prefetch goes on (04 R98, 13 R269). -/
def State.walked (s : State) (ws : Wsid) (l : Leaf) (j : Joiner) : State :=
  let s1 := s.setTile (j.who / 16) ((s.tileAt (j.who / 16)).tlbAdd ws l)
  match j.pref with
  | some (src, va, l2) => s1.prefLine src l2 (l.pa + (va - l.base)) l.sealed
  | none => s1

def Joiner.met (j : Joiner) (l : Leaf) : Bool := (!j.r || l.r) && (!j.w || l.w) && (!j.x || l.x)

/-- An entry whose requests have changed; freed with the last of them, which lets a queued request in (13 R271). -/
def State.setWalk (s : State) (n : Nat) (w : Walk) : State :=
  if w.joined.isEmpty then ({ s with walks := s.walks.eraseIdx n } : State).pumpWalks else { s with walks := s.walks.set n w }

/-- The steward's queue takes a pair: it holds it already, or has room (13 R271). -/
def State.stewardRoom (s : State) (w : Walk) : Bool :=
  let pairs := ((s.walks.filter (·.steward)).map fun o => (o.ws, o.page)).dedup
  pairs.contains (w.ws, w.page) || decide (pairs.length < stewardSlots)

/-- A walk done: the requests that the leaf meets enter it in their tiles' TLBs, the others go to the steward with their pair
(13 R269, R270), once its queue has room; a prefetch that the leaf does not meet does nothing (04 R98). -/
def State.doTableWalk (s : State) (n : Nat) : State :=
  match s.walks[n]? with
  | some w =>
    if w.steward then s
    else
      let (s1, leaf) := s.walkPage w.unit w.ws (w.page * 4096)
      let met := w.joined.filter fun j => leaf.any j.met
      let left := w.joined.filter fun j => !leaf.any j.met && j.pref.isNone
      let s2 := match leaf with
        | some l => met.foldl (fun (s : State) (j : Joiner) => s.walked w.ws l j) s1
        | none => s1
      s2.setWalk n { w with joined := left, steward := !left.isEmpty && s.stewardRoom w }
  | none => s

/-- An entry of a level installed under the tables that stand above it (13 R270); none where they do not. -/
def State.installPte (s : State) (ws va level : Nat) (pte : Word) : Option State :=
  (s.pteAddr ws va level).map fun pa => s.putNat pa 8 pte.toNat (BitVec.ofNat 12 noWs)

/-- The steward serves a pair (13 R270, R271): its walks at every unit are replayed, or all their requests refused. With
`serve` it installs an entry for a unit of the device whose own access found none, with `owner` it gives a bound LTID to a
workspace (11 R223, R224, log 72). -/
def State.doStewardPage (s : State) (n : Nat) (a : PageAnswer) : State :=
  match a with
  | .owner l ws => if (s.role l.toNat).v then s.setRole l.toNat { s.role l.toNat with owner := ws } else s
  | .serve ws va level pte => (s.installPte ws.toNat va.toNat level.toNat pte).getD s
  | .install level pte =>
    match s.walks[n]? with
    | some w =>
      if !w.steward then s
      else match s.installPte w.ws.toNat (w.page * 4096) level.toNat pte with
        | some s1 =>
          { s1 with walks := s1.walks.map fun o => if o.ws == w.ws && o.page == w.page then { o with steward := false } else o }
        | none => s
    | none => s
  | .refuse =>
    match s.walks[n]? with
    | some w =>
      if !w.steward then s
      else
        let code := if (s.leafOf w.ws.toNat (w.page * 4096)).isSome then trPERM_FAULT else trPAGE_FAULT
        let same := s.walks.filter fun o => o.steward && o.ws == w.ws && o.page == w.page
        ({ s with
          walks := s.walks.filter fun o => !(o.steward && o.ws == w.ws && o.page == w.page)
          refused := s.refused ++ ((same.flatMap (·.joined)).filter (·.pref.isNone)).map fun j => ({ who := j.who, ws := w.ws, page := w.page, code := code } : Refused) }
          : State).pumpWalks
    | none => s

/-- The bytes of an instruction line: of a sealed page through redirects and replicas, like any sealed line (06 R374). -/
def State.instrLine (s : State) (tile pa : Nat) (sealed : Bool) : List Byte :=
  let line := pa / 128 * 128
  match s.nearWords tile pa (wordsOf line 128) sealed with
  | some got => bytesOf line 128 got
  | none => (s.readAt line 128).1

/-- A line of instructions comes from its home slice or its registrant (06 R374): 64 sets of 4 ways by address bits 12:7, the
oldest of a set replaced (log 8). -/
def State.doIcacheFill (s : State) (n : Nat) : State :=
  match s.flights[n]? with
  | some (.ifill src pa sealed) =>
    let key := [3, src.tile, pa]
    let near := (s.nearWords src.tile pa (wordsOf (pa / 128 * 128) 128) sealed).isSome
    match if near then none else s.hostGate key (sectorsOf (pa / 128 * 128) 128) false with
    | some s' => s'
    | none =>
      let s0 := (s.dropFlight n).leaveOrder key
      let s1 := if near then s0 else
        (((sectorsOf (pa / 128 * 128) 128).foldl (fun s a => s.takeSector a false) (s0.touchLine pa)).noteNomem pa 1 src.ws.toNat).noteHot
          src.tile pa sealed
      let t := s1.tileAt src.tile
      let new : ICLine := { ws := src.ws, line := pa / 128, bytes := s1.instrLine src.tile pa sealed }
      let same := t.icache.filter fun e => e.line % 64 == pa / 128 % 64 && !(e.ws == src.ws && e.line == pa / 128)
      let rest := t.icache.filter fun e => e.line % 64 != pa / 128 % 64
      s1.setTile src.tile { t with icache := rest ++ (same ++ [new]).drop (same.length - 3) }
  | _ => s

end Sys2Proof.Machine
end

