-- ==== Sys2Proof/Machine/Sync.lean ====
section
/-! DEFINITION. Weirs (09 R185 to R190), tagged words (09 R191) and the mailbox (09 R192). -/

namespace Sys2Proof.Machine

/-! ## Addresses of one object in the tile store -/

/-- The checks of an object of `n` bytes at a tile-window address, aligned to `n`: its offset (09 R187, R191). -/
def State.tileObject (s : State) (va : Word) (n : Nat) (k : State → Nat → Done) : Done :=
  match s.accessWait true [(va.toNat, n)] with
  | some d => d
  | none =>
    let a := va.toNat
    if accessRegion a n != .tile then Done.trapAt s trACCESS_FAULT va 0
    else if a % n != 0 then Done.trapAt s trMISALIGNED va 0
    else match s.lockTrap a [(a, n)] with
      | some d => d
      | none => k s (tileOff a)

/-- POISON where the object's words are uncorrectable (04 R94). -/
def State.unpoisoned (s : State) (va : Word) (off n : Nat) (d : Done) : Done :=
  if s.tile.poisoned off n then .trap { code := trPOISON, tpc := s.pc, taddr := va, tinfo := s.pc, resume := .region } s else d

/-- Out-of-range bytes noted (01 R25). -/
def State.noteObject (s : State) (va : Word) (n : Nat) : State := s.noteOut (outByte [(va.toNat, n)])

/-- A release of tile scope: issue is held until the agent's earlier accesses have performed (06 R136). -/
def State.tileRelease (s : State) (d : Done) : Done := if s.released s.th.outs s.src .tile then d else .hold s

/-! ## Weirs -/

def weirIn (off : Nat) : Bool := decide (off + 16 ≤ storeSize)

/-- The checks of a weir instruction. -/
def State.weirAt (s : State) (va : Word) (k : State → Nat → Done) : Done :=
  s.tileObject va 16 fun s off => k (s.noteObject va 16) off

/-- The entry of a weir in the strand's join list: its place in the list. -/
def State.joined (s : State) (off : Nat) : Option Nat :=
  (List.range 4).find? fun i =>
    let e := s.ctx.joins.getD i 0
    joinV e && joinOff e == off && joinLtid e == s.ltidOf s.curTile

def State.setJoin (s : State) (i : Nat) (e : Word) : State := s.setCtx { s.ctx with joins := s.ctx.joins.setIfInBounds i e }

/-- The words of a join entry (09 R188). -/
def joinWord (off ltid : Nat) (arr : Bool) (gen : Nat) : Word :=
  BitVec.ofNat 64 (off % 2 ^ 21 + ltid % 4096 * 2 ^ 21 + b2n arr * 2 ^ 33 + gen % 2 ^ 15 * 2 ^ 34 + 2 ^ 63)

def execWinit (m : SMark) (rs1 rs2 : Reg) (s : State) : Out :=
  .next (issue (.winit m rs1 rs2) m true (fun s =>
    s.weirAt (s.x rs1) fun s off =>
      let v := (s.x rs2).toNat
      let old := (s.tile.weir off).phase
      let t := s.tile.writeBytes off (leBytes (nbit v 0 16 + nbit v 32 32 * 2 ^ 64) 16)
      .commit (s.putTile (if weirIn off && old then t.wakeWfi else t))) s)

def execWjoin (m : SMark) (rs1 : Reg) (s : State) : Out :=
  .next (issue (.wjoin m rs1) m true (fun s =>
    s.weirAt (s.x rs1) fun s off =>
      if !s.isCtx || !weirIn off || (s.joined off).isSome then .ok s
      else match (List.range 4).find? fun i => !joinV (s.ctx.joins.getD i 0) with
        | some i => .ok (s.setJoin i (joinWord off (s.ltidOf s.curTile) false 0))
        | none => .ok s) s)

def execWleave (m : SMark) (rs1 : Reg) (s : State) : Out :=
  .next (issue (.wleave m rs1) m true (fun s =>
    s.weirAt (s.x rs1) fun s off => match s.joined off with
      | some i => .ok (s.setJoin i 0)
      | none => .ok s) s)

/-- WARR: a release; the strand's entry for the weir notes the generation it arrived in (09 R188). -/
def execWarr (m : SMark) (rs1 rs2 : Reg) (s : State) : Out :=
  .next (issue (.warr m rs1 rs2) m true (fun s =>
    s.tileRelease (s.weirAt (s.x rs1) fun s off =>
      s.unpoisoned (s.x rs1) off 16 (
        let s1 := match s.joined off with
          | some i => s.setJoin i (joinWord off (s.ltidOf s.curTile) true (s.tile.weir off).gen)
          | none => s
        .commit (s1.putTile (s1.tile.weirEvent off (.thread (nbit (s.x rs2).toNat 0 32))))))) s)

def execWarrd (m : SMark) (rs1 : Reg) (s : State) : Out :=
  .next (issue (.warrd m rs1) m true (fun s =>
    s.tileRelease (s.weirAt (s.x rs1) fun s off =>
      s.unpoisoned (s.x rs1) off 16 (
        match s.joined off with
        | some i =>
          let e := s.ctx.joins.getD i 0
          let s1 := s.setJoin i 0
          .commit (s1.putTile (s1.tile.departure off (joinArr e) (joinGen e)))
        | none => .commit (s.putTile (s.tile.departure off false 0))))) s)

def execWexp (m : SMark) (rd rs1 rs2 : Reg) (s : State) : Out :=
  .next (issue (.wexp m rd rs1 rs2) m true (fun s =>
    s.weirAt (s.x rs1) fun s off =>
      s.unpoisoned (s.x rs1) off 16 (
        if weirIn off then
          let (w, credit) := (s.tile.weir off).expect (nbit (s.x rs2).toNat 0 32)
          .commit ((s.putTile (s.tile.putWeir off w)).setX rd credit)
        else .commit (s.setX rd 0))) s)

/-- The recorded release of the acting agent (09 R187, 15 R293). -/
def State.marked (s : State) : Bool :=
  match s.curAgent with
  | .ctx _ => s.ctx.released
  | .loader => s.tile.ldr.released
  | .storer => s.tile.str.released

/-- Whether a wait on a phase is over at its issue or re-issue (09 R187). -/
def State.phaseMet (s : State) (off : Nat) (p : Bool) : Bool := s.marked || !weirIn off || (s.tile.weir off).phase != p

/-- The wait's limit has passed. -/
def State.limitPassed (s : State) : Bool :=
  match s.curAgent with
  | .ctx _ => s.ctx.expired
  | .loader => s.tile.ldr.expired
  | .storer => s.tile.str.expired

def execWwait (m : SMark) (rs1 rs2 : Reg) (s : State) : Out :=
  .next (issue (.wwait m rs1 rs2) m true (fun s =>
    s.weirAt (s.x rs1) fun s off =>
      s.unpoisoned (s.x rs1) off 16 (
        let p := (s.x rs2).getLsbD 0
        if s.phaseMet off p then .ok s else .wait (.phase off p false) s)) s)

def execWwaitt (m : SMark) (rd rs1 rs2 : Reg) (s : State) : Out :=
  .next (issue (.wwaitt m rd rs1 rs2) m true (fun s =>
    s.weirAt (s.x rs1) fun s off =>
      s.unpoisoned (s.x rs1) off 16 (
        let p := (s.x rs2).getLsbD 0
        if s.limitPassed then .ok (s.setX rd 1)
        else if s.phaseMet off p then .ok (s.setX rd 0)
        else if nbit (s.x rs2).toNat 32 32 == 0 then .ok (s.setX rd 1)
        else .wait (.phase off p true) s)) s)

/-- The phase test word (09 R190). -/
def phaseWord (w : Weir) (joined : Bool) : Word :=
  BitVec.ofNat 64 (b2n w.phase + w.gen * 2 + b2n joined * 2 ^ 16 + w.arra * 2 ^ 32 + w.w0 / 2 ^ 48 * 2 ^ 48)

def execWtest (m : SMark) (rd rs1 : Reg) (s : State) : Out :=
  .next (issue (.wtest m rd rs1) m true (fun s =>
    s.weirAt (s.x rs1) fun s off =>
      s.unpoisoned (s.x rs1) off 16 (
        if weirIn off then .ok (s.setX rd (phaseWord (s.tile.weir off) (s.joined off).isSome)) else .ok (s.setX rd 0))) s)

/-! ## Tagged words -/

def Tile.setTag (t : Tile) (off : Nat) (full : Bool) : Tile :=
  if off < storeSize then { t with full := if full then nsAdd (off / 8) t.full else nsDel (off / 8) t.full } else t

/-- The checks of a tagged instruction. -/
def State.tagAt (s : State) (va : Word) (k : State → Nat → Done) : Done :=
  s.tileObject va 8 fun s off => k (s.noteObject va 8) off

def execLdf (m : SMark) (rd rs1 : Reg) (imm : BitVec 11) (s : State) : Out :=
  .next (issue (.ldf m rd rs1 imm) m true (fun s =>
    let va := s.x rs1 + immI imm
    s.tagAt va fun s off => s.unpoisoned va off 8 (
      if s.tile.tagIs off true then .ok (s.setX rd (BitVec.ofNat 64 (s.tile.natAt off 8))) else .wait (.tag off true) s)) s)

def execLdff (m : SMark) (rd rs1 : Reg) (imm : BitVec 11) (s : State) : Out :=
  .next (issue (.ldff m rd rs1 imm) m true (fun s =>
    let va := s.x rs1 + immI imm
    s.tagAt va fun s off => s.unpoisoned va off 8 (
      if s.tile.tagIs off true then
        .commit ((s.putTile (s.tile.setTag off false)).setX rd (BitVec.ofNat 64 (s.tile.natAt off 8)))
      else .wait (.tag off true) s)) s)

/-- A word written and its tag set to full. -/
def State.storeFullTag (s : State) (off : Nat) (v : Word) : State := s.putTile ((s.tile.putNat off 8 v.toNat).setTag off true)

def execSte (m : SMark) (rs1 rs2 : Reg) (imm : BitVec 11) (s : State) : Out :=
  .next (issue (.ste m rs1 rs2 imm) m true (fun s =>
    let va := s.x rs1 + immI imm
    if s.acquiring then .wait .acquire s
    else s.tileRelease (s.tagAt va fun s off => s.unpoisoned va off 8 (
      if s.tile.tagIs off false then .commit (s.storeFullTag off (s.x rs2)) else .wait (.tag off false) s))) s)

def execStf (m : SMark) (rs1 rs2 : Reg) (imm : BitVec 11) (s : State) : Out :=
  .next (issue (.stf m rs1 rs2 imm) m true (fun s =>
    if s.acquiring then .wait .acquire s
    else s.tileRelease (s.tagAt (s.x rs1 + immI imm) fun s off => .commit (s.storeFullTag off (s.x rs2)))) s)

def execTgset (m : SMark) (rs1 : Reg) (imm : BitVec 11) (s : State) : Out :=
  .next (issue (.tgset m rs1 imm) m true (fun s =>
    let va := s.x rs1 + immI imm
    s.tileRelease (s.tagAt va fun s off => s.unpoisoned va off 8 (.commit (s.putTile (s.tile.setTag off true))))) s)

def execTgclr (m : SMark) (rs1 : Reg) (imm : BitVec 11) (s : State) : Out :=
  .next (issue (.tgclr m rs1 imm) m true (fun s =>
    let va := s.x rs1 + immI imm
    s.tagAt va fun s off => s.unpoisoned va off 8 (.commit (s.putTile (s.tile.setTag off false)))) s)

/-! ## The mailbox -/

/-- The checks of a receive's target; none with x0 (09 R192). -/
def State.mailTarget (s : State) (rs1 : Reg) (k : State → Option Nat → Done) : Done :=
  if rs1 = 0 then k s none
  else match s.accessWait true [((s.x rs1).toNat, 16)] with
    | some d => d
    | none =>
      let va := s.x rs1
      let a := va.toNat
      if accessRegion a 16 != .tile then Done.trapAt s trACCESS_FAULT va 0
      else if a % 8 != 0 then Done.trapAt s trMISALIGNED va 0
      else match s.lockTrap a [(a, 16)] with
        | some d => d
        | none => k s (some a)

def putMail (t : Tile) (at' : Option Nat) (m : BitVec 128) : Tile :=
  match at' with
  | some a => t.writeBytes (tileOff a) (leBytes m.toNat 16)
  | none => t

/-- The value a receive returns (09 R192). -/
def mailWord (kind count : Nat) : Word := BitVec.ofNat 64 (kind % 256 + count % 128 * 2 ^ 8)

/-- The oldest message an agent may take: its place. -/
def Tile.mailFor (t : Tile) (a : Agent) : Option Nat := t.mail.findIdx? (mayTake a)

/-- Messages that an agent may take. -/
def Tile.mailCount (t : Tile) (a : Agent) : Nat := (t.mail.filter (mayTake a)).length

def mailAt (t : Tile) (i : Nat) : BitVec 128 := t.mail.getD i 0

/-- A NOTIFY from another tile is acquired by its receive (10 R212, 13 R258). -/
def State.mailAcquire (s : State) (m : BitVec 128) : State :=
  if msgKind m == mkNOTIFY && nbit m.toNat 16 12 != s.ltidOf s.curTile then s.selfInvalidate s.curTile else s

def noteMail (s : State) (at' : Option Nat) : State :=
  match at' with
  | some a => s.noteOut (outByte [(a, 16)])
  | none => s

def execMrecv (m : SMark) (rd rs1 : Reg) (s : State) : Out :=
  .next (issue (.mrecv m rd rs1) m true (fun s =>
    s.mailTarget rs1 fun s at' => match s.tile.mailFor s.curAgent with
      | none => .ok (s.setX rd (mailWord 0 0))
      | some i =>
        let msg := mailAt s.tile i
        let s0 := noteMail s at'
        let s1 := s0.putTile (putMail { s0.tile with mail := s0.tile.mail.eraseIdx i } at' msg)
        .commit ((s1.mailAcquire msg).setX rd (mailWord (msgKind msg) (s1.tile.mailCount s1.curAgent)))) s)

def execMpeek (m : SMark) (rd rs1 : Reg) (s : State) : Out :=
  .next (issue (.mpeek m rd rs1) m true (fun s =>
    s.mailTarget rs1 fun s at' => match s.tile.mailFor s.curAgent with
      | none => .ok (s.setX rd (mailWord 0 0))
      | some i =>
        let msg := mailAt s.tile i
        let s0 := noteMail s at'
        let s1 := s0.putTile (putMail s0.tile at' msg)
        .ok (s1.setX rd (mailWord (msgKind msg) (s1.tile.mailCount s1.curAgent)))) s)

def execMwait (m : SMark) (s : State) : Out :=
  .next (issue (.mwait m) m true (fun s => if s.tile.mail.any (mayTake s.curAgent) then .ok s else .wait .message s) s)

/-- A message that waited in its unit is placed when an entry frees (06 R134). -/
def execMailboxDeferredPlace (tile : Nat) (s : State) : Out :=
  .next (
    let t := s.tileAt tile
    match t.mailWait with
    | m :: r => if t.mail.length < 64 then s.setTile tile { t.wakeWfi with mail := t.mail ++ [m], mailWait := r } else s
    | [] => s)

/-- A side core's wait with a limit ended. -/
def SideCore.phaseTimeout (c : SideCore) : SideCore :=
  match c.stall with
  | some (.phase _ _ true) => { c with stall := none, expired := true }
  | _ => c

/-- A time limit passed while an agent waits for a phase: a context, or the loader (8) or the storer (9) (09 R187). -/
def execWwaittTimeout (tile : Nat) (a : Fin 10) (s : State) : Out :=
  .next (
    if h : a.val < 8 then
      let c : Fin 8 := ⟨a.val, h⟩
      match (s.cx tile c).st with
      | .waiting (.phase _ _ true) => s.setCx tile c { s.cx tile c with st := .ready, expired := true }
      | _ => s
    else
      let t := s.tileAt tile
      s.setTile tile (if a.val = 8 then { t with ldr := t.ldr.phaseTimeout } else { t with str := t.str.phaseTimeout }))

/-- 4,096 cycles passed at a WFI (05 R117). -/
def execWfiTimeout (tile : Nat) (c : Fin 8) (s : State) : Out :=
  .next (match (s.cx tile c).st with
    | .waiting (.wfi _) => s.setCx tile c { s.cx tile c with st := .ready, expired := true }
    | _ => s)

/-- The limit of a GBWAIT passed (15 R293). -/
def execGbwaitTimeout (tile : Nat) (c : Fin 8) (s : State) : Out :=
  .next (match (s.cx tile c).st with
    | .waiting (.barrier _) => if (s.cx tile c).gbtimeout = 0 then s else s.setCx tile c { s.cx tile c with st := .ready, expired := true }
    | _ => s)

end Sys2Proof.Machine
end

