-- ==== Sys2Proof/Machine/Flags.lean ====
section
/-! DEFINITION. Rounding and flags of the acting agent (03 R67 to R69, 01 R16), and the results of scalar floating
point as registers hold them (01 R14). -/

namespace Sys2Proof.Machine

def State.rm (s : State) : RM := .ofBits s.th.rm

/-- The format of a scalar floating-point instruction (02 R36). -/
def precFmt : Prec → FFmt
  | .f32 => fp32
  | .f64 => fp64

/-- The other format. -/
def otherFmt : Prec → FFmt
  | .f32 => fp64
  | .f64 => fp32

/-- An operand read in a format: FP32 uses bits 31:0 (01 R14). -/
def State.fx (s : State) (p : Prec) (r : Reg) : Nat :=
  match p with
  | .f32 => (s.x r).toNat % 2 ^ 32
  | .f64 => (s.x r).toNat

/-- A result with its flags: FP32 results clear bits 63:32 (01 R14). -/
def State.putF (s : State) (rd : Reg) (res : Nat × Flags) : State :=
  (s.raise res.2).setX rd (BitVec.ofNat 64 res.1)

end Sys2Proof.Machine
end

