-- ==== Sys2Proof/Machine/VecOps.lean ====
section
/-! DEFINITION. Elements, lanes and masks of vector registers (07 R137, R138), and the functions of the vector
instructions on them (07 R140 to R153). -/

namespace Sys2Proof.Machine

/-! ## Elements -/

/-- Bits of an element (07 R137). -/
def etBits : ETy → Nat
  | .int8 => 8
  | .int16 | .bf16 => 16
  | .int32 | .fp32 => 32

/-- Elements in a register. -/
def etNum (t : ETy) : Nat := 1024 / etBits t

/-- The format of a floating-point element; FP32 stands for the types that have none. -/
def etFmt : ETy → FFmt
  | .bf16 => bf16
  | _ => fp32

/-- Element `j` of width `w`. -/
def elem (w : Nat) (v : VWord) (j : Nat) : Nat := v.toNat / 2 ^ (w * j) % 2 ^ w

/-- A register from its elements, element 0 first. -/
def packElems (w : Nat) : List Nat → Nat
  | [] => 0
  | e :: r => e % 2 ^ w + 2 ^ w * packElems w r

/-- An element read as two's complement (03 R55). -/
def sgn (w x : Nat) : Int := if x < 2 ^ (w - 1) then x else (x : Int) - 2 ^ w

/-- The low `w` bits of an integer. -/
def wrapTo (w : Nat) (i : Int) : Nat := (BitVec.ofInt w i).toNat

/-- Element `j` lies in a lane that the mask names (07 R138). -/
def laneOn (m : BitVec 32) (w j : Nat) : Bool := m.getLsbD (w * j / 32)

/-- The mask register of a mask field; code 0 is all ones (07 R138). -/
def State.mask (s : State) (mk : KReg) : BitVec 32 := if mk = 0 then BitVec.allOnes 32 else s.k mk

/-- A register whose active elements are replaced, and the flags of the active ones. -/
def vmap (m : BitVec 32) (w : Nat) (old : VWord) (f : Nat → Nat × Flags) : VWord × Flags :=
  let rs := (List.range (1024 / w)).map fun j => if laneOn m w j then f j else (elem w old j, flNone)
  (BitVec.ofNat 1024 (packElems w (rs.map (·.1))), rs.foldl (fun a r => a ||| r.2) flNone)

/-- A result without flags. -/
def quiet1 (f : Nat → Nat) (j : Nat) : Nat × Flags := (f j, flNone)

/-- The result of a vector instruction with its flags. -/
def State.putV (s : State) (vd : Reg) (r : VWord × Flags) : Done := .ok ((s.raise r.2).setV vd r.1)

/-! ## Arithmetic (07 R140, R141) -/

/-- Two-operand arithmetic: an integer function wrapped, or a floating-point one. -/
def arith2 (t : ETy) (fi : Int → Int → Int) (ff : FFmt → Nat → Nat → Nat × Flags) (a b : Nat) : Nat × Flags :=
  if t.isInt then (wrapTo (etBits t) (fi (sgn (etBits t) a) (sgn (etBits t) b)), flNone) else ff (etFmt t) a b

def arith3 (t : ETy) (rm : RM) (c a b : Nat) : Nat × Flags :=
  let w := etBits t
  if t.isInt then (wrapTo w (sgn w c + sgn w a * sgn w b), flNone) else (etFmt t).fma rm c a b

def absE (t : ETy) (a : Nat) : Nat :=
  let w := etBits t
  if t.isInt then wrapTo w (sgn w a).natAbs else a % 2 ^ (w - 1)

def negE (t : ETy) (a : Nat) : Nat :=
  let w := etBits t
  if t.isInt then wrapTo w (-(sgn w a)) else (a + 2 ^ (w - 1)) % 2 ^ w

/-- An element-wise instruction of two sources. -/
def State.vbin (s : State) (mk : KReg) (t : ETy) (vd vs1 vs2 : Reg) (f : Nat → Nat → Nat × Flags) : Done :=
  let w := etBits t
  s.putV vd (vmap (s.mask mk) w (s.v vd) fun j => f (elem w (s.v vs1) j) (elem w (s.v vs2) j))

/-- An element-wise instruction of one source. -/
def State.vun (s : State) (mk : KReg) (t : ETy) (vd vs1 : Reg) (f : Nat → Nat × Flags) : Done :=
  let w := etBits t
  s.putV vd (vmap (s.mask mk) w (s.v vd) fun j => f (elem w (s.v vs1) j))

/-- One lane of VDOT. -/
def dotLane (t : ETy) (rm : RM) (c : Nat) (a b : VWord) (i : Nat) : Nat × Flags :=
  if t = .int8 then
    let ps := (List.range 4).map fun q => sgn 8 (elem 8 a (4 * i + q)) * sgn 8 (elem 8 b (4 * i + q))
    (wrapTo 32 (ps.foldl (· + ·) (sgn 32 c)), flNone)
  else
    let a0 := elem 16 a (2 * i)
    let b0 := elem 16 b (2 * i)
    let a1 := elem 16 a (2 * i + 1)
    let b1 := elem 16 b (2 * i + 1)
    let (p0, f0) := Exact.mul (bf16.decode a0) (bf16.decode b0)
    let (p1, f1) := Exact.mul (bf16.decode a1) (bf16.decode b1)
    let (x0, f2) := Exact.add rm (fp32.decode c) p0
    let (x1, f3) := Exact.add rm x0 p1
    let (r, f4) := fp32.round false rm x1
    (r, snanFlag fp32 [c] ||| snanFlag bf16 [a0, b0, a1, b1] ||| f0 ||| f1 ||| f2 ||| f3 ||| f4)

/-! ## Logic and shifts (07 R142) -/

def shlE (w a b : Nat) : Nat := a * 2 ^ (b % w) % 2 ^ w
def shrE (w a b : Nat) : Nat := a / 2 ^ (b % w)
def sraE (w a b : Nat) : Nat := wrapTo w (sgn w a / 2 ^ (b % w))

/-! ## Comparison (07 R143) -/

inductive VRel | eq | ne | lt | le | gt | ge | ltu | geu
  deriving DecidableEq, Repr

def relI (r : VRel) (w a b : Nat) : Bool :=
  match r with
  | .eq => a == b
  | .ne => a != b
  | .lt => sgn w a < sgn w b
  | .le => sgn w a ≤ sgn w b
  | .gt => sgn w b < sgn w a
  | .ge => sgn w b ≤ sgn w a
  | .ltu => a < b
  | .geu => b ≤ a

def relF (r : VRel) (f : FFmt) (a b : Nat) : Bool × Flags :=
  match r with
  | .eq | .ltu | .geu => f.cmp .eq a b
  | .ne =>
    let c := f.cmp .eq a b
    (!c.1, c.2)
  | .lt => f.cmp .lt a b
  | .le => f.cmp .le a b
  | .gt => f.cmp .lt b a
  | .ge => f.cmp .le b a

def relE (t : ETy) (r : VRel) (a b : Nat) : Bool × Flags :=
  if t.isInt then (relI r (etBits t) a b, flNone) else relF r (etFmt t) a b

/-- VCMP: a lane's bit is the relation of all its elements. -/
def State.vcmp (s : State) (mk : KReg) (t : ETy) (kd : KReg) (vs1 vs2 : Reg) (r : VRel) : Done :=
  let m := s.mask mk
  let w := etBits t
  let rs := (List.range 32).map fun i =>
    (List.range (32 / w)).map fun q => relE t r (elem w (s.v vs1) (32 / w * i + q)) (elem w (s.v vs2) (32 / w * i + q))
  let old := s.k kd
  let bits := (List.range 32).map fun i => if m.getLsbD i then (rs.getD i []).all (·.1) else old.getLsbD i
  let fl := (List.range 32).foldl (fun a i => if m.getLsbD i then (rs.getD i []).foldl (fun a x => a ||| x.2) a else a) flNone
  .ok ((s.raise fl).setK kd (BitVec.ofNat 32 (packElems 1 (bits.map fun b => if b then 1 else 0))))

/-! ## Placing, reducing (07 R145 to R147) -/

/-- An element as a scalar: integers by sign, floating point by zeros. -/
def elemScalar (t : ETy) (e : Nat) : Word := if t.isInt then BitVec.ofInt 64 (sgn (etBits t) e) else BitVec.ofNat 64 e

def slideE (t : ETy) (v : VWord) (sh : Int) (j : Nat) : Nat :=
  let p : Int := j + sh
  if 0 ≤ p && decide (p < etNum t) then elem (etBits t) v p.toNat else 0

/-- Elements before `j` in lanes of a mask register. -/
def iotaE (t : ETy) (k : BitVec 32) (j : Nat) : Nat := ((List.range j).filter fun i => laneOn k (etBits t) i).length

/-- A BF16 element widened to FP32 by its bits; other types stand for themselves. -/
def widen (t : ETy) (e : Nat) : Nat := if t = .bf16 then e * 2 ^ 16 else e

/-- The steps of a reduction over the active elements, in ascending order. -/
def State.vreduce (s : State) (mk : KReg) (t : ETy) (rd vs1 rs2 : Reg) (fi : Int → Int → Int)
    (ff : Nat → Nat → Nat × Flags) : Done :=
  let m := s.mask mk
  let w := etBits t
  let es := ((List.range (etNum t)).filter fun j => laneOn m w j).map fun j => elem w (s.v vs1) j
  if t.isInt then .ok (s.setX rd (BitVec.ofInt 64 (es.foldl (fun a e => fi a (sgn w e)) (s.x rs2).toInt)))
  else
    let r := es.foldl (fun (a : Nat × Flags) e =>
      let x := ff a.1 (widen t e)
      (x.1, a.2 ||| x.2)) ((s.x rs2).toNat % 2 ^ 32, flNone)
    .ok ((s.raise r.2).setX rd (BitVec.ofNat 64 r.1))

/-- Running sums; the results come in ascending order. -/
def scanE (t : ETy) (rm : RM) (m : BitVec 32) (src old : VWord) : List Nat → Nat → List (Nat × Flags)
  | [], _ => []
  | j :: r, acc =>
    let w := etBits t
    if laneOn m w j then
      let x := arith2 t (· + ·) (fun f a b => f.add rm a b) acc (elem w src j)
      x :: scanE t rm m src old r x.1
    else (elem w old j, flNone) :: scanE t rm m src old r acc

/-! ## Conversions (07 R148 to R152) -/

/-- One element converted between element types (07 R148). -/
def convE (src dst : ETy) (rm : RM) (nanov : Bool) (a : Nat) : Nat × Flags :=
  let ws := etBits src
  let wd := etBits dst
  if src.isInt then
    if dst.isInt then (wrapTo wd (sgn ws a), flNone) else (etFmt dst).ofInt rm (sgn ws a)
  else if dst.isInt then
    let (i, f) := toInt rm (-(2 ^ (wd - 1) : Int)) (2 ^ (wd - 1) - 1) ((etFmt src).decode a)
    (wrapTo wd i, f ||| flagIf ((etFmt src).isNan a) flNV)
  else (etFmt src).convert (etFmt dst) nanov rm a

/-- VCVT: the elements converted; what is beyond them in a narrower target is zero. -/
def vcvtV (src dst : ETy) (rm : RM) (nanov : Bool) (m : BitVec 32) (v old : VWord) : VWord × Flags :=
  let wd := etBits dst
  let n := 1024 / max (etBits src) wd
  let rs := (List.range (1024 / wd)).map fun j =>
    if n ≤ j then (0, flNone)
    else if laneOn m wd j then convE src dst rm nanov (elem (etBits src) v j) else (elem wd old j, flNone)
  (BitVec.ofNat 1024 (packElems wd (rs.map (·.1))), rs.foldl (fun a r => a ||| r.2) flNone)

/-- One element of VPACK: from twice the width (07 R149). -/
def packE (t : ETy) (rm : RM) (a : Nat) : Nat × Flags :=
  let w := etBits t
  match t with
  | .bf16 => fp32.convert bf16 false rm a
  | .fp32 => fp64.convert fp32 false rm a
  | _ =>
    let (i, f) := clampInt (-(2 ^ (w - 1) : Int)) (2 ^ (w - 1) - 1) (sgn (2 * w) a)
    (wrapTo w i, f)

/-- One element of VUNPACK: to twice the width (07 R150). -/
def unpackE (t : ETy) (a : Nat) : Nat × Flags :=
  let w := etBits t
  match t with
  | .bf16 => bf16.convert fp32 false .ne a
  | .fp32 => fp32.convert fp64 false .ne a
  | _ => (wrapTo (2 * w) (sgn w a), flNone)

/-- The blocks of VQUANT and VDEQ over `n` elements: first element and length (07 R151). -/
def quantBlocks (f : TFmt) (n : Nat) : List (Nat × Nat) :=
  match TFmt.block f with
  | none => [(0, n)]
  | some b => (List.range ((n + b - 1) / b)).map fun k => (b * k, min b (n - b * k))

/-- The zero of a tensor format. -/
def zeroOf (f : TFmt) : Nat := if f = .ts8 then 0x77 else 0

/-- A block quantised: its scale byte and its elements, given with whether each is active (07 R151). -/
def quantBlock (f : TFmt) (nanov : Bool) (vs : List (Bool × Exact)) : Nat × List Nat × Flags :=
  let (e, fl) := if (TFmt.block f).isSome then chooseScale f ((vs.filter (·.1)).map (·.2)) else (0x7F, flNone)
  let rs := vs.map fun v => if v.1 then TFmt.encode f nanov .ne (unscaleBy e v.2) else (zeroOf f, flNone)
  (e, rs.map (·.1), rs.foldl (fun a r => a ||| r.2) fl)

def vquantV (t : ETy) (f : TFmt) (nanov : Bool) (m : BitVec 32) (v : VWord) : VWord × Flags :=
  let w := etBits t
  let g := etFmt t
  let bs := (quantBlocks f (etNum t)).map fun b =>
    quantBlock f nanov ((List.range b.2).map fun i => (laneOn m w (b.1 + i), g.decode (elem w v (b.1 + i))))
  -- bytes 124 to 127 are kept for the scales, and zero where none is formed
  let body := packElems (TFmt.bits f) (bs.flatMap (·.2.1)) % 2 ^ 992
  let strip := if (TFmt.block f).isSome then packElems 8 (bs.map (·.1)) else 0
  let sn := snanFlag g (((List.range (etNum t)).filter (laneOn m w)).map (elem w v))
  (BitVec.ofNat 1024 (body + strip * 2 ^ 992), bs.foldl (fun a b => a ||| b.2.2) sn)

/-- Element `j` of VDEQ (07 R152). -/
def deqE (t : ETy) (f : TFmt) (v : VWord) (j : Nat) : Nat × Flags :=
  let x := v.toNat / 2 ^ ((TFmt.bits f) * j) % 2 ^ (TFmt.bits f)
  let (y, fl) := match TFmt.block f with
    | none => (TFmt.decode f x, flNone)
    | some b => scaleBy (elem 8 v (124 + j / b)) (TFmt.decode f x)
  let (r, fl2) := (etFmt t).round false .ne y
  (r, TFmt.readFlags f x ||| fl ||| fl2)

/-! ## Approximate functions (07 R153) -/

/-- A result rounded; one that overflows is infinite in every mode (07 R153). -/
def FFmt.roundInf (f : FFmt) (rm : RM) (x : Exact) : Nat × Flags :=
  let (r, fl) := f.round false rm x
  match x with
  | .fin neg .. => if fl &&& flOF = flOF then (f.withSign neg f.infCode, fl) else (r, fl)
  | _ => (r, fl)

def exp2E (f : FFmt) (rm : RM) (a : Nat) : Nat × Flags :=
  let x := match f.decode a with
    | .nan => .nan
    | .inf n => if n then .fin false 0 0 false else .inf false
    | .fin n m e _ => exp2Fin n m e
  let (r, fl) := f.roundInf rm x
  (r, snanFlag f [a] ||| fl)

def log2E (f : FFmt) (rm : RM) (a : Nat) : Nat × Flags :=
  let (x, fl) := match f.decode a with
    | .nan => (Exact.nan, flNone)
    | .inf n => if n then (.nan, flNV) else (.inf false, flNone)
    | .fin n m e _ => if m = 0 then (.inf true, flDZ) else if n then (.nan, flNV) else (log2Fin m e, flNone)
  let (r, fl2) := f.round false rm x
  (r, snanFlag f [a] ||| fl ||| fl2)

/-- 1 / a. -/
def rcpE (f : FFmt) (rm : RM) (a : Nat) : Nat × Flags :=
  let (x, fl) := Exact.div (.fin false 1 0 false) (f.decode a)
  let (r, fl2) := f.roundInf rm x
  (r, snanFlag f [a] ||| fl ||| fl2)

def rsqrtE (f : FFmt) (rm : RM) (a : Nat) : Nat × Flags :=
  let (x, fl) := match f.decode a with
    | .nan => (Exact.nan, flNone)
    | .inf n => if n then (.nan, flNV) else (.fin false 0 0 false, flNone)
    | .fin n m e _ => if m = 0 then (.inf n, flDZ) else if n then (.nan, flNV) else (rsqrtFin m e, flNone)
  let (r, fl2) := f.round false rm x
  (r, snanFlag f [a] ||| fl ||| fl2)

/-- An instruction of the vector classes: a term that is no instruction takes ILLEGAL (02 R32). -/
def vec (i : Instr) (m : SMark) (body : State → Done) (s : State) : Out :=
  .next (issue i m false (fun s => if i.wf then body s else Done.illegal s i) s)

end Sys2Proof.Machine
end

