-- ==== Sys2Proof/Machine/Atomic.lean ====
section
/-! DEFINITION. Atomics (10 R200 to R204): where each executes, its indivisible step, the AMO family. -/

namespace Sys2Proof.Machine

/-! ## The step (10 R202, R203) -/

/-- The value written over `a`; none for an AMOCAS that fails. -/
def AtomOp.apply (o : AtomOp) (a : Nat) : Option Nat :=
  let w := 8 * o.n
  match o.kind with
  | .add => some ((a + o.b) % 2 ^ w)
  | .and => some (a &&& o.b)
  | .or => some (a ||| o.b)
  | .xor => some (a ^^^ o.b)
  | .min => some (if sgn w a ≤ sgn w o.b then a else o.b)
  | .max => some (if sgn w o.b ≤ sgn w a then a else o.b)
  | .minu => some (min a o.b)
  | .maxu => some (max a o.b)
  | .swp => some o.b
  | .cas => if a = o.cmp then some o.b else none
  | .fadd => some ((if o.n = 4 then fp32 else fp64).add .ne a o.b).1

/-- The bytes written over `a`, if any; a poisoned word is not written (10 R204). -/
def AtomOp.bytes (o : AtomOp) (a : Nat) (poison : Bool) : Option (List Byte) :=
  if poison then none else (o.apply a).map fun v => leBytes v o.n

/-- The answer to an atomic: its result, or with rd = x0 the event of a poisoned word (10 R204). -/
def State.answerAtom (s : State) (src : Src) (o : AtomOp) (old : Nat) (poison : Bool) : State :=
  if o.keep then { s with flights := s.flights ++ [.answer src o.tag (leBytes old o.n) poison] }
  else if poison then s.faultRecord src.ws.toNat frATOMIC (s.ltidOf src.tile) 0 o.va
  else s

/-! ## Places (10 R200, R201) -/

/-- Where an atomic takes its step, with the first byte there: atomics at one place exclude each other. -/
inductive Spot
  | slice (pa : Nat)
  | cluster (c pa : Nat)
  | host (pa : Nat)
  | bank (tile off : Nat)
  deriving DecidableEq, Repr

/-- Two runs of bytes at one place meet. -/
def Spot.meets (a : Spot) (n : Nat) (b : Spot) (m : Nat) : Bool :=
  let hit (x y : Nat) : Bool := decide (x < y + m) && decide (y < x + n)
  match a, b with
  | .slice x, .slice y | .host x, .host y => hit x y
  | .cluster c x, .cluster d y | .bank c x, .bank d y => c == d && hit x y
  | _, _ => false

/-- The place of an atomic in global memory; at cluster scope the unit keeps only words it can register. -/
def State.memSpot (s : State) (src : Src) (o : AtomOp) (pa : Nat) : Spot :=
  match regionOf pa, o.sc with
  | .host _, .sys => .host pa
  | _, .clu => if allocates s pa then .cluster (clusterOf src.tile) pa else .slice pa
  | _, _ => .slice pa

/-- The place of an atomic of the store window: the store tile, or the home slice of a page at its backing (11 R240). -/
def State.winSpot (s : State) (ows rid off : Nat) : Option Spot :=
  (s.rgnOf ows rid).bind fun r => match s.winPlace r off with
    | .slot t o => some (.bank t o)
    | .backing pa => some (.slice pa)
    | .moving => none

/-- The place and the length of an atomic that is between its read and its write. -/
def State.openSpot (s : State) : Flight → Option (Spot × Nat)
  | .atom src o pa (some _) => some (s.memSpot src o pa, o.n)
  | .winAtom _ o ows rid off (some _) => (s.winSpot ows rid off).map fun p => (p, o.n)
  | .bankAtom src o off _ _ => some (.bank src.tile off, o.n)
  | _ => none

/-- Another atomic at a place is between its read and its write on some of the bytes (10 R201). -/
def State.spotBusy (s : State) (p : Spot) (n : Nat) : Bool :=
  s.flights.any fun f => (s.openSpot f).any fun q => p.meets n q.1 q.2

/-- A tile-store word is held by an atomic of the tile's bank update unit (10 R201). -/
def State.bankBusy (s : State) (tile off n : Nat) : Bool := s.spotBusy (.bank tile (off / 8 * 8)) ((off % 8 + n + 7) / 8 * 8)

/-! ## In global memory -/

/-- A Valid copy of a word in the issuing tile's L1 is dropped, and what travels toward it is not kept, so that no later
load of the tile reads what stood before the atomic (01 R26). -/
def State.forgetWord (s : State) (tile w : Nat) : State :=
  let t := s.tileAt tile
  let l1 := match sget w t.l1 with
    | some l => if l.st = .valid then sdel w t.l1 else t.l1
    | none => t.l1
  { s.setTile tile { t with l1 := l1 } with flights := s.flights.map (Flight.stale tile w) }

/-- The slice gives up a sector of host memory to the host's port (18 R316). -/
def State.giveUp (s : State) (pa : Nat) : State :=
  (((List.range 8).map (8 * sectorOf pa + ·)).foldl State.revoke s).setHostSt pa none

/-- Lines that the atomic cache of a cluster holds: 256 KiB (10 R200). -/
def cuLines : Nat := 2048

/-- Words registered to a cluster unit. -/
def State.cuWords (s : State) (c : Nat) : List Nat :=
  (s.reg.filter fun e => e.2.holder == .cluster c).map (·.1)

/-- Room for a line in the atomic cache: the line replaced is the first (log 8). -/
def State.cuRoom (s : State) (c line : Nat) : State :=
  let lines := ((s.cuWords c).map (· / 16)).dedup
  if lines.contains line || lines.length < cuLines then s
  else match lines with
    | v :: _ => ((s.cuWords c).filter (· / 16 == v)).foldl State.revoke s
    | [] => s

/-- The cluster unit's own copy of a word that is registered to it. -/
def State.cuHit (s : State) (c w : Nat) : Option L1Word :=
  match sget w s.reg with
  | some r => if r.holder == .cluster c then sget w s.cu else none
  | none => none

/-- The sectors for which an atomic waits on the host: at system scope the host's whole copy of the line is snooped out
(10 R200, 18 R315). -/
def atomSectors (o : AtomOp) (pa : Nat) : List Nat := if o.sc = .sys then sectorsOf (pa / 128 * 128) 128 else sectorsOf pa o.n

/-- The read of an atomic at its place: at the home slice the registrant returns the word first (13 R255); a cluster unit
hits in its own word, or reads afresh; the host port reads the host's memory (10 R200). -/
def State.atomRead (s : State) (src : Src) (o : AtomOp) (pa : Nat) : State × Nat × Bool :=
  let take (s : State) (write : Bool) : State :=
    ((atomSectors o pa).foldl (fun s a => s.takeSector a write) (s.touchLine pa)).nomemOnce o.tag pa src.ws.toNat
  match s.memSpot src o pa with
  | .host _ =>
    let s1 := (s.giveUp pa).nomemOnce o.tag pa src.ws.toNat
    if backed s1 pa then ({ s1 with fresh := s1.fresh + 1 }, leNat (((s1.hostBytes pa).drop (pa % 64)).take o.n), false)
    else (s1, 0, true)
  | .cluster c _ =>
    let s1 := if (s.cuHit c (pa / 8)).isSome then s else take s false
    let (bs, poison) := s1.readAt pa o.n
    (s1, leNat bs, poison)
  | _ =>
    let s1 := (take s true).revoke (pa / 8)
    let (bs, poison) := s1.readAt pa o.n
    (s1, leNat bs, poison)

/-- The write of an atomic at its place. A cluster unit writes into its own word where it has it still; else the word is
registered to the unit, as by any writer, and its other bytes are the latest ones (10 R200). -/
def State.atomWrite (s : State) (src : Src) (o : AtomOp) (pa : Nat) (bs : List Byte) : State :=
  let w := pa / 8
  let cells := cellsIn pa bs w
  let take (s : State) : State := (atomSectors o pa).foldl (fun s a => s.takeSector a true) (s.touchLine pa)
  match s.memSpot src o pa with
  | .host _ => s.giveUp pa
  | .cluster c _ =>
    match s.cuHit c w with
    | some l => { s with cu := sset w { l with bytes := patchWord l.bytes cells, ws := src.ws } s.cu }
    | none =>
      let s1 := (((take s).cuRoom c (w / 16)).revoke w).unseal w none
      let now := s1.sliceWord w
      let l : L1Word := { st := .registered, bytes := patchWord now.bytes cells, poison := now.poison, ws := src.ws,
                          sealed := false, merging := none }
      ({ s1 with cu := sset w l s1.cu }).register w { holder := .cluster c, ws := src.ws }
  | _ => (take s).sliceWrite w cells src.ws

/-- An atomic in global memory: its read, once no other atomic of the place is open on the bytes, and at a later step its
write (10 R200, R201). It comes after the tile's earlier accesses to its word (01 R26) but other agents' atomics, and waits
for the host as a write does (18 R315). -/
def State.doAtomMem (s : State) (n : Nat) (src : Src) (o : AtomOp) (pa : Nat) (seen : Option (Nat × Bool)) : State :=
  let key := [2, o.tag]
  if !s.inOrder n src [pa / 8] then s
  else match s.hostGate key (atomSectors o pa) true with
    | some s' => s'
    | none =>
      let s0 := s.leaveOrder key
      match seen with
      | none =>
        if s0.spotBusy (s0.memSpot src o pa) o.n then s0
        else
          let (s1, old, poison) := s0.atomRead src o pa
          s1.putFlight n (.atom src o pa (some (old, poison)))
      | some (old, poison) =>
        let s1 := s0.dropFlight n
        let s2 := match o.bytes old poison with
          | some bs => s1.atomWrite src o pa bs
          | none => s1
        (s2.forgetWord src.tile (pa / 8)).answerAtom src o old poison

/-! ## In the store window, and at the issuing tile -/

/-- An atomic of the store window, at the store tile's bank update unit, or at the home slice of a page at its backing
(10 R200, 11 R240): its read, and at a later step its write. -/
def State.doAtomWin (s : State) (n : Nat) (src : Src) (o : AtomOp) (ows rid off : Nat) (seen : Option (Nat × Bool)) : State :=
  let key := [2, o.tag]
  if !s.winReady n src ows rid off o.n then s
  else match s.winGate key ows rid off o.n true with
    | some s' => s'
    | none =>
      let s0 := s.leaveOrder key
      match seen with
      | none =>
        if (s0.winSpot ows rid off).any fun p => s0.spotBusy p o.n then s0
        else
          let (old, poison) := s0.winBytes ows rid off o.n
          (s0.touchWin ows rid off).putFlight n (.winAtom src o ows rid off (some (leNat old, poison)))
      | some (old, poison) =>
        let s1 := s0.dropFlight n
        let s2 := match o.bytes old poison with
          | some bs => s1.winPut ows rid off bs src.ws
          | none => s1
        s2.answerAtom src o old poison

/-- An atomic of tile scope takes its result, and writes it, at its tile's bank update unit (10 R200, R204). -/
def State.doAtomBank (s : State) (n : Nat) (src : Src) (o : AtomOp) (off old : Nat) (poison : Bool) : State :=
  let s1 := s.dropFlight n
  let s2 := match o.bytes old poison with
    | some bs => s1.setTile src.tile ((s1.tileAt src.tile).writeBytes off bs)
    | none => s1
  if o.keep then s2.deliver src o.tag 0 (leBytes old o.n) poison else s2.answerAtom src o old poison

def State.doAtom (s : State) (n : Nat) : State :=
  match s.flights[n]? with
  | some (.atom src o pa seen) => s.doAtomMem n src o pa seen
  | some (.winAtom src o ows rid off seen) => s.doAtomWin n src o ows rid off seen
  | some (.bankAtom src o off old poison) => s.doAtomBank n src o off old poison
  | _ => s

/-! ## At issue -/

/-- The places of R200 by region and scope. -/
def atomScopeOk (r : VRegion) (sc : Scope) : Bool :=
  match r, sc with
  | .tile, .tile => true
  | .global, .clu | .global, .die | .global, .pkg | .global, .sys => true
  | .window, .clu | .window, .die | .window, .pkg | .window, .sys => true
  | _, _ => false

/-- A tile-scope atomic reads at the issuing tile's bank update unit; its write follows (10 R200, R201, R204). While another
one is open on its words it is held. `out` is its result, outstanding. -/
def State.atomTile (s : State) (o : AtomOp) (out : State → State) : Done :=
  match s.lockTrap o.va [(o.va, o.n)] with
  | some d => d
  | none =>
    let off := tileOff o.va
    if s.bankBusy s.curTile off o.n then .hold s
    else
      let s1 := out (s.noteOut (outByte [(o.va, o.n)]))
      .commit { s1 with flights := s1.flights ++ [.bankAtom s.src o off (leNat (s.tile.bytes off o.n)) (s.tile.poisoned off o.n)] }

/-- The atomic sent to the place of its one piece. A Valid copy of its word leaves the L1 at once: what another agent of the
tile stores until the atomic has written then merges at the slice, and neither loses bytes of the other (10 R201). -/
def State.atomSend (s : State) (o : AtomOp) (p : Piece) : State :=
  match p.at' with
  | .mem pa _ => let u := s.forgetWord s.curTile (pa / 8)
                 { u with flights := u.flights ++ [.atom s.src o pa none] }
  | .node k pa => { s with flights := s.flights ++ [.fabAtom s.src o k pa (s.nodePort k pa) s.tick] }
  | .win ows rid off => { s with flights := s.flights ++ [.winAtom s.src o ows rid off none] }

/-- An atomic (10 R200 to R204); at another node its scope is SYS (22 R360). -/
def State.atomic (s : State) (kind : AtomKind) (sc : Scope) (n : Nat) (signed : Bool) (rd rs1 rs2 : Reg) : Done :=
  let va := s.x rs1
  let a := va.toNat
  match s.accessWait true [(a, n)] with
  | some d => d
  | none =>
    let r := accessRegion a n
    if !atomScopeOk r sc then Done.trapAt s trACCESS_FAULT va 0
    else if a % n != 0 then Done.trapAt s trMISALIGNED va 0
    else
      let (s1, tag) := s.takeFresh
      let o : AtomOp := { kind := kind, n := n, b := (s.x rs2).toNat % 2 ^ (8 * n), cmp := (s.x rd).toNat % 2 ^ (8 * n),
                          sc := sc, va := a, tag := tag, keep := rd != 0 }
      let res : Remote := { tag := tag, dest := .x rd signed, pc := s.pc, addr := va, bytes := List.replicate n none,
                            poison := false, dropped := none, acquire := none }
      let out (u : State) : State :=
        let u1 := { u with fresh := s1.fresh }
        if o.keep then u1.setTh { u1.th with outs := u1.th.outs ++ [res] } else u1
      match r with
      | .tile => s.atomTile o out
      | _ => s.reach needAtomic a [(0, a, n)] fun u ps =>
        match ps with
        | [p] =>
          let far : Bool := match p.at' with
            | .node .. => sc != .sys
            | _ => false
          if far then Done.trapAt s trACCESS_FAULT va 0 else .commit ((out u).atomSend o p)
        | _ => .hold s

/-- Bytes of .W and .D. -/
def amoBytes (dw : Bool) : Nat := if dw then 8 else 4

def execAmoadd (m : SMark) (sc : Scope) (dw : Bool) (rd rs1 rs2 : Reg) (s : State) : Out :=
  .next (issue (.amoadd m sc dw rd rs1 rs2) m true (fun s => s.atomic .add sc (amoBytes dw) true rd rs1 rs2) s)

def execAmoand (m : SMark) (sc : Scope) (dw : Bool) (rd rs1 rs2 : Reg) (s : State) : Out :=
  .next (issue (.amoand m sc dw rd rs1 rs2) m true (fun s => s.atomic .and sc (amoBytes dw) true rd rs1 rs2) s)

def execAmoor (m : SMark) (sc : Scope) (dw : Bool) (rd rs1 rs2 : Reg) (s : State) : Out :=
  .next (issue (.amoor m sc dw rd rs1 rs2) m true (fun s => s.atomic .or sc (amoBytes dw) true rd rs1 rs2) s)

def execAmoxor (m : SMark) (sc : Scope) (dw : Bool) (rd rs1 rs2 : Reg) (s : State) : Out :=
  .next (issue (.amoxor m sc dw rd rs1 rs2) m true (fun s => s.atomic .xor sc (amoBytes dw) true rd rs1 rs2) s)

def execAmomin (m : SMark) (sc : Scope) (dw : Bool) (rd rs1 rs2 : Reg) (s : State) : Out :=
  .next (issue (.amomin m sc dw rd rs1 rs2) m true (fun s => s.atomic .min sc (amoBytes dw) true rd rs1 rs2) s)

def execAmomax (m : SMark) (sc : Scope) (dw : Bool) (rd rs1 rs2 : Reg) (s : State) : Out :=
  .next (issue (.amomax m sc dw rd rs1 rs2) m true (fun s => s.atomic .max sc (amoBytes dw) true rd rs1 rs2) s)

def execAmominu (m : SMark) (sc : Scope) (dw : Bool) (rd rs1 rs2 : Reg) (s : State) : Out :=
  .next (issue (.amominu m sc dw rd rs1 rs2) m true (fun s => s.atomic .minu sc (amoBytes dw) true rd rs1 rs2) s)

def execAmomaxu (m : SMark) (sc : Scope) (dw : Bool) (rd rs1 rs2 : Reg) (s : State) : Out :=
  .next (issue (.amomaxu m sc dw rd rs1 rs2) m true (fun s => s.atomic .maxu sc (amoBytes dw) true rd rs1 rs2) s)

def execAmoswp (m : SMark) (sc : Scope) (dw : Bool) (rd rs1 rs2 : Reg) (s : State) : Out :=
  .next (issue (.amoswp m sc dw rd rs1 rs2) m true (fun s => s.atomic .swp sc (amoBytes dw) true rd rs1 rs2) s)

def execAmocas (m : SMark) (sc : Scope) (dw : Bool) (rd rs1 rs2 : Reg) (s : State) : Out :=
  .next (issue (.amocas m sc dw rd rs1 rs2) m true (fun s => s.atomic .cas sc (amoBytes dw) true rd rs1 rs2) s)

def execAmofadd (m : SMark) (sc : Scope) (p : Prec) (rd rs1 rs2 : Reg) (s : State) : Out :=
  .next (issue (.amofadd m sc p rd rs1 rs2) m true
    (fun s => s.atomic .fadd sc (if p = .f32 then 4 else 8) false rd rs1 rs2) s)

end Sys2Proof.Machine
end

