-- ==== Sys2Proof/Machine/Fetch.lean ====
section
/-! DEFINITION. The fetch of an instruction word (02 R48, R49, 06 R374); words that are no instruction (02 R32). -/

namespace Sys2Proof.Machine

/-- A trap taken instead of a word, at the fetch address. -/
def State.fetchFault (s : State) (va : Nat) : State := s.trapHere trFETCH_FAULT (BitVec.ofNat 64 va) 0

/-- The word of an instruction-cache line at a physical address. -/
def ICLine.word (l : ICLine) (pa : Nat) : IWord := BitVec.ofNat 32 (leNat ((l.bytes.drop (pa % 128)).take 4))

def Tile.icLine (t : Tile) (ws : Wsid) (pa : Nat) : Option ICLine := t.icache.find? fun l => l.ws == ws && l.line == pa / 128

/-- A walk that a fetch at `va` needs, of its page or of the fabric map's (22 R359), or FETCH_FAULT where the steward refused
it (02 R48, 13 R270). The context keeps issue while the
tables are walked, and waits while the steward serves the page (02 R28). -/
def State.fetchWalk (s : State) (va page : Nat) (need : Need) : State :=
  match s.needWalk (α := Unit) s.who s.ws page need with
  | .trap _ _ s1 => s1.fetchFault va
  | .wait w s1 => if s1.walkRuns s.who s.ws (pageOf page) then s1 else s1.waitOn w
  | .ok _ => s

/-- The word at a virtual address by the fetch path of a strand, or the state in which the strand waits or traps
(02 R39, R48, 06 R374, 22 R360). `va` is in one line with the bytes read. -/
def State.fetchLine (s : State) (va : Nat) : Except State (ICLine × Nat) :=
  if globalEnd ≤ va then .error (s.fetchFault va)
  else match s.fabPlace s.ws.toNat va with
    | .node _ => .error (s.fetchFault va)
    | .fault => .error (s.fetchWalk va (s.fabByte s.ws.toNat va) needLoad)
    | .here =>
      match s.tile.tlbFind s.ws va with
      | none => .error (s.fetchWalk va va needFetch)
      | some (_, e) =>
        if !e.x then .error (s.fetchWalk va va needFetch)
        else
          let pa := e.pa + (va - e.va)
          match s.tile.icLine s.ws pa with
          | some l => .ok (l, pa)
          | none =>
            let s1 : State := { s with flights := s.flights ++ [.ifill s.src (pa / 128 * 128) e.sealed] }
            .error (s1.waitOn (.fetch (pa / 128 * 128)))

/-- The word that the acting agent is to execute, or the state in which it waits or traps instead. -/
def State.fetchWord (s : State) : Except State IWord :=
  match s.curAgent with
  | .ctx _ =>
    match s.ctx.pending with
    | some tr => .error (s.takeTrap (tr.atBoundary s.pc))
    | none =>
      match s.fetchLine s.pc.toNat with
      | .error s' => .error s'
      | .ok (l, pa) => .ok (l.word pa)
  | .loader => sideFetch s.tile.ldr
  | .storer => sideFetch s.tile.str
where
  /-- A side core's fetch from its store (02 R49). -/
  sideFetch (c : SideCore) : Except State IWord :=
    match c.pending with
    | some tr => .error (s.takeTrap (tr.atBoundary c.th.pc))
    | none =>
      if c.loaded ≤ c.th.pc.toNat then .error (s.trapHere trSTORE_END c.th.pc 0)
      else .ok (BitVec.ofNat 32 (leNat (mread c.imem c.th.pc.toNat 4)))

/-- A word that is no instruction takes ILLEGAL; an S-marked one after its S point (02 R32). -/
def State.illegalWord (s : State) (w : IWord) : State :=
  match s.sPoint (w.getLsbD 31) with
  | .error s' => s'
  | .ok s1 => s1.trapHere trILLEGAL 0 (w.setWidth 64)

end Sys2Proof.Machine
end

