-- ==== Sys2Proof/Machine/System.lean ====
section
/-! DEFINITION. System and region instructions (05 R102, R115 to R119) and the queue registers (06 R128, R129). -/

namespace Sys2Proof.Machine

/-! ## System -/

/-- ECALL and EBREAK resume after themselves; TINFO is the service code (05 R110, R115). -/
def serviceTrap (code : Byte) (service : BitVec 11) (s : State) : Done :=
  .trap { code := code, tpc := s.pc, taddr := 0, tinfo := zeroExt service, resume := .at (s.pc + 4) } s

def execEcall (m : SMark) (code : BitVec 11) (s : State) : Out :=
  .next (issue (.ecall m code) m false (serviceTrap trECALL code) s)

def execEbreak (m : SMark) (code : BitVec 11) (s : State) : Out :=
  .next (issue (.ebreak m code) m false (serviceTrap trEBREAK code) s)

/-- The record a handler serves goes back on its queue, and the handler ends (05 R116). -/
def State.eret (s : State) (c : Fin 8) : State :=
  let rec' := s.ctx.trec
  (s.pushResume (s.returnQueue s.ws rec') s.ws rec' (s.recPrio s.ws rec')).endStrand s.curTile c .eret

def execEret (m : SMark) (s : State) : Out :=
  .next (issue (.eret m) m false (fun s => match s.curAgent with
    | .ctx c =>
      if s.ctx.trec = 0 then Done.illegal s (.eret m)
      else if s.storesOut s.src then .wait .stores s
      else match s.departWait with
        | some w => .wait w s
        | none => .gone (s.eret c)
    | _ => Done.illegal s (.eret m)) s)

/-- WFI waits at its issue and completes at its re-issue (05 R117). -/
def execWfi (m : SMark) (s : State) : Out :=
  .next (issue (.wfi m) m false (fun s => if s.ctx.released || s.ctx.expired then .ok s else .wait (.wfi s.tile.phases) s) s)

def execHalt (m : SMark) (s : State) : Out :=
  .next (issue (.halt m) m false (fun s => match s.curAgent with
    | .ctx c =>
      if s.storesOut s.src then .wait .stores s
      else match s.departWait with
        | some w => .wait w s
        | none => .gone (s.endStrand s.curTile c .halt)
    | _ => Done.illegal s (.halt m)) s)

/-- What a tile holds of a workspace's translations and instructions dropped (05 R119, R113). -/
def Tile.dropTlb (t : Tile) (ws : Wsid) : Tile :=
  { t with tlb := t.tlb.filter (fun e => e.2.ws != ws), icache := t.icache.filter (fun e => e.ws != ws) }

def execTlbsync (m : SMark) (s : State) : Out :=
  .next (issue (.tlbsync m) m false
    (fun s => if s.storesOut s.src then .wait .stores s else .ok (s.putTile (s.tile.dropTlb s.ws))) s)

/-! ## Regions (05 R102) -/

/-- A region opened at the present instruction with its declared live-ins. -/
def State.openRegion (s : State) (live : RegSet) : State :=
  s.setCtx { s.ctx with rgnpc := s.pc, live := live, written := .empty }

def execRgn (m : SMark) (d : BitVec 23) (s : State) : Out :=
  .next (issue (.rgn m d) m false
    (fun s => .ok (s.openRegion { RegSet.empty with x := d.setWidth 32 <<< 1 })) s)

/-- The descriptor's address: a signed count of 32-byte units from the instruction's own (02 R39). -/
def rgnvAddr (pc : Word) (count : BitVec 18) : Word := (pc &&& ~~~31#64) + signExt count * 32

/-- The must-be-zero bits of a descriptor (02 R39). -/
def descOk (b : List Byte) : Bool :=
  (b.getD 0 0).getLsbD 0 == false && b.getD 9 0 == 0 && (b.drop 12).all (· == 0)

def execRgnv (m : SMark) (count : BitVec 18) (s : State) : Out :=
  .next (issue (.rgnv m count) m false (fun s =>
    match s.fetchLine (rgnvAddr s.pc count).toNat with
    | .error s' => .gone s'
    | .ok (l, pa) =>
      let b := (l.bytes.drop (pa % 128)).take 32
      if descOk b then .ok (s.openRegion (.ofBytes b)) else Done.illegal s (.rgnv m count)) s)

/-! ## Queue registers -/

/-- Who pushes and who pops each queue (06 R128); what pushes q3 is no agent. -/
def mayPush (a : Agent) (q : BitVec 2) : Bool :=
  match a with
  | .ctx _ => q == 1
  | .loader => q == 0
  | .storer => q == 2

def mayPop (a : Agent) (q : BitVec 2) : Bool :=
  match a with
  | .ctx _ => q == 0 || q == 3
  | .loader => q == 2 || q == 3
  | .storer => q == 1 || q == 3

def Tile.queue (t : Tile) (q : BitVec 2) : List Word := t.queues[q.toNat]'(q.isLt)
def Tile.setQueue (t : Tile) (q : BitVec 2) (l : List Word) : Tile := { t with queues := t.queues.set q.toNat l q.isLt }

/-- Whether a side core acts: it stalls where issue of a context is held. -/
def State.holdOr (s : State) (w : Wait) : Done := if s.isCtx then .hold s else .wait w s

def execQpush (m : SMark) (q : BitVec 2) (rs1 : Reg) (s : State) : Out :=
  .next (issue (.qpush m q rs1) m true (fun s =>
    if !mayPush s.curAgent q then Done.illegal s (.qpush m q rs1)
    else if 16 ≤ (s.tile.queue q).length then s.holdOr (.room q)
    else if !s.released s.th.outs s.src .tile then .wait (.release .tile) s
    else .commit (s.putTile (s.tile.setQueue q (s.tile.queue q ++ [s.x rs1])))) s)

def execQpop (m : SMark) (rd : Reg) (q : BitVec 2) (s : State) : Out :=
  .next (issue (.qpop m rd q) m true (fun s =>
    if !mayPop s.curAgent q then Done.illegal s (.qpop m rd q)
    else match s.tile.queue q with
      | [] => .wait (.queue q) s
      | v :: r => .commit ((s.putTile (s.tile.setQueue q r)).setX rd v)) s)

end Sys2Proof.Machine
end

