-- ==== Sys2Proof/Machine/EngineAccess.lean ====
section
/-! DEFINITION. The accesses of the tensor engine and of the copy engine: element by element, under the checks of R93
with the faults of R175 and R196, ordered after what is in flight for the tile (08 R174, 09 R199). -/

namespace Sys2Proof.Machine

/-- Where bytes of an engine's access stand. -/
inductive EPlace
  | store (off : Nat)
  | mem (va pa : Nat)
  | node (va n pa : Nat)
  | win (ows rid off : Nat)
  deriving DecidableEq, Repr

/-- An engine and what it acts for: the tile, its number for walks, the workspace, whether range locks apply. -/
structure EngId where
  tile : Nat
  who : Nat
  ws : Wsid
  locks : Bool
  deriving DecidableEq, Repr

/-- What an engine waits for is not a context's wait. -/
def engStall (s : State) : Reach α := .wait .stream s

/-- A remote access of a tile's agents to a line of a node is on its way. -/
def Flight.farTo (tile node line : Nat) : Flight → Bool
  | .fabRead o _ _ k pa .. | .fabAtom o _ k pa .. => o.tile == tile && k == node && pa / 128 == line
  | .fabWrite o _ k pa .. => o.tile == tile && k == node && pa / 128 == line
  | _ => false

/-- One address of global memory for an engine: its tile's TLB as for an agent's access (13 R269, R270, 22 R359), then
the host's holds and what is in flight for the tile, at this node or at another (01 R26, 22 R361). -/
def State.engGlobal (s : State) (e : EngId) (need : Need) (va n : Nat) : Reach EPlace :=
  match s.reachGlobal e.tile e.who e.ws va need with
  | .wait w s' => .wait w s'
  | .trap c a s' => .trap c a s'
  | .ok (.win ows rid off) => .ok (.win ows rid off)
  | .ok (.node k pa) => if s.flights.any (Flight.farTo e.tile k (pa / 128)) then engStall s else .ok (.node va k pa)
  | .ok (.mem pa _) =>
    if s.flights.any (fun f => (wordsOf pa n).any fun w => f.touches e.tile w) then engStall s
    else match s.hostGate [4, e.who] (sectorsOf pa n) need.w with
      | some s' => engStall s'
      | none => .ok (.mem va pa)

/-- Bytes of a store-window page for an engine. -/
def State.engWindow (s : State) (e : EngId) (need : Need) (va n : Nat) : Reach EPlace :=
  match s.rgnFor e.ws.toNat (winRid va) need.w with
  | none => .trap trPERM_FAULT va s
  | some r =>
    if !(r.ows == e.ws.toNat || r.grants? e.ws.toNat need.w) || decide (r.npages * pageSize < winOff va + n) then .trap trPERM_FAULT va s
    else if s.winPlace r (winOff va) == .moving || s.flights.any (fun f => f.winTouches e.tile r.ows r.rid (winOff va) n) then engStall s
    else match s.winGate [4, e.who] r.ows r.rid (winOff va) n need.w with
      | some s' => engStall s'
      | none => .ok (.win r.ows r.rid (winOff va))

/-- Bytes within one line. -/
def State.engPlace (s : State) (e : EngId) (need : Need) (va n : Nat) : Reach EPlace :=
  match regionOfVa va with
  | .unassigned => .trap trACCESS_FAULT va s
  | .tile => .ok (.store (tileOff va))
  | .window => s.engWindow e need va n
  | .global => s.engGlobal e need va n

/-- The lines of a run, in ascending order. -/
def State.engLines (s : State) (e : EngId) (need : Need) : List (Nat × Nat × Nat) → Reach (List (EPlace × Nat))
  | [] => .ok []
  | (_, va, n) :: r =>
    match s.engPlace e need va n with
    | .wait w s' => .wait w s'
    | .trap c a s' => .trap c a s'
    | .ok p =>
      match s.engLines e need r with
      | .ok ps => .ok ((p, n) :: ps)
      | x => x

/-- Bytes an engine reads, with their poison. -/
def State.engRead (s : State) (e : EngId) (p : EPlace) (n : Nat) : List Byte × Bool :=
  match p with
  | .store off => ((s.tileAt e.tile).bytes off n, (s.tileAt e.tile).poisoned off n)
  | .mem _ pa => s.readAt pa n
  | .node _ k pa =>
    if s.nodeUp k then ((List.range n).map fun i => Config.nodeByte k (pa + i) s.fresh, s.farPoison k pa n)
    else (List.replicate n 0, true)
  | .win ows rid off => s.winBytes ows rid off n

/-- What an access at one place of a run leaves: the use of its TLB entry (13 R269), its line at the slice and its sectors taken
from the host (13 R253, 18 R315), in a store-window page its count (11 R240). A read of another node is one read. -/
def State.engTouch (s : State) (e : EngId) (write : Bool) (p : EPlace × Nat) : State :=
  match p.1 with
  | .store _ => s
  | .mem va pa =>
    ((sectorsOf pa p.2).foldl (fun s a => s.takeSector a write) ((s.touchTlb e.tile e.ws va).touchLine pa)).leaveOrder [4, e.who]
  | .node va _ _ => { s.touchTlb e.tile e.ws va with fresh := s.fresh + 1 }
  | .win ows rid off => ((if write then s else s.winSee ows rid off p.2 e.ws).touchWin ows rid off).leaveOrder [4, e.who]

/-- The one NOMEM entry of a run: of the first unbacked word, or of a node that does not answer (18 R313, 22 R363). -/
def State.engNomem (s : State) (e : EngId) (ps : List (EPlace × Nat)) : State :=
  match ps.find? fun p => match p.1 with
    | .mem _ pa => (wordsOf pa p.2).any fun w => !backed s (8 * w)
    | .node _ k _ => !s.nodeUp k
    | _ => false with
  | some (.mem _ pa, n) => s.noteNomem pa n e.ws.toNat
  | some (.node _ _ pa, _) => s.farNomem e.ws pa
  | _ => s

/-- Bytes an engine writes. -/
def State.engWrite (s : State) (e : EngId) (p : EPlace) (bytes : List Byte) : State :=
  match p with
  | .store off => s.setTile e.tile ((s.tileAt e.tile).writeBytes off bytes)
  | .mem _ pa =>
    let s1 := s.writeRun pa bytes e.ws
    (wordsOf pa bytes.length).foldl (fun s w =>
      { s.patchOwn e.tile w (cellsIn pa bytes w) with flights := s.flights.map (Flight.stale e.tile w) }) s1
  | .node .. => s
  | .win ows rid off => s.winPut ows rid off bytes e.ws

/-- The first byte of a run under a range lock. -/
def State.firstLocked (s : State) (e : EngId) (va n : Nat) : Option Nat :=
  ((List.range n).map (va + ·)).find? fun a => ((s.tileAt e.tile).lockHit [(a, 1)]).isSome

/-- A run of bytes of one region checked: where its lines stand, or why not. The address of a POISON is the run's first byte (DESIGN
CHOICE, log 81). -/
def State.engRun (s : State) (e : EngId) (need : Need) (va n : Nat) : Reach (List (EPlace × Nat)) :=
  if accessRegion va n = .unassigned then .trap trACCESS_FAULT va s
  else
    let lines := if accessRegion va n = .tile then [(0, va, n)] else lineChunks 0 va n
    match s.engLines e need lines with
    | .wait w s' => .wait w s'
    | .trap c a s' => .trap c a s'
    | .ok ps =>
      if e.locks && ((s.tileAt e.tile).lockHit [(va, n)]).isSome then .trap trRANGE_LOCKED ((s.firstLocked e va n).getD va) s
      else if need.r && !need.w && ps.any (fun p => (s.engRead e p.1 p.2).2) then
        .trap trPOISON va ((ps.foldl (fun s p => s.engTouch e false p) s).engNomem e ps)
      else .ok ps

/-- The runs of an operation checked in order: those before the first fault, and the fault; or the state in which the
operation waits. -/
inductive Stream
  | stall (s : State)
  | done (ps : List (List (EPlace × Nat))) (fault : Option (Byte × Nat)) (s : State)

def State.engAll (s : State) (e : EngId) (need : Need) : List (Nat × Nat) → List (List (EPlace × Nat)) → Stream
  | [], acc => .done acc.reverse none s
  | (va, n) :: r, acc =>
    match s.engRun e need va n with
    | .wait _ s' => .stall s'
    | .trap c a s' => .done acc.reverse (some (c, a)) s'
    | .ok ps => s.engAll e need r (ps :: acc)

/-- The bytes of a checked run. -/
def State.engBytes (s : State) (e : EngId) (ps : List (EPlace × Nat)) : List Byte := ps.flatMap fun p => (s.engRead e p.1 p.2).1

/-- What the read of a checked run leaves. -/
def State.engTouchAll (s : State) (e : EngId) (ps : List (EPlace × Nat)) : State := ps.foldl (fun s p => s.engTouch e false p) s

def State.engLay (s : State) (e : EngId) : List (EPlace × Nat) → List Byte → State
  | [], _ => s
  | (p, n) :: r, bs => ((s.engTouch e true (p, n)).engWrite e p (bs.take n)).engLay e r (bs.drop n)

/-- Bytes written along a checked run. -/
def State.engPut (s : State) (e : EngId) (ps : List (EPlace × Nat)) (bs : List Byte) : State :=
  ((s.engLay e ps bs).engNomem e ps)

end Sys2Proof.Machine
end

