-- ==== Sys2Proof/Machine/TensorTable.lean ====
section
/-! DEFINITION. The tensor table's cache (08 R165) and the two-dimensional view of its entries (08 R168 to R171). -/

namespace Sys2Proof.Machine

/-! ## The cache (08 R165) -/

def ttSlots : Nat := 64

/-- An entry read from its home slice and cached, the least recently used replaced; none where the read brings poison. -/
def State.ttFetch (s : State) (e : EngId) (tid : BitVec 10) (p : EPlace) : State × Option (List Byte) :=
  let seen := (s.engTouch e false (p, 128)).engNomem e [(p, 128)]
  let t := seen.tileAt e.tile
  match s.engRead e p 128 with
  | (b, false) =>
    (seen.setTile e.tile { t with tt := (t.tt ++ [({ ws := e.ws, tid := tid, bytes := b } : TtEntry)]).drop (t.tt.length + 1 - ttSlots) }, some b)
  | _ => (seen, none)

/-- An entry's bytes as a core reads them for an agent: cached, or read, its page walked where the tables do not map it
(13 R270); none where the workspace has no table or the read faults (08 R167). -/
def State.ttRead (s : State) (who tile : Nat) (ws : Wsid) (tid : BitVec 10) : Reach (State × Option (List Byte)) :=
  let t := s.tileAt tile
  match t.tt.find? fun e => e.ws == ws && e.tid == tid with
  | some e => .ok (s.setTile tile { t with tt := t.tt.filter (fun o => !(o.ws == ws && o.tid == tid)) ++ [e] }, some e.bytes)
  | none =>
    let base := (s.wsWord ws.toNat wTTBASE).toNat
    let e : EngId := { tile := tile, who := who, ws := ws, locks := false }
    if base = 0 then .ok (s, none)
    else match s.engPlace e needLoad (base + 128 * tid.toNat) 128 with
      | .wait w s' => .wait w s'
      | .trap _ _ s' => .ok (s', none)
      | .ok p => .ok (s.ttFetch e tid p)

/-! ## What is InView (08 R168 to R171) -/

/-- The extent that a batch slot gives the ragged axis (08 R170, 19 R324). -/
def State.slotExtent (s : State) (ws : Nat) (t : TEnt) (slot : Nat) : Nat :=
  if 512 ≤ slot then 0
  else match s.vnat ws (t.rlink + 16 * slot) 16 with
    | none => 0
    | some n => if nbit n 48 1 = 0 then 0 else if t.rsel then nbit n 64 32 else nbit n 32 16

/-- The coordinates of a view element that is InView (08 R168 to R170, R173). -/
def State.coords (s : State) (ws : Nat) (t : TEnt) (row k : Nat) : Option (List Nat) :=
  (t.wide row k).bind fun c => if t.rag && decide (s.slotExtent ws t (c.getD t.slaxis 0) ≤ c.getD t.raxis 0) then none else some c

/-- The first InView element of a view block, which has its scale (08 R171, R173). -/
def State.blockCoords (s : State) (ws : Nat) (t : TEnt) (row col n : Nat) : Option (List Nat) :=
  ((List.range n).findSome? fun j => s.coords ws t row (col + j))

/-- An element's bits in the bytes of its run, and the bytes with them replaced. -/
def getBits (w a : Nat) (b : List Byte) : Nat := leNat b / 2 ^ (a % 8) % 2 ^ w
def putBits (w a : Nat) (b : List Byte) (v : Nat) : List Byte :=
  let n := leNat b
  leBytes (n - getBits w a b * 2 ^ (a % 8) + v % 2 ^ w * 2 ^ (a % 8)) b.length

end Sys2Proof.Machine
end

