-- ==== Sys2Proof/Machine/Panel.lean ====
section
/-! DEFINITION. Panels as rows of elements (08 R161, R162), and what the panel operations compute: ZCVT, ZSCL, ZXP
(08 R177 to R179), the steps of MMA (03 R72 to R74, 08 R182). -/

namespace Sys2Proof.Machine

/-- A legal configuration (08 R163). -/
def PCfg.ok (c : PCfg) : Bool := c.f.ok && decide (c.rows ≤ 96) && decide (c.cols ≤ c.f.capacity)

def Panel.setCfg (p : Panel) (c : PCfg) : Panel :=
  { p with fmt := c.f.fmt, w32 := c.f.w32, rows := BitVec.ofNat 7 c.rows, cols := BitVec.ofNat 9 c.cols }

/-! ## Rows -/

/-- Numbers of `k` bytes cut from a list. -/
def chop (k : Nat) : Nat → List Byte → List Nat
  | 0, _ => []
  | n + 1, b => leNat (b.take k) :: chop k n (b.drop k)

/-- The 96 rows and the 96 strip rows as numbers. -/
def Panel.dataRows (p : Panel) : List Nat := chop panelRow panelRows (mdense p.data 0 (panelRows * panelRow))
def Panel.stripRows (p : Panel) : List Nat := chop 12 panelRows (mdense p.strip 0 (panelRows * 12))

def Panel.setRows (p : Panel) (rows strips : List Nat) : Panel :=
  { p with data := memOf 0 (rows.flatMap fun r => leBytes r panelRow), strip := memOf 0 (strips.flatMap fun r => leBytes r 12) }

/-- Element `j` of a row. -/
def rowElem (w r j : Nat) : Nat := r / 2 ^ (w * j) % 2 ^ w
/-- Byte `b` of a strip row. -/
def stripByte (r b : Nat) : Nat := r / 256 ^ b % 256

/-- An uncorrectable word among the first `n` bytes of a row and the first `k` of its strip. Words of panel storage: 24 to a data
row, from row 0; then those of the strip (08 R161). -/
def Panel.badRow (p : Panel) (i n k : Nat) : Bool :=
  (List.range ((n + 7) / 8)).any (fun k => nsMem (24 * i + k) p.poison)
  || (List.range k).any fun b => nsMem (2304 + (12 * i + b) / 8) p.poison

/-- Strip bytes of a row: one for each block that is not wholly at or beyond COLS (08 R161, R182). -/
def PCfg.scales (c : PCfg) : Nat :=
  match c.f.block with
  | some b => (c.cols + b - 1) / b
  | none => 0

/-- An uncorrectable word among the rows and columns that an operation reads of a panel. -/
def Panel.bad (p : Panel) (c : PCfg) : Bool :=
  (List.range c.rows).any fun i => p.badRow i ((c.f.bits * c.cols + 7) / 8) c.scales

/-- The values of `n` elements of a row, with their block scales applied, and the flags of reading them. -/
def rowVals (f : PFmt) (r strip n : Nat) : List (Exact × Flags) :=
  (List.range n).map fun j =>
    let x := rowElem f.bits r j
    match f.block with
    | none => (f.decode x, f.readFlags x)
    | some b =>
      let (v, fl) := scaleBy (stripByte strip (j / b)) (f.decode x)
      (v, f.readFlags x ||| fl)

def orFlags (l : List Flags) : Flags := l.foldl (fun a b => a ||| b) flNone

/-! ## ZCVT (08 R177) -/

/-- A row converted: elements and strip. -/
def cvtRow (f : TFmt) (nanov : Bool) (vs : List Exact) : Nat × Nat × Flags :=
  let bs := (quantBlocks f vs.length).map fun b => quantBlock f nanov (((vs.drop b.1).take b.2).map fun v => (true, v))
  (packElems (TFmt.bits f) (bs.flatMap (·.2.1)), if (TFmt.block f).isSome then packElems 8 (bs.map (·.1)) else 0, orFlags (bs.map (·.2.2)))

def zcvtPanel (src dst : Panel) (c : PCfg) (f : TFmt) (nanov : Bool) : Panel × Flags :=
  let rows := src.dataRows
  let strips := src.stripRows
  let rs : List (Nat × Nat × Flags) := (List.range panelRows).map fun i =>
    if i < c.rows then
      let vs := rowVals c.f (rows.getD i 0) (strips.getD i 0) c.cols
      let r := cvtRow f nanov (vs.map fun (v : Exact × Flags) => v.1)
      (r.1, r.2.1, orFlags (vs.map fun (v : Exact × Flags) => v.2) ||| r.2.2)
    else (0, 0, flNone)
  (({ dst with poison := [] } : Panel).setRows (rs.map (·.1)) (rs.map (·.2.1)), orFlags (rs.map (·.2.2)))

/-! ## ZSCL (08 R178) -/

def zsclElem (fc : PFmt) (x : Nat) (fa : Exact × Flags) : Nat × Flags :=
  let (p, f1) := Exact.mul (fc.decode x) fa.1
  let (r, f2) := fp32.round false .ne p
  (r, fc.readFlags x ||| fa.2 ||| f1 ||| f2)

def zsclPanel (zc za : Panel) (cc ca : PCfg) : Panel × Flags :=
  let rows := zc.dataRows
  let facs := ((za.dataRows).take ca.rows).map fun r => rowVals ca.f r 0 ca.cols
  let rs := (List.range panelRows).map fun i =>
    let r := rows.getD i 0
    if i < cc.rows then
      let fr := facs.getD (i % ca.rows) []
      let es := (List.range cc.cols).map fun j => zsclElem cc.f (rowElem 32 r j) (fr.getD (j % ca.cols) (.nan, flNone))
      (packElems 32 (es.map (·.1)) + r / 2 ^ (32 * cc.cols) * 2 ^ (32 * cc.cols), orFlags (es.map (·.2)))
    else (r, flNone)
  (zc.setRows (rs.map (·.1)) zc.stripRows, orFlags (rs.map (·.2)))

/-! ## ZXP (08 R179) -/

def zxpPanel (src dst : Panel) (c : PCfg) : Panel :=
  let rows := src.dataRows
  let w := c.f.bits
  let rs := (List.range panelRows).map fun j =>
    if j < c.cols then packElems w ((List.range c.rows).map fun i => rowElem w (rows.getD i 0) j) else 0
  ({ dst with poison := [] } : Panel).setRows rs (List.replicate panelRows 0)

/-! ## MMA (03 R72 to R74, 08 R181, R182) -/

/-- The implemented pairs: K per step. -/
def mmaK (fa fb : TFmt) (acc : Acc) : Option Nat :=
  let small (f : TFmt) : Bool := match f with
    | .e4m3 | .e5m2 | .e2m3 | .e3m2 | .e2m1 => true
    | .bf16 | .int8 | .ts8 => false
  match acc with
  | .i32w | .i32s => if fa = .int8 && fb = .int8 then some 192 else none
  | .f32 =>
    if fa = .bf16 && (fb = .bf16 || fb = .ts8) then some 96
    else if (fa = .e4m3 || fa = .e5m2) && fb = .ts8 then some 192
    else if fa = .e2m1 && fb = .e2m1 then some 384
    else if small fa && small fb then some 192
    else none

/-- The sum of a step's products, exact, with the specials of R73: the flags do not depend on an order. -/
def stepSum (ps : List (Exact × Exact)) : Exact × Flags :=
  let qs := ps.map fun p => Exact.mul p.1 p.2
  let isInf (n : Bool) (x : Exact) : Bool := match x with
    | .inf m => m == n
    | _ => false
  let pos := qs.any fun q => isInf false q.1
  let neg := qs.any fun q => isInf true q.1
  let nan := qs.any fun q => q.1.isNan
  let fl := orFlags (qs.map (·.2)) ||| flagIf (pos && neg) flNV
  if nan || (pos && neg) then (.nan, fl)
  else if pos then (.inf false, fl)
  else if neg then (.inf true, fl)
  else
    let s := qs.foldl (fun a q => (Exact.add .ne a q.1).1) (.fin false 0 0 false)
    match s with
    | .fin _ 0 _ _ => (.fin false 0 0 false, fl)
    | _ => (s, fl)

/-- One element of an FP32 accumulator. -/
def mmaF (c : Nat) (ps : List (Exact × Exact)) : Nat × Flags :=
  let (x, f1) := stepSum ps
  let (y, f2) := Exact.add .ne (fp32.decode c) x
  let (r, f3) := fp32.round false .ne y
  (r, snanFlag fp32 [c] ||| f1 ||| f2 ||| f3)

/-- One element of an INT32 accumulator. -/
def mmaI (sat : Bool) (c : Nat) (ps : List (Int × Int)) : Nat × Flags :=
  let v := ps.foldl (fun a p => a + p.1 * p.2) (sgn 32 c)
  if sat then
    let (x, f) := clampInt (-(2 ^ 31 : Int)) (2 ^ 31 - 1) v
    (wrapTo 32 x, f)
  else (wrapTo 32 v, flNone)

def mmaPanel (zc za zb : Panel) (ca cb : PCfg) (k : Nat) (acc : Acc) : Panel × Flags :=
  let n := min k (min ca.cols cb.cols)
  let ra := (za.dataRows.zip za.stripRows).take ca.rows
  let rb := (zb.dataRows.zip zb.stripRows).take cb.rows
  let va := ra.map fun r => rowVals ca.f r.1 r.2 n
  let vb := rb.map fun r => rowVals cb.f r.1 r.2 n
  let ia := ra.map fun r => (List.range n).map fun j => sgn 8 (rowElem 8 r.1 j)
  let ib := rb.map fun r => (List.range n).map fun j => sgn 8 (rowElem 8 r.1 j)
  let rd := orFlags (va.map fun r => orFlags (r.map (·.2))) ||| orFlags (vb.map fun r => orFlags (r.map (·.2)))
  let rows := zc.dataRows
  let rs := (List.range panelRows).map fun i =>
    let r := rows.getD i 0
    if i < ca.rows then
      let es := (List.range cb.rows).map fun j =>
        let c := rowElem 32 r j
        match acc with
        | .f32 => mmaF c (((va.getD i []).map Prod.fst).zip ((vb.getD j []).map Prod.fst))
        | .i32w => mmaI false c ((ia.getD i []).zip (ib.getD j []))
        | .i32s => mmaI true c ((ia.getD i []).zip (ib.getD j []))
      (packElems 32 (es.map (·.1)) + r / 2 ^ (32 * cb.rows) * 2 ^ (32 * cb.rows), orFlags (es.map (·.2)))
    else (r, flNone)
  (zc.setRows (rs.map (·.1)) zc.stripRows, (if ca.rows = 0 || cb.rows = 0 then flNone else rd) ||| orFlags (rs.map (·.2)))

end Sys2Proof.Machine
end

