-- ==== Sys2Proof/Machine/Tensor.lean ====
section
/-! DEFINITION. The panel instructions at issue (08 R164, R172 to R183) and the tensor engine (08 R164, R175). -/

namespace Sys2Proof.Machine

/-! ## At issue -/

def Tile.panel (t : Tile) (z : ZReg) : Panel := t.panels[z.toNat]'(z.isLt)
def Tile.setPanel (t : Tile) (z : ZReg) (p : Panel) : Tile := { t with panels := t.panels.set z.toNat p z.isLt }

/-- The configuration of a panel (08 R162). -/
def State.zcfg (s : State) (z : ZReg) : PCfg := cfgOf (s.tile.panel z).cfg
def State.setZcfg (s : State) (z : ZReg) (c : PCfg) : State := s.putTile (s.tile.setPanel z ((s.tile.panel z).setCfg c))

/-- A panel written since the region's entry (05 R102). -/
def State.markZ (s : State) (z : ZReg) : State := s.setCtx { s.ctx with written := s.ctx.written.addZ z }

/-- The lowest of the reasons that hold (08 R172). -/
def formatPair (rs : List (Nat × Bool)) : Option Nat := (rs.find? (·.2)).map (·.1)

def Done.format (s : State) (r : Nat) : Done := Done.trapAt s trFORMAT_PAIR 0 (BitVec.ofNat 64 r)

def tensorSlots : Nat := 8

/-- A panel instruction put in the queue with what is fixed at its issue; a full queue holds issue (08 R164). -/
def State.enqueueOp (s : State) (i : Instr) (a b : Word) (cfg : List PCfg) (entry : List Byte) (k : State → Done) : Done :=
  if tensorSlots ≤ s.tile.tq.length then .hold s
  else
    let word (c : PCfg) : Word := BitVec.ofNat 64 (c.f.fmt.toNat + 8 * b2n c.f.w32 + c.rows * 2 ^ 4 + c.cols * 2 ^ 12)
    let o : TensorOp := { src := s.src, instr := i, pc := s.pc, a := a, b := b, nanov := s.th.nanov, cfg := cfg.map word,
                          entry := entry, fenceE := s.th.fenceE }
    k (s.putTile { s.tile with tq := s.tile.tq ++ [o] })

/-- MMA (08 R181, R182). -/
def execMma (m : SMark) (fb fa : TFmt) (zb za zc : ZReg) (acc : Acc) (s : State) : Out :=
  .next (issue (.mma m fb fa zb za zc acc) m false (fun s =>
    let ca := s.zcfg za
    let cb := s.zcfg zb
    let cc := s.zcfg zc
    let want : PFmt := { fmt := if acc = .f32 then 0 else 6, w32 := true }
    match formatPair [(0, (mmaK fa fb acc).isNone), (1, ca.f != { fmt := fa.code, w32 := false }),
        (2, cb.f != { fmt := fb.code, w32 := false }), (3, cc.f != want),
        (4, cc.rows != ca.rows || cc.cols != 48 || decide (48 < cb.rows)), (5, zc == za || zc == zb)] with
    | some r => Done.format s r
    | none =>
      if s.acquiring then .wait .acquire s
      else s.enqueueOp (.mma m fb fa zb za zc acc) 0 0 [cc, ca, cb] [] fun s => .commit (s.markZ zc)) s)

/-- The checks of ZLD and ZST: the entry with its bytes, or the trap; the lowest of the reasons that apply, and a malformed
entry is judged like any other (08 R172, R173). -/
def State.panelEntry (s : State) (z : ZReg) (a b : Word) (store : Bool) (k : State → List Byte → Done) : Done :=
  if a.toNat / 1024 != 0 then Done.format s 6
  else match s.ttRead s.who s.curTile s.ws (a.setWidth 10) with
    | .wait w s1 => Done.waits w s1
    | .trap _ _ s1 | .ok (s1, none) => Done.format s1 6
    | .ok (s1, some bytes) =>
      let t := entOf bytes
      let c := s1.zcfg z
      let col0 := nbit b.toNat 0 32
      let scaled := t.f.block.isSome
      let blk := t.f.block.getD 1
      match formatPair [(1, c.f != t.f), (4, store && scaled && c.cols % blk != 0 && decide (col0 + c.cols < t.colsT)),
          (6, t.malformed || (scaled && (t.saxis != 0 || (t.mode == 1 && t.e 0 % blk != 0))))] with
      | some r => Done.format s1 r
      | none =>
        if col0 % (if scaled then blk else 1) != 0 || col0 % t.f.grain != 0 then Done.trapAt s1 trMISALIGNED 0 0
        else if s1.acquiring then .wait .acquire s1
        else k s1 bytes

def execZld (m : SMark) (z : ZReg) (rs1 rs2 : Reg) (s : State) : Out :=
  .next (issue (.zld m z rs1 rs2) m false (fun s =>
    s.panelEntry z (s.x rs1) (s.x rs2) false fun s1 e =>
      s1.enqueueOp (.zld m z rs1 rs2) (s.x rs1) (s.x rs2) [s1.zcfg z] e fun s => .ok (s.markZ z)) s)

def execZst (m : SMark) (z : ZReg) (rs1 rs2 : Reg) (s : State) : Out :=
  .next (issue (.zst m z rs1 rs2) m false (fun s =>
    s.panelEntry z (s.x rs1) (s.x rs2) true fun s1 e =>
      s1.enqueueOp (.zst m z rs1 rs2) (s.x rs1) (s.x rs2) [s1.zcfg z] e .ok) s)

def execZzero (m : SMark) (zc : ZReg) (s : State) : Out :=
  .next (issue (.zzero m zc) m false (fun s => s.enqueueOp (.zzero m zc) 0 0 [] [] fun s => .ok (s.markZ zc)) s)

def execZcvt (m : SMark) (fa : TFmt) (zc za : ZReg) (s : State) : Out :=
  .next (issue (.zcvt m fa zc za) m false (fun s =>
    let ca := s.zcfg za
    let f : PFmt := { fmt := fa.code, w32 := false }
    if f.capacity < ca.cols then Done.format s 4
    else s.enqueueOp (.zcvt m fa zc za) 0 0 [ca] [] fun s =>
      .ok ((s.setZcfg zc { f := f, rows := ca.rows, cols := ca.cols }).markZ zc)) s)

/-- The panel formats of 32 bits. -/
def isW32 (f : PFmt) : Bool := f.w32 && (f.fmt == 0 || f.fmt == 6)

def execZscl (m : SMark) (zc za : ZReg) (s : State) : Out :=
  .next (issue (.zscl m zc za) m false (fun s =>
    let ca := s.zcfg za
    let cc := s.zcfg zc
    if ca.f != { fmt := 0, w32 := true } || ca.rows == 0 || ca.cols == 0 || !isW32 cc.f then Done.format s 7
    else s.enqueueOp (.zscl m zc za) 0 0 [cc, ca] [] fun s =>
      .ok ((s.setZcfg zc { cc with f := { fmt := 0, w32 := true } }).markZ zc)) s)

def execZxp (m : SMark) (zc za : ZReg) (s : State) : Out :=
  .next (issue (.zxp m zc za) m false (fun s =>
    let ca := s.zcfg za
    match formatPair [(4, decide (96 < ca.cols) || decide (ca.f.capacity < ca.rows)),
        (7, !(isW32 ca.f || ca.f == { fmt := 0, w32 := false } || ca.f == { fmt := 6, w32 := false }))] with
    | some r => Done.format s r
    | none => s.enqueueOp (.zxp m zc za) 0 0 [ca] [] fun s =>
      .ok ((s.setZcfg zc { f := ca.f, rows := ca.cols, cols := ca.rows }).markZ zc)) s)

/-! ## Moves between panels and vector registers (08 R180) -/

/-- Panels that a queued instruction reads, and those that it writes (08 R164). -/
def panelReads : Instr → List ZReg
  | .mma _ _ _ zb za zc _ => [zb, za, zc]
  | .zst _ z .. | .vmovz _ _ z _ => [z]
  | .zscl _ zc za => [zc, za]
  | .zcvt _ _ _ za | .zxp _ _ za => [za]
  | _ => []

def panelWrites : Instr → List ZReg
  | .mma _ _ _ _ _ zc _ | .zzero _ zc | .zcvt _ _ zc _ | .zscl _ zc _ | .zxp _ zc _ => [zc]
  | .zld _ z .. | .zmovv _ z .. => [z]
  | _ => []

/-- A queued instruction comes after an earlier one that writes a panel it names, or reads a panel it writes (08 R164). -/
def panelHazard (e o : Instr) : Bool :=
  (panelWrites e).any (fun z => (panelReads o).contains z || (panelWrites o).contains z)
  || (panelReads e).any fun z => (panelWrites o).contains z

/-- Row, part and offset in the panel's storage of a move's position. -/
def movePos (x : Word) : Option (Nat × Bool × Nat × Nat) :=
  let r := nbit x.toNat 0 7
  match nbit x.toNat 8 2 with
  | 0 => if r < 96 then some (r, false, panelRow * r, 128) else none
  | 1 => if r < 96 then some (r, false, panelRow * r + 128, 64) else none
  | 2 => if r < 96 then some (r, true, 12 * r, 12) else none
  | _ => none

/-- Bytes written into a panel; whole words written lose their poison (06 R131). -/
def Panel.put (p : Panel) (strip : Bool) (off : Nat) (bs : List Byte) : Panel :=
  let base := if strip then 18432 else 0
  let whole (w : Nat) : Bool := decide (base + off ≤ 8 * w) && decide (8 * w + 8 ≤ base + off + bs.length)
  let p1 := { p with poison := p.poison.filter fun w => !whole w }
  if strip then { p1 with strip := mwrite p.strip off bs } else { p1 with data := mwrite p.data off bs }

def Panel.poisonedAt (p : Panel) (strip : Bool) (off n : Nat) : Bool :=
  (wordsOf ((if strip then 18432 else 0) + off) n).any fun w => nsMem w p.poison

/-- ZMOVV and VMOVZ enter the queue like every panel instruction: ZMOVV with the bytes of its v register as they stand at
issue; what VMOVZ writes counts to the region that it stands in (08 R164, 05 R102). -/
def execZmovv (m : SMark) (z : ZReg) (vs1 rs2 : Reg) (s : State) : Out :=
  .next (issue (.zmovv m z vs1 rs2) m false (fun s =>
    s.enqueueOp (.zmovv m z vs1 rs2) (s.x rs2) 0 [] (leBytes (s.v vs1).toNat 128) fun s => .ok (s.markZ z)) s)

def execVmovz (m : SMark) (vd : Reg) (z : ZReg) (rs2 : Reg) (s : State) : Out :=
  .next (issue (.vmovz m vd z rs2) m false (fun s =>
    s.enqueueOp (.vmovz m vd z rs2) (s.x rs2) 0 [] [] fun s =>
      .ok (s.setCtx { s.ctx with written := s.ctx.written.addV vd })) s)

/-- The v register that a queued VMOVZ of a context has still to write. -/
def TensorOp.movesTo (o : TensorOp) (src : Src) : Option Reg :=
  match o.instr with
  | .vmovz _ vd _ _ => if o.src == src then some vd else none
  | _ => none

/-- An instruction word that names, in one of its register fields, the number of a v register that a queued VMOVZ of the
context has still to write: it waits for it (08 R164). -/
def State.interlocked (s : State) (w : IWord) : Bool :=
  s.tile.tq.any fun o => (o.movesTo s.src).any fun v => [7, 15, 20].any fun l => w.extractLsb' l 5 == v

/-! ## The engine -/

/-- The context that issued an operation, if the strand is still there. -/
def State.resident (s : State) (src : Src) : Option (Fin 8) :=
  match src.agent with
  | .ctx c => if (s.cx src.tile c).inc = src.inc && (s.cx src.tile c).st != .free then some c else none
  | _ => none

def State.onCtx (s : State) (src : Src) (f : Context → Context) : State :=
  match s.resident src with
  | some c => s.setCx src.tile c (f (s.cx src.tile c))
  | none => s

/-- Flags of an operation reach the FFLAGS of its context (03 R69). -/
def State.flagsTo (s : State) (src : Src) (fl : Flags) : State :=
  s.onCtx src fun k => { k with th := { k.th with fflags := k.th.fflags ||| fl } }

/-- A stream fault is taken at the context's next boundary and restarts the region (08 R175): before any trap that waits there
and would go on past the stream; a dropped send's fault is then recorded, as where no strand takes it (10 R214). -/
def State.streamTrap (s : State) (o : TensorOp) (code : Byte) (va : Nat) : State :=
  let info : Word :=
    if code = trRANGE_LOCKED then BitVec.ofNat 64 (((s.tileAt o.src.tile).lockHit [(va, 1)]).getD 0)
    else if code = trPOISON then o.pc else 0
  let tr : Trap := { code := code, tpc := o.pc, taddr := BitVec.ofNat 64 va, tinfo := info, resume := .region }
  let lost := match (s.resident o.src).bind fun c => (s.cx o.src.tile c).pending with
    | some p => if p.code == trDELIVERY_FAULT && p.resume != Resume.region then
        s.faultRecord o.src.ws.toNat frDELIVERY (s.ltidOf o.src.tile) p.tinfo.toNat p.taddr.toNat else s
    | none => s
  lost.onCtx o.src fun k => { k with pending := match k.pending with
    | some p => if p.resume == Resume.region then some p else some tr
    | none => some tr }

/-- A finished operation taken off the queue, by its position. -/
def State.popOp (s : State) (n i : Nat) : State := s.setTile n { s.tileAt n with tq := (s.tileAt n).tq.eraseIdx i }

/-- A result in a panel, keeping the configuration that the panel has by now. -/
def State.panelDone (s : State) (n i : Nat) (z : ZReg) (r : Panel × Flags) (src : Src) : State :=
  let t := s.tileAt n
  let p := t.panel z
  ((s.setTile n (t.setPanel z { r.1 with fmt := p.fmt, w32 := p.w32, rows := p.rows, cols := p.cols })).popOp n i).flagsTo src r.2

/-- An operation that meets an uncorrectable panel word (08 R161). -/
def State.panelPoison (s : State) (n i : Nat) (o : TensorOp) : State := (s.popOp n i).streamTrap o trPOISON 0

/-- Elements of the block of panel positions with their coordinates where InView. -/
def State.viewElems (s : State) (ws : Nat) (t : TEnt) (c : PCfg) (row0 col0 : Nat) : List (Nat × Nat × Option (List Nat)) :=
  (elemsAt c).map fun p => (p.1, p.2, s.coords ws t (row0 + p.1) (col0 + p.2))

/-- Blocks of the same positions with the addresses of their scales. -/
def State.viewBlocks (s : State) (ws : Nat) (t : TEnt) (c : PCfg) (row0 col0 : Nat) : List (Nat × Nat × Option Nat) :=
  match t.f.block with
  | none => []
  | some b => (blocksAt c b).map fun p => (p.1, p.2, (s.blockCoords ws t (row0 + p.1) (col0 + p.2 * b) b).map t.scaleAddr)

/-- The entries of the batch slots that positions of a view and their blocks name, read by an engine before its elements (08 R170,
log 73). -/
def State.slotRuns (s : State) (id : EngId) (t : TEnt) (at' : List (Nat × Nat)) : Stream :=
  s.engAll { id with locks := false } needLoad ((t.slotsIn (at'.flatMap t.withBlock)).map fun i => (t.rlink + 16 * i, 16)) []

/-- Elements of a panel's block that come before the one at run `m`, all of them where no run of an element is refused. -/
def movedOf (es : List (Nat × Nat × Option (List Nat))) : Nat → List (Nat × Nat)
  | 0 => ((es.takeWhile fun e => e.2.2.isNone).map fun e => (e.1, e.2.1))
  | m + 1 =>
    let pre := es.takeWhile fun e => e.2.2.isNone
    match es.drop pre.length with
    | [] => pre.map fun e => (e.1, e.2.1)
    | e :: r => pre.map (fun e => (e.1, e.2.1)) ++ (e.1, e.2.1) :: movedOf r m

/-- Elements of the convolution overrun among those moved (08 R171), added to the context's count. -/
def State.addOverrun (s : State) (o : Src) (t : TEnt) (moved : List (Nat × Nat)) (row0 col0 : Nat) : State :=
  let n := (moved.filter fun p => t.overrun (row0 + p.1) (col0 + p.2)).length
  if n = 0 then s
  else s.onCtx o fun k => { k with th := { k.th with cp := { k.th.cp with
      overrun := BitVec.ofNat 32 (min (k.th.cp.overrun.toNat + n) (2 ^ 32 - 1)) } } }

/-- Out-of-range bytes of tile-window runs, noted in the context (01 R25). -/
def State.noteRuns (s : State) (src : Src) (runs : List (Nat × Nat)) : State :=
  let tw := runs.filter fun r => accessRegion r.1 r.2 == .tile
  s.onCtx src fun k => { k with th := k.th.noteOut (outByte tw) }

/-- Values for the runs moved: those given first, the rest unmoved. -/
def dealOut (es : List (Nat × Nat × Option Nat)) (vals : List Nat) (pad : Nat) : List (Nat × Nat × Option Nat) :=
  (es.foldl (fun (acc : List (Nat × Nat × Option Nat) × List Nat × Bool) e =>
    match e.2.2, acc.2.1 with
    | none, vs => ((e.1, e.2.1, if acc.2.2 then some pad else none) :: acc.1, vs, acc.2.2)
    | some _, v :: vs => ((e.1, e.2.1, some v) :: acc.1, vs, acc.2.2)
    | some _, [] => ((e.1, e.2.1, none) :: acc.1, [], false)) ([], vals, true)).1.reverse

/-- New values of width `w` put into rows, the others kept; `clear` empties what is beyond `cols` in the first rows. -/
def mergeRows (w n : Nat) (rows : List Nat) (c : PCfg) (cols : Nat) (vs : List (Nat × Nat × Option Nat)) (clear : Bool) : List Nat :=
  (List.range n).map fun i =>
    let r := rows.getD i 0
    if i < c.rows && c.cols != 0 then
      let mine := vs.filter fun v => v.1 == i
      let es := (List.range cols).map fun j => match mine.find? fun v => v.2.1 == j with
        | some (_, _, some x) => x
        | _ => rowElem w r j
      packElems w es + (if clear then 0 else r / 2 ^ (w * cols) * 2 ^ (w * cols))
    else r

/-- The engine of a tile in a stream. -/
def tensorEng (n : Nat) (o : TensorOp) : EngId := { tile := n, who := whoOf n 10, ws := o.src.ws, locks := true }

/-- ZLD (08 R173): the operation at position `i` of the queue; none while it is stalled. -/
def State.runZld (s : State) (n i : Nat) (o : TensorOp) (z : ZReg) : Bool × State :=
  let ws := o.src.ws.toNat
  let t := entOf o.entry
  let c := o.pcfg 0
  let row0 := nbit o.b.toNat 32 32
  let col0 := nbit o.b.toNat 0 32
  let w := t.f.bits
  let id := tensorEng n o
  match s.slotRuns id t ((elemsAt c).map fun p => (row0 + p.1, col0 + p.2)) with
  | .stall s' => (false, s')
  | .done _ (some (code, va)) s' => (true, (s'.popOp n i).streamTrap o code va)
  | .done _ none s0 =>
    let ev := s0.viewElems ws t c row0 col0
    let es := ev.map fun e => (e.1, e.2.1, e.2.2.map t.bitAddr)
    let bs := s0.viewBlocks ws t c row0 col0
    let eRuns := es.filterMap fun e => e.2.2.map (bitRun w)
    let bRuns := bs.filterMap fun b => b.2.2.map fun a => (a, 1)
    match s0.engAll id needLoad (eRuns ++ bRuns) [] with
    | .stall s' => (false, s')
    | .done ps fault s1 =>
      let got := ps.map fun p => s1.engBytes id p
      let addrs := es.filterMap fun e => e.2.2
      let vals := (addrs.zip got).map fun x => getBits w x.1 x.2
      let scales := (got.drop addrs.length).map leNat
      let pan := (s1.tileAt n).panel z
      let all := fault.isNone
      let blk := t.f.block.getD 1
      let rows := mergeRows w panelRows pan.dataRows c c.cols (dealOut es vals t.pad) all
      let strips := if bs.isEmpty && !all then pan.stripRows
        else mergeRows 8 panelRows pan.stripRows c (if t.f.block.isSome then (c.cols + blk - 1) / blk else 0) (dealOut bs scales 0x7F) all
      let clean := if all && c.cols != 0 then pan.poison.filter (fun k => !(decide (k < 24 * c.rows) || (decide (2304 ≤ k) && decide (8 * (k - 2304) + 8 ≤ 12 * c.rows)))) else pan.poison
      let s2 := ps.foldl (fun s p => s.engTouchAll id p) s1
      let s3 := s2.setTile n ((s2.tileAt n).setPanel z { (pan.setRows rows strips) with poison := clean })
      let s4 := ((s3.noteRuns o.src ((eRuns ++ bRuns).take ps.length)).addOverrun o.src t (movedOf ev ps.length) row0 col0).popOp n i
      (true, match fault with
        | none => s4
        | some (code, va) => s4.streamTrap o code va)

/-- A write of a stream: bits at an address with the bits of its element, or a scale. -/
structure Put where
  scale : Bool
  addr : Nat
  bits : Nat
  v : Nat
  deriving DecidableEq, Repr

def Put.run (x : Put) : Nat × Nat := if x.scale then (x.addr, 1) else bitRun x.bits x.addr

/-- ZST (08 R173, R174): every run is checked before the first is written. -/
def State.runZst (s : State) (n i : Nat) (o : TensorOp) (z : ZReg) : Bool × State :=
  let ws := o.src.ws.toNat
  let t := entOf o.entry
  let c := o.pcfg 0
  let row0 := nbit o.b.toNat 32 32
  let col0 := nbit o.b.toNat 0 32
  let w := t.f.bits
  let pan := (s.tileAt n).panel z
  let id := tensorEng n o
  if pan.bad c then (true, s.panelPoison n i o)
  else match s.slotRuns id t ((elemsAt c).map fun p => (row0 + p.1, col0 + p.2)) with
    | .stall s' => (false, s')
    | .done _ (some (code, va)) s' => (true, (s'.popOp n i).streamTrap o code va)
    | .done _ none s0 =>
      let rows := pan.dataRows
      let strips := pan.stripRows
      let ev := s0.viewElems ws t c row0 col0
      let es := ev.filterMap fun e => e.2.2.map fun a =>
        ({ scale := false, addr := t.bitAddr a, bits := t.storeBits a, v := rowElem w (rows.getD e.1 0) e.2.1 } : Put)
      let bs := (s0.viewBlocks ws t c row0 col0).filterMap fun b => b.2.2.map fun a =>
        ({ scale := true, addr := a, bits := 8, v := stripByte (strips.getD b.1 0) b.2.1 } : Put)
      let items := es ++ bs
      match s0.engAll id needStore (items.map Put.run) [] with
      | .stall s' => (false, s')
      | .done ps fault s1 =>
        let put (s : State) (x : Put × List (EPlace × Nat)) : State :=
          if x.1.scale then s.engPut id x.2 [BitVec.ofNat 8 x.1.v] else s.engPut id x.2 (putBits x.1.bits x.1.addr (s.engBytes id x.2) x.1.v)
        let s2 := (items.zip ps).foldl put s1
        let s3 := ((s2.noteRuns o.src ((items.map Put.run).take ps.length)).addOverrun o.src t (movedOf ev ps.length) row0 col0).popOp n i
        (true, match fault with
          | none => s3
          | some (code, va) => s3.streamTrap o code va)

/-- ZMOVV (08 R180); a whole word written loses its poison. -/
def State.runZmovv (s : State) (n i : Nat) (o : TensorOp) (z : ZReg) : State :=
  match movePos o.a with
  | none => s.popOp n i
  | some (_, strip, off, k) => (s.setTile n ((s.tileAt n).setPanel z (((s.tileAt n).panel z).put strip off (o.entry.take k)))).popOp n i

/-- VMOVZ (08 R180): the v register of the context written; an uncorrectable word of what it reads poisons it. -/
def State.runVmovz (s : State) (n i : Nat) (o : TensorOp) (vd : Reg) (z : ZReg) : State :=
  let to' (v : VWord) : State := (s.popOp n i).onCtx o.src fun k => { k with v := k.v.set vd.toNat v vd.isLt }
  match movePos o.a with
  | none => to' 0
  | some (_, strip, off, k) =>
    let p := (s.tileAt n).panel z
    if p.poisonedAt strip off k then s.panelPoison n i o
    else to' (BitVec.ofNat 1024 (leNat (mread (if strip then p.strip else p.data) off k)))

/-- Engine operations of the agent before a FENCE.E that this one comes after (10 R209). -/
def Tile.fenceHolds (t : Tile) (src : Src) (f : Nat) : Bool :=
  t.chans.any fun c => src.sameAgent c.owner && (c.st == .running || c.st == .cancelling) && decide (c.fenceE < f)

/-- A decode attention of the agent launched before a FENCE.E (10 R209, 19 R342). -/
def State.dattnBefore (s : State) (src : Src) (f : Nat) : Bool := s.dies.any fun d => d.dattn.any fun o => o.src == src && decide (o.fenceE < f)

def State.fenceHolds (s : State) (n : Nat) (src : Src) (f : Nat) : Bool := (s.tileAt n).fenceHolds src f || s.dattnBefore src f

/-- What MMA reads of an operand's panel: its first `n` columns, and nothing where the other operand has no row (08 R182). -/
def PCfg.readWith (c other : PCfg) (n : Nat) : PCfg := { c with rows := if other.rows = 0 then 0 else c.rows, cols := min n c.cols }

/-- The operation at position `i` of a tensor engine's queue performed, or as far as it comes: whether it has finished
(08 R164, R175). MMA alone is an engine operation of FENCE.E (10 R208, R209). -/
def State.runOp (s : State) (n i : Nat) (o : TensorOp) : Bool × State :=
  let t := s.tileAt n
  match o.instr with
  | .zld _ z .. => s.runZld n i o z
  | .zst _ z .. => s.runZst n i o z
  | .zmovv _ z .. => (true, s.runZmovv n i o z)
  | .vmovz _ vd z _ => (true, s.runVmovz n i o vd z)
  | .mma _ fb fa zb za zc acc =>
    let ca := o.pcfg 1
    let cb := o.pcfg 2
    if s.fenceHolds n o.src o.fenceE then (false, s)
    else if (t.panel za).bad (ca.readWith cb ((mmaK fa fb acc).getD 0)) || (t.panel zb).bad (cb.readWith ca ((mmaK fa fb acc).getD 0))
        || (t.panel zc).bad ((o.pcfg 0).readWith cb cb.rows) then
      (true, s.panelPoison n i o)
    else (true, s.panelDone n i zc (mmaPanel (t.panel zc) (t.panel za) (t.panel zb) ca cb ((mmaK fa fb acc).getD 0) acc) o.src)
  | .zzero _ zc => (true, s.panelDone n i zc ({ t.panel zc with data := [], strip := [], poison := [] }, flNone) o.src)
  | .zcvt _ fa zc za =>
    (true, if (t.panel za).bad (o.pcfg 0) then s.panelPoison n i o
      else s.panelDone n i zc (zcvtPanel (t.panel za) (t.panel zc) (o.pcfg 0) fa o.nanov) o.src)
  | .zscl _ zc za =>
    (true, if (t.panel za).bad (o.pcfg 1) || (t.panel zc).bad (o.pcfg 0) then s.panelPoison n i o
      else s.panelDone n i zc (zsclPanel (t.panel zc) (t.panel za) (o.pcfg 0) (o.pcfg 1)) o.src)
  | .zxp _ zc za =>
    (true, if (t.panel za).bad (o.pcfg 0) then s.panelPoison n i o
      else s.panelDone n i zc (zxpPanel (t.panel za) (t.panel zc) (o.pcfg 0), flNone) o.src)
  | _ => (true, s.popOp n i)

/-- Two streams of one context are ordered as its loads and stores of the same bytes are (08 R174, 01 R26, 06 R135). -/
def TensorOp.meets (e o : TensorOp) : Bool :=
  e.src == o.src && (e.isZst || o.isZst) &&
  match e.hull, o.hull with
  | some a, some b => decide (a.1 < b.2) && decide (b.1 < a.2)
  | _, _ => false

/-- The first instruction of a queue that finishes, in issue order: one starts once no earlier one stands in the way of its
panels, or of its bytes; a stalled one is passed (08 R164, R175). -/
def State.tryOps (s : State) (n : Nat) (before : List TensorOp) : List TensorOp → State
  | [] => s
  | o :: r =>
    if before.any fun e => panelHazard e.instr o.instr || e.meets o then s.tryOps n (before ++ [o]) r
    else match s.runOp n before.length o with
      | (true, s') => s'
      | (false, s') => s'.tryOps n (before ++ [o]) r

/-- A tensor engine goes on (08 R164, R175). -/
def State.doTensor (s : State) (n : Nat) : State := s.tryOps n [] (s.tileAt n).tq

def execTensorEngineCompletion (tile : Nat) (s : State) : Out := .next (s.doTensor tile)

/-- Every operation of a strand in the tensor engine performed, with those before it, as far as they can be
(05 R105, R108). -/
def State.drainTensor (s : State) (n : Nat) (src : Src) : Nat → State
  | 0 => s
  | k + 1 => if (s.tileAt n).tensorBusy src then (s.doTensor n).drainTensor n src k else s

end Sys2Proof.Machine
end

