-- ==== Sys2Proof/Machine/Copy.lean ====
section
/-! DEFINITION. The copy engine (09 R193 to R199, 08 R183) and the staging copies that it runs (15 R277, R298). -/

namespace Sys2Proof.Machine

/-! ## Destination arithmetic (09 R196) -/

def aopBytes (aty : BitVec 2) : Nat := if aty = 2 then 2 else 4

/-- One element updated: add wraps or is rounded to nearest even, min and max are those of R87; no flag. -/
def aopElem (aop aty : BitVec 2) (a b : Nat) : Nat :=
  if aty = 0 then
    if aop = 1 then (a + b) % 2 ^ 32
    else wrapTo 32 (if aop = 2 then min (sgn 32 a) (sgn 32 b) else max (sgn 32 a) (sgn 32 b))
  else
    let f := if aty = 2 then bf16 else fp32
    if aop = 1 then (f.add .ne a b).1 else (f.minmax (aop == 3) a b).1

def aopMerge (aop aty : BitVec 2) (old new : List Byte) : List Byte :=
  let k := aopBytes aty
  let n := new.length / k
  ((chop k n old).zip (chop k n new)).flatMap fun p => leBytes (aopElem aop aty p.1 p.2) k

/-- A piece put into a tile store; an update is no write of a whole word, so poison stays (06 R131). -/
def Tile.putPiece (t : Tile) (off : Nat) (bytes : List Byte) (aop aty : BitVec 2) : Tile :=
  if aop = 0 then t.writeBytes off bytes
  else { t.writeBytes off (aopMerge aop aty (t.bytes off bytes.length) bytes) with poison := t.poison }

/-! ## The CSR fields (09 R193, R194) -/

def opMode (o : Word) : Bool := o.getLsbD 0
/-- DTILE counts in linear mode alone (DESIGN CHOICE, log 81). -/
def opDtile (o : Word) : Bool := o.getLsbD 1 && !o.getLsbD 0
def opAop (o : Word) : BitVec 2 := o.extractLsb' 2 2
def opAty (o : Word) : BitVec 2 := o.extractLsb' 4 2
def opOrd (o : Word) : Bool := o.getLsbD 6
def opCmb (o : Word) : Bool := o.getLsbD 8
def opCq3 (o : Word) : Bool := o.getLsbD 9
/-- The weir of WEN; bits 35:32 are ignored. -/
def opWeir (o : Word) : Option Nat := if o.getLsbD 7 then some (nbit o.toNat 36 17 * 16) else none

/-- The thread of an agent: of a strand that is still there, of a side core as one agent, whatever starts it has had since (10
R208). -/
def State.onAgent (s : State) (src : Src) (f : Thread → Thread) : State :=
  let t := s.tileAt src.tile
  match src.agent with
  | .ctx _ => s.onCtx src fun k => { k with th := f k.th }
  | .loader => s.setTile src.tile { t with ldr := { t.ldr with th := f t.ldr.th } }
  | .storer => s.setTile src.tile { t with str := { t.str with th := f t.str.th } }

/-! ## TCOPY (08 R183) -/

/-- Rows and columns that a transfer covers. -/
def copyExtent (a b : TEnt) (row0s row0d : Nat) : Nat × Nat :=
  (min (a.rowsT - row0s) (b.rowsT - row0d), min a.colsT b.colsT)

/-- Reasons of R183 for two entries. -/
def tensorPair (a b : TEnt) : Option Nat :=
  formatPair [(1, a.f != b.f), (4, a.f.block.isSome && (a.saxis != 0 || b.saxis != 0 || a.colsT != b.colsT)),
    (6, a.malformed || b.malformed)]

/-- Both entries of a transfer; none where one cannot be read. -/
def State.copyEntries (s : State) (ws : Wsid) (src dst : BitVec 10) : Reach (State × Option (List Byte × List Byte)) :=
  match s.ttRead s.who s.curTile ws src with
  | .wait w s1 => .wait w s1
  | .trap _ _ s1 | .ok (s1, none) => .ok (s1, none)
  | .ok (s1, some a) =>
    match s1.ttRead s1.who s1.curTile ws dst with
    | .wait w s2 => .wait w s2
    | .trap _ _ s2 | .ok (s2, none) => .ok (s2, none)
    | .ok (s2, some b) => .ok (s2, some (a, b))

def execTcopy (m : SMark) (rd rs1 rs2 : Reg) (s : State) : Out :=
  .next (issue (.tcopy m rd rs1 rs2) m true (fun s =>
    let x1 := (s.x rs1).toNat
    let x2 := (s.x rs2).toNat
    if nbit x1 10 6 != 0 || nbit x1 26 38 != 0 then Done.format s 6
    else match s.copyEntries s.ws (BitVec.ofNat 10 x1) (BitVec.ofNat 10 (x1 / 2 ^ 16)) with
      | .wait w s1 => Done.waits w s1
      | .trap _ _ s1 | .ok (s1, none) => Done.format s1 6
      | .ok (s1, some (eb, fb)) =>
        let a := entOf eb
        let b := entOf fb
        match tensorPair a b with
          | some r => Done.format s1 r
          | none =>
            let row0s := nbit x2 0 32
            let row0d := nbit x2 32 32
            let (rows, cols) := copyExtent a b row0s row0d
            let cp := s1.th.cp
            let cp1 := { cp with
              src := BitVec.ofNat 64 (nbit x1 0 10 + row0s * 2 ^ 32), dst := BitVec.ofNat 64 (nbit x1 16 10 + row0d * 2 ^ 32)
              len := BitVec.ofNat 64 (rows * cols % 2 ^ 32), opt := cp.opt ||| 1 }
            .ok ((s1.setTh { s1.th with cp := cp1 }).setX rd (BitVec.ofNat 64 (rows * cols)))) s)

/-! ## Locks (09 R198) -/

/-- The free entry that a lock takes: the lowest (DESIGN CHOICE, log 81). -/
def Tile.freeLock (t : Tile) : Option Nat := (List.range lockSlots).find? fun i => (sget i t.locks).isNone

/-- An entry for the bytes [lo, hi), rounded outward to granules; no bytes take no entry. -/
def Tile.addLock (t : Tile) (ch : Fin 4) (dst : Bool) (xid : BitVec 16) (lo hi : Nat) : Tile :=
  if hi ≤ lo then t
  else match t.freeLock with
    | some i => { t with locks := sset i { chan := ch, dst := dst, xid := xid, lo := lo / 64, hi := (hi + 63) / 64 } t.locks }
    | none => t

/-- The number of scales of an entry (08 R166). -/
def TEnt.scaleCount (t : TEnt) : Nat :=
  let b := t.f.block.getD 32
  (List.range t.rank).foldl (fun p a => p * (if a = t.saxis then (t.e a + b - 1) / b else t.e a)) 1

/-- Bytes that the strides and extents of an entry can reach, its scales among them; the whole space where an address
wraps (log 74). -/
def TEnt.span (t : TEnt) : Nat × Nat :=
  if (List.range t.rank).any fun a => t.e a == 0 then (0, 0)
  else
    let term (a : Nat) : Int := t.str.getD a 0 * ((t.e a : Int) - 1)
    let lo := ((List.range t.rank).map fun a => min 0 (term a)).foldl (· + ·) 0
    let hi := ((List.range t.rank).map fun a => max 0 (term a)).foldl (· + ·) 0
    let b : Int := 8 * (t.base : Int)
    let from' : Int := (b + t.f.bits * lo) / 8
    let to' : Int := (b + t.f.bits * hi + padBits t.f (t.e 0) (t.e 0 - 1) + 7) / 8
    if from' < 0 || decide (2 ^ 64 < to') then (0, 2 ^ 64)
    else if t.f.block.isSome then (min from'.toNat t.sbase, max to'.toNat (t.sbase + t.scaleCount))
    else (from'.toNat, to'.toNat)

/-! ## Launch (09 R195) -/

/-- The free channel that a launch takes: the lowest (DESIGN CHOICE, log 81). -/
def Tile.idleChan (t : Tile) : Option (Fin 4) := (List.finRange 4).find? fun c => t.chans[c].st == .idle

/-- A tensor destination whose format is the ATYPE's. -/
def atyFormat (f : PFmt) (aty : BitVec 2) : Bool :=
  if aty = 0 then f == { fmt := 6, w32 := true } else if aty = 1 then f == { fmt := 0, w32 := true } else f == { fmt := 0, w32 := false }

/-- Spans of source and destination; a tile address has one only where it names the tile itself. -/
def State.copySpans (s : State) (n : Nat) (cp : CopyCsrs) (len : Nat) (es : Option (List Byte × List Byte)) : (Nat × Nat) × (Nat × Nat) :=
  if len = 0 then ((0, 0), (0, 0))
  else match es with
    | some (a, b) => ((entOf a).span, (entOf b).span)
    | none =>
      ((cp.src.toNat, cp.src.toNat + len),
        if opDtile cp.opt then
          (if taLtid cp.dst = s.ltidOf n then (tileBase + taOff cp.dst, tileBase + taOff cp.dst + len) else (0, 0))
        else (cp.dst.toNat, cp.dst.toNat + len))

/-- The lowest reason to refuse a launch, `es` the entries in tensor mode. A destination in the store window counts as outside
every tile store (DESIGN CHOICE, log 81). -/
def Tile.refuses (t : Tile) (cp : CopyCsrs) (es : Option (List Byte × List Byte)) : Option Nat :=
  let aop := opAop cp.opt
  let aty := opAty cp.opt
  let len := nbit cp.len.toNat 0 32
  let tensor := opMode cp.opt
  let bad3 :=
    if tensor then match es with
      | some (_, b) =>
        let e := entOf b
        aop != 0 && (!atyFormat e.f aty || (!e.malformed && accessRegion e.span.1 (e.span.2 - e.span.1) != .tile))
      | none => false
    else aop != 0 && ((!opDtile cp.opt && accessRegion cp.dst.toNat len != .tile) || len % aopBytes aty != 0)
  let bad4 := tensor && match es with
    | some (a, b) => (tensorPair (entOf a) (entOf b)).isSome
    | none => true
  formatPair [(1, t.idleChan.isNone), (2, decide (lockSlots < t.locks.length + 2)), (3, aty == 3 || bad3), (4, bad4)]

/-- The next transfer number; 0 is skipped. -/
def nextXid (x : BitVec 16) : BitVec 16 := if x = 0xFFFF then 1 else x + 1

/-- A word of physical memory holds bytes of the virtual addresses [lo, hi) of a workspace. -/
def State.inSpan (s : State) (ws lo hi w : Nat) : Bool :=
  (List.range ((hi + 4095) / 4096 - lo / 4096)).any fun i =>
    let va := (lo / 4096 + i) * 4096
    match s.leafOf ws va with
    | some l =>
      let v := va + 8 * w % 4096
      (l.pa + (va - l.base)) / 4096 == 8 * w / 4096 && decide (lo < v + 8) && decide (v < hi)
    | none => false

/-- Words of a span that are on their way toward the tile's L1 are not kept there. -/
def Flight.unkept (n : Nat) (p : Nat → Bool) : Flight → Flight :=
  Flight.unkeep fun src _ w => src.tile == n && p w

/-- The L1 before a copy into global memory (13 R259): the Registered words of the destination span are written back, and its
words become Invalid. -/
def State.clearForCopy (s : State) (n : Nat) (ws lo hi : Nat) : State :=
  let p := s.inSpan ws lo hi
  let s1 := s.evictWords n p
  { s1 with flights := s1.flights.map (Flight.unkept n p) }

/-- What a running copy has to do: bytes in linear mode, elements in tensor mode. -/
def copyCount (cp : CopyCsrs) (es : Option (List Byte × List Byte)) : Nat :=
  let len := nbit cp.len.toNat 0 32
  match es with
  | some (a, b) =>
    let (rows, cols) := copyExtent (entOf a) (entOf b) (nbit cp.src.toNat 32 32) (nbit cp.dst.toNat 32 32)
    min len (rows * cols)
  | none => len

/-- A refused launch's result. -/
def refusedWord (r : Nat) : Word := BitVec.ofNat 64 (r * 2 ^ 60 + 2 ^ 63)

/-- A copy started for an agent on a channel of tile `n`. -/
def State.startCopy (s : State) (n : Nat) (ch : Fin 4) (src : Src) (f : Nat) (cp : CopyCsrs) (es : Option (List Byte × List Byte)) : State :=
  let t := s.tileAt n
  let xid := t.nextXid
  let len := copyCount cp es
  let (a, b) := s.copySpans n cp len es
  let c : Chan := {
    st := .running, xid := xid, status := t.chans[ch].status, done := 0, owner := src, srcA := cp.src, dstA := cp.dst,
    len := len, opt := cp.opt, srcE := (es.map (·.1)).getD [], dstE := (es.map (·.2)).getD [], next := 0, inAir := 0,
    faddr := 0, postCmb := opCmb cp.opt, postQ3 := opCq3 cp.opt, fenceE := f, stop := 0, recast := false, stage := none, half := [] }
  let t1 := ({ t with chans := t.chans.set ch c, nextXid := nextXid xid }.addLock ch false xid a.1 a.2).addLock ch true xid b.1 b.2
  let s1 := s.setTile n t1
  if len != 0 && decide (b.1 < globalEnd) && b.1 != b.2 then s1.clearForCopy n src.ws.toNat b.1 b.2 else s1

/-- Channel `ch` has ended with a status (09 R196): its locks go first, the fault reaches the CSRs of its agent. -/
def State.closeCopy (s : State) (n : Nat) (ch : Fin 4) (st : BitVec 4) : State :=
  let t := s.tileAt n
  let c := t.chans[ch]
  let s1 := s.setTile n { t with locks := t.locks.filter (fun e => e.2.chan != ch), chans := t.chans.set ch { c with st := .posting, status := st } }
  let s2 := if decide (2 ≤ st.toNat) then
    s1.onAgent c.owner fun h => { h with cp := { h.cp with fxid := c.xid, fcode := st, faddr := c.faddr } } else s1
  if c.recast then s2.faultRecord c.owner.ws.toNat frCOPY (s2.ltidOf n) c.xid.toNat 0 else s2

/-- A read of CP_GO: the result of the launch, or its refusal. -/
def State.copyGo (s : State) (rd : Reg) : Done :=
  if s.acquiring then .wait .acquire s
  else s.tileRelease (
    let cp := s.th.cp
    match if opMode cp.opt then s.copyEntries s.ws (cp.src.setWidth 10) (cp.dst.setWidth 10) else .ok (s, none) with
    | .wait w s' => Done.waits w s'
    | .trap _ _ s1 => .commit (s1.setX rd (refusedWord 4))
    | .ok (s1, es) =>
    match s1.tile.refuses cp es, s1.tile.idleChan with
    | none, some ch =>
      let xid := s1.tile.nextXid
      let s2 := s1.startCopy s1.curTile ch s1.src s1.th.fenceE cp es
      let s3 := if (s2.tile.chans[ch]).len = 0 then s2.closeCopy s2.curTile ch 0 else s2
      .commit (s3.setX rd (BitVec.ofNat 64 (xid.toNat + ch.val * 2 ^ 16)))
    | some r, _ => .commit (s1.setX rd (refusedWord r))
    | none, none => .commit (s1.setX rd (refusedWord 1)))

def execCpGo (m : SMark) (rd : Reg) (s : State) : Out := .next (issue (.cpGo m rd) m true (fun s => s.copyGo rd) s)

/-! ## Pieces (09 R196) -/

/-- Status codes of faults. -/
def copyStatus (code : Byte) : BitVec 4 :=
  if code = trPAGE_FAULT then 2 else if code = trPERM_FAULT then 3 else if code = trPOISON then 5 else 4

def State.setChan (s : State) (n : Nat) (ch : Fin 4) (c : Chan) : State :=
  let t := s.tileAt n
  s.setTile n { t with chans := t.chans.set ch c }

def State.stopCopy (s : State) (n : Nat) (ch : Fin 4) (st : BitVec 4) (a : Nat) : State :=
  let c := (s.tileAt n).chans[ch]
  if c.stop = 0 then s.setChan n ch { c with stop := st, faddr := BitVec.ofNat 64 a } else s

/-- Bits that a tensor copy moves before its element `k`: the elements, and of a scaled format the scale of each block, which
goes with the block's first element (08 R183, log 73). -/
def Chan.bitsBefore (c : Chan) (k : Nat) : Nat :=
  let a := entOf c.srcE
  let cols := (copyExtent a (entOf c.dstE) 0 0).2
  a.f.bits * k + match a.f.block with
    | some b => if c.stage.isSome || cols = 0 then 0 else 8 * (k / cols * ((cols + b - 1) / b) + (k % cols + b - 1) / b)
    | none => 0

/-- Bytes completed with the first `k` items: bytes of a linear copy; of a tensor copy pieces of 64 bytes, and at its end all
that it moves (09 R196). -/
def Chan.bytes (c : Chan) (k : Nat) : Nat :=
  if c.srcE.isEmpty then k
  else if k < c.len then c.bitsBefore k / 512 * 64
  else (c.bitsBefore c.len + 7) / 8 + (k - c.len)

/-- Elements of the next piece: those whose bits begin in its 64 bytes. -/
def Chan.pieceElems (c : Chan) : Nat :=
  ((List.range (min 128 (c.len - c.next))).takeWhile fun i => c.bitsBefore (c.next + i) / 512 == c.bitsBefore c.next / 512).length

/-- Items of a staging copy: its elements and, of a scaled format, its scales (15 R277). -/
def Chan.items (c : Chan) : Nat :=
  if c.stage.isSome then c.len + (match (entOf c.srcE).f.block with
    | some b => (c.len + b - 1) / b
    | none => 0)
  else c.len

/-- No further piece is due: a fault, the end, or a cancelled copy at a boundary of 4 KiB (09 R197). -/
def Chan.over (c : Chan) : Bool :=
  c.stop != 0 || decide (c.items ≤ c.next) || (c.st == .cancelling && c.half.isEmpty && c.bytes c.next % 4096 == 0)

def Chan.active (c : Chan) : Bool := c.st == .running || c.st == .cancelling

/-- A piece has performed: its bytes are counted into the weir of WEN, in the issuing tile's store (09 R194, R196). -/
def State.pieceDone (s : State) (n : Nat) (ch : Fin 4) (items bytes : Nat) : State :=
  let t := s.tileAt n
  let c := t.chans[ch]
  let t1 := { t with chans := t.chans.set ch { c with next := c.next + items, done := c.done + bytes } }
  s.setTile n (match (if c.stage.isSome then none else opWeir c.opt) with
    | some w => t1.weirEvent w (.bytes bytes)
    | none => t1)

/-- Bytes written along a run, or updating the elements of a tile store. -/
def State.engUpdate (s : State) (e : EngId) (ps : List (EPlace × Nat)) (bytes : List Byte) (aop aty : BitVec 2) : State :=
  match ps with
  | [(.store off, _)] => s.setTile e.tile ((s.tileAt e.tile).putPiece off bytes aop aty)
  | _ => s.engPut e ps bytes

/-- Destination arithmetic waits while an atomic of the tile's bank update unit is open on its words (10 R201). -/
def State.arithWaits (s : State) (e : EngId) (aop : BitVec 2) (ps : List (EPlace × Nat)) : Bool :=
  aop != 0 && ps.any fun p => match p.1 with
    | .store off => s.bankBusy e.tile off p.2
    | _ => false

/-- The first `m` bytes of a checked run. -/
def takeRun : Nat → List (EPlace × Nat) → List (EPlace × Nat)
  | _, [] => []
  | m, (p, n) :: r => if m = 0 then [] else (p, min n m) :: takeRun (m - n) r

/-- Bytes of a piece, from an address on, that a linear copy writes in its first step: outside the tile window one sector is
written at a time (18 R315). -/
def firstPart (va k : Nat) (aop : BitVec 2) : Nat := if aop = 0 && accessRegion va k != .tile then min k (64 - va % 64) else k

/-- The second sector of a piece (18 R315). -/
def State.secondHalf (s : State) (n : Nat) (ch : Fin 4) (c : Chan) (id : EngId) : State :=
  let k := min 64 (c.len - c.next)
  match s.engRun id needStore (c.dstA.toNat + c.next + (k - c.half.length)) c.half.length with
  | .wait _ s' => s'
  | .trap code a s' => s'.stopCopy n ch (copyStatus code) a
  | .ok qs => ((s.engLay id qs c.half).setChan n ch { c with half := [] }).pieceDone n ch k k

/-- A piece of a linear copy: addresses do not wrap (01 R24). Its accesses note no out-of-range byte in OORF or OORA (DESIGN
CHOICE, log 80). -/
def State.linearPiece (s : State) (n : Nat) (ch : Fin 4) (c : Chan) (id : EngId) : State :=
  if !c.half.isEmpty then s.secondHalf n ch c id else
  let k := min 64 (c.len - c.next)
  let aop := opAop c.opt
  let aty := opAty c.opt
  match s.engRun id needLoad (c.srcA.toNat + c.next) k with
  | .wait _ s' => s'
  | .trap code a s' => s'.stopCopy n ch (copyStatus code) a
  | .ok ps =>
    let bytes := s.engBytes id ps
    if opDtile c.opt then
      let dst := taLtid c.dstA
      if taBad c.dstA then s.stopCopy n ch 4 c.dstA.toNat
      else if !(s.tileAt n).hasRoom dst then s
      else
        let s1 := (s.engTouchAll id ps).sendMsg n dst c.owner 0 (c.dstA + BitVec.ofNat 64 c.next)
          (.piece ch c.xid c.next (taOff c.dstA + c.next) bytes false aop aty (opOrd c.opt) (opWeir c.opt))
        s1.setChan n ch { c with next := c.next + k, inAir := c.inAir + 1 }
    else
      match s.engRun id needStore (c.dstA.toNat + c.next) k with
      | .wait _ s' => s'
      | .trap code a s' => s'.stopCopy n ch (copyStatus code) a
      | .ok qs =>
        let m := firstPart (c.dstA.toNat + c.next) k aop
        if s.arithWaits id aop qs then s
        else if m < k then
          (((s.engTouchAll id ps).engLay id (takeRun m qs) (bytes.take m)).engNomem id qs).setChan n ch { c with half := bytes.drop m }
        else ((s.engTouchAll id ps).engUpdate id qs bytes aop aty).pieceDone n ch k k

/-- An element's bits, or a scale, written along a checked run; destination arithmetic applies to elements. -/
def State.putElem (s : State) (id : EngId) (w : Nat) (aop aty : BitVec 2) (x : (Nat × Nat) × List (EPlace × Nat)) : State :=
  let old := s.engBytes id x.2
  let v := if aop = 0 then x.1.2 else aopElem aop aty (getBits w x.1.1 old) x.1.2
  s.engPut id x.2 (putBits w x.1.1 old v)

/-- Items read at source bit addresses of width `w` and written at destination bit addresses, with their pad. -/
structure MoveItem where
  w : Nat
  /-- Bits that the write covers: more than `w` where padding follows (03 R59). -/
  wd : Nat
  pad : Nat
  src : Option Nat
  dst : Option Nat
  deriving DecidableEq, Repr

/-- Items moved: every source run is checked and read, every destination run checked, then written. -/
def State.moveItems (s : State) (n : Nat) (ch : Fin 4) (id : EngId) (aop aty : BitVec 2) (it : List MoveItem)
    (k : State → State) : State :=
  match s.engAll id needLoad (it.filterMap fun i => i.src.map (bitRun i.w)) [] with
  | .stall s' => s'
  | .done _ (some (code, va)) s' => s'.stopCopy n ch (copyStatus code) va
  | .done ps none s1 =>
    let got := ps.map fun p => s1.engBytes id p
    let vals := (it.foldl (fun (acc : List Nat × List (List Byte)) i => match i.src, acc.2 with
      | some x, b :: r => (getBits i.w x b :: acc.1, r)
      | _, g => (i.pad :: acc.1, g)) ([], got)).1.reverse
    let outs := (it.zip vals).filterMap fun x => x.1.dst.map fun a => (x.1.wd, a, x.2)
    match s1.engAll id needStore (outs.map fun o => bitRun o.1 o.2.1) [] with
    | .stall s' => s'
    | .done _ (some (code, va)) s' => s'.stopCopy n ch (copyStatus code) va
    | .done qs none s2 =>
      if qs.any (s2.arithWaits id aop) then s2 else
      let s3 := ps.foldl (fun s p => s.engTouchAll id p) s2
      k ((outs.zip qs).foldl (fun s x => s.putElem id x.1.1 aop aty (x.1.2, x.2)) s3)

/-- Overrun elements of a transfer (08 R171), added to the agent's count. -/
def State.countOverrun (s : State) (src : Src) (n : Nat) : State :=
  if n = 0 then s
  else s.onAgent src fun h => { h with cp := { h.cp with overrun := BitVec.ofNat 32 (min (h.cp.overrun.toNat + n) (2 ^ 32 - 1)) } }

/-- The entries of the batch slots that a piece names are read first (08 R170, log 73). -/
def State.withSlots (s : State) (n : Nat) (ch : Fin 4) (id : EngId) (at' : List (TEnt × List (Nat × Nat))) (k : State → State) : State :=
  match at'.foldl (fun (r : Stream) x => match r with
    | .done _ none s => s.slotRuns id x.1 x.2
    | r => r) (.done [] none s) with
  | .stall s' => s'
  | .done _ (some (code, va)) s' => s'.stopCopy n ch (copyStatus code) va
  | .done _ none s' => k s'

/-- A piece of a tensor copy (08 R183): 64 bytes of elements, and the scale of each block with its first element. -/
def State.tensorPiece (s : State) (n : Nat) (ch : Fin 4) (c : Chan) (id : EngId) : State :=
  let ws := id.ws.toNat
  let a := entOf c.srcE
  let b := entOf c.dstE
  let row0s := nbit c.srcA.toNat 32 32
  let row0d := nbit c.dstA.toNat 32 32
  let (_, cols) := copyExtent a b row0s row0d
  let w := a.f.bits
  let cnt := c.pieceElems
  let at' := (List.range cnt).map fun i => ((c.next + i) / cols, (c.next + i) % cols)
  let elems := at'.map fun p =>
    let d := s.coords ws b (row0d + p.1) p.2
    ({ w := w, wd := (d.map b.storeBits).getD w, pad := a.pad % 2 ^ w, src := (s.coords ws a (row0s + p.1) p.2).map a.bitAddr,
       dst := d.map b.bitAddr } : MoveItem)
  let scales := match a.f.block with
    | none => []
    | some k => (at'.filter fun p => p.2 % k == 0).map fun p => ({
        w := 8, wd := 8, pad := 0x7F, src := (s.blockCoords ws a (row0s + p.1) p.2 k).map fun x => 8 * a.scaleAddr x,
        dst := (s.blockCoords ws b (row0d + p.1) p.2 k).map fun x => 8 * b.scaleAddr x } : MoveItem)
  let ov := (at'.filter fun p => a.overrun (row0s + p.1) p.2).length + (at'.filter fun p => b.overrun (row0d + p.1) p.2).length
  s.withSlots n ch id [(a, at'.map fun p => (row0s + p.1, p.2)), (b, at'.map fun p => (row0d + p.1, p.2))] fun s =>
    s.moveItems n ch id (opAop c.opt) (opAty c.opt) (elems ++ scales) fun s =>
      (s.countOverrun c.owner ov).pieceDone n ch cnt (c.bytes (c.next + cnt) - c.bytes c.next)

/-- The home cluster of a virtual address: die × 16 + cluster. -/
def State.homeCluster (s : State) (ws va : Nat) : Option Nat :=
  match s.xlate ws va false with
  | .ok pa => if homeDie pa < 4 then some (homeDie pa * 16 + s.sliceAt pa / 4) else none
  | .error _ => none

/-- An address that the part of a cluster stages (15 R298); one without a home on a die is every part's, to fault there. -/
def State.inPart (s : State) (ws va cluster : Nat) : Bool := (s.homeCluster ws va).all (· == cluster)

/-- A piece of a staging copy: packed elements in view order, then the scales from the next 64-byte boundary
(15 R277); target 0 is only read. -/
def State.stagePiece (s : State) (n : Nat) (ch : Fin 4) (c : Chan) (id : EngId) : State :=
  let ws := id.ws.toNat
  let a := entOf c.srcE
  let w := a.f.bits
  let first := c.srcA.toNat
  let tgt := c.opt.toNat
  let base := (if tgt = 1 then tileBase else winBase) + c.dstA.toNat
  let pos (i : Nat) : Nat × Nat := (i / a.colsT, i % a.colsT)
  let out (x : Nat) : Option Nat := if tgt = 0 then none else some x
  let mine (b : Nat) : Bool := tgt != 0 || s.inPart ws (b / 8) c.dstA.toNat
  if c.next < c.len then
    let cnt := c.pieceElems
    let items := (List.range cnt).map fun i => ({
      w := w, wd := padBits a.f c.len (c.next + i), pad := a.pad % 2 ^ w,
      src := if a.colsT = 0 then none else (s.coords ws a (pos (first + c.next + i)).1 (pos (first + c.next + i)).2).map a.bitAddr |>.filter mine,
      dst := out (8 * base + w * (c.next + i)) } : MoveItem)
    s.withSlots n ch id [(a, (List.range cnt).map fun i => pos (first + c.next + i))] fun s =>
      s.moveItems n ch id 0 0 items fun s => s.pieceDone n ch cnt (c.bytes (c.next + cnt) - c.bytes c.next)
  else
    let blk := a.f.block.getD 32
    let j0 := c.next - c.len
    let cnt := min 64 (c.items - c.next)
    let from' := 8 * (base + pad64 ((c.len * w + 7) / 8))
    let items := (List.range cnt).map fun i =>
      let p := pos (first + (j0 + i) * blk)
      ({ w := 8, wd := 8, pad := 0x7F,
         src := if a.colsT = 0 then none else ((s.blockCoords ws a p.1 (p.2 / blk * blk) blk).map fun x => 8 * a.scaleAddr x).filter mine,
         dst := out (from' + 8 * (j0 + i)) } : MoveItem)
    s.withSlots n ch id [(a, (List.range cnt).map fun i => pos (first + (j0 + i) * blk))] fun s =>
      s.moveItems n ch id 0 0 items fun s => s.pieceDone n ch cnt cnt

/-- An engine operation of the agent before a FENCE.E that a copy comes after (10 R209). -/
def State.fenceHoldsCopy (s : State) (n : Nat) (c : Chan) : Bool :=
  s.fenceHolds n c.owner c.fenceE || (s.tileAt n).tq.any fun o => o.src == c.owner && o.isMma && decide (o.fenceE < c.fenceE)

/-- The next piece of a channel (09 R196). -/
def State.doPiece (s : State) (n : Nat) (ch : Fin 4) : State :=
  let t := s.tileAt n
  let c := t.chans[ch]
  if !c.active || c.over || (c.stage.isNone && s.fenceHoldsCopy n c) then s
  else
    let id : EngId := { tile := n, who := whoOf n (11 + ch.val), ws := c.owner.ws, locks := false }
    if c.stage.isSome then s.stagePiece n ch c id
    else if c.srcE.isEmpty then s.linearPiece n ch c id
    else s.tensorPiece n ch c id

def execCopyPiece (tile : Nat) (chan : Fin 4) (s : State) : Out := .next (s.doPiece tile chan)

/-! ## The end of a copy (09 R196, R197) -/

/-- A staging copy ended: its packet counts it; one that faulted releases the packet unstaged, cancels the packet's other
copies, and leaves its record (15 R298). -/
def State.stageDone (s : State) (n : Nat) (id : Nat) (xid : BitVec 16) (st : BitVec 4) (ws : Wsid) (faddr : Word) : State :=
  let bad := decide (2 ≤ st.toNat)
  let upd (p : HeadPkt) : HeadPkt :=
    if p.id == id then
      if bad then { p with running := p.running - 1, released := true, unstaged := true, todo := [] } else { p with running := p.running - 1, unstaged := p.unstaged || st != 0 }
    else p
  let s1 := { s with dies := s.dies.map fun d => { d with heads := d.heads.map upd } }
  if bad then
    let cancel (c : Chan) : Chan := if c.stage == some id && c.st == .running then { c with st := .cancelling } else c
    let s2 := { s1 with tiles := s1.tiles.map fun (e : Nat × Tile) => (e.1, ({ e.2 with chans := e.2.chans.map cancel } : Tile)) }
    s2.faultRecord ws.toNat frSTAGE (s2.ltidOf n) xid.toNat faddr.toNat
  else s1

def State.doCopyEnd (s : State) (n : Nat) (ch : Fin 4) : State :=
  let c := (s.tileAt n).chans[ch]
  if !c.active || !c.over || c.inAir != 0 then s
  else
    let st : BitVec 4 := if c.stop != 0 then c.stop else if c.st = .cancelling then 1 else 0
    match c.stage with
    | none => s.closeCopy n ch st
    | some id =>
      let t := s.tileAt n
      let s1 := s.setTile n { t with
        locks := t.locks.filter (fun e => e.2.chan != ch)
        chans := t.chans.set ch { c with st := .idle, status := st, stage := none } }
      s1.stageDone n id c.xid st c.owner.ws c.faddr

def execCopyCompletion (tile : Nat) (chan : Fin 4) (s : State) : Out := .next (s.doCopyEnd tile chan)

/-- The completion word of R196: the XID, the channel, the status. -/
def Chan.info (c : Chan) (ch : Fin 4) : Nat := c.xid.toNat + ch.val * 2 ^ 16 + c.status.toNat * 2 ^ 20

/-- The completion placed: the message while fewer than 60 are held, then the q3 entry; the channel is idle once both
are (09 R196, R192). Of the two the message comes first (DESIGN CHOICE, log 81). -/
def State.doCopyPlaced (s : State) (n : Nat) (ch : Fin 4) : State :=
  let t := s.tileAt n
  let c := t.chans[ch]
  if c.st != .posting then s
  else if c.postCmb then
    if t.mail.length < 60 then
      let msg := mailMsg mkCOPY_DONE (agentCode c.owner.agent) (s.ltidOf n) (c.info ch) (BitVec.ofNat 64 (c.done % 2 ^ 40))
      s.setTile n { t.wakeWfi with mail := t.mail ++ [msg], chans := t.chans.set ch { c with postCmb := false } }
    else s
  else if c.postQ3 then
    if (t.queue 3).length < 16 then
      let e := BitVec.ofNat 64 (c.info ch + c.done % 2 ^ 32 * 2 ^ 24)
      let t1 := t.setQueue 3 (t.queue 3 ++ [e])
      s.setTile n { t1 with chans := t1.chans.set ch { c with postQ3 := false } }
    else s
  else s.setTile n { t with chans := t.chans.set ch { c with st := .idle } }

def execCopyCompletionPlaced (tile : Nat) (chan : Fin 4) (s : State) : Out := .next (s.doCopyPlaced tile chan)

/-! ## CPCANCEL and CPSTAT (09 R197) -/

def execCpcancel (m : SMark) (rd rs1 rs2 : Reg) (s : State) : Out :=
  .next (issue (.cpcancel m rd rs1 rs2) m true (fun s =>
    let x := (s.x rs1).setWidth 16
    match (List.finRange 4).find? fun ch => (s.tile.chans[ch]).xid == x && (s.tile.chans[ch]).owner.ws == s.ws && (s.tile.chans[ch]).st == .running with
    | some ch => .ok ((s.setChan s.curTile ch { s.tile.chans[ch] with st := .cancelling }).setX rd 0)
    | none => .ok (s.setX rd 1)) s)

def chanCode : ChanState → Nat
  | .idle => 0
  | .running => 1
  | .cancelling => 2
  | .posting => 3

def Chan.word (c : Chan) : Word :=
  BitVec.ofNat 64 (c.xid.toNat + chanCode c.st * 2 ^ 16 + c.status.toNat * 2 ^ 20 + c.done % 2 ^ 40 * 2 ^ 24)

def lockWord : Option RangeLock → Word
  | none => 0
  | some l => BitVec.ofNat 64 (1 + l.chan.val * 2 + b2n l.dst * 8 + l.xid.toNat * 16)

def execCpstat (m : SMark) (rd rs1 rs2 : Reg) (s : State) : Out :=
  .next (issue (.cpstat m rd rs1 rs2) m true (fun s =>
    let x := (s.x rs1).toNat
    if nbit x 8 1 = 1 then .ok (s.setX rd (lockWord (sget (nbit x 0 5) s.tile.locks)))
    else .ok (s.setX rd ((s.tile.chans[nbit x 0 2]'(by unfold nbit; omega)).word))) s)

end Sys2Proof.Machine
end

