-- ==== Sys2Proof/Machine/Cluster.lean ====
section
/-! DEFINITION. Bank functions (10 R205 to R207), fences (10 R208, R209), direct writes, reads and notifications (10 R210 to
R212), refusal and replay (10 R213, R214, 11 R225). -/

namespace Sys2Proof.Machine

/-! ## Bank functions (10 R206, R207) -/

def bfType (d : Word) : Nat := nbit d.toNat 0 3
/-- A step: operation and argument. -/
def bfStep (d : Word) (i : Nat) : Nat × Nat := (nbit d.toNat (8 + 6 * i) 3, nbit d.toNat (11 + 6 * i) 3)

/-- A descriptor with V = 1 that R206 calls malformed. -/
def bfMalformed (d : Word) : Bool :=
  let steps := (List.range 4).map (bfStep d)
  decide (5 ≤ bfType d) || nbit d.toNat 4 4 != 0 || steps.any (fun p => decide (2 ≤ p.2))
  || ((steps.dropWhile (·.1 != 0)).drop 1).any (· != (0, 0))
  || (decide (3 ≤ bfType d) && steps.any (fun p => decide (5 ≤ p.1)))

/-- Bytes of an element. -/
def bfBytes (d : Word) : Nat :=
  match bfType d with
  | 2 => 8
  | 4 => 2
  | _ => 4

/-- One step on an element of an integer type of width `w`. -/
def bfInt (signed : Bool) (w op a b : Nat) : Nat :=
  match op with
  | 1 => (a + b) % 2 ^ w
  | 2 => (a + 2 ^ w - b) % 2 ^ w
  | 3 => if signed then (if sgn w a ≤ sgn w b then a else b) else min a b
  | 4 => if signed then (if sgn w b ≤ sgn w a then a else b) else max a b
  | 5 => a &&& b
  | 6 => a ||| b
  | 7 => a ^^^ b
  | _ => a

/-- One step on a floating-point element. -/
def bfFloat (f : FFmt) (op a b : Nat) : Nat :=
  match op with
  | 1 => (f.add .ne a b).1
  | 2 => (f.sub .ne a b).1
  | 3 => (f.minmax false a b).1
  | 4 => (f.minmax true a b).1
  | _ => a

def bfOp (d : Word) (op a b : Nat) : Nat :=
  match bfType d with
  | 0 => bfInt true 32 op a b
  | 1 => bfInt false 32 op a b
  | 2 => bfInt true 64 op a b
  | 3 => bfFloat fp32 op a b
  | _ => bfFloat bf16 op a b

/-- The constant: its low bits, or extended by sign for INT64. -/
def bfConst (d : Word) : Nat :=
  if bfType d = 2 then (signExt (d.extractLsb' 32 32)).toNat else nbit d.toNat 32 32 % 2 ^ (8 * bfBytes d)

/-- The steps until END. -/
def bfRun (d : Word) (arg : Nat) (r : Nat) : Nat :=
  (((List.range 4).map (bfStep d)).takeWhile (·.1 != 0)).foldl (fun r p => bfOp d p.1 r (if p.2 = 0 then arg else bfConst d)) r

/-- An update at the bank update unit; one that names an empty slot or is misaligned is discarded and counted. It is no
write of a whole word: poison stays (06 R131). -/
def Tile.bankUpdate (t : Tile) (off : Nat) (slot : BitVec 3) (operand : Word) : Tile :=
  let miss : Tile := { t with bfnDrop := if t.bfnDrop = 0xFFFF_FFFF then t.bfnDrop else t.bfnDrop + 1 }
  match t.bfn[slot.toNat]'(slot.isLt) with
  | none => miss
  | some d =>
    let n := bfBytes d
    if off % n != 0 then miss
    else { t.putNat off n (bfRun d (operand.toNat % 2 ^ (8 * n)) (t.natAt off n)) with poison := t.poison }

def execBfnld (m : SMark) (slot : BitVec 3) (rs1 : Reg) (s : State) : Out :=
  .next (issue (.bfnld m slot rs1) m true (fun s =>
    let d := s.x rs1
    if !d.getLsbD 3 then .ok (s.putTile { s.tile with bfn := s.tile.bfn.set slot.toNat none slot.isLt })
    else if bfMalformed d then Done.illegal s (.bfnld m slot rs1)
    else .ok (s.putTile { s.tile with bfn := s.tile.bfn.set slot.toNat (some d) slot.isLt })) s)

/-! ## Fences (10 R208, R209) -/

/-- Once its predecessors have performed, a FENCE of cluster scope or wider with r among its successors is an acquire
(13 R258). -/
def execFence (m : SMark) (sc : Scope) (pred succ : FenceSet) (s : State) : Out :=
  .next (issue (.fence m sc pred succ) m true (fun s =>
    if !s.fenced s.th.outs s.src sc pred then .wait (.fence sc pred) s
    else .ok (if wideScope sc && succ.r then s.selfInvalidate s.curTile else s)) s)

def execFenceE (m : SMark) (sc : Scope) (s : State) : Out :=
  .next (issue (.fenceE m sc) m true (fun s => .ok (s.setTh { s.th with fenceE := s.th.fenceE + 1 })) s)

/-! ## Sending (10 R210 to R212, R214) -/

/-- The checks of a tile address by the sender (10 R210): `miss` answers for an offset out of range, for which nothing is
sent. -/
def State.tileAddr (s : State) (va : Word) (n : Nat) (miss : State → Done) (k : State → Done) : Done :=
  match s.accessWait false (if taLtid va = s.ltidOf s.curTile then [(tileBase + taOff va, n)] else []) with
  | some d => d
  | none =>
    if taBad va then Done.trapAt s trACCESS_FAULT va 0
    else if taOff va % n != 0 then Done.trapAt s trMISALIGNED va 0
    else if storeSize ≤ taOff va then miss (s.noteOut (some va))
    else k s

/-- A message sent when there is room for it. -/
def State.sendTo (s : State) (va : Word) (body : MsgBody) (k : State → Done) : Done :=
  if s.tile.hasRoom (taLtid va) then k (s.sendMsg s.curTile (taLtid va) s.src s.pc va body)
  else .wait (.window (BitVec.ofNat 12 (taLtid va))) s

def execBupd (m : SMark) (slot : BitVec 3) (rs1 rs2 : Reg) (s : State) : Out :=
  .next (issue (.bupd m slot rs1 rs2) m true (fun s =>
    s.tileAddr (s.x rs1) 1 .commit fun s => s.sendTo (s.x rs1) (.bupd (taOff (s.x rs1)) slot (s.x rs2)) .commit) s)

def execPut (m : SMark) (wd : Width) (rs1 rs2 : Reg) (s : State) : Out :=
  .next (issue (.put m wd rs1 rs2) m false (fun s =>
    let n := widthBytes wd
    s.tileAddr (s.x rs1) n .commit fun s =>
      s.sendTo (s.x rs1) (.put (taOff (s.x rs1)) (leBytes (s.x rs2).toNat n)) .commit) s)

/-- The result of a GET becomes outstanding. -/
def State.getResult (s : State) (rd : Reg) (va : Word) (bytes : List (Option Byte)) : State × Nat :=
  let (s1, tag) := s.takeFresh
  let r : Remote := { tag := tag, dest := .x rd true, pc := s.pc, addr := va, bytes := bytes, poison := false,
                      dropped := none, acquire := none }
  (if rd != 0 then s1.setTh { s1.th with outs := s1.th.outs ++ [r] } else s1, tag)

def execGet (m : SMark) (wd : Width) (rd rs1 : Reg) (s : State) : Out :=
  .next (issue (.get m wd rd rs1) m false (fun s =>
    let n := widthBytes wd
    let va := s.x rs1
    s.tileAddr va n (fun s => .ok (s.getResult rd va (List.replicate n (some 0))).1) fun s =>
      let (s1, tag) := s.getResult rd va (List.replicate n none)
      match s1.sendTo va (.get (taOff va) n tag) .ok with
      | .wait w _ => .wait w s
      | d => d) s)

/-- The receiver that a NOTIFY address names: a CTX code, or none for an address that R211 refuses. -/
def notifyCtx (va : Word) : Option Byte :=
  let o := taOff va
  if taBad va || o / 16 != 0 then none
  else if o ≤ 9 then some (BitVec.ofNat 8 o) else if o = 15 then some 0xFF else none

def execNotify (m : SMark) (rs1 rs2 : Reg) (s : State) : Out :=
  .next (issue (.notify m rs1 rs2) m false (fun s =>
    let va := s.x rs1
    match s.accessWait false [] with
    | some d => d
    | none =>
      match notifyCtx va with
      | none => Done.trapAt s trACCESS_FAULT va 0
      | some c =>
        if !s.notifyReady s.th.outs s.src (taLtid va) then .wait (.notify (BitVec.ofNat 12 (taLtid va))) s
        else s.sendTo va (.notify c (s.ltidOf s.curTile) (agentCode s.curAgent) (s.x rs2)) .commit) s)

/-! ## Arrival (10 R213, R214, 11 R225) -/

/-- A message performed at its destination tile; none where it is refused FULL (10 R211, R213, 09 R189, R196). -/
def State.perform (s : State) (t : Nat) (m : Msg) : Option State :=
  let T := s.tileAt t
  match m.body with
  | .put off bytes | .xput _ off bytes => some (s.setTile t (T.writeBytes off bytes))
  | .get off n tag => some { s with flights := s.flights ++ [.answer m.src tag (T.bytes off n) (T.poisoned off n)] }
  | .notify c ltid agent payload =>
    if T.mail.length < 60 then
      some (s.setTile t { T.wakeWfi with mail := T.mail ++ [mailMsg mkNOTIFY c.toNat ltid agent payload] })
    else none
  | .bupd off slot v => some (s.setTile t (T.bankUpdate off slot v))
  | .depart off arr gen => some (s.setTile t (T.departure off arr gen))
  | .piece _ _ _ off bytes _ aop aty _ weir =>
    let T1 := T.putPiece off bytes aop aty
    some (s.setTile t (match weir with
      | some w => T1.weirEvent w (.bytes bytes.length)
      | none => T1))

/-- BUPD and the destination arithmetic of a copy piece wait while an atomic of the same bank update unit is open on their
words (10 R201). -/
def State.bankWaits (s : State) (tile : Nat) (m : Msg) : Bool :=
  match m.body with
  | .bupd off .. => s.bankBusy tile off 8
  | .piece _ _ _ off bytes _ aop .. => aop != 0 && s.bankBusy tile off bytes.length
  | _ => false

def State.setExpected (s : State) (tile dst n : Nat) : State := { s with expect := sset (seqKey tile dst) n s.expect }

/-- Why the interface of tile `ptile` refuses a message of an LTID, by its binding (11 R225). -/
def State.bindRefusal (s : State) (dst ptile : Nat) (gen : BitVec 6) : Option Nack :=
  let e := s.role dst
  if !e.v || e.ptile.toNat != ptile || e.gen != gen then some .moved
  else if e.cstate == 3 || e.role != 0 then some .unbound
  else none

/-- Words of a message's data that a check found uncorrectable on the way are poisoned where they are written (21 R349). -/
def State.spoil (s : State) (t : Nat) (b : MsgBody) (bad : NatSet) : State :=
  let mark (off len : Nat) : State :=
    let ws := bad.flatMap fun k => if 8 * k < len then wordsOf (off + 8 * k) (min 8 (len - 8 * k)) else []
    s.setTile t { s.tileAt t with poison := ws.foldl (fun p w => nsAdd w p) (s.tileAt t).poison }
  if bad.isEmpty then s
  else match b with
    | .put off bytes | .xput _ off bytes | .piece _ _ _ off bytes .. => mark off bytes.length
    | .bupd off .. => mark off 8
    | _ => s

def State.doPacket (s : State) (n : Nat) : State :=
  match s.flights[n]? with
  | some (.pkt tile dst gen ptile seq w) =>
    match s.advance w with
    | some w1 => s.putFlight n (.pkt tile dst gen ptile seq w1)
    | none => match ((s.tileAt tile).window dst.toNat).msgs.find? (·.seq == seq) with
    | none => s.dropFlight n
    | some m =>
      let refuse (y : Nack) : State := s.putFlight n (.nack tile dst seq y)
      if seq < s.expected tile dst.toNat then s.dropFlight n
      else match s.bindRefusal dst.toNat ptile gen with
        | some y => refuse y
        | none =>
          if seq != s.expected tile dst.toNat then refuse .order
          else if s.bankWaits ptile m then s
          else match s.perform ptile m with
            | none => refuse .full
            | some s1 => ((s1.spoil ptile m.body w.bad).setExpected tile dst.toNat (seq + 1)).putFlight n (.accept tile dst seq)
  | _ => s

def execPacketArrival (n : Nat) (s : State) : Out := .next (s.doPacket n)

/-! ## The sender's side -/

/-- A refusal: the window waits to resend from its oldest message; MOVED drops the cached binding and does not count
toward the back-off (10 R213, R214). -/
def State.doNack (s : State) (n : Nat) : State :=
  match s.flights[n]? with
  | some (.nack tile dst seq y) =>
    let s1 := s.dropFlight n
    let t := s1.tileAt tile
    let w := t.window dst.toNat
    if w.msgs.any (·.seq == seq) then
      let t1 := if y = .moved then { t with roleCache := t.roleCache.filter (fun e => e.1 != dst.toNat) } else t
      s1.setTile tile (t1.setWindow dst.toNat
        { w with backoff := true, refusals := if y = .moved then w.refusals else min (w.refusals + 1) 6 })
    else s1
  | _ => s

def execNackReceipt (n : Nat) (s : State) : Out := .next (s.doNack n)

/-- The copy channel that a piece belongs to, while it runs. -/
def Tile.pieceChan (t : Tile) (ch : Fin 4) (xid : BitVec 16) : Bool := t.chans[ch].active && t.chans[ch].xid == xid

/-- A piece has performed at the destination tile, where WEN has counted it (09 R194, R196). -/
def State.pieceAccepted (s : State) (tile : Nat) (ch : Fin 4) (xid : BitVec 16) (bytes : Nat) : State :=
  let t := s.tileAt tile
  if t.pieceChan ch xid then
    let c := t.chans[ch]
    s.setTile tile { t with chans := t.chans.set ch { c with done := c.done + bytes, inAir := c.inAir - 1 } }
  else s

/-- An acceptance frees the entry of the window and ends the back-off's growth (10 R214). -/
def State.doAccept (s : State) (n : Nat) : State :=
  match s.flights[n]? with
  | some (.accept tile dst seq) =>
    let s1 := s.dropFlight n
    let t := s1.tileAt tile
    let w := t.window dst.toNat
    match w.msgs.find? (·.seq == seq) with
    | none => s1
    | some m =>
      let rest := w.msgs.filter (·.seq != seq)
      let s2 := s1.setTile tile (t.setWindow dst.toNat { w with msgs := rest, refusals := 0, backoff := w.backoff && !rest.isEmpty })
      match m.body with
      | .piece ch xid _ _ bytes .. => s2.pieceAccepted tile ch xid bytes.length
      | _ => s2
  | _ => s

def execAcceptAck (n : Nat) (s : State) : Out := .next (s.doAccept n)

/-- Messages of a window not accepted by the destination. -/
def State.unaccepted (s : State) (tile dst : Nat) : List Msg :=
  ((s.tileAt tile).window dst).msgs.filter fun m => decide (s.expected tile dst ≤ m.seq)

/-- The oldest of them has gone 1,000 ticks from its first send (10 R214). -/
def State.windowExpired (s : State) (tile dst : Nat) : Bool :=
  match s.unaccepted tile dst with
  | m :: _ => decide (m.first + 1000 ≤ s.tick)
  | [] => false

/-- The trap of a dropped send, taken at the sender's next instruction boundary, or its record where the strand is no longer
there (10 R214, 17 R375). A sender that has a trap to take already is gone once it is taken: the drop is recorded. -/
def State.deliveryFault (s : State) (m : Msg) (count : Nat) : State :=
  let tr : Trap := { code := trDELIVERY_FAULT, tpc := m.pc, taddr := m.addr, tinfo := BitVec.ofNat 64 count, resume := .at 0 }
  let t := s.tileAt m.src.tile
  let lost := s.faultRecord m.src.ws.toNat frDELIVERY (s.ltidOf m.src.tile) count m.addr.toNat
  let side (c : SideCore) (sd : Side) : State :=
    if c.inc = m.src.inc && c.st == .running && c.pending.isNone then s.setTile m.src.tile (t.setSide sd { c with pending := some tr }) else lost
  match m.src.agent with
  | .ctx c =>
    let k := t.ctx[c]
    if k.inc = m.src.inc && k.st != .free && k.pending.isNone then s.setCx m.src.tile c { k with pending := some tr } else lost
  | .loader => side t.ldr .loader
  | .storer => side t.str .storer

/-- The result of a dropped GET never comes: its landing takes the fault, or the drop is recorded (10 R214). -/
def State.getDropped (s : State) (m : Msg) (tag count : Nat) : State :=
  let h := (s.tileAt m.src.tile).thread m.src.agent
  if h.outs.any (·.tag == tag) then
    s.setTile m.src.tile ((s.tileAt m.src.tile).setThread m.src.agent
      { h with outs := h.outs.map fun r => if r.tag == tag then { r with dropped := some count } else r })
  else s.faultRecord m.src.ws.toNat frDELIVERY (s.ltidOf m.src.tile) count m.addr.toNat

/-- What the drop of one message does; only the agent of the oldest takes a fault for a send. -/
def State.dropMsg (s : State) (tile count : Nat) (oldest : Bool) (m : Msg) : State :=
  match m.body with
  | .get _ _ tag => s.getDropped m tag count
  | .depart .. => s.faultRecord m.src.ws.toNat frDEPART (s.ltidOf m.src.tile) count m.addr.toNat
  | .piece ch xid .. =>
    let t := s.tileAt tile
    if t.pieceChan ch xid then
      let c := t.chans[ch]
      s.setTile tile { t with chans := t.chans.set ch { c with
        stop := if c.stop = 0 then 6 else c.stop, faddr := if c.stop = 0 then m.addr else c.faddr, inAir := c.inAir - 1 } }
    else s
  | .put .. | .xput .. | .notify .. | .bupd .. => if oldest then s.deliveryFault m count else s

/-- A window dropped at the limit (10 R214). -/
def State.dropWindow (s : State) (tile dst : Nat) : State :=
  let ms := s.unaccepted tile dst
  let t := s.tileAt tile
  let w := t.window dst
  let s1 := (s.setTile tile (t.setWindow dst
    { w with msgs := w.msgs.filter (fun m => decide (m.seq < s.expected tile dst)), backoff := false, refusals := 0 })).setExpected tile dst w.next
  match ms with
  | [] => s
  | m :: r => r.foldl (fun s m => s.dropMsg tile ms.length false m) (s1.dropMsg tile ms.length true m)

def execReplayExpiry (tile dst : Nat) (s : State) : Out :=
  .next (if s.windowExpired tile dst then s.dropWindow tile dst else s)

/-- The window resends from its oldest message, in order, or is dropped at the limit (10 R214). -/
def State.doReplay (s : State) (tile dst : Nat) : State :=
  let t := s.tileAt tile
  let w := t.window dst
  if !w.backoff then s
  else if s.windowExpired tile dst then s.dropWindow tile dst
  else w.msgs.foldl (fun s m => s.launch tile dst m.seq) (s.setTile tile (t.setWindow dst { w with backoff := false }))

def execReplay (tile dst : Nat) (s : State) : Out := .next (s.doReplay tile dst)

end Sys2Proof.Machine
end

