-- ==== Sys2Proof/Machine/Csr.lean ====
section
/-! DEFINITION. The CSR class (05 R100, R101) over every CSR: the strand's (01 R16, 06 R122, 15 R293), those of the
core (06 R124, 08 R162, R163, R165, 09 R193, 10 R205, 15 R290, R294), the package's (00 R6, 11 R226, 18 R310,
21 R353); the side cores' GO and STOP (06 R125). -/

namespace Sys2Proof.Machine

/-- A word with only the bits of a field. -/
def field (v : Word) (l n : Nat) : Word := BitVec.ofNat 64 (nbit v.toNat l n * 2 ^ l)

/-! ## Which agent may name a CSR (06 R123), and which are read-only -/

def isZcfg (n : Nat) : Bool := decide (0x030 ≤ n) && decide (n ≤ 0x03F)
def isCopyCsr (n : Nat) : Bool := decide (0x050 ≤ n) && decide (n ≤ 0x056)

/-- The CSRs that only tell: no write form may name them (05 R100). -/
def csrReadOnly (n : Nat) : Bool :=
  [0x004, 0x005, 0x006, 0x007, 0x020, 0x054, 0x056, 0x070, 0x080, 0x084, 0x090, 0x7C0, 0x7C1, 0x7C2, 0x7C3, 0x7D0, 0x7D1].contains n

def csrExists (n : Nat) : Bool :=
  csrReadOnly n || isZcfg n || isCopyCsr n
  || [0x001, 0x002, 0x003, 0x008, 0x021, 0x022, 0x023, 0x024, 0x040, 0x060, 0x081, 0x082, 0x083].contains n

/-- What a side core may name, and of that what it may write (06 R123). -/
def sideReads (n : Nat) : Bool :=
  isCopyCsr n || [0x001, 0x002, 0x003, 0x004, 0x020, 0x060, 0x7C0, 0x7C1, 0x7C2, 0x7C3, 0x7D0, 0x7D1].contains n
def sideWrites (n : Nat) : Bool := isCopyCsr n || [0x001, 0x002, 0x003].contains n

/-- Whether a form naming a CSR is an instruction of the agent. -/
def State.csrAllowed (s : State) (n : Nat) (write : Bool) : Bool :=
  csrExists n && !(write && csrReadOnly n) && (s.isCtx || (sideReads n && (!write || sideWrites n)))

/-! ## Values -/

def sideStateCode : SideState → Nat
  | .stopped => 0
  | .loading => 1
  | .running => 2
  | .trapped => 3

/-- LDRCTL and STRCTL (06 R124). -/
def SideCore.ctl (c : SideCore) : Word :=
  BitVec.ofNat 64 (c.len.toNat + sideStateCode c.st * 2 ^ 20 + c.tcode.toNat * 2 ^ 24 + c.spc.toNat * 2 ^ 32 + c.wsid.toNat * 2 ^ 48)

def Tile.qstat (t : Tile) : Word :=
  BitVec.ofNat 64 (((List.range 4).map fun q => (t.queues.getD q []).length * 2 ^ (8 * q)).foldl (· + ·) 0)

/-- SELF (01 R16). -/
def State.self (s : State) : Word :=
  BitVec.ofNat 64 (agentCode s.curAgent % 8 + s.ltidOf s.curTile % 4096 * 2 ^ 4 + s.ctx.wsid.toNat * 2 ^ 16
    + s.ctx.domain.toNat * 2 ^ 28 + s.ctx.prio.toNat * 2 ^ 36)

/-- BFNSTAT (10 R205). -/
def Tile.bfnStat (t : Tile) : Word :=
  BitVec.ofNat 64 (((List.range 8).map fun i => b2n (t.bfn.getD i none).isSome * 2 ^ i).foldl (· + ·) 0 + t.bfnDrop.toNat * 2 ^ 16)

/-- ID_CONFIG (00 R6). -/
def State.idConfig (s : State) : Word :=
  BitVec.ofNat 64 (s.idDies.toNat + s.idHbm.toNat * 2 ^ 4 + s.idCxl.toNat * 2 ^ 12 + s.idFab.toNat * 2 ^ 16 + s.idNode.toNat * 2 ^ 32)

def idVendor : Word := 0x1D7A
def idPart : Word := 0x0400_0A40
def idStep : Word := 0x0100_0201
/-- NETCAP: 32, 32, 64 and 16 bytes (18 R310). -/
def netCap : Word := 0x1040_2020

/-- An entry of the exchange schedule as software reads it back (15 R294). -/
def Tile.xsEntry (t : Tile) (i : Nat) : Word :=
  match sget i t.xnew with
  | some w => w
  | none => (sget i t.xsched).getD 0

/-- The value of a CSR; CP_GO is read by its launch. -/
def State.csrRead (s : State) (n : Nat) : Word :=
  let h := s.th
  if n = 0x001 then h.fflags.setWidth 64
  else if n = 0x002 then BitVec.ofNat 64 h.frm
  else if n = 0x003 then BitVec.ofNat 64 (b2n h.oorf)
  else if n = 0x004 then h.oora
  else if n = 0x005 then s.self
  else if n = 0x006 then field s.ctx.rgnpc 2 54
  else if n = 0x007 then field s.ctx.trec 6 50
  else if n = 0x008 then s.ctx.runlimit.setWidth 64
  else if n = 0x020 then s.tile.qstat
  else if n = 0x021 then s.tile.ldr.ctl
  else if n = 0x022 then s.tile.str.ctl
  else if n = 0x023 then s.tile.ldr.img
  else if n = 0x024 then s.tile.str.img
  else if isZcfg n then (s.tile.panels.getD (n - 0x030) .reset).cfg
  else if n = 0x050 then h.cp.src
  else if n = 0x051 then h.cp.dst
  else if n = 0x052 then h.cp.len
  else if n = 0x053 then h.cp.opt
  else if n = 0x055 then h.cp.stat
  else if n = 0x056 then h.cp.faddr
  else if n = 0x060 then s.tile.bfnStat
  else if n = 0x070 then BitVec.ofNat 64 s.tick
  else if n = 0x080 then s.tile.dommem.setWidth 64
  else if n = 0x081 then s.ctx.gbtimeout.setWidth 64
  else if n = 0x082 then s.tile.xsidx.setWidth 64
  else if n = 0x083 then s.tile.xsEntry s.tile.xsidx.toNat
  else if n = 0x084 then s.tile.xstat.setWidth 64
  else if n = 0x090 then netCap
  else if n = 0x7C0 then idVendor
  else if n = 0x7C1 then idPart
  else if n = 0x7C2 then idStep
  else if n = 0x7C3 then s.idConfig
  else if n = 0x7D0 then s.agePct.setWidth 64
  else if n = 0x7D1 then s.eolDays.setWidth 64
  else 0

/-! ## Writes, field by field (05 R100, 01 R16) -/

/-- FRM: RM refuses 5 to 7. -/
def Thread.setFrm (h : Thread) (v : Word) : Thread :=
  { h with rm := if (v.extractLsb' 0 3).toNat ≤ 4 then v.extractLsb' 0 3 else h.rm, nanov := v.getLsbD 3 }

/-- CP_OPT: bits 9:0 and 52:32. -/
def optMask : Word := 0x001F_FFFF_0000_03FF

/-- An entry of the exchange schedule without bits 39 and 62:59. -/
def xsMask : Word := 0x87FF_FF7F_FFFF_FFFF

/-- ZCFG: a legal configuration, or the register as it was (08 R163). -/
def State.writeZcfg (s : State) (i : Nat) (v : Word) : State :=
  let c := cfgOf v
  if c.ok then
    let t := s.tile
    s.putTile { t with panels := t.panels.setIfInBounds i ((t.panels.getD i .reset).setCfg c) }
  else s

/-- TTINV (08 R165). -/
def Tile.ttInv (t : Tile) (ws : Wsid) (v : Word) : Tile :=
  { t with tt := t.tt.filter fun e => !(e.ws == ws && (v.getLsbD 63 || e.tid == v.setWidth 10)) }

def Tile.windowOpen (t : Tile) : Bool := !t.xwin.isEmpty

/-- XSDATA: an entry written while a window is open waits for the next one (15 R294). -/
def Tile.writeXs (t : Tile) (v : Word) : Tile :=
  let i := t.xsidx.toNat
  let w := v &&& xsMask
  if t.windowOpen then { t with xnew := sset i w t.xnew }
  else { t with xnew := sdel i t.xnew, xsched := if w = 0 then sdel i t.xsched else sset i w t.xsched }

/-! ## GO and STOP (06 R125) -/

/-- Bytes that a GO loads. -/
def loadLen (len : BitVec 17) : Nat := min (len.toNat / 4 * 4) 0x8000

/-- A side core that begins to run at offset 0; what it has launched stays its own (10 R208, R209). -/
def SideCore.begin (c : SideCore) : SideCore :=
  { c with
    th := { Thread.reset with cp := c.th.cp, fenceE := c.th.fenceE }
    tcode := 0, st := .running, stall := none, pending := none, released := false, expired := false }

def SideCore.go (c : SideCore) (ws : Wsid) : SideCore :=
  let c1 := { c with wsid := ws, inc := c.inc + 1 }
  if loadLen c.len = 0 then c1.begin else { c1 with st := .loading, goLen := c.len, goImg := c.img, stall := none }

/-- A side core stopped between instructions. DESIGN CHOICE: a load under way has copied nothing, and L stays (log 78). -/
def SideCore.stop (c : SideCore) : SideCore :=
  { c with st := .stopped, spc := spcOf c.th.pc, stall := none, pending := none, th := { c.th with outs := [] } }

def SideCore.busy (c : SideCore) : Bool := c.st == .loading || c.st == .running

/-- A write of LDRCTL or STRCTL. -/
def SideCore.writeCtl (c : SideCore) (v : Word) (ws : Wsid) : SideCore :=
  let c1 := { c with len := v.setWidth 17 }
  if v.getLsbD 18 then (if c.busy then c1.stop else c1)
  else if v.getLsbD 17 && !c.busy then c1.go ws
  else c1

/-- A write of LDRCTL or STRCTL that stops its side core leaves to the fault record the faults of sends that it has not
taken (10 R214). -/
def State.ctlWrite (s : State) (sd : Side) (v : Word) : State :=
  let s1 := if v.getLsbD 18 then s.sideLeft s.curTile sd else s
  s1.putTile (s1.tile.setSide sd ((s1.tile.side sd).writeCtl v s.ws))

/-! ## The class -/

/-- A CSR's new value written. -/
def State.csrWrite (s : State) (n : Nat) (v : Word) : State :=
  let h := s.th
  let t := s.tile
  if n = 0x001 then s.setTh { h with fflags := v.setWidth 7 }
  else if n = 0x002 then s.setTh (h.setFrm v)
  else if n = 0x003 then s.setTh { h with oorf := h.oorf && v.getLsbD 0 }
  else if n = 0x008 then s.setCtx { s.ctx with runlimit := v.setWidth 24 }
  else if n = 0x021 then s.ctlWrite .loader v
  else if n = 0x022 then s.ctlWrite .storer v
  else if n = 0x023 then s.putTile { t with ldr := { t.ldr with img := field v 2 54 } }
  else if n = 0x024 then s.putTile { t with str := { t.str with img := field v 2 54 } }
  else if isZcfg n then s.writeZcfg (n - 0x030) v
  else if n = 0x040 then s.putTile (t.ttInv s.ws v)
  else if n = 0x050 then s.setTh { h with cp := { h.cp with src := v } }
  else if n = 0x051 then s.setTh { h with cp := { h.cp with dst := v } }
  else if n = 0x052 then s.setTh { h with cp := { h.cp with len := field v 0 32 } }
  else if n = 0x053 then s.setTh { h with cp := { h.cp with opt := v &&& optMask } }
  else if n = 0x055 then s.setTh { h with cp := { h.cp with overrun := v.setWidth 32 } }
  else if n = 0x060 then (if nbit v.toNat 16 32 = 0 then s.putTile { t with bfnDrop := 0 } else s)
  else if n = 0x081 then s.setCtx { s.ctx with gbtimeout := v.setWidth 32 }
  else if n = 0x082 then s.putTile { t with xsidx := v.setWidth 6 }
  else if n = 0x083 then s.putTile (t.writeXs v)
  else s

/-- The new value that a form makes of the old one. -/
def CsrForm.apply (f : CsrForm) (old v : Word) : Word :=
  match f with
  | .wr => v
  | .set => old ||| v
  | .clr => old &&& ~~~v

/-- A form naming FFLAGS waits for the earlier operations of its agent (03 R69). -/
def State.flagsBusy (s : State) (n : Nat) : Bool := n == 0x001 && s.tile.tensorBusy s.src

/-- A read of a CSR. -/
def State.csrGet (s : State) (i : Instr) (rd : Reg) (csr : BitVec 11) : Done :=
  let n := csr.toNat
  if !s.csrAllowed n false then Done.illegal s i
  else if n = 0x054 then s.copyGo rd
  else if s.flagsBusy n then .hold s
  else .ok (s.setX rd (s.csrRead n))

/-- A write form: the operand is read with the CSR, then the CSR is written, then rd. -/
def State.csrPut (s : State) (i : Instr) (f : CsrForm) (rd rs1 : Reg) (csr : BitVec 11) : Done :=
  let n := csr.toNat
  if !s.csrAllowed n true then Done.illegal s i
  else if s.flagsBusy n then .hold s
  else if n = 0x040 && s.storesOut s.src then .wait .stores s
  else
    let old := s.csrRead n
    .ok ((s.csrWrite n (CsrForm.apply f old (s.x rs1))).setX rd old)

def execCsrrd (m : SMark) (rd : Reg) (csr : BitVec 11) (s : State) : Out :=
  .next (issue (.csrrd m rd csr) m true (fun s => s.csrGet (.csrrd m rd csr) rd csr) s)

def execCsrwr (m : SMark) (rd rs1 : Reg) (csr : BitVec 11) (s : State) : Out :=
  .next (issue (.csrwr m rd rs1 csr) m true (fun s => s.csrPut (.csrwr m rd rs1 csr) .wr rd rs1 csr) s)

def execCsrset (m : SMark) (rd rs1 : Reg) (csr : BitVec 11) (s : State) : Out :=
  .next (issue (.csrset m rd rs1 csr) m true (fun s => s.csrPut (.csrset m rd rs1 csr) .set rd rs1 csr) s)

def execCsrclr (m : SMark) (rd rs1 : Reg) (csr : BitVec 11) (s : State) : Out :=
  .next (issue (.csrclr m rd rs1 csr) m true (fun s => s.csrPut (.csrclr m rd rs1 csr) .clr rd rs1 csr) s)

def execTtinv (m : SMark) (f : CsrForm) (rd rs1 : Reg) (s : State) : Out :=
  .next (issue (.ttinv m f rd rs1) m true (fun s => s.csrPut (.ttinv m f rd rs1) f rd rs1 0x040) s)

def execZcfgWrite (m : SMark) (f : CsrForm) (z : ZReg) (rd rs1 : Reg) (s : State) : Out :=
  .next (issue (.zcfgWrite m f z rd rs1) m true (fun s => s.csrPut (.zcfgWrite m f z rd rs1) f rd rs1 (0x03#7 ++ z)) s)

def execXsdataWrite (m : SMark) (f : CsrForm) (rd rs1 : Reg) (s : State) : Out :=
  .next (issue (.xsdataWrite m f rd rs1) m true (fun s => s.csrPut (.xsdataWrite m f rd rs1) f rd rs1 0x083) s)

/-- A write to LDRCTL or STRCTL that sets GO (06 R125). -/
def execSideCoreGo (m : SMark) (sd : Side) (f : CsrForm) (rd rs1 : Reg) (s : State) : Out :=
  .next (issue (.sideCoreGo m sd f rd rs1) m true (fun s => s.csrPut (.sideCoreGo m sd f rd rs1) f rd rs1 sd.ctlCsr) s)

/-- A write to LDRCTL or STRCTL that sets STOP. -/
def execSideCoreStop (m : SMark) (sd : Side) (f : CsrForm) (rd rs1 : Reg) (s : State) : Out :=
  .next (issue (.sideCoreStop m sd f rd rs1) m true (fun s => s.csrPut (.sideCoreStop m sd f rd rs1) f rd rs1 sd.ctlCsr) s)

end Sys2Proof.Machine
end

