-- ==== Sys2Proof/Machine/Sched.lean ====
section
/-! DEFINITION. The instructions of the scheduler class (15 R279, R285 to R289): ENQ, DEPDEC, TDONE, SUSP, YIELD,
RCLAIM, RSPLIT; replies (02 R28); memory that an instruction reads or writes at its issue. -/

namespace Sys2Proof.Machine

/-! ## Memory read or written at issue -/

/-- The acting agent as the initiator of accesses that complete at issue. -/
def State.agentEng (s : State) : EngId := { tile := s.curTile, who := s.who, ws := s.ws, locks := true }

/-- What becomes of an instruction whose access waits or faults. -/
def State.engFail (s : State) (r : Reach (List (EPlace × Nat))) (k : List (EPlace × Nat) → Done) : Done :=
  match r with
  | .ok ps => k ps
  | .wait w s' => Done.waits w s'
  | .trap c a s' =>
    let va := BitVec.ofNat 64 a
    if c = trPOISON then .trap { code := trPOISON, tpc := s.pc, taddr := va, tinfo := s.pc, resume := .region } s'
    else if c = trRANGE_LOCKED then Done.trapAt s' c va (BitVec.ofNat 64 ((s.tile.lockHit [(a, 1)]).getD 0))
    else Done.trapAt s' c va 0

/-- Bytes of the tile window, global memory or the store window read at issue, as by loads (04 R93). -/
def State.readNow (s : State) (va n : Nat) (k : State → List Byte → Done) : Done :=
  s.engFail (s.engRun s.agentEng needLoad va n) fun ps =>
    let s1 := s.engTouchAll s.agentEng ps
    let s2 := if accessRegion va n = .tile then s1.noteOut (outByte [(va, n)]) else s1
    k s2 (s.engBytes s.agentEng ps)

/-- A span of global memory that an instruction's engine will read and write: its region, alignment, permissions and
locks (15 R285); it must be local (22 R360). -/
def State.globalObject (s : State) (va : Word) (n align : Nat) (need : Need) (k : Done) : Done :=
  let a := va.toNat
  if accessRegion a n != .global then Done.trapAt s trACCESS_FAULT va 0
  else if a % align != 0 then Done.trapAt s trMISALIGNED va 0
  else s.engFail (s.engRun s.agentEng need a n) fun ps =>
    if ps.any fun p => match p.1 with
      | .node .. => true
      | _ => false
    then Done.trapAt s trACCESS_FAULT va 0 else k

/-- A release of package scope (04 R97). -/
def State.pkgRelease (s : State) (k : Done) : Done := if s.released s.th.outs s.src .pkg then k else .wait (.release .pkg) s

/-! ## Replies (02 R28) -/

/-- The register that a reply will write counts as written by its request, so that it is among the live-ins of the region
that a committing request begins (01 R18, 19 R344). -/
def State.owes (s : State) (rd : Reg) : State := s.setCtx { s.ctx with written := s.ctx.written.addX rd }

/-- A reply on its way to the agent, with the value of rd. -/
def State.sendReply (s : State) (rd : Reg) (v : Word) : State :=
  { s.owes rd with flights := s.flights ++ [.reply s.src rd v] }

/-- A request made, which commits or not (01 R20): rd comes with the reply. -/
def State.answered (s : State) (commit : Bool) (rd : Reg) (v : Word) : Done := .reply commit (s.sendReply rd v)

/-- A committing request made. -/
def State.requested (s : State) (rd : Reg) (v : Word) : Done := s.answered true rd v

/-- A pre-emption has stopped the issue of a context that has no trap to take: the instruction that waits for a reply is
discarded, and the reply finds nobody once the strand has left (05 R105, 19 R344). -/
def Context.discards (k : Context) : Bool := k.evict.isSome && k.pending.isNone

/-- A reply arrives: rd is written and the context becomes Ready. A strand that has left gets nothing, one that is leaving
keeps its register. -/
def State.doReply (s : State) (n : Nat) : State :=
  match s.flights[n]? with
  | some (.reply src rd v) =>
    let s1 : State := { s with flights := s.flights.eraseIdx n }
    let t := s1.tileAt src.tile
    match src.agent with
    | .ctx c =>
      let k := t.ctx[c]
      if k.inc = src.inc && k.st == .waiting .reply then
        if k.discards then s else s1.setTile src.tile { t with ctx := t.ctx.set c { k with th := k.th.writeX rd v, st := .ready } }
      else s1
    | .loader =>
      if t.ldr.inc = src.inc && t.ldr.stall == some .reply then
        s1.setTile src.tile { t with ldr := { t.ldr with th := t.ldr.th.writeX rd v, stall := none } }
      else s1
    | .storer =>
      if t.str.inc = src.inc && t.str.stall == some .reply then
        s1.setTile src.tile { t with str := { t.str with th := t.str.th.writeX rd v, stall := none } }
      else s1
  | _ => s

def execReplyArrival (n : Nat) (s : State) : Out := .next (s.doReply n)

/-! ## ENQ and DEPDEC (15 R279, R285) -/

/-- Where ENQ reads its packet: the tile window or global memory, which must be local (22 R360). -/
def State.packetRegion (s : State) (va : Word) (n : Nat) (k : Done) : Done :=
  match accessRegion va.toNat n with
  | .tile => k
  | .global => match s.fabPlace s.ws.toNat va.toNat with
    | .node _ => Done.trapAt s trACCESS_FAULT va 0
    | _ => k
  | _ => Done.trapAt s trACCESS_FAULT va 0

/-- The queue that ENQ names must be local (22 R360). -/
def State.localQueue (s : State) (q : Word) (k : Done) : Done :=
  match accessRegion q.toNat 64, s.fabPlace s.ws.toNat q.toNat with
  | .global, .node _ => Done.trapAt s trACCESS_FAULT q 0
  | _, _ => k

def execEnq (m : SMark) (rd rs1 rs2 : Reg) (s : State) : Out :=
  .next (issue (.enq m rd rs1 rs2) m false (fun s =>
    let va := s.x rs2
    if s.acquiring then .wait .acquire s
    else s.localQueue (s.x rs1) (s.packetRegion va 32 (s.readNow va.toNat 32 fun s h =>
      let n := pkBytes (leNat (h.take 16))
      s.packetRegion va n (s.readNow va.toNat n fun s p =>
        s.pkgRelease (
          let (s1, st) := s.enqueueAs (pkWsid (pktHead p) != s.ws.toNat) s.ws (s.x rs1) p
          s1.requested rd (BitVec.ofNat 64 st)))))) s)

def execDepdec (m : SMark) (rd rs1 : Reg) (s : State) : Out :=
  .next (issue (.depdec m rd rs1) m false (fun s =>
    if s.acquiring then .wait .acquire s
    else s.globalObject (s.x rs1) 16 16 needAtomic (s.pkgRelease (
      let (s1, r) := s.signal (s.ltidOf s.curTile) s.ws (s.x rs1)
      s1.requested rd (BitVec.ofNat 64 r)))) s)

/-! ## The end and the suspension of a strand (15 R285, R286) -/

/-- TDONE commits: the streams of the context are over before it executes (01 R20, 08 R175). -/
def execTdone (m : SMark) (s : State) : Out :=
  .next (issue (.tdone m) m false (fun s => match s.curAgent with
    | .ctx c => if s.tile.streams s.src true true then s.streamHold else if s.storesOut s.src then .wait .stores s
      else match s.departWait with
        | some w => .wait w s
        | none => .gone (s.endStrand s.curTile c .tdone)
    | _ => Done.illegal s (.tdone m)) s)

/-- The save of a suspension after the present instruction: the live-ins are those of the region that begins there. -/
def Context.suspSave (k : Context) (cause : Nat) : Save :=
  { pc := k.th.pc + 4, rgnr := false, cause := cause, sets := k.live.union k.written, xst := !csrDefault k, arg := false }

/-- The strand of context `c` suspended with its record at an address, and the context freed; or it waits for a frame as it
stood before the instruction, at which a pre-emption restarts it (05 R107); or it ends, where its frame cannot be written and the reserve is empty (05 R111).
Results of dropped GETs are recorded (10 R214). -/
def State.suspend (s : State) (c : Fin 8) (cause : Nat) (rec : Word) (before : Context) (k : State → State) : Done :=
  let t := s.curTile
  match (s.setCx t c { s.cx t c with recAddr := rec }).saveStrand t c ((s.cx t c).suspSave cause) .suspend with
  | (s1, .lack _) => .wait .frame (s1.setCx t c before)
  | (s1, .broken) => .gone (((s1.setCx t c before).recordEnd t before.wsid trSPILL_EMPTY.toNat 0 0).endStrand t c .terminated)
  | (s1, .done) => .gone (k ((s1.recordDrops t before.wsid before.th.outs).freeCx t c))

/-- The stores of the strand are acknowledged and its queued panel instructions have completed (05 R105, R286). -/
def State.drained (s : State) (k : Done) : Done :=
  if s.tile.tensorBusy s.src then .hold s else if s.storesOut s.src then .wait .stores s else k

/-- The record is in the counter's area: PRES is set, and a fired counter hands the record on at once (15 R286). -/
def State.park (s : State) (ws : Wsid) (c : Word) : State :=
  match s.vnat ws.toNat c.toNat 8 with
  | none => s
  | some w0 =>
    let s1 := s.vput ws.toNat c.toNat 8 (w0 - nbit w0 34 1 * 2 ^ 34 + 2 ^ 34)
    let q := BitVec.ofNat 64 ((s1.vnat ws.toNat (c.toNat + 8) 8).getD 0)
    if nbit w0 32 1 = 1 then s1.pushResume q ws (c + 16) (s1.recPrio ws (c + 16)) else s1

/-- The entry of a strand whose record now stands in a counter's area: it returns to the counter's queue and carries no
successors (15 R285). -/
def State.moveStrand (s : State) (ws : Wsid) (old new q : Word) : State :=
  match s.strand ws old with
  | none => s
  | some e => { s with strands := sset (recKey ws new) { e with queue := q, succ := [] } (sdel (recKey ws old) s.strands) }

/-- SUSP. Its record stands at counter + 16, on 16 bytes only where the counter does (15 R283, R286; DESIGN CHOICE, log 82). -/
def execSusp (m : SMark) (rd rs1 : Reg) (s : State) : Out :=
  .next (issue (.susp m rd rs1) m false (fun s => match s.curAgent with
    | .ctx c =>
      let va := s.x rs1
      if s.acquiring then .wait .acquire s
      else s.globalObject va 16 16 needAtomic (s.globalObject (va + 16) 64 16 needStore (
        let w0 := (s.vnat s.ws.toNat va.toNat 8).getD 0
        if nbit w0 33 1 = 0 || nbit w0 34 1 = 1 then .commit ((s.vsee s.ws.toNat va.toNat 8).setX rd 1)
        else s.drained (
          let old := s.ctx.recAddr
          let q := BitVec.ofNat 64 ((s.vnat s.ws.toNat (va.toNat + 8) 8).getD 0)
          (s.setX rd 0).suspend c 3 (va + 16) s.ctx fun s2 => (s2.moveStrand s.ws old (va + 16) q).park s.ws va)))
    | _ => Done.illegal s (.susp m rd rs1)) s)

def execYield (m : SMark) (s : State) : Out :=
  .next (issue (.yield m) m false (fun s => match s.curAgent with
    | .ctx c =>
      let r := s.ctx.recAddr
      let ws := s.ws
      let prio := s.ctx.prio
      s.drained (s.suspend c 4 r s.ctx fun s1 => s1.pushResume (s1.returnQueue ws r) ws r prio)
    | _ => Done.illegal s (.yield m)) s)

/-! ## Range tasks (15 R287 to R289) -/

/-- Fields of a range array's header. -/
structure RangeHead where
  next : Nat
  cap : Nat
  live : Nat
  grain : Nat
  tpkt : Nat
  deriving DecidableEq, Repr

def rangeHeadOf (h : Nat) : RangeHead :=
  { next := nbit h 0 16, cap := nbit h 16 16, live := nbit h 32 16, grain := nbit h 64 32, tpkt := nbit h 128 56 }

/-- The result of a claim: first element and number of elements. -/
def claimWord (lo n : Nat) : Word := BitVec.ofNat 64 (lo % 2 ^ 32 + n % 2 ^ 32 * 2 ^ 32)

/-- A claim of no elements where the spec gives no first element (log 10). -/
def State.noClaim (s : State) : State × Word := ({ s with fresh := s.fresh + 1 }, field32 (Config.freeWord s.fresh))
where
  field32 (w : Word) : Word := w &&& 0xFFFF_FFFF

/-- RCLAIM at the home slice of the array's header. -/
def State.rangeClaim (s : State) (ws : Wsid) (array op : Word) : State × Word :=
  let a := array.toNat
  let w := ws.toNat
  let i := nbit op.toNat 0 16
  let k := nbit op.toNat 32 16
  match s.vnat w a 32, s.vnat w (a + 32 + 8 * i) 8 with
  | some h, some r =>
    let s := s.vsee w a 32
    let g := rangeHeadOf h
    let lo := nbit r 0 32
    let hi := nbit r 32 32
    if nbit op.toNat 16 16 != 0 || nbit op.toNat 48 16 != 0 || decide (g.next ≤ i) then s.noClaim
    else
      let lo' := if k = 0 then lo else min (lo + k * g.grain) hi
      (if k = 0 then s.vsee w (a + 32 + 8 * i) 8 else s.vput w (a + 32 + 8 * i) 4 lo', claimWord lo (lo' + 2 ^ 32 - lo))
  | _, _ => s.noClaim

def execRclaim (m : SMark) (rd rs1 rs2 : Reg) (s : State) : Out :=
  .next (issue (.rclaim m rd rs1 rs2) m false (fun s =>
    if s.acquiring then .wait .acquire s
    else s.globalObject (s.x rs1) 32 32 needAtomic (
      let (s1, v) := s.rangeClaim s.ws (s.x rs1) (s.x rs2)
      s1.requested rd v)) s)

/-- A record in the device's own storage, with its address (log 6). -/
def State.newRecord (s : State) (bytes : List Byte) : State × Word :=
  let a := devRecords + 64 * s.nextRec
  (({ s with nextRec := s.nextRec + 1 } : State).writeAt a bytes (BitVec.ofNat 12 noWs), BitVec.ofNat 64 a)

/-- The words of a record that the scheduler builds (01 R9, 15 R281). -/
def newRecordBytes (h : Nat) (unstaged gang : Bool) (livein cause : Nat) (inl : List Nat) : List Byte :=
  leBytes (pkEpc h / 4 * 4 + b2n unstaged * 2 ^ 56 + b2n gang * 2 ^ 57) 8
  ++ leBytes (pkWsid h + pkDomain h * 2 ^ 12 + pkPrio h * 2 ^ 20 + livein * 2 ^ 23 + cause * 2 ^ 28) 8
  ++ leBytes 0 8 ++ (List.range 5).flatMap fun i => leBytes (inl.getD i 0) 8

/-- The header of a range array's template packet, as one number. Of one that cannot be read the spec gives no field: each is
a free value, but for the workspace, which is the array's (log 37). -/
def State.templateHead (s : State) (ws p : Nat) : State × Nat :=
  match s.vnat ws p 16 with
  | some h => (s.vsee ws p 16, h)
  | none =>
    let h := (Config.freeWord s.fresh).toNat + (Config.freeWord (s.fresh + 1)).toNat * 2 ^ 64
    ({ s with fresh := s.fresh + 2 }, h - pkWsid h * 2 ^ 16 + ws * 2 ^ 16)

/-- A range word halved: the new index, and the new strand's record on a resume list; or none (15 R289). -/
def State.rangeSplit (s : State) (ws : Wsid) (array : Word) (i : Nat) (queue : Word) : Option (State × Nat) :=
  let a := array.toNat
  let w := ws.toNat
  match s.vnat w a 32, s.vnat w (a + 32 + 8 * i) 8 with
  | some h, some r =>
    let g := rangeHeadOf h
    let lo := nbit r 0 32
    let hi := nbit r 32 32
    let n := if g.grain = 0 then 0 else (hi - lo + g.grain - 1) / g.grain
    if n < 2 || g.next = g.cap then none
    else
      let (s0, th) := s.templateHead w g.tpkt
      let mid := lo + (n + 1) / 2 * g.grain
      let j := g.next
      let s1 := ((s0.vput w a 2 (j + 1)).vput w (a + 4) 2 ((g.live + 1) % 65536)).vput w (a + 32 + 8 * j) 8 (mid + hi * 2 ^ 32)
      let s2 := s1.vput w (a + 32 + 8 * i + 4) 4 mid
      let (s3, rec) := s2.newRecord (newRecordBytes th false false 7 6 [(pkP th).toNat, a, j])
      let e : Strand := { queue := queue, ws := ws, succ := [], work := .range array j, tile := 0, disp := 0, die := 0, reserve := 0 }
      some (({ s3 with strands := sset (recKey ws rec) e s3.strands }).pushResume queue ws rec (BitVec.ofNat 3 (pkPrio th)), j)
  | _, _ => none

/-- The queue from which the strand that works on a range word was dispatched (15 R289). -/
def State.rangeQueue (s : State) (ws : Wsid) (array : Word) (i : Nat) : Word :=
  match s.strands.find? fun e => e.2.ws == ws && e.2.work == .range array i with
  | some e => e.2.queue
  | none => s.returnQueue ws s.ctx.recAddr

def execRsplit (m : SMark) (rd rs1 rs2 : Reg) (s : State) : Out :=
  .next (issue (.rsplit m rd rs1 rs2) m false (fun s =>
    if s.acquiring then .wait .acquire s
    else s.globalObject (s.x rs1) 32 32 needAtomic (
      match s.rangeSplit s.ws (s.x rs1) (nbit (s.x rs2).toNat 0 16) (s.rangeQueue s.ws (s.x rs1) (nbit (s.x rs2).toNat 0 16)) with
      | some (s1, j) => s1.requested rd (BitVec.ofNat 64 j)
      | none => (s.vsee s.ws.toNat (s.x rs1).toNat 32).requested rd (BitVec.ofNat 64 (2 ^ 63)))) s)

end Sys2Proof.Machine
end

