-- ==== Sys2Proof/Machine/Schedule.lean ====
section
/-! DEFINITION. The scheduler: tile choice (20 R347), dispatch and pickup (15 R281, 01 R11, R12, R19), gangs
(15 R290, R291), the headgate (15 R297, R298, R300, R301), range splits (15 R289), counters' signals (15 R284);
contexts: pre-emption (05 R105, R106), trap delivery (05 R108), switching (06 R121, R122); the side cores' images
(06 R125) and traps (06 R126). -/

namespace Sys2Proof.Machine

/-! ## Tile choice (20 R347, 11 R223) -/

/-- Tiles of a die with the LTIDs bound to them. -/
def State.dieTiles (s : State) (die : Nat) : List (Nat × Nat) :=
  (List.range 256).filterMap fun i =>
    let t := die * 256 + i
    let l := s.ltidOf t
    let e := s.role l
    if e.v && e.ptile.toNat == t then some (l, t) else none

/-- Contexts held for admitted packets (15 R298). -/
def State.heldCtx (s : State) (t : Nat) : Nat :=
  (s.dies.toList.flatMap (·.heads)).countP fun p => p.tile == some t

def Tile.freeCtxs (t : Tile) : List (Fin 8) := (List.finRange 8).filter fun c => t.ctx[c].st == .free

/-- Free contexts that are not held. -/
def State.openCtx (s : State) (t : Nat) : Nat := (s.tileAt t).freeCtxs.length - s.heldCtx t

/-- Work is placed on compute tiles that are bound or wanted (11 R238). -/
def RoleEntry.takesWork (e : RoleEntry) : Bool := e.v && e.role == 0 && decide (e.cstate.toNat ≤ 1)

/-- The best tile of an owner: most contexts free and not held, then the lowest LTID. -/
def State.bestTile (s : State) (die : Nat) (owner : Wsid) : Option Nat :=
  ((s.dieTiles die).foldl (fun (best : Option (Nat × Nat × Nat)) p =>
    let e := s.role p.1
    let n := s.openCtx p.2
    if e.takesWork && e.owner == owner && n != 0 then
      match best with
      | none => some (n, p.1, p.2)
      | some b => if b.1 < n || (b.1 == n && decide (p.1 < b.2.1)) then some (n, p.1, p.2) else best
    else best) none).map (·.2.2)

def State.pickTile (s : State) (die : Nat) (ws : Wsid) : Option Nat := s.bestTile die ws <|> s.bestTile die 0xFFF

/-! ## The head of a queue (15 R281, R278, R301) -/

def State.setQHead (s : State) (ws q v : Nat) : State := s.vput ws q 4 (v % 2 ^ 32)

/-- Packets still in cells discarded. -/
def State.qDrop (s : State) (ws q : Nat) (n : Nat) : State :=
  match s.vnat ws (q + 20) 2 with
  | some v => (s.vput ws (q + 20) 2 (min (v + n) 65535)).vput ws (q + 22) 1 3
  | none => s

/-- The places in the order of arrivals of a queue's packets in some cells forgotten on every die. -/
def State.dropArrivals (s : State) (ws q : Nat) (p : Nat → Bool) : State :=
  let k : Word × Wsid := (BitVec.ofNat 64 q, BitVec.ofNat 12 ws)
  { s with dies := s.dies.map fun d => { d with arrivals := d.arrivals.filter fun a => !(a.1 == k && p a.2.1) } }

/-- The head of a queue past the packet of a cell. -/
def State.passCell (s : State) (ws q cell : Nat) : State := (s.setQHead ws q (cell + 1)).dropArrivals ws q (· == cell)

/-- A packet as a queue's head cell gives it. -/
structure Head where
  bytes : List Byte
  cell : Nat
  qws : Nat
  deriving DecidableEq, Repr

/-- The packet of a cell; none where its read faults or brings poison. -/
def State.cellPacket (s : State) (ws a : Nat) : Option (List Byte) :=
  match s.vread ws a 32 with
  | .ok (b, false) =>
    match s.vread ws a (pkBytes (leNat (b.take 16))) with
    | .ok (p, false) => some p
    | _ => none
  | _ => none

/-- The packet at the head of a queue after what the read discards: a closed or broken queue is emptied, a cell whose read
faults breaks the queue, a packet of R278 is rejected. `fuel` bounds the cells. -/
def State.queueHead (s : State) (ws q : Nat) : Nat → State × Option Head
  | 0 => (s, none)
  | fuel + 1 =>
    match s.qHead ws q with
    | none => (s, none)
    | some h =>
      if h.head = h.tail then (s, none)
      else if h.bad || h.state != 0 then (((s.qDrop ws q (qCount h)).setQHead ws q h.tail).dropArrivals ws q fun _ => true, none)
      else
        let cell := q + 64 + 256 * (h.head % 2 ^ h.log2n)
        match s.cellPacket ws cell with
        | none => ((((s.vsee ws cell 32).qDiscard ws q 18 2).passCell ws q h.head).setQState ws q 2).queueHead ws q fuel
        | some p =>
          let s := s.vsee ws cell (pkBytes (pktHead p))
          if s.pktBad p h.ws || !s.wsValid (pkWsid (pktHead p)) then
            ((s.qDiscard ws q 16 1).passCell ws q h.head).queueHead ws q fuel
          else (s, some { bytes := p, cell := h.head, qws := h.ws })

/-- The order in which a cell's packet arrived; one that software placed came first. -/
def Die.arrival (d : Die) (q : Word × Wsid) (cell : Nat) : Nat :=
  ((d.arrivals.find? fun a => a.1 == q && a.2.1 == cell).map (·.2.2)).getD 0

/-- A packet taken from its queue. -/
def State.takeHead (s : State) (q : Word) (ws : Wsid) (h : Head) : State := s.passCell ws.toNat q.toNat h.cell

/-! ## The group condition of KIND 3 (19 R329) -/

/-- The group whose descriptor a model step's payload names has a step open. -/
def State.stepOpen (s : State) (ws : Nat) (p : List Byte) : Bool :=
  match s.xlate ws (leNat ((pkPayload p (pktHead p)).take 8)) false with
  | .ok pa => s.groups.any fun g => g.pa == pa && g.opn
  | .error _ => false

/-! ## Placing strands (15 R281, R282, 06 R132) -/

/-- The record that a packet's handler serves: that of a trap packet which its queue took as fault queue (05 R109). -/
def State.handlerOf (s : State) (queue : Word) (p : List Byte) : Word :=
  let h := pktHead p
  let rec' := leNat (((pkPayload p h).drop 32).take 8)
  if pkKind h == 0 && pkP h == 48 && sget (recKey (BitVec.ofNat 12 (pkWsid h)) (BitVec.ofNat 64 rec')) s.faulted == some queue then BitVec.ofNat 64 rec' else 0

/-- A strand of a packet placed in a free context: its record, its entry in the strand table, the argument area. -/
def State.placeStrand (s : State) (t : Nat) (c : Fin 8) (p : List Byte) (queue : Word) (unstaged : Bool) (livein : Nat)
    (inl : List Nat) (work : Work) (succ : List Word) (die reserve : Nat) : State :=
  let h := pktHead p
  let b := newRecordBytes h unstaged (pkKind h == 2) livein 0 inl
  let (s1, rec) := s.newRecord b
  let e : Strand := { queue := queue, ws := BitVec.ofNat 12 (pkWsid h), succ := succ, work := work, tile := t, disp := s1.fresh + 1, die := die, reserve := reserve }
  let trec := s1.handlerOf queue p
  let s2 := { s1 with fresh := s1.fresh + 1, strands := sset (recKey e.ws rec) e s1.strands,
                      faulted := if trec = 0 then s1.faulted else sdel (recKey e.ws trec) s1.faulted }
  let T := s2.tileAt t
  let k := Context.ofRecord T.ctx[c].inc rec (chop 8 8 b)
  let T1 := T.putArgs (pkPayload p h)
  (s2.setTile t { T1 with ctx := T1.ctx.set c { k with trec := trec, claim := true } }).selfInvalidate t

/-- Inline values of a plain, model-step or range packet. -/
def packetInline (p : List Byte) : Nat × List Nat :=
  let h := pktHead p
  let b := pkPayload p h
  if pkKind h = 1 then (7, [(pkP h).toNat, leNat (b.take 8), leNat ((b.drop 8).take 8)]) else (1, [(pkP h).toNat])

def packetSucc (p : List Byte) : List Word := (List.range (pkNsucc (pktHead p))).map (pkSucc p (pktHead p))

/-- A plain, model-step or range packet placed on a tile. -/
def State.placePacket (s : State) (t : Nat) (p : List Byte) (queue : Word) (unstaged : Bool) (die reserve : Nat) : Option State :=
  let h := pktHead p
  let b := pkPayload p h
  if (s.tileAt t).argClaimed then none
  else match (s.tileAt t).freeCtxs with
    | [] => none
    | c :: _ =>
      let (livein, inl) := packetInline p
      let work : Work := if pkKind h = 1 then .range (BitVec.ofNat 64 (leNat (b.take 8))) (leNat ((b.drop 8).take 8)) else .plain
      some (s.placeStrand t c p queue unstaged livein inl work (if pkKind h = 1 then [] else packetSucc p) die reserve)

/-! ### Gangs (15 R290, R291) -/

/-- A domain's channel and members; none for an invalid entry, but for the rule of one die. -/
def State.domainOf (s : State) (ws d : Nat) : Option (Nat × List Nat) :=
  let base := (s.wsWord ws wDTBASE).toNat
  if base = 0 then none
  else match s.vnat ws (base + 1024 * d) 528 with
    | none => none
    | some e =>
      let map := e / 2 ^ 128
      let ms := (List.range 4096).filter fun i => map / 2 ^ i % 2 == 1
      if nbit e 3 1 = 0 || nbit e 4 124 != 0 || ms.isEmpty then none else some (nbit e 0 3, ms)

/-- What the read of a domain's entry does at the slices. -/
def State.seeDomain (s : State) (ws d : Nat) : State :=
  let base := (s.wsWord ws wDTBASE).toNat
  if base = 0 then s else s.vsee ws (base + 1024 * d) 528

/-- What the domain of a gang packet allows; channel 7 takes no launch in reduced service (21 R354). -/
inductive GangPlan
  | reject
  | hold
  | place (ch : Nat) (home : Nat) (tiles : List Nat)
  deriving DecidableEq, Repr

def State.gangPlan (s : State) (p : List Byte) : GangPlan :=
  let h := pktHead p
  match s.domainOf (pkWsid h) (pkDomain h) with
  | none => .reject
  | some (ch, ms) =>
    let es := ms.map s.role
    let tiles := es.map (·.ptile.toNat)
    let dies := (((es.zip tiles).filter (·.1.v)).map (·.2 / 256)).dedup
    if (ch != 7 && decide (1 < dies.length)) || (ch == 7 && !s.fullService) then .reject
    else if !es.all (fun e => e.v && e.role == 0 && e.cstate == 0) then .hold
    else if tiles.any (fun t => s.openCtx t == 0 || (s.tileAt t).argClaimed) then .hold
    else if (List.range 4).any (fun d => (s.die d).gangs.any fun g =>
        g.ch.toNat == ch && !(g.ws.toNat == pkWsid h && g.domain.toNat == pkDomain h) && g.members.any fun t => dies.contains (t / 256)) then .hold
    else .place ch (if ch = 7 then 0 else dies.headD 0) tiles

/-- One strand on each member's tile, in rank order; a channel that no gang uses starts afresh. -/
def State.placeGang (s : State) (p : List Byte) (queue : Word) (unstaged : Bool) (ch home : Nat) (tiles : List Nat)
    (die reserve : Nat) : State :=
  let h := pktHead p
  let id := s.fresh
  let g : Gang := { id := id, ws := BitVec.ofNat 12 (pkWsid h), domain := BitVec.ofNat 8 (pkDomain h), ch := BitVec.ofNat 3 ch,
                    members := tiles, live := tiles.length, failed := false, succ := packetSucc p }
  let d := s.die home
  let used := d.gangs.any fun g => g.ch.toNat == ch
  let s1 := ({ s with fresh := s.fresh + 1 }).setDie home { d with
    gangs := d.gangs ++ [g], chans := if used then d.chans else d.chans.setIfInBounds ch .reset }
  (tiles.zip (List.range tiles.length)).foldl (fun s m =>
    match (s.tileAt m.1).freeCtxs with
    | [] => s
    | c :: _ =>
      let s2 := s.placeStrand m.1 c p queue unstaged 7 [(pkP h).toNat, m.2, tiles.length] (.gang home id) []
        die (if m.2 = 0 then reserve else 0)
      let T := s2.tileAt m.1
      s2.setTile m.1 (if used then { T with dommem := T.dommem ||| (1#8 <<< ch) } else { T with
        dommem := T.dommem ||| (1#8 <<< ch), arrived := T.arrived &&& ~~~(1#8 <<< ch)
        xwin := T.xwin.filter fun w => w.ch.toNat != ch })) s1

/-- A packet dispatched, if it can be: the new state; a gang packet of an invalid domain is taken and counted, and what was
reserved for it is released (15 R290, R297). A packet whose tile was chosen at its admission waits while that tile takes no
work (11 R233, R238). -/
def State.dispatchPacket (s : State) (die : Nat) (p : List Byte) (queue : Word) (ws : Wsid) (unstaged : Bool) (tile : Option Nat)
    (reserve : Nat) : Option State :=
  let h := pktHead p
  if pkKind h = 2 then
    let seen := s.seeDomain (pkWsid h) (pkDomain h)
    match s.gangPlan p with
    | .reject => some ((seen.setDie die { s.die die with use := (s.die die).use - reserve }).qDiscard ws.toNat queue.toNat 16 1)
    | .hold => none
    | .place ch home tiles => some (seen.placeGang p queue unstaged ch home tiles die reserve)
  else if pkKind h = 3 && !s.stepOpen (pkWsid h) p then none
  else match (match tile with
      | some t => if (s.role (s.ltidOf t)).takesWork then some t else none
      | none => s.pickTile die (BitVec.ofNat 12 (pkWsid h))) with
    | none => none
    | some t => s.placePacket t p queue unstaged die reserve

/-! ### Records (01 R11, R12, R19) -/

/-- A record that fails its checks goes to the fault queue; no context changes (01 R11, 05 R110). A handler strand's ends
the handler and the strand it serves instead (05 R114). -/
def State.badRecord (s : State) (t : Nat) (r : Resumable) : State :=
  if s.savedTrec r.ws.toNat r.record != 0 then s.killRecord t { Src.none with tile := t, ws := r.ws } r.record
  else
  let (s1, sent) := s.sendTrap r.ws (trapRecord trBAD_RECORD 0 false (s.ltidOf t) 0 0 0 r.record r.queue)
  if sent then { s1 with faulted := sset (recKey r.ws r.record) (s1.wsWord r.ws.toNat wFQ) s1.faulted }
  else s1.killRecord t { Src.none with tile := t, ws := r.ws } r.record |>.faultRecord r.ws.toNat frTERMINATED (s.ltidOf t) 0 r.record.toNat

/-- A gang member placed on another tile: its membership goes there, with ARRIVED and the last release of the channel, unless
the tile has a member of its own (15 R290, log 41). -/
def State.moveMember (s : State) (t old die id : Nat) : State :=
  match (s.die die).gangs.find? (·.id == id) with
  | none => s
  | some g =>
    let bit := 1#8 <<< g.ch.toNat
    let stays := s.otherMember old g.ch
    let A := s.tileAt old
    let arr := A.arrived.getLsbD g.ch.toNat
    let s1 := if stays then s else s.setTile old { A with dommem := A.dommem &&& ~~~bit, arrived := A.arrived &&& ~~~bit }
    let B := s1.tileAt t
    let s2 := if B.dommem.getLsbD g.ch.toNat then s1 else s1.setTile t { B with
      dommem := B.dommem ||| bit, arrived := if arr then B.arrived ||| bit else B.arrived &&& ~~~bit
      release := B.release.set g.ch.toNat (A.release[g.ch.toNat]'g.ch.isLt) g.ch.isLt }
    let d := s2.die die
    let move (c : Channel) : Channel := if arr && !stays then { c with arrived := nsAdd t (nsDel old c.arrived) } else c
    s2.setDie die { d with
      gangs := d.gangs.map fun h => if h.id == id then { h with members := h.members.map fun m => if m == old then t else m } else h
      chans := d.chans.setIfInBounds g.ch.toNat (move (d.chans[g.ch.toNat]'g.ch.isLt)) }

/-- The strand table told where a record's strand is placed (15 R289, R290), and with which workspace its record came back. -/
def State.placedAt (s : State) (t : Nat) (ws now : Wsid) (rec : Word) : State :=
  match s.strand ws rec with
  | none => s
  | some e =>
    let s1 := { s with
      fresh := s.fresh + 1
      strands := sset (recKey now rec) { e with tile := t, disp := if e.disp = 0 then s.fresh + 1 else e.disp } (sdel (recKey ws rec) s.strands) }
    match e.work with
    | .gang die id => if e.tile = t then s1 else s1.moveMember t e.tile die id
    | _ => s1

/-- A record picked up by context `c` of tile `t`: the frame goes back, the argument block is claimed, the panels are
restored, the L1 self-invalidates. None while the argument area is claimed and the record brings a block. -/
def State.pickup (s : State) (t : Nat) (c : Fin 8) (r : Resumable) : Option State :=
  let T := s.tileAt t
  let seen := s.seeRecord r.ws r.record
  match s.readRecord r.ws T.ctx[c].inc r.record with
  | none => some (seen.badRecord t r)
  | some v =>
    if !v.arg.isEmpty && T.argClaimed then none
    else
      let T1 := (if v.arg.isEmpty then T else T.restoreArgs v.arg v.argBad).restorePanels v.panels
      let s1 := seen.setTile t { T1 with ctx := T1.ctx.set c { v.k with claim := !v.arg.isEmpty } }
      let s2 := if v.frame = 0 then s1 else s1.freeFrame (s1.ltidOf t) r.ws.toNat v.frame
      some ((s2.placedAt t r.ws v.k.wsid r.record).selfInvalidate t)

/-! ### The choice (15 R281) -/

/-- What a die's scheduler may choose. -/
inductive Work1
  | record (n : Nat)
  | queued (q : Word) (ws : Wsid) (h : Head)
  | kept (n : Nat)
  deriving DecidableEq, Repr

/-- A candidate with its priority, whether it is a packet, and its arrival. -/
structure Candidate where
  prio : Nat
  packet : Bool
  arr : Nat
  work : Work1
  deriving DecidableEq, Repr

def Candidate.before (a b : Candidate) : Bool :=
  decide (b.prio < a.prio) || (a.prio == b.prio && ((!a.packet && b.packet) || (a.packet == b.packet && decide (a.arr ≤ b.arr))))

def cellFuel : Nat := 65537

/-- The queues that a die serves: those known on some die whose AFF names it now, the first 256. -/
def State.served (s : State) (die : Nat) : List (Word × Wsid) :=
  (((s.dies.toList.flatMap (·.queues)).dedup.filter fun q => match s.qHead q.2.toNat q.1.toNat with
    | some h => (s.qDies q.2.toNat q.1.toNat h).contains die
    | none => false).take 256)

/-- The heads of the queues that a die serves, after what their reads discard. -/
def State.headsOf (s : State) (die : Nat) : State × List Candidate :=
  (s.served die).foldl (fun (acc : State × List Candidate) q =>
    match acc.1.queueHead q.2.toNat q.1.toNat cellFuel with
      | (s1, none) => (s1, acc.2)
      | (s1, some h) =>
        (s1, acc.2 ++ [{ prio := pkPrio (pktHead h.bytes), packet := true, arr := (s1.die die).arrival q h.cell, work := .queued q.1 q.2 h }])) (s, [])

/-- The record is that of a member of a gang that has failed: it is placed no more (15 R296). -/
def State.ofFailedGang (s : State) (r : Resumable) : Bool :=
  match (s.strand r.ws r.record).map Strand.work with
  | some (.gang die id) => (s.die die).gangs.any fun g => g.id == id && g.failed
  | _ => false

/-- Every candidate of a die in the order of choice; none after a thermal shutdown (21 R357). -/
def State.choices (s : State) (die : Nat) : State × List Candidate :=
  let (s1, heads) := s.headsOf die
  let d := s1.die die
  let recs := ((List.range d.resume.length).zip d.resume).filterMap fun r =>
    if s1.wsValid r.2.ws.toNat && !s1.ofFailedGang r.2 then some ({ prio := r.2.prio.toNat, packet := false, arr := r.1, work := .record r.1 } : Candidate) else none
  let kept := ((List.range d.heads.length).zip d.heads).filterMap fun p =>
    if p.2.released && s1.wsValid p.2.ws.toNat then
      some ({ prio := pkPrio (pktHead p.2.bytes), packet := true, arr := p.2.arr, work := .kept p.1 } : Candidate) else none
  let plain := heads.filter fun c => match c.work with
    | .queued _ _ h => pkWsp (pktHead h.bytes) == 0
    | _ => true
  (s1, if s.powered then (recs ++ plain ++ kept).mergeSort Candidate.before else [])

/-- One candidate placed, if it can be. -/
def State.tryPlace (s : State) (die : Nat) (c : Candidate) : Option State :=
  match c.work with
  | .record n =>
    match (s.die die).resume[n]? with
    | none => none
    | some r =>
      match s.pickTile die r.ws with
      | none => none
      | some t =>
        match (s.tileAt t).freeCtxs with
        | [] => none
        | k :: _ => (s.setDie die { s.die die with resume := (s.die die).resume.eraseIdx n }).pickup t k r
  | .queued q ws h =>
    let s1 := s.takeHead q ws h
    s1.dispatchPacket die h.bytes q ws false none 0
  | .kept n =>
    match (s.die die).heads[n]? with
    | none => none
    | some p =>
      let s1 := s.setDie die { s.die die with heads := (s.die die).heads.eraseIdx n }
      s1.dispatchPacket die p.bytes p.queue p.ws p.unstaged p.tile (if p.admitted then p.total else 0)

/-- DISPATCH: the first candidate that can be placed. -/
def State.doDispatch (s : State) (die : Nat) : State :=
  let (s1, cs) := s.choices die
  (cs.findSome? fun c => s1.tryPlace die c).getD s1

def execDispatch (die : Fin 4) (s : State) : Out := .next (s.doDispatch die.val)

/-- RECORD_PICKUP: the record that the scheduler chooses goes to context `c` of tile `t`. -/
def State.doPickup (s : State) (t : Nat) (c : Fin 8) : State :=
  let die := t / 256
  let (s1, cs) := s.choices die
  match cs.find? fun k => !k.packet with
  | some k =>
    match k.work with
    | .record n =>
      match (s1.die die).resume[n]? with
      | some r =>
        if s1.pickTile die r.ws == some t && (s1.tileAt t).freeCtxs.head? == some c then
          ((s1.setDie die { s1.die die with resume := (s1.die die).resume.eraseIdx n }).pickup t c r).getD s1
        else s1
      | none => s1
    | _ => s1
  | none => s1

def execRecordPickup (tile : Nat) (c : Fin 8) (s : State) : Out := .next (s.doPickup tile c)

/-! ## Splits by the scheduler (15 R289) -/

/-- The running range strand of highest PRIO, the earliest dispatched on a tie: its record's address and its entry. -/
def State.splitCandidate (s : State) (die : Nat) : Option (Nat × Strand) :=
  let ks := (s.dieTiles die).flatMap fun p => (s.tileAt p.2).ctx.toList.filter fun k => k.st != .free
  ((ks.foldl (fun (best : Option (Nat × Nat × Strand)) k =>
    match s.strand k.wsid k.recAddr with
    | some e => match e.work with
      | .range .. => match best with
        | none => some (k.prio.toNat, k.recAddr.toNat, e)
        | some b => if decide (b.1 < k.prio.toNat) || (b.1 == k.prio.toNat && decide (e.disp < b.2.2.disp)) then
            some (k.prio.toNat, k.recAddr.toNat, e) else best
      | _ => best
    | none => best) none).map (·.2))

/-- Something can be dispatched on a die. -/
def State.canPlace (s : State) (die : Nat) : Bool :=
  let c := s.choices die
  c.2.any fun x => (c.1.tryPlace die x).isSome

/-- A tile of the die has a free context and there is nothing to dispatch: a range word is halved. -/
def State.doSplit (s : State) (die : Nat) : State :=
  if !(s.dieTiles die).any (fun p => (s.role p.1).takesWork && s.openCtx p.2 != 0) || s.canPlace die then s
  else match s.splitCandidate die with
    | none => s
    | some (_, e) => match e.work with
      | .range a i => ((s.rangeSplit e.ws a i e.queue).map (·.1)).getD s
      | _ => s

def execSchedulerSplit (die : Fin 4) (s : State) : Out := .next (s.doSplit die.val)

/-! ## The headgate (15 R297, R298) -/

/-- BGT: L2RES in MiB and 1.5 MiB for each tile in the store role. -/
def State.budget (s : State) (die : Nat) : Nat :=
  min (s.die die).l2res.toNat 128 * 2 ^ 20 + (s.dieTiles die).countP (fun p => (s.role p.1).role == 1) * 0x180000

/-- The bytes of a working-set entry's tensor entry, as the headgate reads them: none where D is 0 (15 R277). -/
def State.weBytes (s : State) (ws e : Nat) : List Byte :=
  if s.weSize ws e = 0 then []
  else match s.vread ws ((s.wsWord ws wTTBASE).toNat + 128 * weTid e) 128 with
    | .ok (b, _) => b
    | .error _ => []

/-- A packet that reaches the headgate, with its tensor entries as they stand: an entry whose size is 0 stages and reserves
nothing, and makes the packet one that is released unstaged (15 R277). -/
def State.headPacket (s : State) (q : Word) (p : List Byte) (arr : Nat) : HeadPkt :=
  let h := pktHead p
  let es := (List.range (pkEntries h)).map (pkEntry p)
  let sizes := es.map fun e => (weTgt e, s.weSize (pkWsid h) e)
  let none' := sizes.any fun z => z.2 == 0
  { id := s.fresh, queue := q, ws := BitVec.ofNat 12 (pkWsid h), arr := arr, bytes := p, ents := es.map (s.weBytes (pkWsid h)), since := s.tick,
    total := ((sizes.filter (·.1 != 1)).map (·.2)).foldl (· + ·) 0, refused := false,
    admitted := false, released := false, unstaged := none', tile := none, todo := [], running := 0 }

/-- What the reads of a packet's tensor entries do at the slices. -/
def State.seeEntries (s : State) (p : List Byte) : State :=
  let h := pktHead p
  let base := (s.wsWord (pkWsid h) wTTBASE).toNat
  if base = 0 then s
  else (List.range (pkEntries h)).foldl (fun s i => s.vsee (pkWsid h) (base + 128 * weTid (pkEntry p i)) 128) s

/-- Packets with a working set that a headgate keeps (15 R298); a model step that waits for its group takes no such place. -/
def headSlots : Nat := 1024
def HeadPkt.declares (p : HeadPkt) : Bool := pkWsp (pktHead p.bytes) == 1

/-- The tensor entry of working-set entry `i`, as the headgate read it; none for an entry of size 0. -/
def HeadPkt.ent (p : HeadPkt) (i : Nat) : Option TEnt :=
  match p.ents.getD i [] with
  | [] => none
  | b => some (entOf b)

/-- D of working-set entry `i`. -/
def HeadPkt.size (p : HeadPkt) (i : Nat) : Nat :=
  match p.ent i with
  | none => 0
  | some t => t.declaredSize (weCount (pkEntry p.bytes i))

/-- Packets with a working set, and model steps whose group has no step open, leave their queues for the headgate. -/
def State.gather (s : State) (die : Nat) : State :=
  let (s1, cs) := s.headsOf die
  cs.foldl (fun s c => match c.work with
    | .queued q ws h =>
      let hd := pktHead h.bytes
      let d := s.die die
      if pkWsp hd = 1 && d.heads.countP HeadPkt.declares < headSlots then
        let p := s.headPacket q h.bytes c.arr
        let s1 := s.seeEntries h.bytes
        let s2 := { s1.takeHead q ws h with fresh := s1.fresh + 1 }
        s2.setDie die { s2.die die with heads := (s2.die die).heads ++ [p] }
      else if pkWsp hd = 0 && pkKind hd = 3 && !s.stepOpen (pkWsid hd) h.bytes then
        let p : HeadPkt := { s.headPacket q h.bytes c.arr with released := true }
        let s2 := { s.takeHead q ws h with fresh := s.fresh + 1 }
        s2.setDie die { s2.die die with heads := (s2.die die).heads ++ [p] }
      else s
    | _ => s) s1

/-- The bytes of the elements that an entry declares and that are InView, and of their scales. -/
def State.declared (s : State) (ws e : Nat) (t : TEnt) : List Nat :=
  if t.colsT = 0 then []
  else
    let at' (i : Nat) : Nat × Nat := ((weFirst e + i) / t.colsT, (weFirst e + i) % t.colsT)
    (List.range (weCount e)).flatMap (fun i => match s.coords ws t (at' i).1 (at' i).2 with
      | some c => [t.bitAddr c / 8, (t.bitAddr c + t.f.bits - 1) / 8]
      | none => [])
    ++ (match t.f.block with
      | none => []
      | some b => (List.range ((weCount e + b - 1) / b)).filterMap fun j =>
          (s.blockCoords ws t (at' (j * b)).1 ((at' (j * b)).2 / b * b) b).map t.scaleAddr)

/-- Base hops between tiles of a die (11 R221). -/
def hopsIn (a b : Nat) : Nat :=
  let d (x y : Nat) : Nat := (x - y) + (y - x)
  d (a % 16) (b % 16) + d (a / 16 % 16) (b / 16 % 16)

/-- The tile that runs the part of a cluster: its compute-role tile nearest its tile at local (0, 0), else the die's
(15 R298). -/
def State.clusterTile (s : State) (cl : Nat) : Nat :=
  let die := cl / 16
  let c := cl % 16
  let o := die * 256 + (c / 4 * 4) * 16 + c % 4 * 4
  let compute (t : Nat) : Bool := let e := s.role (s.ltidOf t); e.v && e.role == 0 && e.ptile.toNat == t
  let nearest (ts : List Nat) : Option Nat :=
    ((ts.filter compute).foldl (fun (b : Option (Nat × Nat)) t => match b with
      | none => some (hopsIn o t, t)
      | some x => if hopsIn o t < x.1 then some (hopsIn o t, t) else b) none).map (·.2)
  ((nearest ((List.range 16).map fun i => o + i / 4 * 16 + i % 4)) <|> nearest ((List.range 256).map (die * 256 + ·))).getD o

/-- The store tile behind a staging-pool offset: region 0's page there (15 R277, R298). -/
def State.poolTile (s : State) (ws toff : Nat) : Nat :=
  match s.rgnOf ws 0 with
  | none => 0
  | some r =>
    match s.winPlace r toff with
    | .slot t _ => t
    | _ => (s.role r.nltid).ptile.toNat

/-- The staging copies of a packet; a target 0 entry is divided by home cluster. -/
def State.stageCopies (s : State) (p : HeadPkt) : List StageCopy :=
  let h := pktHead p.bytes
  let ws := p.ws.toNat
  (List.range (pkEntries h)).flatMap fun i =>
    let e := pkEntry p.bytes i
    match p.ent i with
    | none => []
    | some t => match weTgt e with
    | 1 => [{ tgt := 1, tile := p.tile.getD 0, entry := i, cluster := 0 }]
    | 2 => [{ tgt := 2, tile := s.poolTile ws (weToff e), entry := i, cluster := 0 }]
    | _ =>
      let lines := ((s.declared ws e t).map (· / 128)).dedup
      let cls := (lines.filterMap fun l => s.homeCluster ws (128 * l)).dedup
      (if cls.isEmpty then [0] else cls).map fun c => { tgt := 0, tile := s.clusterTile c, entry := i, cluster := c }

/-- The headgate stops at a packet: its bytes are refused (15 R298). -/
def State.stopAt (s : State) (die : Nat) (p : HeadPkt) : State :=
  let d := s.die die
  if p.refused then s
  else s.setDie die { d with refused := d.refused + p.total, heads := d.heads.map fun h => if h.id == p.id then { h with refused := true } else h }

/-- The admission walk: packets in order until one must stop. -/
def State.letIn (s : State) (die : Nat) : List HeadPkt → State
  | [] => s
  | p :: r =>
    let d := s.die die
    if s.budget die < d.use + p.total then s.stopAt die p
    else
      let needs := (List.range (pkEntries (pktHead p.bytes))).any fun i => weTgt (pkEntry p.bytes i) == 1
      let tile := if needs then s.pickTile die p.ws else none
      if needs && tile.isNone then s.stopAt die p
      else
        let p1 := { p with admitted := true, tile := tile }
        let p2 := { p1 with todo := s.stageCopies p1 }
        (s.setDie die { d with use := d.use + p.total, heads := d.heads.map fun h => if h.id == p.id then p2 else h }).letIn die r

def headBefore (a b : HeadPkt) : Bool :=
  decide (pkPrio (pktHead b.bytes) < pkPrio (pktHead a.bytes)) || (pkPrio (pktHead a.bytes) == pkPrio (pktHead b.bytes) && decide (a.id ≤ b.id))

/-- A staging copy launched, if its tile has a free channel and two free lock entries. -/
def State.startStage (s : State) (p : HeadPkt) (c : StageCopy) : Option State :=
  let t := s.tileAt c.tile
  let ws := p.ws.toNat
  let e := pkEntry p.bytes c.entry
  match t.idleChan, p.ent c.entry with
  | some ch, some te =>
    if lockSlots < t.locks.length + 2 then none
    else
      let addrs := (s.declared ws e te).filter fun a => c.tgt != 0 || s.inPart ws a c.cluster
      let lo := addrs.foldl min (addrs.headD 0)
      let hi := addrs.foldl max 0
      let src := if addrs.isEmpty then (0, 0) else (lo, hi + 1)
      let dst := match c.tgt with
        | 1 => (tileBase + weToff e, tileBase + weToff e + p.size c.entry)
        | 2 => (winBase + weToff e, winBase + weToff e + p.size c.entry)
        | _ => src
      let xid := t.nextXid
      let k : Chan := {
        st := .running, xid := xid, status := t.chans[ch].status, done := 0, owner := { Src.none with tile := c.tile, ws := p.ws },
        srcA := BitVec.ofNat 64 (weFirst e), dstA := BitVec.ofNat 64 (if c.tgt = 0 then c.cluster else weToff e), len := weCount e, opt := BitVec.ofNat 64 c.tgt,
        srcE := p.ents.getD c.entry [], dstE := [], next := 0, inAir := 0, faddr := 0, postCmb := false, postQ3 := false, fenceE := 0, stop := 0,
        recast := false, stage := some p.id, half := [] }
      let t1 := ({ t with chans := t.chans.set ch k, nextXid := nextXid xid }.addLock ch false xid src.1 src.2).addLock ch true xid dst.1 dst.2
      some (s.setTile c.tile t1)
  | _, _ => none

/-- The waiting copies of a packet launched as far as they can be. -/
def State.startStages (s : State) (die : Nat) (p : HeadPkt) : State :=
  p.todo.foldl (fun s c => match s.startStage p c with
    | none => s
    | some s1 => s1.setDie die { s1.die die with heads := (s1.die die).heads.map fun h =>
        if h.id == p.id then { h with todo := h.todo.erase c, running := h.running + 1 } else h }) s

/-- Every copy of an admitted packet has completed. -/
def HeadPkt.staged (p : HeadPkt) : Bool := p.admitted && p.todo.isEmpty && p.running == 0

/-- A packet whose copies have all completed is released. -/
def HeadPkt.settle (p : HeadPkt) : HeadPkt :=
  if p.staged && !p.released then { p with released := true } else p

/-- The copies of a packet cancelled at their next boundary. -/
def State.cancelStage (s : State) (id : Nat) : State :=
  let cancel (c : Chan) : Chan := if c.stage == some id && c.st == .running then { c with st := .cancelling } else c
  { s with tiles := s.tiles.map fun (e : Nat × Tile) => (e.1, ({ e.2 with chans := e.2.chans.map cancel } : Tile)) }

/-- A queue that the headgate may still stage for: its header can be read and it is open (15 R300). -/
def State.queueOpen (s : State) (ws : Wsid) (q : Word) : Bool :=
  match s.qHead ws.toNat q.toNat with
  | some h => !h.bad && h.state == 0
  | none => false

/-- A packet whose queue has closed or broken: its copies stop and its reservation is released; it has left its cell, so
it is dispatched (15 R300, R301). -/
def State.closeHead (s : State) (die : Nat) (p : HeadPkt) : State :=
  let s1 := s.cancelStage p.id
  let d := s1.die die
  let p1 := { p with admitted := false, total := 0, todo := [], released := true, unstaged := p.unstaged || !p.released }
  s1.setDie die { d with
    use := if p.admitted then d.use - p.total else d.use
    heads := d.heads.map fun h => if h.id == p.id then p1 else h }

def State.closeHeads (s : State) (die : Nat) : State :=
  ((s.die die).heads.filter fun p => (!p.released || p.admitted) && !s.queueOpen p.ws p.queue).foldl (fun s p => s.closeHead die p) s

def State.doHeadgate (s : State) (die : Nat) : State :=
  if !s.powered then s else
  let s1 := (s.gather die).closeHeads die
  let bgt := s1.budget die
  let over' (p : HeadPkt) : HeadPkt :=
    if !p.admitted && !p.released && decide (bgt < p.total) then { p with released := true, unstaged := true } else p
  let s2 := s1.setDie die { s1.die die with heads := (s1.die die).heads.map over' }
  let s3 := s2.letIn die (((s2.die die).heads.filter fun p => !p.admitted && !p.released).mergeSort headBefore)
  let s4 := ((s3.die die).heads.filter fun p => !p.todo.isEmpty).foldl (fun s p => s.startStages die p) s3
  s4.setDie die { s4.die die with heads := (s4.die die).heads.map HeadPkt.settle }

def execHeadgateAdmission (die : Fin 4) (s : State) : Out := .next (s.doHeadgate die.val)

/-- The deadline of packet `n` of a headgate is past. -/
def State.stagingDue (s : State) (die n : Nat) : Bool :=
  (s.die die).heads[n]?.any fun p =>
    let sdl := pkSdl (pktHead p.bytes)
    !p.released && sdl != 0 && decide (p.since + sdl ≤ s.tick)

/-- The deadline of packet `n` passes: released, unstaged where its staging is incomplete. -/
def State.doStagingDeadline (s : State) (die n : Nat) : State :=
  if !s.stagingDue die n then s
  else match (s.die die).heads[n]? with
  | none => s
  | some p =>
    let p1 := { p with released := true, unstaged := p.unstaged || !p.staged, todo := [] }
    (s.setDie die { s.die die with heads := (s.die die).heads.set n p1 }).cancelStage p.id

def execStagingDeadline (die : Fin 4) (n : Nat) (s : State) : Out := .next (s.doStagingDeadline die.val n)

/-! ## Counters (15 R284) -/

def execCounterSignal (n : Nat) (s : State) : Out :=
  .next (match s.signals[n]? with
    | none => s
    | some g =>
      if n = 0 || !(s.signals.take n).any (fun h => h.counter == g.counter) then
        (({ s with signals := s.signals.eraseIdx n } : State).signal g.ltid g.ws g.counter).1
      else s)

/-- A fired counter's packet tried again, once a tick. -/
def State.doCounterRetry (s : State) (n : Nat) : State :=
  match s.cntRetry[n]? with
  | none => s
  | some r =>
    if s.tick ≤ r.since then s
    else
      let (s1, st) := s.enqueue r.ws r.queue r.packet
      if st = stFULL then { s1 with cntRetry := s1.cntRetry.set n { r with since := s1.tick } }
      else
        let s2 := { s1 with cntRetry := s1.cntRetry.eraseIdx n }
        if st = stOK then s2 else s2.faultRecord r.ws.toNat frSIGNAL r.ltid 0 r.addr.toNat

def execCounterEnqueueRetry (n : Nat) (s : State) : Out := .next (s.doCounterRetry n)

/-! ## Pre-emption (05 R105, R106) -/

/-- The save of a pre-emption: the region restarts with its live-ins (01 R21). A strand that waits at a SUSP or YIELD for a
frame restarts there, with the live-ins that the region beginning there has (05 R107). -/
def Context.preemptSave (k : Context) (cause : Nat) : Save :=
  if k.suspending then
    { pc := k.th.pc, rgnr := true, cause := cause, sets := k.live.union k.written, xst := !csrDefault k, arg := k.claim }
  else { pc := k.rgnpc, rgnr := true, cause := cause, sets := k.live, xst := !csrDefault k, arg := k.claim }

/-- What a pre-emption may have to save once the context's queued operations have completed: their flags, and what a copy
leaves in the copy CSRs, may make the extended state block due (log 69). -/
def Context.preemptNeed (k : Context) (cause : Nat) (busy : Bool) : Save :=
  { k.preemptSave cause with xst := (k.preemptSave cause).xst || busy }

/-- The engines of a context's tile still hold work of its strand that may write the strand's CSRs. -/
def Tile.mayFlag (t : Tile) (src : Src) : Bool := t.tensorBusy src || t.chans.any fun c => c.st != .idle && c.owner == src

/-- Issue of context `c` stopped between instructions. -/
def Tile.stopIssue (t : Tile) (c : Fin 8) (why : Byte) : Tile :=
  let k := t.ctx[c]
  let on := t.run == some c
  { t with
    ctx := t.ctx.set c { k with evict := some why, evictAt := none, st := if on then .ready else k.st }
    run := if on then none else t.run
    last := if on then c else t.last }

/-- The staging reservation of a strand released when it is pre-empted (15 R298). -/
def State.releaseOf (s : State) (ws : Wsid) (rec : Word) : State :=
  match s.strand ws rec with
  | none => s
  | some e => { s.release e with strands := sset (recKey ws rec) { e with reserve := 0 } s.strands }

/-- The strand of context `c` ended by a pre-emption that finds no frame at a deadline (05 R106). -/
def State.evictEnd (s : State) (t : Nat) (c : Fin 8) (why : Byte) : State :=
  (s.recordEnd t (s.cx t c).wsid why.toNat 0 0).endStrand t c .terminated

/-- A scheduler's pre-emption put off for a tick: the strand runs on, with nothing of it changed (05 R106). -/
def State.putOff (s : State) (t : Nat) (c : Fin 8) : State :=
  s.setCx t c { s.cx t c with evict := none, evictAt := some s.tick }

/-- The strand of context `c` saved and returned to its queue. -/
def State.evictStrand (s : State) (t : Nat) (c : Fin 8) (cause : Nat) (m : SaveMode) : State :=
  let k := s.cx t c
  match s.saveStrand t c (k.preemptSave cause) m with
  | (s1, .lack why) => if m = .scheduler then s1.putOff t c else s1.evictEnd t c why
  | (s1, .broken) => s1.evictEnd t c trSPILL_EMPTY
  | (s1, .done) =>
    (((s1.recordDrops t k.wsid k.th.outs).freeCx t c).releaseOf k.wsid k.recAddr).pushResume (s.returnQueue k.wsid k.recAddr) k.wsid k.recAddr k.prio

/-- The frame of a pre-emption that does not take place given back. -/
def State.dropFrame (s : State) (t : Nat) (c : Fin 8) : State :=
  match (s.cx t c).frame with
  | none => s
  | some f => (s.freeFrame (s.ltidOf t) (s.cx t c).wsid.toNat f).setCx t c { s.cx t c with frame := none }

/-- Issue of context `c` stopped with the frame that its pre-emption has taken. -/
def State.stopWith (s : State) (t : Nat) (c : Fin 8) (cause : Nat) (f : Option Nat) : State :=
  let s1 := s.setTile t ((s.tileAt t).stopIssue c (BitVec.ofNat 8 cause))
  s1.setCx t c { s1.cx t c with frame := f }

/-- Step 4 of R105, before issue stops: the frame taken for a save, and then issue stopped. Where there is none a scheduler's
pre-emption is put off for a tick and changes nothing else, and one at a deadline ends the strand (05 R106). -/
def State.beginPreempt (s : State) (t : Nat) (c : Fin 8) (cause : Nat) (m : SaveMode) : State :=
  let k := s.cx t c
  let sv := k.preemptNeed cause ((s.tileAt t).mayFlag (s.srcOf t c))
  if !sv.needsFrame then s.stopWith t c cause none
  else match s.takeFrame t k.wsid sv.size m with
    | (s1, .frame f) => s1.stopWith t c cause (some f)
    | (s1, .none why) =>
      match m with
      | .deadline => s1.evictEnd t c why
      | _ => s1.putOff t c

/-- The pre-emption at a deadline of the strand whose own instruction brings it about: the frame taken holds whatever that
instruction adds to the save; where there is none the strand ends once the instruction is complete. -/
def State.beginOwnPreempt (s : State) (t : Nat) (c : Fin 8) : State :=
  let k := s.cx t c
  let all : Save := { k.preemptNeed 2 true with sets := { (k.live.union k.written) with x := 0xFFFF_FFFE } }
  match s.takeFrame t k.wsid all.size .deadline with
  | (s1, .frame f) => s1.stopWith t c 2 (some f)
  | (s1, .none _) => s1.stopWith t c 2 none

/-- One try at a pre-emption: the frame is taken and issue stops; the tensor operations complete, stores are acknowledged,
then the save. An instruction that waits for its reply is discarded, and the reply is lost (19 R344, log 36). A trap on its way goes first and the pre-emption counts as done. -/
def State.preempt (s : State) (t : Nat) (c : Fin 8) (cause : Nat) (m : SaveMode) : State :=
  let k := s.cx t c
  match k.st with
  | .free => s
  | .waiting .trap => s
  | _ =>
    match k.pending with
    | some tr =>
      if k.st == .waiting .reply then s
      else
        let s1 := s.dropFrame t c
        ({ s1.setTile t ((s1.tileAt t).stopIssue c 0) with curTile := t, curAgent := .ctx c } : State).takeTrap (tr.atBoundary k.th.pc)
    | none =>
      if k.evict.isNone then s.beginPreempt t c cause m
      else
        let s1 := s.drainTensor t (s.srcOf t c) tensorSlots
        if (s1.tileAt t).tensorBusy (s1.srcOf t c) || s1.storesOut (s1.srcOf t c) then s1 else s1.evictStrand t c cause m

/-- PREEMPTION of the strand in context `c`, by the scheduler; one that was asked for at a deadline stays with its cause, and
after a thermal shutdown every one must come to its end (21 R357). -/
def execPreemption (tile : Nat) (c : Fin 8) (s : State) : Out :=
  .next (if (s.cx tile c).evict == some 2 then s.preempt tile c 2 .deadline
    else s.preempt tile c 1 (if s.powered then .scheduler else .deadline))

/-- TRAP_DELIVERY: a trap whose strand waited for results, stores or operations. -/
def State.doTrapDelivery (s : State) (t : Nat) (c : Fin 8) : State :=
  let k := s.cx t c
  match k.st, k.pending with
  | .waiting .trap, some tr => if s.quiet t c then (s.setCx t c { k with pending := none }).deliverTrap t c tr else s
  | _, _ => s

def execTrapDelivery (tile : Nat) (c : Fin 8) (s : State) : Out := .next (s.doTrapDelivery tile c)

/-- SUSPENSION_RETRY, once a tick (05 R107). -/
def execSuspensionRetry (tile : Nat) (c : Fin 8) (s : State) : Out :=
  .next (match (s.cx tile c).st with
    | .waiting .frame =>
      if (s.cx tile c).retryTick < s.tick then s.setCx tile c { s.cx tile c with st := .ready, retryTick := s.tick } else s
    | _ => s)

/-- FAULT_QUEUE_RETRY, once a tick: a queue that no longer takes the packet terminates the strand (05 R111). -/
def State.doFaultQueueRetry (s : State) (n : Nat) : State :=
  match s.fqRetry[n]? with
  | none => s
  | some r =>
    if s.tick ≤ r.since then s
    else
      let (s1, st) := s.enqueue r.ws r.queue r.packet
      if st = stFULL then { s1 with fqRetry := s1.fqRetry.set n { r with since := s1.tick } }
      else
        let s2 := { s1 with fqRetry := s1.fqRetry.eraseIdx n }
        if st = stOK then s2
        else
          let b := pkPayload r.packet (pktHead r.packet)
          let rec' := BitVec.ofNat 64 (leNat ((b.drop 32).take 8))
          let ltid := nbit (leNat (b.take 8)) 16 12
          let t := (s.role ltid).ptile.toNat
          let s3 := s2.faultRecord r.ws.toNat frTERMINATED ltid (leNat ((b.drop 24).take 8)) (leNat ((b.drop 16).take 8))
          s3.killRecord t { Src.none with tile := t, ws := r.ws } rec'

def execFaultQueueRetry (n : Nat) (s : State) : Out := .next (s.doFaultQueueRetry n)

/-! ## Switching (06 R121, R122) -/

/-- Contexts in the order of R121 after `c`. -/
def ctxOrder (c : Fin 8) : List (Fin 8) := (List.range 8).map fun i => ⟨(c.val + 1 + i) % 8, by omega⟩

def Context.canRun (k : Context) : Bool := k.st == .ready && k.evict.isNone

def State.doSwitch (s : State) (t : Nat) : State :=
  let T := s.tileAt t
  if T.run.isSome then s
  else match (ctxOrder T.last).find? fun c => T.ctx[c].canRun with
    | some c => s.setTile t { T with ctx := T.ctx.set c { T.ctx[c] with st := .running }, run := some c }
    | none => s

def execContextSwitch (tile : Nat) (s : State) : Out := .next (s.doSwitch tile)

/-- The count of the running context reaches its LIMIT: a forced switch where another is Ready (06 R122); it ends the
argument-area claim (06 R132). -/
def State.doRunlimit (s : State) (t : Nat) : State :=
  let T := s.tileAt t
  match T.run with
  | none => s
  | some c =>
    if T.ctx[c].runlimit = 0 || !(T.ctx.any Context.canRun) then s
    else s.setTile t { T with ctx := T.ctx.set c { T.ctx[c] with st := .ready, claim := false }, run := none, last := c }

def execRunlimitExpiry (tile : Nat) (s : State) : Out := .next (s.doRunlimit tile)

/-! ## Side cores (06 R125, R126) -/

/-- SIDE_IMAGE_LOADED: the image stands in the instruction store and the side core runs; or the read faulted and it
traps with what was copied (06 R125). -/
def State.doImage (s : State) (t : Nat) (sd : Side) : State :=
  let T := s.tileAt t
  let c := T.side sd
  if c.st != .loading then s
  else
    let len := loadLen c.goLen
    let id : EngId := { tile := t, who := whoOf t (if sd = .loader then 8 else 9), ws := c.wsid, locks := false }
    match s.engAll id needLoad (chunksOf c.goImg.toNat len) [] with
    | .stall s' => s'
    | .done ps fault s' =>
      let s1 := ps.foldl (fun s r => (s.engTouchAll id r).engNomem id r) s'
      let c1 := { c with imem := mwrite c.imem 0 (ps.flatMap (s1.engBytes id)) }
      let T := s1.tileAt t
      match fault with
      | none => s1.setTile t (T.setSide sd ({ c1 with loaded := len } : SideCore).begin)
      | some (code, a) => (s1.setTile t (T.setSide sd { c1 with th := { c.th with pc := 0 } })).sideTrap t sd code (BitVec.ofNat 64 a)

def execSideImageLoaded (tile : Nat) (sd : Side) (s : State) : Out := .next (s.doImage tile sd)

/-- SIDE_CORE_TRAP at an instruction boundary: a trap that waits for it (10 R214). -/
def State.doSideTrap (s : State) (t : Nat) (sd : Side) : State :=
  let c := (s.tileAt t).side sd
  match c.st, c.pending with
  | .running, some tr => s.sideTrap t sd tr.code tr.taddr
  | _, _ => s

def execSideCoreTrap (tile : Nat) (sd : Side) (s : State) : Out := .next (s.doSideTrap tile sd)

end Sys2Proof.Machine
end

