-- ==== Sys2Proof/Machine/Census.lean ====
section
/-! DEFINITION. The census's notices and the moves they lead to (11 R227, R229 to R231, R247), furrows as the census sees them
(10 R218), leases (11 R232), the role instructions (11 R242 to R246). -/

namespace Sys2Proof.Machine

/-! ## CENSUS_CTL and times (11 R224, R227) -/

def Die.nint (d : Die) : Nat := nbit d.ctl.toNat 0 8
def Die.maxrc (d : Die) : Nat := min (nbit d.ctl.toNat 8 4) 8
def Die.censusOn (d : Die) : Bool := d.ctl.getLsbD 12

def State.tick32 (s : State) : BitVec 32 := BitVec.ofNat 32 s.tick

/-- A tick value of the role map is past: the signed difference of the low halves is zero or negative. -/
def State.isPast (s : State) (x : BitVec 32) : Bool := decide ((x - s.tick32).toInt ≤ 0)

/-! ## Open furrows -/

/-- An open furrow: its number, its workspace and its ends. -/
structure Furrow where
  fid : Nat
  ws : Wsid
  src : Nat
  srcEp : Fin 4
  sink : Nat
  sinkEp : BitVec 2
  deriving DecidableEq, Repr

def State.furrows (s : State) : List Furrow :=
  s.tiles.flatMap fun e => (List.finRange 4).filterMap fun ep =>
    match e.2.fsrc[ep] with
    | some f => if f.severed || f.closed then none
        else some { fid := f.fid, ws := f.ws, src := e.1, srcEp := ep, sink := f.sinkTile, sinkEp := f.sinkEp }
    | none => none

/-- Open furrows whose route crosses a tile. -/
def State.furrowsThrough (s : State) (t : Nat) : List Furrow := s.furrows.filter fun f => (s.visited f.src f.sink).contains t

/-- Whether an open furrow runs through a routing tile. -/
def State.furrowHeld (s : State) (e : RoleEntry) : Bool := e.role == 2 && !(s.furrowsThrough e.ptile.toNat).isEmpty

/-- A datum of a furrow that has not left a tile: in its buffers, or upstream (11 R237). -/
def Flight.behind (fid t : Nat) (f : Flight) : Bool := f.ofFurrow fid && f.worm?.any fun w => w.path.contains t

def FSource.sever (n : Nat) (x : FSource) : FSource := { x with severed := true, accepted := x.accepted + n }
def FSink.sever (fid : Nat) (x : FSink) : FSink := if x.fid = fid then { x with severed := true } else x

def Tile.severSource (t : Tile) (ep : Fin 4) (n : Nat) : Tile := { t with fsrc := t.fsrc.set ep (t.fsrc[ep].map (FSource.sever n)) }
def Tile.severSink (t : Tile) (ep : BitVec 2) (fid : Nat) : Tile :=
  { t with fsink := t.fsink.set ep.toNat ((t.fsink[ep.toNat]'ep.isLt).map (FSink.sever fid)) ep.isLt }

/-- A furrow severed at the output of a tile: what has left the tile is still accepted, what is in it or behind it is
discarded, both ends are marked (10 R218, 11 R237). -/
def State.sever (s : State) (f : Furrow) (t : Nat) : State :=
  let s1 := { s with flights := s.flights.filter fun x => !x.behind f.fid t }
  let s2 := s1.setTile f.src ((s1.tileAt f.src).severSource f.srcEp (s1.flights.countP (Flight.ofFurrow f.fid)))
  s2.setTile f.sink ((s2.tileAt f.sink).severSink f.sinkEp f.fid)

/-! ## Notices (11 R230, R231, R247) -/

/-- An addressee of a notice: its tile and CTX, TO and WHAT, the workspace that receives it. -/
structure Addressee where
  tile : Nat
  ctx : Nat
  to' : Nat
  what : Nat
  ws : Wsid
  deriving DecidableEq, Repr

/-- Strands resident on a tile. -/
def Tile.residents (t : Tile) : List (Fin 8) := (List.finRange 8).filter fun c => t.ctx[c].st != .free

/-- Regions that have a page in the slots of a store tile. -/
def Tile.slotRegions (t : Tile) : List (Wsid × Nat) := (t.slots.map fun e => (e.2.ws, e.2.region)).dedup

def furrowEnds (f : Furrow) : List Addressee :=
  [{ tile := f.src, ctx := 0xFF, to' := 2, what := f.srcEp.val, ws := f.ws },
   { tile := f.sink, ctx := 0xFF, to' := 3, what := f.sinkEp.toNat, ws := f.ws }]

def State.addressees (s : State) (e : RoleEntry) : List Addressee :=
  let n := e.ptile.toNat
  let t := s.tileAt n
  if e.role = 0 then t.residents.map fun c => { tile := n, ctx := c.val, to' := 0, what := 0, ws := t.ctx[c].wsid }
  else if e.role = 1 then t.slotRegions.filterMap fun r =>
    match s.rgnOf r.1.toNat r.2 with
    | some g =>
      let o := s.role g.nltid
      if o.v && o.role == 0 then some { tile := o.ptile.toNat, ctx := 0xFF, to' := 1, what := r.2, ws := r.1 } else none
    | none => none
  else (s.furrowsThrough n).flatMap furrowEnds

def noticeMail (l : Nat) (e : RoleEntry) (why : Nat) (a : Addressee) : BitVec 128 :=
  mailMsg mkNOTICE a.ctx l (e.nid.toNat + e.role.toNat * 2 ^ 8 + e.trole.toNat * 2 ^ 10 + why * 2 ^ 12 + a.to' * 2 ^ 14)
    (BitVec.ofNat 64 (e.ndl.toNat + a.what % 2 ^ 24 * 2 ^ 32))

/-- Notices sent to addressees, and counted with their workspaces. -/
def State.sendNotices (s : State) (l : Nat) (as : List Addressee) : State :=
  match sget l s.notices with
  | none => s
  | some n =>
    let s1 := as.foldl (fun s a => s.setTile a.tile ((s.tileAt a.tile).deviceMail (noticeMail l (s.role l) n.why a))) s
    { s1 with notices := sset l { n with count := n.count + as.length, wss := (n.wss ++ as.map (·.ws)).dedup } s1.notices }

/-- The next notice number: 1 to 255 (11 R247). -/
def nextNid (n : Byte) : Byte := if n = 0xFF then 1 else n + 1

/-- A tile enters notice pending; its role to come stands in TROLE. -/
def State.postNotice (s : State) (l why : Nat) : State :=
  let e := s.role l
  let die := e.ptile.toNat / 256
  let d := s.die die
  let nid := nextNid d.lastNid
  let s1 := s.setDie die { d with lastNid := nid }
  let s2 := s1.castRole l { e with nid := nid, cstate := 2, ndl := s.tick32 + BitVec.ofNat 32 d.nint }
  let s3 := { s2 with notices := sset l { nid := nid, why := why, count := 0, wss := [], cleared := false } s2.notices }
  s3.sendNotices l (s3.addressees (s3.role l))

/-- A notice of the census's own: none while EN is 0, one more than MAXRC waits for the next epoch (11 R227, R228). -/
def State.censusNotice (s : State) (l why : Nat) : State :=
  let die := (s.role l).ptile.toNat / 256
  let d := s.die die
  if !d.censusOn then s
  else if d.maxrc ≤ d.posted then s.setDie die { d with owed := d.owed ++ [(l, why)] }
  else
    let s1 := s.postNotice l why
    s1.setDie die { s1.die die with posted := d.posted + 1 }

/-- A lease or a window on a tile has ended (11 R229, R232). -/
def State.holdEnded (s : State) (l : Nat) : State :=
  let e := s.role l
  if e.v && e.cstate == 1 && !e.lse && !e.xwin then s.censusNotice l 1 else s

/-! ## Entering moving (11 R229, R231, R237) -/

/-- Every resident strand of a tile pre-empted as at a deadline: the frame is taken, and then issue stops (05 R105, 11 R233).
What the strand already gives up, for a trap or a pre-emption, stays as it is. -/
def State.stopAll (s : State) (n : Nat) : State :=
  (s.tileAt n).residents.foldl (fun s c =>
    let k := s.cx n c
    if k.st == .waiting .trap || k.pending.isSome then s
    else if k.evict.isNone then
      if s.curTile == n && s.curAgent == .ctx c && k.st == .running then s.beginOwnPreempt n c else s.beginPreempt n c 2 .deadline
    else s.setCx n c { k with evict := some 2 }) s

/-- The furrows through a tile severed. -/
def State.severThrough (s : State) (n : Nat) : State := (s.furrowsThrough n).foldl (fun s f => s.sever f n) s

/-- A tile enters moving: dispatch and issue end on a compute tile; a routing tile drains the worms whose heads it holds,
and the furrows through it are severed. -/
def State.toMoving (s : State) (l : Nat) : State :=
  let e := s.role l
  let n := e.ptile.toNat
  let s1 := s.castRole l { e with cstate := 3 }
  if e.role = 0 then s1.stopAll n
  else if e.role = 2 then (s1.drain n).severThrough n
  else s1

/-- A notice acknowledged: the count falls, and a tile in notice pending moves when it reaches zero, unless a furrow holds
it. -/
def State.ackNotice (s : State) (l : Nat) (n : Notice) : State :=
  let s1 := { s with notices := sset l { n with count := n.count - 1 } s.notices }
  if n.count ≤ 1 && (s1.role l).cstate == 2 && !s1.furrowHeld (s1.role l) then s1.toMoving l else s1

/-- A furrow closed: a tile whose notices have all been acknowledged is no longer held by it. -/
def State.furrowClosed (s : State) : State :=
  s.notices.foldl (fun s p =>
    let e := s.role p.1
    if e.v && e.cstate == 2 && e.role == 2 && e.nid == p.2.nid && p.2.count == 0 && !p.2.wss.isEmpty && !s.furrowHeld e then s.toMoving p.1 else s) s

/-! ## The role instructions (11 R242 to R246) -/

def rsOK : Nat := 0
def rsNOTOWN : Nat := 1
def rsUNBOUND : Nat := 2
def rsBADARG : Nat := 3
def rsPENDING : Nat := 4
def rsNOLEASE : Nat := 5
def rsSTALE : Nat := 6

/-- LEASE: the state and rd. -/
def State.lease (s : State) (ws : Wsid) (a n : Word) : State × Word :=
  let st (c : Nat) : State × Word := (s, BitVec.ofNat 64 c)
  let l := nbit a.toNat 0 12
  let e := s.role l
  if nbit a.toNat 12 52 != 0 || n == 0 || decide (4095 < n.toNat) then st rsBADARG
  else if !e.v then st rsUNBOUND
  else if e.owner != ws then st rsNOTOWN
  else if 2 ≤ e.cstate.toNat then st rsPENDING
  else
    let fin' := s.tick32 + n.setWidth 32
    let lexp := if !e.lse || decide (0 < (fin' - e.lexp).toInt) then fin' else e.lexp
    (s.castRole l { e with lexp := lexp, lse := true }, BitVec.ofNat 64 (rsOK + lexp.toNat * 2 ^ 32))

def execLease (m : SMark) (rd rs1 rs2 : Reg) (s : State) : Out :=
  .next (issue (.lease m rd rs1 rs2) m false (fun s =>
    let (s1, v) := s.lease s.ws (s.x rs1) (s.x rs2)
    s1.requested rd v) s)

def State.unlease (s : State) (ws : Wsid) (a : Word) : State × Word :=
  let st (c : Nat) : State × Word := (s, BitVec.ofNat 64 c)
  let l := nbit a.toNat 0 12
  let e := s.role l
  if nbit a.toNat 12 52 != 0 then st rsBADARG
  else if !e.v then st rsUNBOUND
  else if e.owner != ws then st rsNOTOWN
  else if !e.lse then st rsNOLEASE
  else ((s.castRole l { e with lse := false, lexp := s.tick32 }).holdEnded l, BitVec.ofNat 64 rsOK)

def execUnlease (m : SMark) (rd rs1 rs2 : Reg) (s : State) : Out :=
  .next (issue (.unlease m rd rs1 rs2) m false (fun s =>
    let (s1, v) := s.unlease s.ws (s.x rs1)
    s1.requested rd v) s)

/-- What ROLEQ shows of a word to a workspace that does not own the tile: PTILE and OWNER, or LEXP and NDL, read as zero. -/
def hideRole (ws : Wsid) (owner : Wsid) (word1 : Bool) (w : Word) : Word :=
  if owner = ws then w else if word1 then 0 else w &&& ~~~(0x3FF#64 <<< 12 ||| 0xFFF#64 <<< 32)

/-- ROLEQ from the role cache completes at once; from the census it is a request, which also places word 0 in the cache
(11 R245). -/
def State.roleq (s : State) (rd : Reg) (a : Word) : Done :=
  let l := nbit a.toNat 0 12
  let reply (s : State) (v : Word) : Done := s.answered false rd v
  if nbit a.toNat 13 51 != 0 then reply s 0
  else if a.getLsbD 12 then
    reply (s.readRole s.curTile l).1 (hideRole s.ws (s.role l).owner true (s.role l).word1)
  else match sget l s.tile.roleCache with
    | some w => .ok (s.setX rd (hideRole s.ws (w.extractLsb' 32 12) false w))
    | none => let (s1, w) := s.resolve s.curTile l
              reply s1 (hideRole s.ws (w.extractLsb' 32 12) false w)

def execRoleq (m : SMark) (rd rs1 rs2 : Reg) (s : State) : Out :=
  .next (issue (.roleq m rd rs1 rs2) m false (fun s => s.roleq rd (s.x rs1)) s)

def State.ntcack (s : State) (ws : Wsid) (a : Word) : State × Word :=
  let st (c : Nat) : State × Word := (s, BitVec.ofNat 64 c)
  let l := nbit a.toNat 0 12
  let e := s.role l
  if nbit a.toNat 20 44 != 0 then st rsBADARG
  else if !e.v then st rsUNBOUND
  else match sget l s.notices with
    | none => st rsSTALE
    | some n =>
      if a.extractLsb' 12 8 != e.nid || n.nid != e.nid || n.count == 0 || !n.wss.contains ws then st rsSTALE
      else (s.ackNotice l n, BitVec.ofNat 64 rsOK)

def execNtcack (m : SMark) (rd rs1 rs2 : Reg) (s : State) : Out :=
  .next (issue (.ntcack m rd rs1 rs2) m false (fun s =>
    let (s1, v) := s.ntcack s.ws (s.x rs1)
    s1.requested rd v) s)

end Sys2Proof.Machine
end

