-- ==== Sys2Proof/Machine/Serve.lean ====
section
/-! DEFINITION. What the batch former keeps (19 R319 to R324): model groups, request records, blocks and their lists
(19 R331, R333), the prefix table (19 R332, R334), writes that fail (19 R345). -/

namespace Sys2Proof.Machine

/-! ## Fields -/

/-- A number with bits `lo` to `lo + n - 1` replaced. -/
def putField (x lo n v : Nat) : Nat := x - nbit x lo n * 2 ^ lo + v % 2 ^ n * 2 ^ lo

/-- A field of the MGD as it was bound (19 R319). -/
def Group.f (g : Group) (lo n : Nat) : Nat := nbit (leNat g.cfg) lo n

def Group.tag (g : Group) : Nat := g.f 0 64
def Group.stab (g : Group) : Nat := g.f 64 64
def Group.intake (g : Group) : Nat := g.f 128 64
def Group.ilog2n (g : Group) : Nat := g.f 256 4
def Group.tokb (g : Group) : Nat := g.f 264 16
def Group.nslot (g : Group) : Nat := g.f 280 10
def Group.wmark (g : Group) : Nat := g.f 296 24
def Group.kvbase (g : Group) : Nat := g.f 320 64
def Group.nblks (g : Group) : Nat := g.f 384 24
def Group.nkvh (g : Group) : Nat := g.f 408 8
def Group.nlayer (g : Group) : Nat := g.f 416 16
def Group.ptlog2 (g : Group) : Nat := g.f 432 8
def Group.ctlb (g : Group) : Nat := g.f 448 64
def Group.ptbase (g : Group) : Nat := g.f 512 64

/-- ITAIL and EN of an MGD as it stands. -/
def mgItail (m : Nat) : Nat := nbit m 224 32
def mgEn (m : Nat) : Bool := nbit m 576 1 == 1

/-- A malformed MGD (19 R319). -/
def mgBad (m : Nat) : Bool :=
  let addr (lo align : Nat) : Bool := decide (globalEnd ≤ nbit m lo 64) || nbit m lo 64 % align != 0
  nbit m 260 4 != 0 || nbit m 290 6 != 0 || nbit m 440 8 != 0 || nbit m 577 447 != 0
  || decide (11 < nbit m 256 4) || nbit m 264 16 == 0 || nbit m 280 10 == 0 || decide (512 < nbit m 280 10)
  || nbit m 384 24 == 0 || nbit m 408 8 == 0 || nbit m 416 16 == 0
  || decide (nbit m 432 8 < 4) || decide (24 < nbit m 432 8)
  || addr 64 64 || addr 128 128 || addr 320 64 || addr 448 32 || addr 512 128

/-- A field of a request record: word, lowest bit, width (19 R322). -/
abbrev RField := Nat × Nat × Nat

def rqID : RField := (0, 0, 32)
def rqSTATE : RField := (0, 32, 3)
def rqPRIO : RField := (0, 35, 3)
def rqSLOT : RField := (0, 38, 10)
def rqFCODE : RField := (0, 48, 8)
def rqTAG : RField := (1, 0, 64)
def rqPOS : RField := (2, 0, 24)
def rqPLEN : RField := (2, 24, 24)
def rqMAXG : RField := (2, 48, 16)
def rqSTOP (i : Nat) : RField := (3 + i / 2, 32 * (i % 2), 32)
def rqSHASH : RField := (5, 0, 56)
def rqSLEN : RField := (5, 56, 4)
def rqBLIST : RField := (6, 0, 56)
def rqTAIL : RField := (7, 0, 32)
def rqTFILL : RField := (7, 32, 7)
def rqNBLK : RField := (7, 39, 25)
def rqLASTTOK : RField := (8, 0, 32)
def rqQTOK : RField := (8, 32, 16)
def rqRESCALE : RField := (8, 48, 16)
def rqTLOG : RField := (9, 0, 56)
def rqKNOWN : RField := (10, 0, 24)
def rqADMT : RField := (10, 32, 32)
def rqLSTEP : RField := (11, 0, 32)
def rqPARENT : RField := (11, 32, 32)

def Req.f (r : Req) (f : RField) : Nat := nbit (r.w.getD f.1 0).toNat f.2.1 f.2.2
def Req.put (r : Req) (f : RField) (v : Nat) : Req :=
  { r with w := lset r.w f.1 (BitVec.ofNat 64 (putField (r.w.getD f.1 0).toNat f.2.1 f.2.2 v)) }

/-- STATE (19 R323). -/
def rsWAITING : Nat := 1
def rsACTIVE : Nat := 2
def rsRETIRED : Nat := 3
def rsFAULTED : Nat := 4
def rsEVICTED : Nat := 5

/-- FCODE (19 R323). -/
def fcNAN : Nat := 0x01
def fcKVFAULT : Nat := 0x02
def fcSTOPFIELD : Nat := 0x03
def fcBADREC : Nat := 0x04
def fcDUPID : Nat := 0x05
def fcTAG : Nat := 0x06
def fcSTOP : Nat := 0x10
def fcSTOPSEQ : Nat := 0x11
def fcLENGTH : Nat := 0x12
def fcCANCELLED : Nat := 0x13

/-- The slot number that means none. -/
def noSlot : Nat := 0x3FF

/-- The statuses of R344. -/
def svOK : Nat := 0
def svBUSY : Nat := 1
def svNOGROUP : Nat := 2
def svBADGRP : Nat := 3
def svNOTFOUND : Nat := 4
def svBADARG : Nat := 5
def svNOSLOT : Nat := 6
def svKVFAULT : Nat := 7
def svSTATE : Nat := 8
def svNOREC : Nat := 9

def Req.waiting (r : Req) : Bool := r.f rqSTATE == rsWAITING || r.f rqSTATE == rsEVICTED
def Req.active (r : Req) : Bool := r.f rqSTATE == rsACTIVE
def Req.faulted (r : Req) : Bool := r.f rqSTATE == rsFAULTED
def Req.ended (r : Req) : Bool := r.f rqSTATE == rsRETIRED || r.f rqSTATE == rsFAULTED

def Req.retire (r : Req) (code : Nat) : Req := (r.put rqSTATE rsRETIRED).put rqFCODE code
def Req.fail (r : Req) (code : Nat) : Req := (r.put rqSTATE rsFAULTED).put rqFCODE code

/-- Tokens of the cache that stand in block `i` of a request. -/
def Req.fill (r : Req) (i : Nat) : Nat := min 64 (r.f rqPOS - 64 * i)

/-- TFILL brought up to date: the committed tokens of the last block (19 R322). -/
def Req.refill (r : Req) : Req := if r.f rqNBLK = 0 then r else r.put rqTFILL (r.fill (r.f rqNBLK - 1))

/-! ## The batch former at work on a group -/

/-- The package, the group, the first group-wide write that was refused (19 R345). -/
structure Srv where
  s : State
  g : Group
  bad : Option Nat
  deriving DecidableEq, Repr

namespace Srv

/-- A group-wide write refused at an address. -/
def note (v : Srv) (a : Nat) : Srv := { v with bad := v.bad <|> some a }

/-- Bytes of a workspace read at the home slices; none where the access fails or meets poison. -/
def rdIn (v : Srv) (ws : Wsid) (va n : Nat) : Option (List Byte) :=
  match v.s.vread ws.toNat va n with
  | .ok (bs, false) => some bs
  | _ => none

/-- Bytes of the workspace that bound the group. -/
def rd (v : Srv) (va n : Nat) : Option (List Byte) := v.rdIn v.g.ws va n

def rdNat (v : Srv) (va n : Nat) : Option Nat := (v.rd va n).map leNat

/-- A read that failed was an access as any other: on absent memory it leaves its NOMEM entry (18 R313, log 71). -/
def failedIn (v : Srv) (ws : Wsid) (va n : Nat) : Srv := { v with s := v.s.vsee ws.toNat va n }
def failedRd (v : Srv) (va n : Nat) : Srv := v.failedIn v.g.ws va n

/-- A group-wide structure written (19 R345). -/
def wr (v : Srv) (va : Nat) (bs : List Byte) : Srv :=
  match v.s.vwrite v.g.ws.toNat va bs with
  | .ok s => { v with s := s }
  | .error (_, a) => v.note a

/-- A write that would change part of a poisoned word fails. -/
def partPoison (v : Srv) (va n : Nat) : Bool :=
  (va % 8 != 0 && (v.rd (va / 8 * 8) 8).isNone) || ((va + n) % 8 != 0 && (v.rd ((va + n) / 8 * 8) 8).isNone)

/-- Bytes written into a request's own structure, or the refused address. -/
def ownWr (v : Srv) (va : Nat) (bs : List Byte) : Except Nat Srv :=
  if v.partPoison va bs.length then .error va
  else match v.s.vwrite v.g.ws.toNat va bs with
    | .ok s => .ok { v with s := s }
    | .error (_, a) => .error a

/-- The fault record's entry for a refused write (19 R345). -/
def record (v : Srv) (a : Nat) : Srv := { v with s := v.s.faultRecord v.g.ws.toNat frSERVE (v.s.ltidOf v.s.curTile) 0 a }

/-! ### Records -/

def req (v : Srv) (i : Nat) : Req :=
  v.s.reqs.getD i { gid := 0, w := [], mark := 0, evict := none, reserve := none, new := false, smp := false }
def setReq (v : Srv) (i : Nat) (r : Req) : Srv := { v with s := { v.s with reqs := lset v.s.reqs i r } }
def onReq (v : Srv) (i : Nat) (f : Req → Req) : Srv := v.setReq i (f (v.req i))

/-- The group's live records, in order of arrival. -/
def mine (v : Srv) : List Nat := (List.range v.s.reqs.length).filter fun i => (v.req i).gid == v.g.pa
/-- The record with an id; of several the first. -/
def find (v : Srv) (id : Nat) : Option Nat := v.mine.find? fun i => (v.req i).f rqID == id
/-- The record that holds a slot. -/
def inSlot (v : Srv) (sl : Nat) : Option Nat := if sl = noSlot then none else v.mine.find? fun i => (v.req i).f rqSLOT == sl

/-- The fault mark KVFAULT. -/
def markKv (v : Srv) (i : Nat) : Srv := v.onReq i fun r => { r with mark := BitVec.ofNat 8 fcKVFAULT }

/-- A request met a failing access: marked for the next BCOMMIT, or faulted at once while no step is open (19 R345). -/
def fault (v : Srv) (i : Nat) : Srv := if v.g.opn then v.markKv i else v.onReq i fun r => r.fail fcKVFAULT

/-- A request's own structure written; a refused write faults the request and is recorded (19 R345). -/
def own (v : Srv) (i va : Nat) (bs : List Byte) : Srv :=
  match v.ownWr va bs with
  | .ok v1 => v1
  | .error a => ((v.failedRd va bs.length).fault i).record a

/-! ### Blocks (19 R331, R333) -/

def ctlAddr (v : Srv) (b : Nat) : Nat := v.g.ctlb + 32 * b
def ctl? (v : Srv) (b : Nat) : Option Nat := if b < v.g.nblks then v.rdNat (v.ctlAddr b) 32 else none
/-- A control word about to be changed; one that cannot be read is a group-wide failure. -/
def ctl (v : Srv) (b : Nat) : Nat × Srv :=
  match v.ctl? b with
  | some n => (n, v)
  | none => (0, (v.failedRd (v.ctlAddr b) 32).note (v.ctlAddr b))
def putCtl (v : Srv) (b n : Nat) : Srv := v.wr (v.ctlAddr b) (leBytes n 32)

end Srv

def ckKEY (n : Nat) : Nat := n % 2 ^ 128
def ckREF (n : Nat) : Nat := nbit n 128 16
def ckST (n : Nat) : Nat := nbit n 144 2
def ckSet (n ref st : Nat) : Nat := putField (putField n 128 16 ref) 144 2 st
def ckLink (n l : Nat) : Nat := putField n 160 32 l

namespace Srv

/-- FREEB. -/
def freeb (v : Srv) : Nat := v.g.free.length + v.g.reclaim.length

/-- A block to the front of the free list. -/
def toFree (v : Srv) (b n : Nat) : Srv :=
  { v with g := { v.g with free := b :: v.g.free } }.putCtl b (ckLink (ckSet n 0 0) (v.g.free.headD 0))

def setLink (v : Srv) (b l : Nat) : Srv := let (n, v1) := v.ctl b; v1.putCtl b (ckLink n l)

/-- A table block to the back of the reclaim list. -/
def toReclaim (v : Srv) (b n : Nat) : Srv :=
  let v1 := match v.g.reclaim.getLast? with
    | some p => v.setLink p b
    | none => v
  { v1 with g := { v1.g with reclaim := v1.g.reclaim ++ [b] } }.putCtl b (ckLink (ckSet n 0 (ckST n)) 0)

/-- A block taken off the reclaim list. -/
def offReclaim (v : Srv) (b : Nat) : Srv :=
  let before := v.g.reclaim.takeWhile (· != b)
  let after := (v.g.reclaim.drop (before.length + 1)).headD 0
  let v1 := match before.getLast? with
    | some p => if v.g.reclaim.contains b then v.setLink p after else v
    | none => v
  { v1 with g := { v1.g with reclaim := v1.g.reclaim.filter (· != b) } }

/-- One hold of a block released (19 R333). -/
def release (v : Srv) (b : Nat) : Srv :=
  let (n, v1) := v.ctl b
  if ckREF n = 0 then v1
  else if ckREF n = 1 then (if ckST n = 2 then v1.toReclaim b n else v1.toFree b n)
  else v1.putCtl b (ckSet n (ckREF n - 1) (ckST n))

/-- One hold more. LINK keeps its value where a block leaves a list (log 54). -/
def hold (v : Srv) (b : Nat) : Srv :=
  let (n, v1) := v.ctl b
  v1.putCtl b (ckSet n (satInc (ckREF n) 0xFFFF) (ckST n))

/-! ### The prefix table (19 R332, R334) -/

def bucketAddr (v : Srv) (key : Nat) : Nat := v.g.ptbase + 128 * (key % 2 ^ v.g.ptlog2)

/-- The four entries of a key's bucket. -/
def bucket (v : Srv) (key : Nat) : List Nat × Srv :=
  match v.rdNat (v.bucketAddr key) 128 with
  | some n => ((List.range 4).map fun i => nbit n (256 * i) 256, v)
  | none => ([], (v.failedRd (v.bucketAddr key) 128).note (v.bucketAddr key))

def putEntry (v : Srv) (key i e : Nat) : Srv := v.wr (v.bucketAddr key + 32 * i) (leBytes e 32)

end Srv

def peKEY (e : Nat) : Nat := e % 2 ^ 128
def peTAG (e : Nat) : Nat := nbit e 128 64
def peBID (e : Nat) : Nat := nbit e 192 32
def peCNT (e : Nat) : Nat := nbit e 224 7
def peV (e : Nat) : Bool := nbit e 231 1 == 1
def peAGE (e : Nat) : Nat := nbit e 232 8

namespace Srv

/-- The entry that a lookup hits: its place in the bucket and itself. -/
def look (v : Srv) (key : Nat) : Option (Nat × Nat) × Srv :=
  let (es, v1) := v.bucket key
  (((List.range es.length).zip es).find? fun p => peV p.2 && peKEY p.2 == key && peTAG p.2 == v.g.tag && peCNT p.2 == 64, v1)

/-- A hit pins the block: AGE, REF, and the reclaim list (19 R327, R333, R341). -/
def pin (v : Srv) (key : Nat) (h : Nat × Nat) : Srv :=
  let b := peBID h.2
  ((v.putEntry key h.1 (putField h.2 232 8 v.g.step.toNat)).offReclaim b).hold b

/-- The table entry of a block made invalid. -/
def dropEntry (v : Srv) (key b : Nat) : Srv :=
  let (es, v1) := v.bucket key
  match ((List.range es.length).zip es).find? fun p => peV p.2 && peKEY p.2 == key && peBID p.2 == b with
  | some p => v1.putEntry key p.1 (putField p.2 231 1 0)
  | none => v1

/-- A block taken (19 R333). -/
def take (v : Srv) : Option (Nat × Srv) :=
  match v.g.free with
  | b :: r =>
    let (n, v1) := ({ v with g := { v.g with free := r } } : Srv).ctl b
    some (b, v1.putCtl b (ckSet n 1 1))
  | [] =>
    match v.g.reclaim with
    | b :: r =>
      let (n, v1) := ({ v with g := { v.g with reclaim := r } } : Srv).ctl b
      some (b, (v1.dropEntry (ckKEY n) b).putCtl b (ckSet n 1 1))
    | [] => none

/-- A full block inserted in its bucket, or left private (19 R334). Of entries equally old the lowest goes. -/
def insert (v : Srv) (b n : Nat) : Srv :=
  let key := ckKEY n
  let (es, v1) := v.bucket key
  let all := (List.range es.length).zip es
  let e := key + v.g.tag * 2 ^ 128 + b * 2 ^ 192 + 64 * 2 ^ 224 + 2 ^ 231 + v.g.step.toNat % 256 * 2 ^ 232
  let enter (v : Srv) (i : Nat) : Srv := (v.putEntry key i e).putCtl b (ckSet n 1 2)
  if all.any (fun p => peV p.2 && peKEY p.2 == key) then v1
  else match all.find? fun p => !peV p.2 with
    | some p => enter v1 p.1
    | none =>
      let age (e : Nat) : Nat := (v.g.step.toNat + 256 - peAGE e) % 256
      let idle := all.filter fun p => (v1.ctl? (peBID p.2)).any fun c => ckREF c == 0
      match idle.foldl (fun (best : Option (Nat × Nat)) p =>
          match best with
          | some q => if age q.2 < age p.2 then some p else best
          | none => some p) none with
      | none => v1
      | some p =>
        let o := peBID p.2
        let v2 := v1.offReclaim o
        let (c, v3) := v2.ctl o
        enter (v3.toFree o c) p.1

/-- The key of a block whose parent has a key, over its 64 tokens (19 R334). -/
def keyOf (v : Srv) (parent : Nat) (toks : List Byte) : Nat :=
  leNat ((sha256 (leBytes parent 16 ++ leBytes v.g.tag 8 ++ toks)).take 16)

/-! ### Block lists -/

/-- Entry `i` of a request's block list. -/
def blockAt (v : Srv) (r : Req) (i : Nat) : Option Nat := (v.rdNat (r.f rqBLIST + 4 * i) 4).filter (· < v.g.nblks)

/-- The blocks that a request holds, as far as its list can be read. -/
def blocksOf (v : Srv) (r : Req) : List Nat := (List.range (r.f rqNBLK)).filterMap (v.blockAt r)

/-- An entry of a request's block list cannot be read, or names no block. -/
def listBad (v : Srv) (r : Req) : Bool := (List.range (r.f rqNBLK)).any fun i => (v.blockAt r i).isNone

/-- The reads of those entries, and of the control words of the blocks, that failed. -/
def failedList (v : Srv) (r : Req) : Srv :=
  (List.range (r.f rqNBLK)).foldl (fun v i => match v.blockAt r i with
    | none => v.failedRd (r.f rqBLIST + 4 * i) 4
    | some b => if (v.ctl? b).isNone then v.failedRd (v.ctlAddr b) 32 else v) v

/-- Every block of a request released, and its copy reserve, with what else becomes of the request. Where an entry of its
list cannot be read the request is faulted with KVFAULT (19 R323), and the block of that entry stays held (log 79). -/
def releaseAll (v : Srv) (i : Nat) (f : Req → Req) : Srv :=
  let r := v.req i
  let v1 := (v.blocksOf r).foldl (fun v b => v.release b) (if v.listBad r then v.failedList r else v)
  let v2 := match r.reserve with
    | some b => v1.release b
    | none => v1
  v2.onReq i fun q =>
    let q1 := f { q with reserve := none }
    if v.listBad r then q1.fail fcKVFAULT else q1

/-! ### The group status block (19 R320) -/

def statusWord (v : Srv) : Nat :=
  let ms := v.mine.map v.req
  v.g.step.toNat + b2n v.g.opn * 2 ^ 32 + (ms.filter fun r => r.f rqSLOT != noSlot).length % 1024 * 2 ^ 64
    + (ms.filter (·.waiting)).length % 4096 * 2 ^ 74 + v.freeb % 2 ^ 32 * 2 ^ 128 + v.g.sdrop.toNat * 2 ^ 160
    + v.g.last.toNat * 2 ^ 192

end Srv

/-- The status block written at MGD + 128 (19 R320). -/
def Srv.putStatus (v : Srv) : Srv := v.wr (v.g.mgd.toNat + 128) (leBytes v.statusWord 32)

def Srv.dropSlotless (v : Srv) : Srv := { v with g := { v.g with sdrop := BitVec.ofNat 32 (satInc v.g.sdrop.toNat (2 ^ 32 - 1)) } }

/-! ## Groups (19 R319) -/

def maxGroups : Nat := 16
def maxReqs : Nat := 2048

def State.groupAt (s : State) (pa : Nat) : Option Group := s.groups.find? (·.pa == pa)
def State.putGroup (s : State) (g : Group) : State := { s with groups := s.groups.map fun o => if o.pa == g.pa then g else o }

/-- A group released, with its records. -/
def State.freeGroup (s : State) (pa : Nat) : State :=
  { s with groups := s.groups.filter (·.pa != pa), reqs := s.reqs.filter (·.gid != pa) }

/-- A group bound: every block free, in ascending order; the control words and the prefix table hold their reset values.
IHEAD is the MGD's. -/
def State.bindGroup (s : State) (ws : Wsid) (pa : Nat) (mgd : Word) (cfg : List Byte) : Srv :=
  let m := leNat cfg
  let n := nbit m 384 24
  let g : Group :=
    { pa := pa, ws := ws, mgd := mgd, cfg := cfg, step := 0, opn := false, sdrop := 0, last := 0,
      ihead := BitVec.ofNat 32 (nbit m 192 32), free := List.range n, reclaim := [], slots := [], quar := [], leaving := [],
      faulted := false }
  let v0 : Srv := { s := { s with groups := s.groups ++ [g] }, g := g, bad := none }
  let v1 := (List.range n).foldl (fun v b => v.putCtl b (if b + 1 < n then (b + 1) * 2 ^ 160 else 0)) v0
  (List.range (2 ^ g.ptlog2)).foldl (fun v k => v.wr (g.ptbase + 128 * k) (List.replicate 128 0)) v1

/-- The work on a group ended: the group is kept, and faulted where a group-wide write was refused (19 R345). -/
def Srv.close (v : Srv) : State :=
  match v.bad with
  | none => v.s.putGroup v.g
  | some a => (v.record a).s.putGroup { v.g with faulted := true }

/-- The value returned: KVFAULT where a group-wide write was refused. -/
def Srv.result (v : Srv) (r : Nat) : Nat := if v.bad.isSome then svKVFAULT else r

/-- The MGD that an instruction names: its bytes and its physical address; none for one that cannot be read or is
malformed (19 R319, R344). -/
def State.readMgd (s : State) (ws : Wsid) (mgd : Word) : Option (List Byte × Nat) :=
  match s.vread ws.toNat mgd.toNat 128, s.xlate ws.toNat mgd.toNat false with
  | .ok (bs, false), .ok pa => if mgBad (leNat bs) then none else some (bs, pa)
  | _, _ => none

/-- What an instruction other than BFORM finds: the group to work on, or a status. -/
def State.findGroup (s : State) (ws : Wsid) (mgd : Word) : Except Nat Srv :=
  match s.readMgd ws mgd with
  | none => .error svBADGRP
  | some (_, pa) =>
    match s.groupAt pa with
    | none => .error svNOGROUP
    | some g => if g.faulted then .error svKVFAULT else .ok { s := s, g := g, bad := none }

end Sys2Proof.Machine
end

