-- ==== Sys2Proof/Machine/Forming.lean ====
section
/-! DEFINITION. Intake (19 R321, R323), forming a step (19 R325 to R327), committing it (19 R328), forks, evictions and
inspection (19 R339, R340). -/

namespace Sys2Proof.Machine

namespace Srv

/-! ## Intake (19 R321 to R323) -/

/-- The fault that an intake record shows, the lowest of those that hold; STATE counts unless the record is a fork's. -/
def intakeFault (v : Srv) (r : Req) (fork : Bool) : Option Nat :=
  let word (i : Nat) := (r.w.getD i 0).toNat
  let ptrBad (f : RField) : Bool := r.f f == 0 || r.f f % 4 != 0
  if 8 < r.f rqSLEN then some fcSTOPFIELD
  else if nbit (word 0) 56 8 != 0 || nbit (word 5) 60 4 != 0 || nbit (word 6) 56 8 != 0 || nbit (word 9) 56 8 != 0
      || nbit (word 10) 24 8 != 0 || word 14 != 0 || word 15 != 0 || (!fork && r.f rqSTATE != 0)
      || r.f rqPLEN == 0 || r.f rqMAXG == 0 || ptrBad rqTLOG || ptrBad rqBLIST then some fcBADREC
  else if (v.find (r.f rqID)).isSome then some fcDUPID
  else if r.f rqTAG != v.g.tag then some fcTAG
  else none

/-- A record of 128 bytes. -/
def recordOf (v : Srv) (bs : List Byte) : Req :=
  { gid := v.g.pa, w := (List.range 16).map fun i => BitVec.ofNat 64 (leNat ((bs.drop (8 * i)).take 8)), mark := 0, evict := none,
    reserve := none, new := false, smp := false }

/-- The fields of a record that the batch former writes, as they are for one just taken (19 R322, R325). -/
def fresh (v : Srv) (r : Req) : Req :=
  let put (r : Req) (p : RField × Nat) : Req := r.put p.1 p.2
  [(rqSTATE, rsWAITING), (rqSLOT, noSlot), (rqFCODE, 0), (rqPOS, 0), (rqTAIL, 0), (rqTFILL, 0), (rqNBLK, 0), (rqLASTTOK, 0),
   (rqQTOK, 0), (rqRESCALE, 0), (rqKNOWN, r.f rqPLEN), (rqADMT, v.s.tick % 2 ^ 32), (rqLSTEP, 0), (rqPARENT, 0)].foldl put r

def addReq (v : Srv) (r : Req) : Srv := { v with s := { v.s with reqs := v.s.reqs ++ [r] } }

/-- Cells taken from IHEAD to ITAIL while a record is free; one that cannot be read ends the intake. -/
def intake (v : Srv) (itail : Nat) : Nat → Srv
  | 0 => v
  | k + 1 =>
    if v.g.ihead.toNat = itail || decide (maxReqs ≤ v.s.reqs.length) then v
    else match v.rd (v.g.intake + 128 * (v.g.ihead.toNat % 2 ^ v.g.ilog2n)) 128 with
      | none => v.failedRd (v.g.intake + 128 * (v.g.ihead.toNat % 2 ^ v.g.ilog2n)) 128
      | some bs =>
        let r := v.recordOf bs
        let q := v.fresh r
        let q1 := match v.intakeFault r false with
          | some c => q.fail c
          | none => q
        let v1 := v.addReq q1
        ({ v1 with g := { v1.g with ihead := v1.g.ihead + 1 } } : Srv).intake itail k

/-! ## Slots left (19 R324 to R326) -/

/-- A request leaves its slot: its blocks released, the slot under quarantine. -/
def leaveSlot (v : Srv) (i : Nat) (f : Req → Req) : Srv :=
  let sl := (v.req i).f rqSLOT
  let v1 := v.releaseAll i fun r => f ((r.put rqSLOT noSlot).put rqQTOK 0)
  { v1 with g := { v1.g with quar := nsAdd sl v1.g.quar } }

/-- An evicted request waits again (19 R325). -/
def toEvicted (r : Req) : Req := { ((r.put rqSTATE rsEVICTED).put rqNBLK 0) with evict := none }

/-- The slots vacated at the start of a forming, by ascending slot. -/
def vacate (v : Srv) : List Nat → Nat → Srv × Nat
  | [], n => (v, n)
  | sl :: r, n =>
    match v.inSlot sl with
    | none => v.vacate r n
    | some i =>
      let q := v.req i
      if q.ended then (v.leaveSlot i id).vacate r (n + 1)
      else match q.evict with
        | none => v.vacate r n
        | some true => (v.leaveSlot i fun q => { q.retire fcCANCELLED with evict := none }).vacate r (n + 1)
        | some false => (v.leaveSlot i toEvicted).vacate r (n + 1)

/-- Active requests whose block lists, or the control words of their blocks, cannot be read are faulted (19 R323). -/
def readLists (v : Srv) : Srv :=
  (v.mine.filter fun i => (v.req i).active).foldl (fun v i =>
    if v.listBad (v.req i) || (v.blocksOf (v.req i)).any (fun b => (v.ctl? b).isNone) then (v.failedList (v.req i)).fault i else v) v

/-- Blocks of a request with one holder. -/
def ownBlocks (v : Srv) (r : Req) : Nat := ((v.blocksOf r).filter fun b => (v.ctl? b).any fun c => ckREF c == 1).length

/-- The active request that the watermark evicts next (19 R326). -/
def victim (v : Srv) : Option Nat :=
  let key (i : Nat) : Nat × Nat × Nat := let r := v.req i; (r.f rqPRIO, v.ownBlocks r, r.f rqSLOT)
  let better (a b : Nat × Nat × Nat) : Bool :=
    decide (a.1 < b.1) || (a.1 == b.1 && (decide (b.2.1 < a.2.1) || (a.2.1 == b.2.1 && decide (b.2.2 < a.2.2))))
  (v.mine.filter fun i => (v.req i).active).foldl (fun (best : Option Nat) i =>
    match best with
    | some j => if better (key i) (key j) then some i else best
    | none => some i) none

/-- Evictions while the free blocks are below the watermark. -/
def watermark (v : Srv) : Nat → Nat → Srv × Nat
  | 0, n => (v, n)
  | k + 1, n =>
    if v.g.wmark ≤ v.freeb then (v, n)
    else
      let v1 := v.readLists
      match v1.victim with
      | none => (v1, n)
      | some i => (v1.leaveSlot i toEvicted).watermark k (n + 1)

/-! ## Tokens given (19 R325, R327) -/

/-- New blocks that `q` query tokens need. -/
def newBlocks (r : Req) (q : Nat) : Nat := (r.f rqPOS + q + 63) / 64 - r.f rqNBLK

/-- The last block of a request is shared and part full, so that its next append copies it. -/
def sharedTail (v : Srv) (r : Req) : Bool :=
  r.f rqNBLK != 0 && decide (1 ≤ r.fill (r.f rqNBLK - 1)) && decide (r.fill (r.f rqNBLK - 1) ≤ 63)
  && ((v.blockAt r (r.f rqNBLK - 1)).bind v.ctl?).any fun c => decide (1 < ckREF c)

/-- Whether that copy is needed cannot be read. -/
def tailBad (v : Srv) (r : Req) (q : Nat) : Bool :=
  q != 0 && r.f rqNBLK != 0 && decide (1 ≤ r.fill (r.f rqNBLK - 1)) && decide (r.fill (r.f rqNBLK - 1) ≤ 63)
  && ((v.blockAt r (r.f rqNBLK - 1)).bind v.ctl?).isNone

def copyReserve (v : Srv) (r : Req) (q : Nat) : Nat := if q != 0 && v.sharedTail r then 1 else 0

/-- The most tokens, up to `q`, whose blocks fit in the free ones. -/
def fitTokens (v : Srv) (r : Req) (q : Nat) : Nat :=
  let res := v.copyReserve r q
  if newBlocks r q + res ≤ v.freeb then q
  else if v.freeb < res then 0
  else min q (64 * (r.f rqNBLK + v.freeb - res) - r.f rqPOS)

/-- New blocks taken and written into the block list; a block whose entry is refused goes back, and the request is faulted. -/
def extend (v : Srv) (i : Nat) : Nat → Srv
  | 0 => v
  | k + 1 =>
    match v.take with
    | none => v
    | some (b, v1) =>
      let n := (v1.req i).f rqNBLK
      let v2 := v1.own i ((v1.req i).f rqBLIST + 4 * n) (leBytes b 4)
      if (v2.req i).faulted then v2.release b
      else (v2.onReq i fun r => (r.put rqNBLK (n + 1)).put rqTAIL b).extend i k

/-- `q` query tokens given to a request; none where it is faulted meanwhile (19 R345). -/
def grant (v : Srv) (i q : Nat) : Srv :=
  let r := v.req i
  let res := v.copyReserve r q
  let v1 := if v.tailBad r q then (v.failedList r).fault i else v.extend i (newBlocks r q)
  if (v1.req i).faulted then v1.onReq i fun r => { r.refill.put rqQTOK 0 with smp := false }
  else
  let v2 := if res = 0 then v1 else match v1.take with
    | some (b, w) => w.onReq i fun r => { r with reserve := some b }
    | none => v1
  v2.onReq i fun r =>
    let r1 := r.refill.put rqQTOK q
    let r2 := if q = 0 then r1 else r1.put rqLSTEP v.g.step.toNat
    { r2 with smp := r.f rqPOS + q == r.f rqKNOWN }

/-- Active requests, by ascending slot; `b` is what is left of the budget. -/
def giveActive (v : Srv) : List Nat → Nat → Srv × Nat
  | [], b => (v, b)
  | sl :: r, b =>
    match v.inSlot sl with
    | none => v.giveActive r b
    | some i =>
      let q := v.req i
      if !q.active then v.giveActive r b
      else
        let n := v.fitTokens q (min (q.f rqKNOWN - q.f rqPOS) b)
        let v1 := (v.grant i n).onReq i fun q => { q with new := false }
        v1.giveActive r (if (v1.req i).faulted then b else b - n)

/-- Prefix blocks found for a waiting request: from block `i`, at most `k` more (19 R327). A token log that cannot be
read faults the request. -/
def reuse (v : Srv) (q i parent : Nat) : Nat → Srv
  | 0 => v
  | k + 1 =>
    match v.rd ((v.req q).f rqTLOG + 256 * i) 256 with
    | none => (v.failedRd ((v.req q).f rqTLOG + 256 * i) 256).fault q
    | some toks =>
      let key := v.keyOf parent toks
      match v.look key with
      | (none, v1) => v1
      | (some h, v1) =>
        let b := peBID h.2
        let v2 := (v1.pin key h).own q ((v1.req q).f rqBLIST + 4 * i) (leBytes b 4)
        if (v2.req q).faulted then v2.release b
        else (v2.onReq q fun r => ((r.put rqNBLK (i + 1)).put rqTAIL b).put rqPOS (64 * (i + 1))).reuse q (i + 1) key k

/-- A waiting request faulted at once. -/
def failWaiting (v : Srv) (i : Nat) : Srv := v.releaseAll i fun r => (r.fail fcKVFAULT).put rqNBLK 0

/-- Slots that may be given: below NSLOT, empty, not quarantined. -/
def freeSlot (v : Srv) : Option Nat := (List.range v.g.nslot).find? fun sl => (v.inSlot sl).isNone && !nsMem sl v.g.quar

/-- Waiting requests in their order (19 R325). -/
def waitOrder (v : Srv) : List Nat :=
  let key (i : Nat) : Nat × Nat × Nat := let r := v.req i; (7 - r.f rqPRIO, r.f rqADMT, r.f rqID)
  let le (a b : Nat × Nat × Nat) : Bool :=
    decide (a.1 < b.1) || (a.1 == b.1 && (decide (a.2.1 < b.2.1) || (a.2.1 == b.2.1 && decide (a.2.2 ≤ b.2.2))))
  (v.mine.filter fun i => (v.req i).waiting).mergeSort fun a b => le (key a) (key b)

/-- Waiting requests admitted while a slot and some of the budget are left; how many were. -/
def letIn (v : Srv) : List Nat → Nat → Nat → Srv × Nat
  | [], _, n => (v, n)
  | i :: r, b, n =>
    match v.freeSlot with
    | none => (v, n)
    | some sl =>
      if b = 0 then (v, n)
      else
        let q0 := v.req i
        let look := q0.f rqNBLK == 0
        let v1 := if look then (v.onReq i fun r => r.put rqPOS 0).reuse i 0 0 ((q0.f rqKNOWN - 1) / 64) else v
        let q1 := v1.req i
        let q := min (q1.f rqKNOWN - q1.f rqPOS) b
        if q1.mark != 0 || q1.faulted || v1.tailBad q1 q then (v1.failWaiting i).letIn r b n
        else
          if v1.freeb < newBlocks q1 q + v1.copyReserve q1 q then
            let v2 := if look then v1.releaseAll i fun r => (((r.put rqNBLK 0).put rqPOS (q0.f rqPOS)).put rqTAIL (q0.f rqTAIL)) else v1
            v2.letIn r b n
          else
            let v2 := v1.grant i q
            if (v2.req i).faulted then (v2.failWaiting i).letIn r b n
            else (v2.onReq i fun r => { (r.put rqSTATE rsACTIVE).put rqSLOT sl with new := true }).letIn r (b - q) (n + 1)

/-! ## The slot table (19 R324) -/

/-- The entries of the slots, with the sum of the query tokens before each. -/
def slotEntries (v : Srv) : List Nat → Nat → List Nat
  | [], _ => []
  | sl :: r, off =>
    match v.inSlot sl with
    | none => (if nsMem sl v.g.quar then 2 ^ 51 else 0) :: v.slotEntries r off
    | some i =>
      let q := v.req i
      let n := q.f rqQTOK
      (q.f rqID + n * 2 ^ 32 + 2 ^ 48 + b2n q.new * 2 ^ 49 + b2n q.smp * 2 ^ 50 + (q.f rqPOS + n) % 2 ^ 32 * 2 ^ 64 + off % 2 ^ 32 * 2 ^ 96)
        :: v.slotEntries r (off + n)

def slotCount : Nat := 512

def writeSlots (v : Srv) : Srv :=
  let es := v.slotEntries (List.range slotCount) 0
  let kept := ((List.range slotCount).zip es).filterMap fun p => if p.2 = 0 then none else some (p.1, BitVec.ofNat 128 p.2)
  ({ v with g := { v.g with slots := kept } } : Srv).wr v.g.stab (es.flatMap fun e => leBytes e 16)

/-- LAST set and the status block written (19 R320). -/
def finish (v : Srv) (r : Nat) : Srv := ({ v with g := { v.g with last := BitVec.ofNat 64 (v.result r) } } : Srv).putStatus

/-! ## BFORM (19 R325) -/

def form (v : Srv) (itail : Nat) : Srv × Nat :=
  if v.g.opn then (v.finish svBUSY, svBUSY)
  else
    let left := v.g.leaving.length
    let v0 : Srv := { v with g := { v.g with step := v.g.step + 1, quar := v.g.leaving, leaving := [] } }
    let (v1, vac) := v0.vacate (List.range slotCount) left
    let v2 := v1.intake itail maxReqs
    let v3 := v2.wr (v2.g.mgd.toNat + 24) (leBytes v2.g.ihead.toNat 4)
    let (v4, ev) := v3.watermark slotCount 0
    let (v5, b) := v4.giveActive (List.range slotCount) v4.g.tokb
    let (v6, adm) := v5.letIn v5.waitOrder b 0
    let v7 := v6.writeSlots
    let r := svOK + adm % 1024 * 2 ^ 8 + vac % 1024 * 2 ^ 18 + ev % 1024 * 2 ^ 28
    (({ v7 with g := { v7.g with opn := true } } : Srv).finish r, r)

/-! ## BCOMMIT (19 R328) -/

/-- A block that became full: its key written, and the block inserted (19 R334); an error where the token log, the block list or a
control word cannot be read. -/
def sealBlock (v : Srv) (i k : Nat) : Except Srv Srv :=
  let r := v.req i
  let parent : Option Nat := if k = 0 then some 0 else ((v.blockAt r (k - 1)).bind v.ctl?).map ckKEY
  match v.blockAt r k, parent, v.rd (r.f rqTLOG + 256 * k) 256 with
  | some b, some p, some toks =>
    match v.ctl? b with
    | none => .error (v.failedRd (v.ctlAddr b) 32)
    | some n =>
      let n1 := n - ckKEY n + v.keyOf p toks
      let v1 := v.putCtl b n1
      .ok (if ckREF n = 1 && ckST n = 1 then v1.insert b n1 else v1)
  | _, _, _ => .error ((v.failedList r).failedRd (r.f rqTLOG + 256 * k) 256)

def sealBlocks (v : Srv) (i : Nat) : List Nat → Except Srv Srv
  | [] => .ok v
  | k :: r =>
    match v.sealBlock i k with
    | .ok v1 => v1.sealBlocks i r
    | .error v1 => .error v1

/-- The reason for which a request ends after its newest token; none where a hash cannot be computed. -/
def stopReason (v : Srv) (r : Req) (t : Nat) : Option (Option Nat) :=
  let gen := r.f rqKNOWN - r.f rqPLEN
  let length := if r.f rqMAXG ≤ gen then some fcLENGTH else none
  if (List.range 4).any fun k => r.f (rqSTOP k) == t && t != 0xFFFF_FFFF then some (some fcSTOP)
  else if 1 ≤ r.f rqSLEN && r.f rqSLEN ≤ gen then
    match v.rd (r.f rqTLOG + 4 * (r.f rqKNOWN - r.f rqSLEN)) (4 * r.f rqSLEN) with
    | none => none
    | some toks => some (if leNat ((sha256 toks).take 7) = r.f rqSHASH then some fcSTOPSEQ else length)
  else some length

/-- One slot committed, `e` its entry of the commit array; whether the request was retired, whether faulted. -/
def commitOne (v : Srv) (i e : Nat) : Srv × Nat × Nat :=
  let r := v.req i
  let failed (v : Srv) (c : Nat) : Srv × Nat × Nat := (v.onReq i fun r => r.fail c, 0, 1)
  if r.mark != 0 then failed v r.mark.toNat
  else
    let pos := r.f rqPOS
    let v1 := v.onReq i fun r => (r.put rqPOS (pos + r.f rqQTOK)).refill
    let full := (List.range ((pos + r.f rqQTOK) / 64 - pos / 64)).map (pos / 64 + ·)
    match v1.sealBlocks i full with
    | .error v2 => failed v2 fcKVFAULT
    | .ok v2 =>
      if !r.smp then (v2, 0, 0)
      else if nbit e 32 1 = 1 then failed v2 fcNAN
      else
        let t := nbit e 0 32
        match v2.ownWr (r.f rqTLOG + 4 * r.f rqKNOWN) (leBytes t 4) with
        | .error a => failed ((v2.failedRd a 4).record a) fcKVFAULT
        | .ok v3 =>
          let v4 := v3.onReq i fun r => (r.put rqKNOWN (r.f rqKNOWN + 1)).put rqLASTTOK t
          match v4.stopReason (v4.req i) t with
          | none => failed (let q := v4.req i; v4.failedRd (q.f rqTLOG + 4 * (q.f rqKNOWN - q.f rqSLEN)) (4 * q.f rqSLEN)) fcKVFAULT
          | some none => (v4, 0, 0)
          | some (some c) => (v4.onReq i fun r => r.retire c, 1, 0)

/-- Slots with V = 1 whose request is still active. -/
def slotHeld (v : Srv) (sl : Nat) : Option Nat :=
  if ((sget sl v.g.slots).getD 0).getLsbD 48 then (v.inSlot sl).filter fun i => (v.req i).active else none

/-- `ws` is the workspace of the strand, in which the commit array stands. -/
def commitAll (v : Srv) (ws : Wsid) (arr : Nat) : List Nat → Nat → Nat → Srv × Nat × Nat
  | [], ret, flt => (v, ret, flt)
  | sl :: r, ret, flt =>
    match v.slotHeld sl with
    | none => v.commitAll ws arr r ret flt
    | some i =>
      let (v1, a, b) := v.commitOne i (((v.rdIn ws (arr + 8 * sl) 8).map leNat).getD 0)
      v1.commitAll ws arr r (ret + a) (flt + b)

/-- Every copy reserve returned. -/
def returnReserves (v : Srv) : Srv :=
  v.mine.foldl (fun v i => match (v.req i).reserve with
    | some b => (v.release b).onReq i fun r => { r with reserve := none }
    | none => v) v

def commit (v : Srv) (ws : Wsid) (arr : Nat) : Srv × Nat :=
  if !v.g.opn then (v.finish svBUSY, svBUSY)
  else
    let held := (List.range slotCount).filter fun sl => (v.slotHeld sl).isSome
    if arr % 64 != 0 || decide (globalEnd ≤ arr) then (v.finish svBADARG, svBADARG)
    else match held.find? (fun sl => (v.rdIn ws (arr + 8 * sl) 8).isNone) with
    | some sl => ((v.failedIn ws (arr + 8 * sl) 8).finish svBADARG, svBADARG)
    | none =>
      let (v1, ret, flt) := v.commitAll ws arr (List.range slotCount) 0 0
      let v2 := v1.returnReserves
      let r := svOK + ret % 1024 * 2 ^ 8 + flt % 1024 * 2 ^ 18
      (({ v2 with g := { v2.g with opn := false } } : Srv).finish r, r)

/-! ## RQFORK (19 R339) -/

/-- The fields that a child takes from its parent. -/
def inherited : List RField := [rqPOS, rqPLEN, rqKNOWN, rqLASTTOK, rqNBLK, rqTAIL, rqTFILL]

/-- A request whose token log or block list a fork cannot read is faulted (19 R323). -/
def failParent (v : Srv) (p : Nat) : Srv := if (v.req p).active then v.fault p else v.failWaiting p

/-- `ws` is the workspace of the strand, in which the child's record stands. -/
def fork (v : Srv) (ws : Wsid) (child : Nat) : Srv × Nat :=
  if v.g.opn then (v, svBUSY)
  else if child % 128 != 0 || decide (globalEnd ≤ child) then (v, svBADARG)
  else match v.rdIn ws child 128 with
    | none => (v.failedIn ws child 128, svBADARG)
    | some bs =>
      let r := v.recordOf bs
      match v.find (r.f rqPARENT) with
      | none => (v, svNOTFOUND)
      | some p =>
        let pr := v.req p
        if !(pr.active || pr.waiting) || pr.f rqNBLK == 0 then (v, svSTATE)
        else if maxReqs ≤ v.s.reqs.length then (v, svNOREC)
        else if (v.intakeFault r true).isSome then (v, svBADARG)
        else match v.rd (pr.f rqTLOG) (4 * pr.f rqKNOWN), v.rd (pr.f rqBLIST) (4 * pr.f rqNBLK) with
          | some toks, some list =>
            let c := inherited.foldl (fun (c : Req) f => c.put f (pr.f f)) ((v.fresh r).put rqPARENT (pr.f rqID))
            let n := v.s.reqs.length
            let v1 := v.addReq c
            let v2 := (v1.own n (r.f rqTLOG) toks).own n (r.f rqBLIST) list
            if (v2.req n).faulted then (v2.onReq n fun c => c.put rqNBLK 0, svKVFAULT)
            else ((v2.blocksOf pr).foldl (fun v b => v.hold b) v2, svOK)
          | none, _ => ((v.failedRd (pr.f rqTLOG) (4 * pr.f rqKNOWN)).failParent p, svKVFAULT)
          | _, none => ((v.failedRd (pr.f rqBLIST) (4 * pr.f rqNBLK)).failParent p, svKVFAULT)

/-! ## RQEVICT, RQSTAT, SLOTRD (19 R340) -/

def evictReq (v : Srv) (x : Nat) : Srv × Nat :=
  if nbit x 33 31 != 0 then (v, svBADARG)
  else match v.find (nbit x 0 32) with
    | none => (v, svNOTFOUND)
    | some i =>
      let cancel := nbit x 32 1 == 1
      let r := v.req i
      if r.waiting then (if cancel then v.releaseAll i fun r => (r.retire fcCANCELLED).put rqNBLK 0 else v, svOK)
      else if r.active then (v.onReq i fun r => { r with evict := some cancel }, svOK)
      else (v, svSTATE)

/-- A record freed; a slot that it still holds is vacated. -/
def freeReq (v : Srv) (i : Nat) : Srv :=
  let sl := (v.req i).f rqSLOT
  let v1 := if sl = noSlot then v
    else
      let q := v.g.quar
      let w := v.leaveSlot i id
      { w with g := { w.g with quar := q, leaving := nsAdd sl w.g.leaving } }
  { v1 with s := { v1.s with reqs := v1.s.reqs.eraseIdx i } }

def statReq (v : Srv) (x : Nat) : Srv × Word :=
  if nbit x 37 27 != 0 then (v, BitVec.ofNat 64 svBADARG)
  else match v.find (nbit x 0 32) with
    | none => (v, BitVec.allOnes 64)
    | some i =>
      let r := v.req i
      (if nbit x 36 1 = 1 && r.ended then v.freeReq i else v, r.w.getD (nbit x 32 4) 0)

def readSlot (v : Srv) (x : Nat) : Word :=
  if nbit x 11 53 != 0 || decide (slotCount ≤ nbit x 0 10) then BitVec.ofNat 64 svBADARG
  else ((sget (nbit x 0 10) v.g.slots).getD 0).extractLsb' (64 * nbit x 10 1) 64

end Srv

/-! ## The instructions (19 R344) -/

/-- Engine operations of an agent launched before its last FENCE.E (10 R209). -/
def State.launchHeld (s : State) : Bool :=
  s.isCtx && ((s.tile.fenceHolds s.src s.th.fenceE) || s.tile.tq.any (fun o => o.src == s.src && !o.isStream && decide (o.fenceE < s.th.fenceE))
    || s.dattnBefore s.src s.th.fenceE)

/-- The checks before a serving instruction: the MGD's address, the order of its launch, reduced service (19 R344,
21 R354). -/
def State.serving (s : State) (m rd : Reg) (commit : Bool) (k : State → Done) : Done :=
  if s.acquiring then .wait .acquire s
  else s.globalObject (s.x m) 128 128 needLoad (
    if !s.fullService then s.answered commit rd (BitVec.ofNat 64 svBUSY) else k s)

/-- A further operand's address must be local (22 R360). -/
def State.localOperand (s : State) (va : Word) (k : Done) : Done :=
  match s.fabPlace s.ws.toNat va.toNat with
  | .node _ => Done.trapAt s trACCESS_FAULT va 0
  | _ => k

/-- A request applied to the group that `m` names: its value returned. -/
def State.applyGroup (s : State) (m rd : Reg) (commit : Bool) (f : Srv → Srv × Word) : Done :=
  match s.findGroup s.ws (s.x m) with
  | .error st => s.answered commit rd (BitVec.ofNat 64 st)
  | .ok v =>
    let (v1, r) := f v
    v1.close.answered commit rd (if v1.bad.isSome then BitVec.ofNat 64 svKVFAULT else r)

/-- A status as the value returned. -/
def asWord (p : Srv × Nat) : Srv × Word := (p.1, BitVec.ofNat 64 p.2)

/-- A group released by BFORM: its status block is written as after every BFORM (19 R319, R320, R345). -/
def State.releaseGroup (s : State) (g : Group) : State × Nat :=
  let v := ({ s := s, g := g, bad := none } : Srv).finish svOK
  (v.close.freeGroup g.pa, v.result svOK)

/-- What BFORM does, and the status or counts (19 R319, R325, R345). -/
def State.doBform (s : State) (ws : Wsid) (mgd : Word) : State × Nat :=
  match s.readMgd ws mgd with
  | none => (s, svBADGRP)
  | some (cfg, pa) =>
    let m := leNat cfg
    let formed (v : Srv) : State × Nat := let (v1, r) := v.form (mgItail m); (v1.close, v1.result r)
    match s.groupAt pa with
    | none => if mgEn m && decide (s.groups.length < maxGroups) then formed (s.bindGroup ws pa mgd cfg) else (s, svNOGROUP)
    | some g =>
      if g.faulted then (if mgEn m then (s, svKVFAULT) else s.releaseGroup g)
      else if !mgEn m && !s.reqs.any (·.gid == pa) then s.releaseGroup g
      else formed { s := s, g := g, bad := none }

def execBform (m : SMark) (rd rs1 rs2 : Reg) (s : State) : Out :=
  .next (issue (.bform m rd rs1 rs2) m false (fun s =>
    if s.launchHeld then .hold s
    else s.serving rs1 rd true fun s =>
      if s.storesOut s.src then .wait .stores s
      else
        let (s1, r) := s.doBform s.ws (s.x rs1)
        s1.requested rd (BitVec.ofNat 64 r)) s)

def execBcommit (m : SMark) (rd rs1 rs2 : Reg) (s : State) : Out :=
  .next (issue (.bcommit m rd rs1 rs2) m false (fun s =>
    if s.launchHeld then .hold s
    else s.serving rs1 rd true fun s => s.localOperand (s.x rs2) (
      if s.storesOut s.src then .wait .stores s
      else s.applyGroup rs1 rd true fun v => asWord (v.commit s.ws (s.x rs2).toNat))) s)

def execRqfork (m : SMark) (rd rs1 rs2 : Reg) (s : State) : Out :=
  .next (issue (.rqfork m rd rs1 rs2) m false (fun s =>
    s.serving rs1 rd true fun s => s.localOperand (s.x rs2) (
      if s.storesOut s.src then .wait .stores s
      else s.applyGroup rs1 rd true fun v => asWord (v.fork s.ws (s.x rs2).toNat))) s)

def execRqevict (m : SMark) (rd rs1 rs2 : Reg) (s : State) : Out :=
  .next (issue (.rqevict m rd rs1 rs2) m false (fun s =>
    s.serving rs1 rd true fun s => s.applyGroup rs1 rd true fun v => asWord (v.evictReq (s.x rs2).toNat)) s)

def execRqstat (m : SMark) (rd rs1 rs2 : Reg) (s : State) : Out :=
  .next (issue (.rqstat m rd rs1 rs2) m false (fun s =>
    s.serving rs1 rd false fun s => s.applyGroup rs1 rd false fun v => v.statReq (s.x rs2).toNat) s)

def execSlotrd (m : SMark) (rd rs1 rs2 : Reg) (s : State) : Out :=
  .next (issue (.slotrd m rd rs1 rs2) m false (fun s =>
    s.serving rs1 rd false fun s => s.applyGroup rs1 rd false fun v => (v, v.readSlot (s.x rs2).toNat)) s)

end Sys2Proof.Machine
end

