-- ==== Sys2Proof/Machine/KvCache.lean ====
section
/-! DEFINITION. Appending to the KV cache (19 R330, R335 to R338), the prefix table's instructions (19 R341). -/

namespace Sys2Proof.Machine

/-! ## Pages (19 R330) -/

def pageBytes : Nat := 8704

/-- The address of a block's page. -/
def Srv.pageAddr (v : Srv) (b layer head : Nat) : Nat :=
  v.g.kvbase + ((b * v.g.nlayer + layer) * v.g.nkvh + head) * pageBytes

/-- Offsets in a page: keys of a token, values of a channel, their scales. -/
def pgKey (t : Nat) : Nat := 64 * t
def pgVal (c : Nat) : Nat := 4096 + 32 * c
def pgKeyScale (t : Nat) : Nat := 8192 + 4 * t
def pgValScale (c j : Nat) : Nat := 8448 + 2 * c + j

/-- A 4-bit element, and a number with it replaced. -/
def nib (x i : Nat) : Nat := nbit x (4 * i) 4
def setNib (x i e : Nat) : Nat := putField x (4 * i) 4 e

/-- RoundNE(v / ScaleOf(e), E2M1), saturating (03 R70). -/
def toE2m1 (v : Exact) (e : Nat) : Nat := (TFmt.encode .e2m1 false .ne (unscaleBy e v)).1

/-- The four key groups of a token: the bytes of the elements, the scales (19 R335). -/
def keyGroups (ks : List Exact) : List Byte × List Byte :=
  let gs := (List.range 4).map fun k =>
    let g := (ks.drop (32 * k)).take 32
    let e := (chooseScale .e2m1 g).1
    (g.map fun v => toE2m1 v e, e)
  (leBytes (packElems 4 (gs.flatMap (·.1))) 64, gs.map fun g => BitVec.ofNat 8 g.2)

/-- A stored element scaled down by 2^d. -/
def shrinkE2m1 (x d : Nat) : Nat :=
  match e2m1.decode x with
  | .fin n m e st => (e2m1.round false .ne (.fin n m (e - d) st)).1
  | _ => x

/-- A value appended as token `u` of its group of 32: the group's elements, its scale, whether it was rescaled
(19 R336). -/
def appendValue (u old scale : Nat) (v : Exact) : Nat × Nat × Bool :=
  let eNew := (chooseScale .e2m1 [v]).1
  if u = 0 then (setNib old 0 (toE2m1 v eNew), eNew, false)
  else if scale < eNew then
    let down := (List.range u).foldl (fun x i => setNib x i (shrinkE2m1 (nib x i) (eNew - scale))) old
    (setNib down u (toE2m1 v eNew), eNew, true)
  else (setNib old u (toE2m1 v scale), scale, false)

namespace Srv

/-- Reads that must all succeed. -/
def rdAll (v : Srv) : List (Nat × Nat) → Option (List (List Byte))
  | [] => some []
  | (a, n) :: r => match v.rd a n, v.rdAll r with
    | some b, some l => some (b :: l)
    | _, _ => none

/-- Writes to pages; none where one is refused. -/
def wrAll (v : Srv) : List (Nat × List Byte) → Option Srv
  | [] => some v
  | (a, bs) :: r => match v.ownWr a bs with
    | .ok v1 => v1.wrAll r
    | .error _ => none

/-- Token `t` of channel `c` appended to a page: what is written, and whether the group was rescaled (19 R336). Only the bytes
of the tokens up to `t` are touched. -/
def appendChannel (v : Srv) (page t c : Nat) (x : Exact) : Option (List (Nat × List Byte) × Bool) :=
  let u := t % 32
  let spot := page + pgVal c + 16 * (t / 32)
  let mark := page + pgValScale c (t / 32)
  match v.rd (spot + u / 2) 1, (if u = 0 then some [0] else v.rd mark 1) with
  | some o, some e =>
    if u != 0 && decide (leNat e < (chooseScale .e2m1 [x]).1) then
      (v.rd spot (u / 2 + 1)).map fun b =>
        let r := appendValue u (leNat b) (leNat e) x
        ([(spot, leBytes r.1 (u / 2 + 1)), (mark, leBytes r.2.1 1)], true)
    else
      let r := appendValue u (leNat o * 2 ^ (8 * (u / 2))) (leNat e) x
      some ((spot + u / 2, leBytes (r.1 / 2 ^ (8 * (u / 2))) 1) :: (if u = 0 then [(mark, leBytes r.2.1 1)] else []), false)
  | _, _ => none

/-- What an append writes in the channels of a list, with whether any group was rescaled. -/
def appendChannels (v : Srv) (page t : Nat) (kv : List Exact) : List Nat → Option (List (Nat × List Byte) × Bool)
  | [] => some ([], false)
  | c :: r =>
    match v.appendChannel page t c (kv.getD (128 + c) .nan), v.appendChannels page t kv r with
    | some a, some b => some (a.1 ++ b.1, a.2 || b.2)
    | _, _ => none

/-- Token `t` appended to a page: 128 keys, then 128 values; whether a group was rescaled (19 R335, R336). -/
def appendPage (v : Srv) (page t : Nat) (kv : List Exact) : Option (Srv × Bool) :=
  let (keys, kscales) := keyGroups (kv.take 128)
  match v.appendChannels page t kv (List.range 128) with
  | none => none
  | some a => (v.wrAll ((page + pgKey t, keys) :: (page + pgKeyScale t, kscales) :: a.1)).map fun w => (w, a.2)

/-- Tokens 0 to `n - 1` of one page copied to another (19 R338): of the token slots beyond them nothing is read
(19 R330), and where the last byte of a channel holds one, the target's keeps its value. -/
def copyPage (v : Srv) (a b n : Nat) : Option Srv :=
  let chans := List.range 128
  let spans := (pgKey 0, 64 * n) :: (pgKeyScale 0, 4 * n) :: chans.map (fun c => (pgVal c, (n + 1) / 2))
    ++ chans.map fun c => (pgValScale c 0, (n + 31) / 32)
  let edges := if n % 2 = 1 then chans.map fun c => (b + pgVal c + n / 2, 1) else []
  match v.rdAll (spans.map fun p => (a + p.1, p.2)), v.rdAll edges with
  | some bs, some olds =>
    let lay (p : (Nat × Nat) × List Byte) : Nat × List Byte :=
      match (if n % 2 = 1 then olds[(p.1.1 - pgVal 0) / 32]? else none) with
      | some o => if pgVal 0 ≤ p.1.1 && p.1.1 < pgKeyScale 0 then
          (b + p.1.1, leBytes (leNat p.2 % 2 ^ (4 * n) + leNat o / 16 * 2 ^ (4 * n)) p.2.length) else (b + p.1.1, p.2)
      | none => (b + p.1.1, p.2)
    v.wrAll ((spans.zip bs).map lay)
  | _, _ => none

/-- Every page of a block copied. -/
def copyBlock (v : Srv) (a b n : Nat) : List (Nat × Nat) → Option Srv
  | [] => some v
  | (l, h) :: r => match v.copyPage (v.pageAddr a l h) (v.pageAddr b l h) n with
    | some v1 => v1.copyBlock a b n r
    | none => none

/-- The layers and heads of a block. -/
def pagesOf (v : Srv) : List (Nat × Nat) := (List.range v.g.nlayer).flatMap fun l => (List.range v.g.nkvh).map fun h => (l, h)

/-- The block that an append of request `i` to block `k` of its list writes: the block itself, or a copy of a shared one in
the request's reserve (19 R338), and whether it was copied; none where something fails. -/
def appendBlock (v : Srv) (i k : Nat) : Srv × Option (Nat × Bool) :=
  let r := v.req i
  match v.blockAt r k with
  | none => (v, none)
  | some b =>
    match v.ctl? b with
    | none => (v, none)
    | some n =>
      if ckREF n ≤ 1 then (v, some (b, false))
      else match r.reserve with
        | none => (v, none)
        | some c =>
          match v.copyBlock b c (r.fill k) v.pagesOf with
          | none => (v.pagesOf.foldl (fun v p => (v.failedRd (v.pageAddr b p.1 p.2) pageBytes).failedRd (v.pageAddr c p.1 p.2) pageBytes) v, none)
          | some v1 =>
            let v2 := v1.putCtl b (ckSet n (ckREF n - 1) (ckST n))
            let (m, v3) := v2.ctl c
            let v4 := (v3.putCtl c (ckSet m 1 1)).onReq i fun r =>
              { r.put rqTAIL c with reserve := none }
            match v4.ownWr (r.f rqBLIST + 4 * k) (leBytes c 4) with
            | .ok v5 => (v5, some (c, true))
            | .error a => ((v4.failedRd a 4).record a, none)

/-- What KVAPP does with 512 bytes, and its value (19 R335). -/
def append (v : Srv) (x : Nat) (bytes : List Byte) : Srv × Nat :=
  let sl := nbit x 0 10
  let q := nbit x 10 16
  let e := ((sget sl v.g.slots).getD 0).toNat
  let held := if nbit e 48 1 = 1 then v.inSlot sl else none
  match (if v.g.opn then held else none) with
  | none => (v.dropSlotless, svNOSLOT)
  | some i =>
    let layer := nbit x 26 16
    let head := nbit x 42 8
    if nbit x 50 14 != 0 || decide (nbit e 32 16 ≤ q) || decide (v.g.nlayer ≤ layer) || decide (v.g.nkvh ≤ head) then (v, svBADARG)
    else
      let p := (v.req i).f rqPOS + q
      let kv := (List.range 256).map fun k => bf16.decode (leNat ((bytes.drop (2 * k)).take 2))
      match v.appendBlock i (p / 64) with
      | (v1, none) => ((v1.failedList (v1.req i)).markKv i, svKVFAULT)
      | (v1, some (b, copied)) =>
        match v1.appendPage (v1.pageAddr b layer head) (p % 64) kv with
        | none => ((v1.failedRd (v1.pageAddr b layer head) pageBytes).markKv i, svKVFAULT)
        | some (v2, rescaled) =>
          let v3 := if rescaled then v2.onReq i fun r => r.put rqRESCALE (satInc (r.f rqRESCALE) 0xFFFF) else v2
          (v3, svOK + b2n copied * 2 ^ 8 + b2n rescaled * 2 ^ 9)

/-- KVLOOK of a key in memory of the issuing workspace (19 R341). -/
def lookup (v : Srv) (key : Nat) : Srv × Word :=
  match v.look key with
  | (none, v1) => (v1, 1#64 <<< 63)
  | (some h, v1) => (v1.pin key h, BitVec.ofNat 64 (peBID h.2))

/-- KVREL (19 R341). -/
def drop (v : Srv) (x : Nat) : Srv × Nat :=
  let b := nbit x 0 32
  if nbit x 32 32 != 0 || decide (v.g.nblks ≤ b) then (v, svBADARG)
  else match v.ctl? b with
    | none => ((v.failedRd (v.ctlAddr b) 32).note (v.ctlAddr b), svKVFAULT)
    | some n => if ckREF n = 0 then (v, svBADARG) else (v.release b, svOK)

end Srv

/-! ## The instructions -/

def execKvapp (m : SMark) (rd rs1 rs2 : Reg) (s : State) : Out :=
  .next (issue (.kvapp m rd rs1 rs2) m false (fun s =>
    let va := s.x rd
    if s.acquiring then .wait .acquire s
    else if s.launchHeld then .hold s
    else s.globalObject (s.x rs1) 128 128 needLoad (
      if accessRegion va.toNat 512 != .tile then Done.trapAt s trACCESS_FAULT va 0
      else if va.toNat % 64 != 0 then Done.trapAt s trMISALIGNED va 0
      else s.readNow va.toNat 512 fun s1 bytes =>
        s1.serving rs1 rd true fun s => s.applyGroup rs1 rd true fun v => asWord (v.append (s.x rs2).toNat bytes))) s)

def execKvlook (m : SMark) (rd rs1 rs2 : Reg) (s : State) : Out :=
  .next (issue (.kvlook m rd rs1 rs2) m false (fun s =>
    s.serving rs1 rd true fun s => s.localOperand (s.x rs2) (
      let a := (s.x rs2).toNat
      s.applyGroup rs1 rd true fun v =>
        if a % 16 != 0 || decide (globalEnd ≤ a) then (v, BitVec.ofNat 64 svBADARG)
        else
          let seen : Srv := { v with s := v.s.vsee s.ws.toNat a 16 }
          match s.vread s.ws.toNat a 16 with
          | .ok (bs, false) => seen.lookup (leNat bs)
          | _ => (seen, BitVec.ofNat 64 svBADARG))) s)

def execKvrel (m : SMark) (rd rs1 rs2 : Reg) (s : State) : Out :=
  .next (issue (.kvrel m rd rs1 rs2) m false (fun s =>
    s.serving rs1 rd true fun s => s.applyGroup rs1 rd true fun v => asWord (v.drop (s.x rs2).toNat)) s)

end Sys2Proof.Machine
end

