-- ==== Sys2Proof/Machine/Dattn.lean ====
section
/-! DEFINITION. Decode attention (19 R342, R343). -/

namespace Sys2Proof.Machine

/-! ## The descriptor (19 R342) -/

def daMGD (d : Nat) : Word := BitVec.ofNat 64 (nbit d 0 64)
def daSLIST (d : Nat) : Nat := nbit d 64 64
def daNSL (d : Nat) : Nat := nbit d 128 10
def daLAYER (d : Nat) : Nat := nbit d 144 16
def daGQA (d : Nat) : Nat := nbit d 160 6
def daQTID (d : Nat) : BitVec 10 := BitVec.ofNat 10 (nbit d 192 10)
def daOTID (d : Nat) : BitVec 10 := BitVec.ofNat 10 (nbit d 208 10)
def daSCALE (d : Nat) : Nat := nbit d 224 32
def daDCNT (d : Nat) : Word := BitVec.ofNat 64 (nbit d 256 64)

/-- A malformed descriptor for a group's layers. -/
def daBad (d nlayer : Nat) : Bool :=
  nbit d 138 6 != 0 || nbit d 166 26 != 0 || nbit d 202 6 != 0 || nbit d 218 6 != 0 || nbit d 362 150 != 0
  || daNSL d == 0 || decide (512 < daNSL d) || daGQA d == 0 || decide (nlayer ≤ daLAYER d)
  || daSLIST d % 2 != 0 || decide (globalEnd ≤ daSLIST d)

/-- A tensor entry for queries or outputs: BF16 in 128 columns. -/
def daTensorBad (e : List Byte) : Bool :=
  let t := entOf e
  t.malformed || t.f != { fmt := 0, w32 := false } || t.colsT != 128

/-- Descriptors in the queues of a die's engines. -/
def dattnSlots : Nat := 16

/-- What DATTN does once its order holds (19 R342). -/
def State.launchDattn (s : State) (rd : Reg) (addr : Word) (desc : List Byte) : Done :=
  let d := leNat desc
  let answer (s : State) (st : Nat) : Done := .commit (s.setX rd (BitVec.ofNat 64 st))
  match s.findGroup s.ws (daMGD d) with
  | .error st => answer s st
  | .ok v =>
    match s.ttRead s.who s.curTile s.ws (daQTID d) with
    | .wait w s1 => Done.waits w s1
    | .trap _ _ s1 | .ok (s1, none) => answer s1 svBADARG
    | .ok (s1, some qe) =>
      match s1.ttRead s1.who s1.curTile s1.ws (daOTID d) with
      | .wait w s2 => Done.waits w s2
      | .trap _ _ s2 | .ok (s2, none) => answer s2 svBADARG
      | .ok (s2, some oe) =>
        if daBad d v.g.nlayer || daTensorBad qe || daTensorBad oe then answer s2 svBADARG
        else match s2.vread s2.ws.toNat (daSLIST d) (2 * daNSL d) with
          | .ok (l, false) =>
            let die := s2.curTile / 256
            if dattnSlots ≤ (s2.die die).dattn.length then answer s2 svBUSY
            else
              let o : DattnOp :=
                { src := s2.src, addr := addr, gid := v.g.pa, desc := desc, slist := chop 2 (daNSL d) l, qe := qe, oe := oe,
                  fenceE := s2.th.fenceE }
              let s3 := s2.vsee s2.ws.toNat (daSLIST d) (2 * daNSL d)
              answer (s3.setDie die { s3.die die with dattn := (s3.die die).dattn ++ [o] }) svOK
          | _ => answer (s2.vsee s2.ws.toNat (daSLIST d) (2 * daNSL d)) svBADARG

/-- DATTN is no switch point: its release keeps issue (02 R28). -/
def execDattn (m : SMark) (rd rs1 rs2 : Reg) (s : State) : Out :=
  .next (issue (.dattn m rd rs1 rs2) m false (fun s =>
    if s.acquiring then .wait .acquire s
    else s.globalObject (s.x rs1) 64 64 needLoad (if !s.released s.th.outs s.src .pkg then .hold s
      else if !s.fullService then .commit (s.setX rd (BitVec.ofNat 64 svBUSY))
      else s.readNow (s.x rs1).toNat 64 fun s1 desc => s1.launchDattn rd (s1.x rs1) desc)) s)

/-! ## The rows (19 R343) -/

def fadd32 (a b : Nat) : Nat := (fp32.add .ne a b).1
def fmul32 (a b : Nat) : Nat := (fp32.mul .ne a b).1
def neg32 (a : Nat) : Nat := fp32.flipSign a
def ninf32 : Nat := 0xFF80_0000

/-- Exp of R343. -/
def expR (x : Nat) : Nat := (exp2E fp32 .ne (fmul32 x 0x3FB8_AA3B)).1

/-- An element of a page with its scale. -/
def scaledE2m1 (x e : Nat) : Exact := (scaleBy e (TFmt.decode .e2m1 x)).1

/-- The score of a query against a key row with its four scales. -/
def dotRow (qs ks : List Exact) (scale : Nat) : Nat :=
  let g (k : Nat) : Exact := (stepSum (((qs.drop (32 * k)).take 32).zip ((ks.drop (32 * k)).take 32))).1
  let d0 := (fp32.round false .ne (g 0)).1
  let d := [1, 2, 3].foldl (fun d k => (fp32.round false .ne (Exact.add .ne (fp32.decode d) (g k)).1).1) d0
  fmul32 d scale

/-- A position's keys and values of a page. -/
structure KvToken where
  ks : List Exact
  vs : List Exact
  deriving DecidableEq, Repr

/-- Position `t` of a page, read as far as it can be. -/
def Srv.tokenAt (v : Srv) (page t : Nat) : Option KvToken :=
  match v.rd (page + pgKey t) 64, v.rd (page + pgKeyScale t) 4,
      v.rdAll ((List.range 128).map fun c => (page + pgVal c + t / 2, 1)), v.rdAll ((List.range 128).map fun c => (page + pgValScale c (t / 32), 1)) with
  | some k, some ks, some vs, some vss =>
    let kn := leNat k
    let sn := leNat ks
    some { ks := (List.range 128).map fun c => scaledE2m1 (nib kn c) (nbit sn (8 * (c / 32)) 8)
           vs := (vs.zip vss).map fun p => scaledE2m1 (nbit (leNat p.1) (4 * (t % 2)) 4) (leNat p.2) }
  | _, _, _, _ => none

/-- The running values of a row: m, l and the 128 sums. -/
structure RowAcc where
  m : Nat
  l : Nat
  a : List Nat
  deriving DecidableEq, Repr

def RowAcc.add (r : RowAcc) (sc : Nat) (vs : List Exact) : RowAcc :=
  let m' := (fp32.minmax true r.m sc).1
  let w := if r.m = ninf32 then 0 else expR (fadd32 r.m (neg32 m'))
  let p := expR (fadd32 sc (neg32 m'))
  { m := m', l := fadd32 (fmul32 r.l w) p
    a := (r.a.zip vs).map fun x => fadd32 (fmul32 x.1 w) (fp32.round false .ne (Exact.mul (fp32.decode p) x.2).1).1 }

/-- Positions `u` of a row taken in order. -/
def rowSum (qs : List Exact) (scale : Nat) (ts : List KvToken) : RowAcc :=
  ts.foldl (fun r t => r.add (dotRow qs t.ks scale) t.vs) { m := ninf32, l := 0, a := List.replicate 128 0 }

def RowAcc.out (r : RowAcc) : List Nat := r.a.map fun x =>
  (bf16.round false .ne (Exact.div (fp32.decode x) (fp32.decode r.l)).1).1

/-- The tokens of positions 0 to `n - 1` of a request for a layer and a KV head. -/
def Srv.tokensOf (v : Srv) (r : Req) (layer head : Nat) : List Nat → Option (List KvToken)
  | [] => some []
  | u :: rest => match v.blockAt r (u / 64) with
    | none => none
    | some b => match v.tokenAt (v.pageAddr b layer head) (u % 64), v.tokensOf r layer head rest with
      | some t, some l => some (t :: l)
      | _, _ => none

/-- Row `r` of the queries, the pad where a column is out of view (08 R171). -/
def State.queryRow (s : State) (ws : Nat) (t : TEnt) (row : Nat) : Option (List Exact) :=
  let vals := (List.range 128).map fun j => match s.coords ws t row j with
    | none => some (t.pad % 2 ^ 16)
    | some c => match s.vread ws (t.bitAddr c / 8) 2 with
      | .ok (b, false) => some (leNat b)
      | _ => none
  if vals.all (·.isSome) then some (vals.map fun x => bf16.decode (x.getD 0)) else none

/-- Row `r` of the outputs written; what is out of view is dropped. -/
def State.outputRow (s : State) (ws : Nat) (t : TEnt) (row : Nat) (vals : List Nat) : Option State :=
  ((List.range 128).zip vals).foldl (fun (acc : Option State) p => acc.bind fun s =>
    match s.coords ws t row p.1 with
    | none => some s
    | some c => match s.vwrite ws (t.bitAddr c / 8) (leBytes p.2 2) with
      | .ok s1 => some s1
      | .error _ => none) (some s)

/-- The rows of one slot: row, query index, head. -/
def slotRows (qoff qtok nh : Nat) : List (Nat × Nat × Nat) :=
  (List.range qtok).flatMap fun q => (List.range nh).map fun h => ((qoff + q) * nh + h, q, h)

/-- The values of every row of a slot; none where a page or a query cannot be read. -/
def Srv.slotValues (v : Srv) (o : DattnOp) (r : Req) (kvlen qtok : Nat) (rows : List (Nat × Nat × Nat)) : Option (List (List Nat)) :=
  let d := leNat o.desc
  rows.foldr (fun p (acc : Option (List (List Nat))) =>
    match acc, v.s.queryRow o.src.ws.toNat (entOf o.qe) p.1,
        v.tokensOf r (daLAYER d) (p.2.2 / daGQA d) (List.range (kvlen - qtok + p.2.1 + 1)) with
    | some l, some qs, some ts => some ((rowSum qs (daSCALE d) ts).out :: l)
    | _, _, _ => none) (some [])

/-- The rows written; the state, and whether a write was refused. -/
def State.putRows (s : State) (o : DattnOp) : List (Nat × List Nat) → Bool → State × Bool
  | [], bad => (s, bad)
  | (row, vals) :: r, bad => match s.outputRow o.src.ws.toNat (entOf o.oe) row vals with
    | some s1 => s1.putRows o r bad
    | none => s.putRows o r true

/-- The reads of the queries and of a request's pages that failed (18 R313, log 71). -/
def Srv.failedSlot (v : Srv) (o : DattnOp) (r : Req) (rows : List Nat) : Srv :=
  let d := leNat o.desc
  let t := entOf o.qe
  let v1 := rows.foldl (fun v row => (List.range 128).foldl (fun v j => match v.s.coords o.src.ws.toNat t row j with
    | some c => match v.s.vread o.src.ws.toNat (t.bitAddr c / 8) 2 with
      | .ok (_, false) => v
      | _ => v.failedIn o.src.ws (t.bitAddr c / 8) 2
    | none => v) v) v
  let v2 := v1.failedList r
  (v2.blocksOf r).foldl (fun v b => (List.range v.g.nkvh).foldl (fun v h =>
    if (v.rd (v.pageAddr b (daLAYER d) h) pageBytes).isSome then v else v.failedRd (v.pageAddr b (daLAYER d) h) pageBytes) v) v2

/-- One listed slot: the group and the package after it, and whether it faulted (19 R342). -/
def Srv.attendSlot (v : Srv) (o : DattnOp) (sl : Nat) : Srv × Bool :=
  let e := ((sget sl v.g.slots).getD 0).toNat
  match (if nbit e 48 1 = 1 then v.inSlot sl else none) with
  | none => (v.dropSlotless, false)
  | some i =>
    let rows := slotRows (nbit e 96 32) (nbit e 32 16) (v.g.nkvh * daGQA (leNat o.desc))
    let vals := v.slotValues o (v.req i) (nbit e 64 32) (nbit e 32 16) rows
    let out := match vals with
      | some l => (rows.map (·.1)).zip l
      | none => rows.map fun p => (p.1, List.replicate 128 0x7FC0)
    let v0 := if vals.isNone then v.failedSlot o (v.req i) (rows.map (·.1)) else v
    let (s1, bad) := v0.s.putRows o out false
    let v1 : Srv := { v0 with s := s1 }
    if vals.isNone || bad then (v1.markKv i, true) else (v1, false)

def Srv.attendAll (v : Srv) (o : DattnOp) : List Nat → Nat → Srv × Nat
  | [], n => (v, n)
  | sl :: r, n => let (v1, bad) := v.attendSlot o sl; v1.attendAll o r (n + b2n bad)

/-- The oldest descriptor of a die performed and ended: DSTAT and NFLT written, DCNT signalled (19 R342). A descriptor
whose group has been released finds no slots. -/
def State.doDattn (s : State) (die : Nat) : State :=
  match (s.die die).dattn with
  | [] => s
  | o :: rest =>
    let t := s.tileAt o.src.tile
    let earlier := s.fenceHolds o.src.tile o.src o.fenceE || t.tq.any fun p => p.src == o.src && !p.isStream && decide (p.fenceE < o.fenceE)
    if earlier then s
    else
      let s0 := s.setDie die { s.die die with dattn := rest }
      let (s1, nflt) := match s0.groupAt o.gid with
        | none => (s0, 0)
        | some g =>
          let (v, n) := ({ s := s0, g := g, bad := none } : Srv).attendAll o o.slist 0
          (v.close, n)
      let dstat := (if nflt = 0 then 0 else 1) + nflt * 2 ^ 32
      let s2 := s1.vput o.src.ws.toNat (o.addr.toNat + 40) 8 dstat
      let cnt := daDCNT (leNat o.desc)
      if cnt = 0 then s2 else s2.sendSignals (s2.ltidOf o.src.tile) o.src.ws [cnt]

def execDattnCompletion (die : Fin 4) (s : State) : Out := .next (s.doDattn die.val)

end Sys2Proof.Machine
end

