-- ==== Sys2Proof/Machine/Furrow.lean ====
section
/-! DEFINITION. Furrows: FOPEN, FSEND, FRECV, FCLOSE (10 R215, R216), the delivery of data and credit (10 R217), what a severed
furrow answers (10 R218). -/

namespace Sys2Proof.Machine

/-- Endpoint number of a register (10 R216). -/
def epOf (w : Word) : Fin 4 := ⟨nbit w.toNat 0 2, by unfold nbit; omega⟩

def Tile.setSource (t : Tile) (ep : Fin 4) (f : Option FSource) : Tile := { t with fsrc := t.fsrc.set ep f }
def Tile.setSink (t : Tile) (ep : Fin 4) (f : Option FSink) : Tile := { t with fsink := t.fsink.set ep f }

/-- A source or a sink endpoint as an agent of a workspace may use it. -/
def Tile.sourceOf (t : Tile) (ws : Wsid) (ep : Fin 4) : Option FSource := t.fsrc[ep].filter (·.ws == ws)
def Tile.sinkOf (t : Tile) (ws : Wsid) (ep : Fin 4) : Option FSink := t.fsink[ep].filter (·.ws == ws)

def stSEVERED : Nat := 1
def stFCLOSED : Nat := 2
def stNOTOPEN : Nat := 3

/-! ## FOPEN (10 R215, 11 R230) -/

/-- A furrow opened through tiles that are in notice pending or moving: its ends receive their notices. -/
def State.noticeFurrow (s : State) (f : Furrow) : State :=
  (s.routersOn f.src f.sink).foldl (fun s t =>
    let l := s.ltidOf t
    if 2 ≤ (s.role l).cstate.toNat then s.sendNotices l (furrowEnds f) else s) s

def State.openFurrow (s : State) (ws : Wsid) (l : Nat) (sinkEp : BitVec 2) (ep : Fin 4) (depth : Nat) : State :=
  let n := s.curTile
  let k := (s.role l).ptile.toNat
  let fid := s.fresh
  let src : FSource := { fid := fid, ws := ws, sinkTile := k, sinkLtid := BitVec.ofNat 12 l, sinkEp := sinkEp, credit := depth,
                         accepted := 0, severed := false, closed := false }
  let snk : FSink := { fid := fid, ws := ws, srcTile := n, srcEp := BitVec.ofNat 2 ep.val, depth := depth, buf := [], severed := false,
                       drained := false, closed := false }
  let s1 := { s with fresh := s.fresh + 1 }.setTile n (s.tile.setSource ep (some src))
  let s2 := s1.setTile k ((s1.tileAt k).setSink ⟨sinkEp.toNat, sinkEp.isLt⟩ (some snk))
  s2.noticeFurrow { fid := fid, ws := ws, src := n, srcEp := ep, sink := k, sinkEp := sinkEp }

/-- The open furrow of this tile and workspace that holds a sink endpoint. -/
def State.heldFurrow (s : State) (ws : Wsid) (l : Nat) (sinkEp : BitVec 2) : Option (Fin 4) :=
  (List.finRange 4).find? fun ep => (s.tile.sourceOf ws ep).any fun f =>
    f.sinkLtid.toNat == l && f.sinkEp == sinkEp && !f.severed && !f.closed

/-- FOPEN at the sink's interface: the state, the source endpoint and the status. -/
def State.fopen (s : State) (ws : Wsid) (a depth : Word) : State × Nat × Nat :=
  let l := nbit a.toNat 0 12
  let sinkEp := a.extractLsb' 12 2
  let e := s.role l
  if depth == 0 || decide (256 < depth.toNat) || nbit a.toNat 14 50 != 0 then (s, 0, 4)
  else match s.heldFurrow ws l sinkEp with
    | some ep => (s, ep.val, 0)
    | none =>
      if !e.v || e.role != 0 then (s, 0, 2)
      else if ((s.tileAt e.ptile.toNat).fsink[sinkEp.toNat]'sinkEp.isLt).isSome then (s, 0, 1)
      else match (List.finRange 4).find? fun ep => (s.tile.fsrc[ep]).isNone with
        | none => (s, 0, 3)
        | some ep => (s.openFurrow ws l sinkEp ep depth.toNat, ep.val, 0)

def execFopen (m : SMark) (rd rs1 rs2 : Reg) (s : State) : Out :=
  .next (issue (.fopen m rd rs1 rs2) m false (fun s =>
    let r := s.fopen s.ws (s.x rs1) (s.x rs2)
    r.1.answered false rd (BitVec.ofNat 64 (r.2.1 + r.2.2 * 2 ^ 8))) s)

/-! ## FSEND (10 R216 to R218) -/

/-- FSEND commits whatever it returns (01 R20). Without credit it is a switch point; its release keeps issue (02 R28). -/
def State.fsend (s : State) (rd : Reg) (ep : Fin 4) (v : Word) : Done :=
  match s.tile.sourceOf s.ws ep with
  | none => .commit (s.setX rd (BitVec.ofNat 64 stNOTOPEN))
  | some f =>
    let free := s.putTile (s.tile.setSource ep none)
    if f.severed then .commit (free.setX rd (BitVec.ofNat 64 (stSEVERED + f.accepted % 2 ^ 32 * 2 ^ 32)))
    else if f.closed then .commit (free.setX rd (BitVec.ofNat 64 stFCLOSED))
    else
      let sc := tileScope s.curTile f.sinkTile
      if f.credit = 0 then .wait (.credit (BitVec.ofNat 2 ep.val)) s
      else if !s.released s.th.outs s.src sc then .hold s
      else
        let s1 := s.putTile (s.tile.setSource ep (some { f with credit := f.credit - 1 }))
        let (s2, worm) := s1.inject s.curTile f.sinkTile
        .commit ({ s2 with flights := s2.flights ++ [Flight.fdatum s.src f.fid f.sinkTile f.sinkEp (some v) worm] }.setX rd 0)

def execFsend (m : SMark) (rd rs1 rs2 : Reg) (s : State) : Out :=
  .next (issue (.fsend m rd rs1 rs2) m false (fun s => s.fsend rd (epOf (s.x rs1)) (s.x rs2)) s)

/-! ## FRECV (10 R216 to R218) -/

/-- The next datum taken: the word is written, a credit returns, and what the sender released is acquired. -/
def State.takeDatum (s : State) (rd : Reg) (ep : Fin 4) (va : Word) (f : FSink) (v : Word × Bool) (rest : List (Word × Bool)) : Done :=
  s.tileObject va 8 fun s off =>
    let s1 := s.noteObject va 8
    let t := (s1.tile.putNat off 8 v.1.toNat).setSink ep (some { f with buf := rest })
    let s2 := s1.putTile (if v.2 then { t with poison := nsAdd (off / 8) t.poison } else t)
    let s3 := { s2 with flights := s2.flights ++ [Flight.fcredit f.fid f.srcTile f.srcEp] }
    let s4 := if wideScope (tileScope f.srcTile s.curTile) then s3.selfInvalidate s.curTile else s3
    .commit (s4.setX rd 0)

def State.frecv (s : State) (rd : Reg) (ep : Fin 4) (va : Word) : Done :=
  match s.tile.sinkOf s.ws ep with
  | none => .ok (s.setX rd (BitVec.ofNat 64 stNOTOPEN))
  | some f =>
    let free := s.putTile (s.tile.setSink ep none)
    if f.severed then
      .ok ((s.putTile (s.tile.setSink ep (some { f with severed := false, drained := true }))).setX rd
        (BitVec.ofNat 64 (stSEVERED + f.buf.length % 256 * 2 ^ 8)))
    else match f.buf with
      | v :: rest => s.takeDatum rd ep va f v rest
      | [] =>
        if f.closed then .ok (free.setX rd (BitVec.ofNat 64 stFCLOSED))
        else if f.drained && !s.flights.any (Flight.ofFurrow f.fid) then .ok (free.setX rd (BitVec.ofNat 64 stNOTOPEN))
        else .wait (.datum (BitVec.ofNat 2 ep.val)) s

def execFrecv (m : SMark) (rd rs1 rs2 : Reg) (s : State) : Out :=
  .next (issue (.frecv m rd rs1 rs2) m false (fun s => s.frecv rd (epOf (s.x rs1)) (s.x rs2)) s)

/-! ## FCLOSE (10 R216, 11 R231) -/

/-- The source endpoint of a furrow that its sink closes. -/
def State.closeSource (s : State) (f : FSink) : State :=
  let t := s.tileAt f.srcTile
  let ep : Fin 4 := ⟨f.srcEp.toNat, f.srcEp.isLt⟩
  s.setTile f.srcTile (t.setSource ep (t.fsrc[ep].map fun (x : FSource) => if x.fid = f.fid then { x with closed := true } else x))

def State.fclose (s : State) (a : Word) : State × Nat :=
  let ep := epOf a
  if a.getLsbD 8 then
    match s.tile.sinkOf s.ws ep with
    | none => (s, stNOTOPEN)
    | some f => (((s.putTile (s.tile.setSink ep none)).closeSource f).furrowClosed, 0)
  else
    match s.tile.sourceOf s.ws ep with
    | none => (s, stNOTOPEN)
    | some f =>
      let (s1, worm) := (s.putTile (s.tile.setSource ep none)).inject s.curTile f.sinkTile
      (({ s1 with flights := s1.flights ++ [Flight.fdatum s.src f.fid f.sinkTile f.sinkEp none worm] }).furrowClosed, 0)

def execFclose (m : SMark) (rd rs1 rs2 : Reg) (s : State) : Out :=
  .next (issue (.fclose m rd rs1 rs2) m false (fun s =>
    let r := s.fclose (s.x rs1)
    .ok (r.1.setX rd (BitVec.ofNat 64 r.2))) s)

/-! ## Delivery (10 R216, R217) -/

/-- A datum accepted into the sink buffer counts at the source, unless a sever has counted it. -/
def FSource.accept (fid : Nat) (x : FSource) : FSource :=
  if x.fid = fid && !x.severed then { x with accepted := x.accepted + 1 } else x

def FSource.repay (fid : Nat) (x : FSource) : FSource := if x.fid = fid then { x with credit := x.credit + 1 } else x

def Tile.mapSource (t : Tile) (ep : BitVec 2) (g : FSource → FSource) : Tile :=
  t.setSource ⟨ep.toNat, ep.isLt⟩ ((t.fsrc[ep.toNat]'ep.isLt).map g)

/-- A datum of a furrow keeps behind the earlier ones (10 R217). -/
def State.keepsOrder (s : State) (n fid : Nat) (w : Worm) : Bool :=
  (s.flights.take n).all fun f => !f.ofFurrow fid || f.worm?.any fun x => decide (x.path.length ≤ w.path.length)

/-- A datum or a close marker takes its next hop, or reaches the sink, in the order of sending; where the sink is no longer
there it is discarded. -/
def State.doDatum (s : State) (n : Nat) : State :=
  match s.flights[n]? with
  | some (.fdatum o fid sink sinkEp v w) =>
    match s.advance w with
    | some w1 => if s.keepsOrder n fid w1 then s.putFlight n (.fdatum o fid sink sinkEp v w1) else s
    | none =>
    if (s.flights.take n).any (Flight.ofFurrow fid) then s
    else
      let s1 := { s with flights := s.flights.eraseIdx n }
      let t := s1.tileAt sink
      let ep : Fin 4 := ⟨sinkEp.toNat, sinkEp.isLt⟩
      match t.fsink[ep] with
      | none => s1
      | some f =>
        if f.fid != fid then s1
        else match v with
          | none => s1.setTile sink (t.setSink ep (some { f with closed := true }))
          | some d =>
            let s2 := s1.setTile sink (t.setSink ep (some { f with buf := f.buf ++ [(d, !w.bad.isEmpty)] }))
            s2.setTile f.srcTile ((s2.tileAt f.srcTile).mapSource f.srcEp (FSource.accept fid))
  | _ => s

def execFurrowDatumArrival (n : Nat) (s : State) : Out := .next (s.doDatum n)

def State.doCredit (s : State) (n : Nat) : State :=
  match s.flights[n]? with
  | some (.fcredit fid tile ep) =>
    let s1 := { s with flights := s.flights.eraseIdx n }
    s1.setTile tile ((s1.tileAt tile).mapSource ep (FSource.repay fid))
  | _ => s

def execCreditReturn (n : Nat) (s : State) : Out := .next (s.doCredit n)

end Sys2Proof.Machine
end

