-- ==== Sys2Proof/Machine/Domain.lean ====
section
/-! DEFINITION. Barrier domains: GBAR, VOTE, GBWAIT and the release (15 R290, R292, R293), exchange windows, SSEND and its
injection (15 R294, R295, 11 R232), the loss of a member (15 R296). -/

namespace Sys2Proof.Machine

/-! ## Channels -/

/-- The die that keeps a channel: channel 7 of the package is kept with die 0 (15 R290). -/
def chanDie (tile : Nat) (ch : BitVec 3) : Nat := if ch = 7 then 0 else tile / 256

def State.chan (s : State) (die : Nat) (ch : BitVec 3) : Channel := (s.die die).chans[ch.toNat]'ch.isLt
def State.setBarrier (s : State) (die : Nat) (ch : BitVec 3) (c : Channel) : State :=
  let d := s.die die
  s.setDie die { d with chans := d.chans.set ch.toNat c ch.isLt }

/-- Tiles that a channel spans. -/
def State.chanTiles (s : State) (die : Nat) (ch : BitVec 3) : List Nat :=
  (s.tiles.filter fun e => ch == 7 || e.1 / 256 == die).map (·.1)

/-- Member tiles of a channel (15 R290). -/
def State.chanMembers (s : State) (die : Nat) (ch : BitVec 3) : List Nat :=
  (s.chanTiles die ch).filter fun t => (s.tileAt t).dommem.getLsbD ch.toNat

/-- The acting strand is a gang member on a member tile. -/
def State.isMember (s : State) (ch : BitVec 3) : Bool := s.tile.dommem.getLsbD ch.toNat && s.ctx.gang

/-! ## Exchange windows (15 R294, 11 R232) -/

/-- Whether an exchange window holds a routing tile. -/
def State.heldByWindow (s : State) (router : Nat) : Bool := s.xholds.any (·.router == router)

/-- XWIN of a routing tile brought in line with its holds; the end of its last hold may post its notice. -/
def State.setXwin (s : State) (router : Nat) : State :=
  let l := s.ltidOf router
  let e := s.role l
  let x := s.heldByWindow router
  if e.xwin = x then s
  else
    let s1 := s.castRole l { e with xwin := x }
    if x then s1 else s1.holdEnded l

/-- The window of a tile's channel closed, with its holds. -/
def State.closeWindow (s : State) (t : Nat) (ch : BitVec 3) : State :=
  let T := s.tileAt t
  let mine := s.xholds.filter fun h => h.tile == t && h.ch == ch
  let s1 := s.setTile t { T with xwin := T.xwin.filter (fun w => w.ch != ch) }
  let s2 := { s1 with xholds := s1.xholds.filter fun h => !(h.tile == t && h.ch == ch) }
  (mine.map (·.router)).dedup.foldl State.setXwin s2

def xsDltid (w : Word) : Nat := nbit w.toNat 0 12
def xsDoff (w : Word) : Nat := nbit w.toNat 12 21
def xsLen (w : Word) : Nat := nbit w.toNat 33 6 + 1
def xsCh (w : Word) : BitVec 3 := w.extractLsb' 56 3

/-- Entries written while a window was open take effect. -/
def Tile.renewSchedule (t : Tile) : Tile :=
  { t with xnew := [], xsched := t.xnew.foldl (fun m e => if e.2 = 0 then sdel e.1 m else sset e.1 e.2 m) t.xsched }

/-- Routing tiles on the routes of a tile's schedule for a channel. -/
def State.scheduleRouters (s : State) (t : Nat) (ch : BitVec 3) : List Nat :=
  ((s.tileAt t).xsched.flatMap fun e =>
    let d := s.role (xsDltid e.2)
    if e.2.getLsbD 63 && xsCh e.2 == ch && d.v then s.routersOn t d.ptile.toNat else []).dedup

/-- The window of a tile's channel opened, with its holds. -/
def State.openWindow (s : State) (t : Nat) (ch : BitVec 3) : State :=
  let T := (s.tileAt t).renewSchedule
  let s1 := s.setTile t { T with xwin := T.xwin ++ [{ ch := ch, start := s.tick, sent := [] }] }
  let rs := s1.scheduleRouters t ch
  let s2 := { s1 with xholds := s1.xholds ++ rs.map fun r => ({ router := r, tile := t, ch := ch } : XHold) }
  rs.foldl State.setXwin s2

/-! ## Arrival (15 R292) -/

/-- The arrival of a member tile: its exchange window closes, ARRIVED is set, the vote is contributed. -/
def State.arriveAt (s : State) (t : Nat) (ch : BitVec 3) (vote : Option (VoteOp × Nat)) : State :=
  let d := chanDie t ch
  let s1 := s.closeWindow t ch
  let s2 := s1.setTile t { s1.tileAt t with arrived := (s1.tileAt t).arrived ||| (1#8 <<< ch.toNat) }
  let c := s2.chan d ch
  s2.setBarrier d ch { c with arrived := nsAdd t c.arrived, votes := c.votes ++ vote.toList }

/-- GBAR and VOTE arrive on a channel. -/
def State.arrive (s : State) (ch : BitVec 3) (vote : Option (VoteOp × Nat)) : Done :=
  if !s.isMember ch then .ok s
  else if s.tile.arrived.getLsbD ch.toNat then .wait (.arrive ch vote) s
  else if !s.gathered s.src ch then .wait (.gather ch vote) s
  else .ok (s.arriveAt s.curTile ch vote)

/-- What a GBAR or VOTE waits to contribute, and on which channel. -/
def Wait.arrival : Wait → Option (BitVec 3 × Option (VoteOp × Nat))
  | .arrive ch vote | .gather ch vote => some (ch, vote)
  | _ => none

/-- A waiting instruction that has done what it waited to do: it is complete. -/
def Context.passed (k : Context) : Context :=
  { k with st := .ready, th := { k.th with pc := k.th.pc + 4 }, released := false, expired := false }

/-- A GBAR or VOTE that waits arrives when the last condition it awaits first holds, and is complete (17 R307). One that
finds that another strand has arrived on the tile waits for the release; one that a pre-emption discards does not arrive. -/
def State.arriveWaiting (s : State) (t : Nat) (c : Fin 8) : State :=
  let k := s.cx t c
  match k.st with
  | .waiting w =>
    match w.arrival with
    | none => s
    | some (ch, vote) =>
      if k.discards then s
      else if !(s.tileAt t).dommem.getLsbD ch.toNat then s.setCx t c { k with st := .ready }
      else if (s.tileAt t).arrived.getLsbD ch.toNat then s.setCx t c { k with st := .waiting (.arrive ch vote) }
      else if !s.gathered (s.srcOf t c) ch then s.setCx t c { k with st := .waiting (.gather ch vote) }
      else (s.setCx t c k.passed).arriveAt t ch vote
  | _ => s

/-- What becomes of every agent at the end of a step: arrivals that have become due, then the conditions of the waits. -/
def State.settle (s : State) : State :=
  let gathers := s.tiles.flatMap fun e => ((List.finRange 8).filter fun c => match e.2.ctx[c].st with
    | .waiting w => w.arrival.isSome
    | _ => false).map fun c => (e.1, c)
  (gathers.foldl (fun s e => s.arriveWaiting e.1 e.2) s.chargeAll.flushDeparts).settleAll

def execGbar (m : SMark) (ch : BitVec 3) (s : State) : Out :=
  .next (issue (.gbar m ch) m false (fun s => s.arrive ch none) s)

def execVote (m : SMark) (op : VoteOp) (ch : BitVec 3) (rs1 : Reg) (s : State) : Out :=
  .next (issue (.vote m op ch rs1) m false (fun s => s.arrive ch (some (op, nbit (s.x rs1).toNat 0 16))) s)

/-- GBWAIT (15 R293): released, TIMEOUT, or a wait. -/
def State.gbwait (s : State) (rd : Reg) (ch : BitVec 3) : Done :=
  if !s.isMember ch then .ok (s.setX rd 2)
  else if s.limitPassed then .ok (s.setX rd 1)
  else if s.marked || !s.tile.arrived.getLsbD ch.toNat then
    .ok ((s.selfInvalidate s.curTile).setX rd ((s.tile.release[ch.toNat]'ch.isLt).getD 0))
  else .wait (.barrier ch) s

def execGbwait (m : SMark) (rd : Reg) (ch : BitVec 3) (s : State) : Out :=
  .next (issue (.gbwait m rd ch) m false (fun s => s.gbwait rd ch) s)

/-! ## The release (15 R292, R293, R296, 17 R306) -/

/-- The votes of one phase combined: the result and VMIX. -/
def voteResult (vs : List (VoteOp × Nat)) : Nat × Bool :=
  match vs with
  | [] => (0, false)
  | (op, _) :: _ =>
    if vs.any (·.1 != op) then (0, true)
    else match op with
      | .and => (vs.foldl (fun a v => a &&& (v.2 + 0xFFFF_0000)) 0xFFFF_FFFF, false)
      | .or => (vs.foldl (fun a v => a ||| v.2) 0, false)
      | .sum => (vs.foldl (fun a v => (a + v.2) % 2 ^ 32) 0, false)

/-- The status of a release as GBWAIT returns it. -/
def releaseWord (lost : Bool) (vs : List (VoteOp × Nat)) : Word :=
  let r := voteResult vs
  BitVec.ofNat 64 (b2n lost * 2 ^ 4 + b2n r.2 * 2 ^ 5 + r.1 * 2 ^ 32)

/-- Every member has arrived, lost ones included, and there is something to release. -/
def State.barrierReady (s : State) (die : Nat) (ch : BitVec 3) : Bool :=
  let ms := s.chanMembers die ch
  ms.all (fun t => (s.tileAt t).arrived.getLsbD ch.toNat) && !(s.chan die ch).arrived.isEmpty

/-- The release as one tile of the channel sees it: a member takes the status and its window opens; the window of a member
that has ended closes. The release wakes a WFI on a member's tile (05 R117). -/
def State.releaseTile (s : State) (ch : BitVec 3) (w : Word) (t : Nat) : State :=
  let s1 := s.closeWindow t ch
  let T := s1.tileAt t
  let s2 := s1.setTile t { T with arrived := T.arrived &&& ~~~(1#8 <<< ch.toNat) }
  if T.dommem.getLsbD ch.toNat then
    let U := (s2.tileAt t).wakeWfi
    (s2.setTile t { U with release := U.release.set ch.toNat (some w) ch.isLt }).openWindow t ch
  else s2

def State.doRelease (s : State) (die : Nat) (ch : BitVec 3) : State :=
  if !s.barrierReady die ch then s
  else
    let w := releaseWord (s.chan die ch).lost (s.chan die ch).votes
    ((s.chanTiles die ch).foldl (fun s t => s.releaseTile ch w t) s).setBarrier die ch .reset

def execBarrierRelease (die : Fin 4) (ch : BitVec 3) (s : State) : Out := .next (s.doRelease die.val ch)

/-! ## SSEND (15 R295) -/

def Done.slotViolation (s : State) (reason : Nat) : Done := Done.trapAt s trSLOT_VIOLATION 0 (BitVec.ofNat 64 reason)

def Tile.windowOf (t : Tile) (ch : BitVec 3) : Option ExWindow := t.xwin.find? (·.ch == ch)

def Tile.markSent (t : Tile) (ch : BitVec 3) (slot : Nat) : Tile :=
  { t with xwin := t.xwin.map fun w => if w.ch == ch then { w with sent := nsAdd slot w.sent } else w }

def State.ssend (s : State) (slot : BitVec 6) (a : Word) : Done :=
  let off := nbit a.toNat 0 21
  let len := nbit a.toNat 24 8
  let e := (sget slot.toNat s.tile.xsched).getD 0
  if nbit a.toNat 21 3 != 0 || nbit a.toNat 32 32 != 0 || off % 32 != 0 then Done.slotViolation s 4
  else if !e.getLsbD 63 then Done.slotViolation s 0
  else match s.tile.windowOf (xsCh e) with
    | none => Done.slotViolation s 2
    | some w =>
      if nsMem slot.toNat w.sent then Done.slotViolation s 3
      else if len != xsLen e then Done.slotViolation s 1
      else if s.acquiring then .wait .acquire s
      else s.readNow (tileBase + off) (32 * len) fun s bytes =>
        let t := s.tile.markSent (xsCh e) slot.toNat
        .commit (s.putTile { t with xsend := t.xsend ++ [{ src := s.src, pc := s.pc, slot := slot, entry := e, bytes := bytes }] })

def execSsend (m : SMark) (slot : BitVec 6) (rs1 : Reg) (s : State) : Out :=
  .next (issue (.ssend m slot rs1) m false (fun s => s.ssend slot (s.x rs1)) s)

/-- A committed slot injected: it travels as a message of the issuing agent (15 R295, 16 R375); a late one is counted. -/
def State.doInjection (s : State) (tile : Nat) (slot : BitVec 6) (late : Bool) : State :=
  let t := s.tileAt tile
  match t.xsend.find? (·.slot == slot) with
  | none => s
  | some x =>
    let dst := xsDltid x.entry
    if !t.hasRoom dst then s
    else
      let t1 := { t with
        xsend := t.xsend.erase x
        xstat := if late && t.xstat != 0xFFFF then t.xstat + 1 else t.xstat }
      (s.setTile tile t1).sendMsg tile dst x.src x.pc (BitVec.ofNat 64 (xsDoff x.entry + dst * 2 ^ 24)) (.xput (xsCh x.entry) (xsDoff x.entry) x.bytes)

def execScheduledInjection (tile : Nat) (slot : BitVec 6) (late : Bool) (s : State) : Out := .next (s.doInjection tile slot late)

/-! ## MEMBER_LOST (15 R296) -/

/-- A gang member's strand discarded: no record, no departure, no signal. -/
def State.doMemberLost (s : State) (t : Nat) (c : Fin 8) : State :=
  let k := s.cx t c
  if k.st == .free || !k.gang then s
  else match s.strand k.wsid k.recAddr with
    | none => s
    | some e =>
      match e.work with
      | .gang die id =>
        let dom := ((s.die die).gangs.find? (·.id == id)).map (·.domain.toNat) |>.getD 0
        let s1 := s.logError (t / 256) errLOST 0 t e.ws.toNat 0 dom
        let s2 := (({ s1 with strands := sdel (recKey k.wsid k.recAddr) s1.strands }).release e).endMember t die id e.ws true
        s2.freeCx t c
      | _ => s

def execMemberLost (tile : Nat) (c : Fin 8) (s : State) : Out := .next (s.doMemberLost tile c)

end Sys2Proof.Machine
end

