-- ==== Sys2Proof/Machine/Float.lean ====
section
/-! DEFINITION. Scalar floating point (04 R86 to R91). -/

namespace Sys2Proof.Machine

/-- A floating-point result and its flags, computed from the state. -/
def fpu (i : Instr) (m : SMark) (rd : Reg) (f : State → Nat × Flags) (s : State) : State :=
  issue i m true (fun s => .ok (s.putF rd (f s))) s

def execFadd (m : SMark) (p : Prec) (rd rs1 rs2 : Reg) (s : State) : Out :=
  .next (fpu (.fadd m p rd rs1 rs2) m rd (fun s => (precFmt p).add s.rm (s.fx p rs1) (s.fx p rs2)) s)

def execFsub (m : SMark) (p : Prec) (rd rs1 rs2 : Reg) (s : State) : Out :=
  .next (fpu (.fsub m p rd rs1 rs2) m rd (fun s => (precFmt p).sub s.rm (s.fx p rs1) (s.fx p rs2)) s)

def execFmul (m : SMark) (p : Prec) (rd rs1 rs2 : Reg) (s : State) : Out :=
  .next (fpu (.fmul m p rd rs1 rs2) m rd (fun s => (precFmt p).mul s.rm (s.fx p rs1) (s.fx p rs2)) s)

/-- The accumulator is `rd` (04 R86). -/
def execFmac (m : SMark) (p : Prec) (rd rs1 rs2 : Reg) (s : State) : Out :=
  .next (fpu (.fmac m p rd rs1 rs2) m rd (fun s => (precFmt p).fma s.rm (s.fx p rd) (s.fx p rs1) (s.fx p rs2)) s)

def execFdiv (m : SMark) (p : Prec) (rd rs1 rs2 : Reg) (s : State) : Out :=
  .next (fpu (.fdiv m p rd rs1 rs2) m rd (fun s => (precFmt p).div s.rm (s.fx p rs1) (s.fx p rs2)) s)

def execFsqrt (m : SMark) (p : Prec) (rd rs1 : Reg) (s : State) : Out :=
  .next (fpu (.fsqrt m p rd rs1) m rd (fun s => (precFmt p).sqrt s.rm (s.fx p rs1)) s)

def execFmin (m : SMark) (p : Prec) (rd rs1 rs2 : Reg) (s : State) : Out :=
  .next (fpu (.fmin m p rd rs1 rs2) m rd (fun s => (precFmt p).minmax false (s.fx p rs1) (s.fx p rs2)) s)

def execFmax (m : SMark) (p : Prec) (rd rs1 rs2 : Reg) (s : State) : Out :=
  .next (fpu (.fmax m p rd rs1 rs2) m rd (fun s => (precFmt p).minmax true (s.fx p rs1) (s.fx p rs2)) s)

/-- A comparison as a register value (04 R88). -/
def boolRes (r : Bool × Flags) : Nat × Flags := (b2n r.1, r.2)

def execFcmpEq (m : SMark) (p : Prec) (rd rs1 rs2 : Reg) (s : State) : Out :=
  .next (fpu (.fcmpEq m p rd rs1 rs2) m rd (fun s => boolRes ((precFmt p).cmp .eq (s.fx p rs1) (s.fx p rs2))) s)

def execFcmpLt (m : SMark) (p : Prec) (rd rs1 rs2 : Reg) (s : State) : Out :=
  .next (fpu (.fcmpLt m p rd rs1 rs2) m rd (fun s => boolRes ((precFmt p).cmp .lt (s.fx p rs1) (s.fx p rs2))) s)

def execFcmpLe (m : SMark) (p : Prec) (rd rs1 rs2 : Reg) (s : State) : Out :=
  .next (fpu (.fcmpLe m p rd rs1 rs2) m rd (fun s => boolRes ((precFmt p).cmp .le (s.fx p rs1) (s.fx p rs2))) s)

def execFclass (m : SMark) (p : Prec) (rd rs1 : Reg) (s : State) : Out :=
  .next (fpu (.fclass m p rd rs1) m rd (fun s => (2 ^ (precFmt p).classify (s.fx p rs1), flNone)) s)

/-- The magnitude of `a` with a sign (04 R90). -/
def signed (f : FFmt) (neg : Bool) (a : Nat) : Nat × Flags := (f.withSign neg (f.magBits a), flNone)

def execFsgnj (m : SMark) (p : Prec) (rd rs1 rs2 : Reg) (s : State) : Out :=
  .next (fpu (.fsgnj m p rd rs1 rs2) m rd (fun s => signed (precFmt p) ((precFmt p).signBit (s.fx p rs2)) (s.fx p rs1)) s)

def execFsgnjN (m : SMark) (p : Prec) (rd rs1 rs2 : Reg) (s : State) : Out :=
  .next (fpu (.fsgnjN m p rd rs1 rs2) m rd (fun s => signed (precFmt p) (!(precFmt p).signBit (s.fx p rs2)) (s.fx p rs1)) s)

def execFsgnjX (m : SMark) (p : Prec) (rd rs1 rs2 : Reg) (s : State) : Out :=
  .next (fpu (.fsgnjX m p rd rs1 rs2) m rd (fun s => signed (precFmt p) ((precFmt p).signBit (s.fx p rs1) != (precFmt p).signBit (s.fx p rs2)) (s.fx p rs1)) s)

/-- A float converted to an integer of `w` bits, as a register value (04 R91, 03 R71): INT32 sign-extended, unsigned
32-bit zero-extended. -/
def fToInt (rm : RM) (lo hi : Int) (x : Exact) : Nat × Flags :=
  let (v, fl) := toInt rm lo hi x
  ((BitVec.ofInt 64 v).toNat, fl)

/-- The conversions of FCVT by code (04 R91). -/
def fcvtOf (p : Prec) (op : CvtOp) (rm : RM) (nanov : Bool) (a : Word) : Nat × Flags :=
  let f := precFmt p
  let src := f.decode (a.toNat % 2 ^ f.width)
  match op with
  | .fromOther => (otherFmt p).convert f nanov rm (a.toNat % 2 ^ (otherFmt p).width)
  | .fromL => f.ofInt rm a.toInt
  | .fromLU => f.ofInt rm a.toNat
  | .fromW => f.ofInt rm (a.setWidth 32).toInt
  | .fromWU => f.ofInt rm (a.setWidth 32).toNat
  | .toL => fToInt rm (-2 ^ 63) (2 ^ 63 - 1) src
  | .toLU => fToInt rm 0 (2 ^ 64 - 1) src
  | .toW => fToInt rm (-2 ^ 31) (2 ^ 31 - 1) src
  | .toWU => fToInt rm 0 (2 ^ 32 - 1) src

def execFcvt (m : SMark) (p : Prec) (op : CvtOp) (rd rs1 : Reg) (s : State) : Out :=
  .next (fpu (.fcvt m p op rd rs1) m rd (fun s => fcvtOf p op s.rm s.th.nanov (s.x rs1)) s)

end Sys2Proof.Machine
end

