-- ==== Sys2Proof/Machine/HostPort.lean ====
section
/-! DEFINITION. The host port: the host's accesses to HBM and its holds (18 R314, R315), its snoops of host memory
(18 R316), the ENQ windows (15 R280). -/

namespace Sys2Proof.Machine

/-- HBM lines alone are presented to the host (18 R314). -/
def isHbm (pa : Nat) : Bool :=
  match regionOf pa with
  | .hbm .. => true
  | _ => false

/-- The host's request may be served: an HBM sector for which nothing waits on the host. -/
def State.hostMay (s : State) (pa : Nat) : Bool := isHbm pa && backed s pa && !s.biOn (sectorOf pa)

/-- Words of a sector. -/
def sectorWords (pa : Nat) : List Nat := (List.range 8).map (pa / 64 * 8 + ·)

/-- Registered words of a sector written back and revoked (13 R261, 18 R315). -/
def State.drainSector (s : State) (pa : Nat) : State := (sectorWords pa).foldl State.revoke s

/-- Entries of the snoop filter of a slice (18 R315). -/
def filterSlots : Nat := 16384

/-- The oldest entry of a full snoop filter, which must make room for the hold of a sector; none where there is room. -/
def State.filterVictim (s : State) (pa : Nat) : Option Nat :=
  if (sget (sectorOf pa) s.hold).isSome then none
  else
    let mine := s.hold.filter fun e => s.homeSlice (64 * e.1) == s.homeSlice pa
    if mine.length < filterSlots then none else mine.head?.map (64 * ·.1)

/-- A sector of HBM that is unbacked: there is no word to hold, what the host reads is poisoned, what it writes is dropped, and
the access has its NOMEM entry (18 R313). -/
def State.hostNomem (s : State) (pa : Nat) : Bool := isHbm pa && !backed s pa

/-- A read by the host: the sector is returned and held. Where the snoop filter of the slice is full, the sector whose entry
is oldest is back-invalidated first (18 R315). -/
def State.hostRead (s : State) (pa : Nat) (h : Hold) : State :=
  if s.hostNomem pa then s.noteNomem (pa / 64 * 64) 64 noWs
  else if !s.hostMay pa then s
  else match s.filterVictim pa with
    | some v => s.askHost v true
    | none => ((s.touchLine pa).drainSector pa).setHold pa (some h)

def execHostReadShared (pa : Nat) (s : State) : Out := .next (s.hostRead pa .hs)
def execHostReadOwn (pa : Nat) (s : State) : Out := .next (s.hostRead pa .ho)

/-- The host's 64 bytes written into the line. -/
def State.hostData (s : State) (pa : Nat) (data : List Byte) : State := s.writeRun (pa / 64 * 64) (data.take 64) (BitVec.ofNat 12 noWs)

/-- A write-back or a release of a sector that the host owns. -/
def State.doHostWriteback (s : State) (pa : Nat) (data : List Byte) (keep : Bool) : State :=
  if s.hostNomem pa then s.noteNomem (pa / 64 * 64) 64 noWs
  else if s.hostMay pa && sget (sectorOf pa) s.hold == some .ho then
    (s.hostData pa data).setHold pa (if keep then some .hs else none)
  else s

def execHostWriteback (pa : Nat) (data : List Byte) (keep : Bool) (s : State) : Out := .next (s.doHostWriteback pa data keep)

/-- The bytes of an uncached write, at the slice (18 R315); the host makes none to a sector that it owns. -/
def State.hostUncached (s : State) (pa : Nat) (data : List Byte) : State :=
  if (sectorsOf pa data.length).all fun a => s.hostNomem a || (s.hostMay a && sget (sectorOf a) s.hold != some .ho) then
    (s.writeRun pa data (BitVec.ofNat 12 noWs)).noteNomem pa data.length noWs
  else s

/-- An uncached write performs at the slice as a store written there. -/
def execHostUncachedWrite (pa : Nat) (data : List Byte) (s : State) : Out :=
  .next (s.hostUncached pa data)

/-- The host answers a back-invalidation: an owned sector's data come back; a read leaves the host a shared copy, a write
leaves it none. -/
def State.doBackInvalidation (s : State) (pa : Nat) (data : List Byte) : State :=
  let sec := sectorOf pa
  if !s.biOn sec then s
  else
    let write := nsMem (2 * sec + 1) s.bi
    let s1 := { s with bi := nsDel (2 * sec) (nsDel (2 * sec + 1) s.bi) }
    match sget sec s.hold with
    | some .ho => (s1.hostData pa data).setHold pa (if write then none else some .hs)
    | some .hs => s1.setHold pa (if write then none else some .hs)
    | none => s1

def execBackInvalidationResponse (pa : Nat) (data : List Byte) (s : State) : Out := .next (s.doBackInvalidation pa data)

/-- A host snoop of a sector of host memory: registrants are written back and revoked, and the slice gives the sector up
(18 R316). -/
def State.doHostSnoop (s : State) (pa : Nat) : State :=
  match regionOf pa with
  | .host _ => (s.drainSector pa).setHostSt pa none
  | _ => s

def execHostSnoop (pa : Nat) (s : State) : Out := .next (s.doHostSnoop pa)

/-! ## The ENQ windows (15 R280) -/

/-- The request that a write of 1 to EQGO starts: the window's packet goes to its queue; with the reply EQSTAT holds the status
and BUSY clears. -/
def State.doEnqWindow (s : State) (i : Fin 4) : State :=
  let w := s.mgmt.enq[i]
  let p := w.pkt.take (pkBytes (pktHead w.pkt))
  let r := s.enqueueAs (pkWsid (pktHead p) != w.ws.toNat) w.ws w.addr p
  { r.1 with mgmt := { r.1.mgmt with enq := r.1.mgmt.enq.set i { w with status := BitVec.ofNat 8 r.2, busy := false } } }

def execEnqWindowGo (i : Fin 4) (s : State) : Out := .next (s.doEnqWindow i)

end Sys2Proof.Machine
end

