-- ==== Sys2Proof/Machine/Integer.lean ====
section
/-! DEFINITION. Integer instructions, upper immediates, branches and jumps (04 R79 to R85). -/

namespace Sys2Proof.Machine

/-! ## The functions -/

def sll64 (a b : Word) : Word := a <<< (b.toNat % 64)
def srl64 (a b : Word) : Word := a >>> (b.toNat % 64)
def sra64 (a b : Word) : Word := a.sshiftRight (b.toNat % 64)
def slt64 (a b : Word) : Word := if a.slt b then 1 else 0
def sltu64 (a b : Word) : Word := if a.ult b then 1 else 0
def minS (a b : Word) : Word := if a.slt b then a else b
def maxS (a b : Word) : Word := if a.slt b then b else a
def minU (a b : Word) : Word := if a.ult b then a else b
def maxU (a b : Word) : Word := if a.ult b then b else a

/-- Bits 31:0 of a value. -/
def lo32 (a : Word) : BitVec 32 := a.setWidth 32
/-- A 32-bit value sign-extended. -/
def sx32 (a : BitVec 32) : Word := a.signExtend 64

def sllw32 (a b : Word) : Word := sx32 (lo32 a <<< (b.toNat % 32))
def srlw32 (a b : Word) : Word := sx32 (lo32 a >>> (b.toNat % 32))
def sraw32 (a b : Word) : Word := sx32 ((lo32 a).sshiftRight (b.toNat % 32))

def clz64 (a : Word) : Nat := 64 - bitLen a.toNat
def ctz64 (a : Word) : Nat := ((List.range 64).find? a.getLsbD).getD 64

/-- Division by zero gives all ones; the overflow wraps (04 R82). -/
def divS (a b : BitVec w) : BitVec w := if b = 0 then BitVec.allOnes w else a.sdiv b
def divU (a b : BitVec w) : BitVec w := if b = 0 then BitVec.allOnes w else a / b
def remS (a b : BitVec w) : BitVec w := if b = 0 then a else a.srem b
def remU (a b : BitVec w) : BitVec w := if b = 0 then a else a % b

/-- Bits 127:64 of a product. -/
def mulhS (a b : Word) : Word := BitVec.ofInt 64 (a.toInt * b.toInt / 2 ^ 64)
def mulhU (a b : Word) : Word := BitVec.ofNat 64 (a.toNat * b.toNat / 2 ^ 64)

/-! ## The shapes -/

/-- A register result computed from the state. -/
def alu (i : Instr) (m : SMark) (rd : Reg) (f : State → Word) (s : State) : State :=
  issue i m true (fun s => .ok (s.setX rd (f s))) s

/-- A branch (04 R84). -/
def branch (i : Instr) (m : SMark) (imm : BitVec 11) (cond : State → Bool) (s : State) : State :=
  issue i m true (fun s => if cond s then .jump (s.pc + immB imm) s else .ok s) s

/-! ## Register and immediate (04 R79) -/

def execAddi (m : SMark) (rd rs1 : Reg) (imm : BitVec 11) (s : State) : Out :=
  .next (alu (.addi m rd rs1 imm) m rd (fun s => s.x rs1 + immI imm) s)

def execSlli (m : SMark) (rd rs1 : Reg) (sh : BitVec 6) (s : State) : Out :=
  .next (alu (.slli m rd rs1 sh) m rd (fun s => sll64 (s.x rs1) (sh.setWidth 64)) s)

def execSrli (m : SMark) (rd rs1 : Reg) (sh : BitVec 6) (s : State) : Out :=
  .next (alu (.srli m rd rs1 sh) m rd (fun s => srl64 (s.x rs1) (sh.setWidth 64)) s)

def execSrai (m : SMark) (rd rs1 : Reg) (sh : BitVec 6) (s : State) : Out :=
  .next (alu (.srai m rd rs1 sh) m rd (fun s => sra64 (s.x rs1) (sh.setWidth 64)) s)

def execSlti (m : SMark) (rd rs1 : Reg) (imm : BitVec 11) (s : State) : Out :=
  .next (alu (.slti m rd rs1 imm) m rd (fun s => slt64 (s.x rs1) (immI imm)) s)

def execSltiu (m : SMark) (rd rs1 : Reg) (imm : BitVec 11) (s : State) : Out :=
  .next (alu (.sltiu m rd rs1 imm) m rd (fun s => sltu64 (s.x rs1) (immI imm)) s)

def execXori (m : SMark) (rd rs1 : Reg) (imm : BitVec 11) (s : State) : Out :=
  .next (alu (.xori m rd rs1 imm) m rd (fun s => s.x rs1 ^^^ immI imm) s)

def execAddiw (m : SMark) (rd rs1 : Reg) (imm : BitVec 11) (s : State) : Out :=
  .next (alu (.addiw m rd rs1 imm) m rd (fun s => sx32 (lo32 (s.x rs1 + immI imm))) s)

def execOri (m : SMark) (rd rs1 : Reg) (imm : BitVec 11) (s : State) : Out :=
  .next (alu (.ori m rd rs1 imm) m rd (fun s => s.x rs1 ||| immI imm) s)

def execAndi (m : SMark) (rd rs1 : Reg) (imm : BitVec 11) (s : State) : Out :=
  .next (alu (.andi m rd rs1 imm) m rd (fun s => s.x rs1 &&& immI imm) s)

/-! ## Register and register (04 R79) -/

def execAdd (m : SMark) (rd rs1 rs2 : Reg) (s : State) : Out :=
  .next (alu (.add m rd rs1 rs2) m rd (fun s => s.x rs1 + s.x rs2) s)

def execSub (m : SMark) (rd rs1 rs2 : Reg) (s : State) : Out :=
  .next (alu (.sub m rd rs1 rs2) m rd (fun s => s.x rs1 - s.x rs2) s)

def execSll (m : SMark) (rd rs1 rs2 : Reg) (s : State) : Out :=
  .next (alu (.sll m rd rs1 rs2) m rd (fun s => sll64 (s.x rs1) (s.x rs2)) s)

def execSrl (m : SMark) (rd rs1 rs2 : Reg) (s : State) : Out :=
  .next (alu (.srl m rd rs1 rs2) m rd (fun s => srl64 (s.x rs1) (s.x rs2)) s)

def execSra (m : SMark) (rd rs1 rs2 : Reg) (s : State) : Out :=
  .next (alu (.sra m rd rs1 rs2) m rd (fun s => sra64 (s.x rs1) (s.x rs2)) s)

def execSlt (m : SMark) (rd rs1 rs2 : Reg) (s : State) : Out :=
  .next (alu (.slt m rd rs1 rs2) m rd (fun s => slt64 (s.x rs1) (s.x rs2)) s)

def execSltu (m : SMark) (rd rs1 rs2 : Reg) (s : State) : Out :=
  .next (alu (.sltu m rd rs1 rs2) m rd (fun s => sltu64 (s.x rs1) (s.x rs2)) s)

def execAnd (m : SMark) (rd rs1 rs2 : Reg) (s : State) : Out :=
  .next (alu (.and m rd rs1 rs2) m rd (fun s => s.x rs1 &&& s.x rs2) s)

def execOr (m : SMark) (rd rs1 rs2 : Reg) (s : State) : Out :=
  .next (alu (.or m rd rs1 rs2) m rd (fun s => s.x rs1 ||| s.x rs2) s)

def execXor (m : SMark) (rd rs1 rs2 : Reg) (s : State) : Out :=
  .next (alu (.xor m rd rs1 rs2) m rd (fun s => s.x rs1 ^^^ s.x rs2) s)

def execMin (m : SMark) (rd rs1 rs2 : Reg) (s : State) : Out :=
  .next (alu (.min m rd rs1 rs2) m rd (fun s => minS (s.x rs1) (s.x rs2)) s)

def execMax (m : SMark) (rd rs1 rs2 : Reg) (s : State) : Out :=
  .next (alu (.max m rd rs1 rs2) m rd (fun s => maxS (s.x rs1) (s.x rs2)) s)

def execMinu (m : SMark) (rd rs1 rs2 : Reg) (s : State) : Out :=
  .next (alu (.minu m rd rs1 rs2) m rd (fun s => minU (s.x rs1) (s.x rs2)) s)

def execMaxu (m : SMark) (rd rs1 rs2 : Reg) (s : State) : Out :=
  .next (alu (.maxu m rd rs1 rs2) m rd (fun s => maxU (s.x rs1) (s.x rs2)) s)

def execAddw (m : SMark) (rd rs1 rs2 : Reg) (s : State) : Out :=
  .next (alu (.addw m rd rs1 rs2) m rd (fun s => sx32 (lo32 (s.x rs1 + s.x rs2))) s)

def execSubw (m : SMark) (rd rs1 rs2 : Reg) (s : State) : Out :=
  .next (alu (.subw m rd rs1 rs2) m rd (fun s => sx32 (lo32 (s.x rs1 - s.x rs2))) s)

def execSllw (m : SMark) (rd rs1 rs2 : Reg) (s : State) : Out :=
  .next (alu (.sllw m rd rs1 rs2) m rd (fun s => sllw32 (s.x rs1) (s.x rs2)) s)

def execSrlw (m : SMark) (rd rs1 rs2 : Reg) (s : State) : Out :=
  .next (alu (.srlw m rd rs1 rs2) m rd (fun s => srlw32 (s.x rs1) (s.x rs2)) s)

def execSraw (m : SMark) (rd rs1 rs2 : Reg) (s : State) : Out :=
  .next (alu (.sraw m rd rs1 rs2) m rd (fun s => sraw32 (s.x rs1) (s.x rs2)) s)

/-! ## Bit counts and extensions (04 R80) -/

def execClz (m : SMark) (rd rs1 : Reg) (s : State) : Out :=
  .next (alu (.clz m rd rs1) m rd (fun s => BitVec.ofNat 64 (clz64 (s.x rs1))) s)

def execCtz (m : SMark) (rd rs1 : Reg) (s : State) : Out :=
  .next (alu (.ctz m rd rs1) m rd (fun s => BitVec.ofNat 64 (ctz64 (s.x rs1))) s)

def execPopc (m : SMark) (rd rs1 : Reg) (s : State) : Out :=
  .next (alu (.popc m rd rs1) m rd (fun s => BitVec.ofNat 64 (Sys2Proof.Machine.popc 64 (s.x rs1))) s)

def execSextB (m : SMark) (rd rs1 : Reg) (s : State) : Out :=
  .next (alu (.sextB m rd rs1) m rd (fun s => ((s.x rs1).setWidth 8).signExtend 64) s)

def execSextH (m : SMark) (rd rs1 : Reg) (s : State) : Out :=
  .next (alu (.sextH m rd rs1) m rd (fun s => ((s.x rs1).setWidth 16).signExtend 64) s)

def execSextW (m : SMark) (rd rs1 : Reg) (s : State) : Out :=
  .next (alu (.sextW m rd rs1) m rd (fun s => sx32 (lo32 (s.x rs1))) s)

def execZextW (m : SMark) (rd rs1 : Reg) (s : State) : Out :=
  .next (alu (.zextW m rd rs1) m rd (fun s => (lo32 (s.x rs1)).setWidth 64) s)

/-! ## Multiply and divide (04 R81, R82) -/

def execMul (m : SMark) (rd rs1 rs2 : Reg) (s : State) : Out :=
  .next (alu (.mul m rd rs1 rs2) m rd (fun s => s.x rs1 * s.x rs2) s)

def execMulh (m : SMark) (rd rs1 rs2 : Reg) (s : State) : Out :=
  .next (alu (.mulh m rd rs1 rs2) m rd (fun s => mulhS (s.x rs1) (s.x rs2)) s)

def execMulhu (m : SMark) (rd rs1 rs2 : Reg) (s : State) : Out :=
  .next (alu (.mulhu m rd rs1 rs2) m rd (fun s => mulhU (s.x rs1) (s.x rs2)) s)

def execMulw (m : SMark) (rd rs1 rs2 : Reg) (s : State) : Out :=
  .next (alu (.mulw m rd rs1 rs2) m rd (fun s => sx32 (lo32 (s.x rs1 * s.x rs2))) s)

def execDiv (m : SMark) (rd rs1 rs2 : Reg) (s : State) : Out :=
  .next (alu (.div m rd rs1 rs2) m rd (fun s => divS (s.x rs1) (s.x rs2)) s)

def execDivu (m : SMark) (rd rs1 rs2 : Reg) (s : State) : Out :=
  .next (alu (.divu m rd rs1 rs2) m rd (fun s => divU (s.x rs1) (s.x rs2)) s)

def execRem (m : SMark) (rd rs1 rs2 : Reg) (s : State) : Out :=
  .next (alu (.rem m rd rs1 rs2) m rd (fun s => remS (s.x rs1) (s.x rs2)) s)

def execRemu (m : SMark) (rd rs1 rs2 : Reg) (s : State) : Out :=
  .next (alu (.remu m rd rs1 rs2) m rd (fun s => remU (s.x rs1) (s.x rs2)) s)

def execDivW (m : SMark) (rd rs1 rs2 : Reg) (s : State) : Out :=
  .next (alu (.divW m rd rs1 rs2) m rd (fun s => sx32 (divS (lo32 (s.x rs1)) (lo32 (s.x rs2)))) s)

def execDivuW (m : SMark) (rd rs1 rs2 : Reg) (s : State) : Out :=
  .next (alu (.divuW m rd rs1 rs2) m rd (fun s => sx32 (divU (lo32 (s.x rs1)) (lo32 (s.x rs2)))) s)

def execRemW (m : SMark) (rd rs1 rs2 : Reg) (s : State) : Out :=
  .next (alu (.remW m rd rs1 rs2) m rd (fun s => sx32 (remS (lo32 (s.x rs1)) (lo32 (s.x rs2)))) s)

def execRemuW (m : SMark) (rd rs1 rs2 : Reg) (s : State) : Out :=
  .next (alu (.remuW m rd rs1 rs2) m rd (fun s => sx32 (remU (lo32 (s.x rs1)) (lo32 (s.x rs2)))) s)

/-! ## Upper immediates and jumps (04 R83, R85) -/

def execLui (m : SMark) (rd : Reg) (imm : BitVec 19) (s : State) : Out :=
  .next (alu (.lui m rd imm) m rd (fun _ => immU imm) s)

def execAuipc (m : SMark) (rd : Reg) (imm : BitVec 19) (s : State) : Out :=
  .next (alu (.auipc m rd imm) m rd (fun s => s.pc + immU imm) s)

def execJal (m : SMark) (rd : Reg) (imm : BitVec 19) (s : State) : Out :=
  .next (issue (.jal m rd imm) m true (fun s => .jump (s.pc + immJ imm) (s.setX rd (s.pc + 4))) s)

def execJalr (m : SMark) (rd rs1 : Reg) (imm : BitVec 11) (s : State) : Out :=
  .next (issue (.jalr m rd rs1 imm) m true
    (fun s => .jump ((s.x rs1 + immI imm) &&& ~~~3) (s.setX rd (s.pc + 4))) s)

/-! ## Branches (04 R84) -/

def execBeq (m : SMark) (rs1 rs2 : Reg) (imm : BitVec 11) (s : State) : Out :=
  .next (branch (.beq m rs1 rs2 imm) m imm (fun s => s.x rs1 == s.x rs2) s)

def execBne (m : SMark) (rs1 rs2 : Reg) (imm : BitVec 11) (s : State) : Out :=
  .next (branch (.bne m rs1 rs2 imm) m imm (fun s => s.x rs1 != s.x rs2) s)

def execBlt (m : SMark) (rs1 rs2 : Reg) (imm : BitVec 11) (s : State) : Out :=
  .next (branch (.blt m rs1 rs2 imm) m imm (fun s => (s.x rs1).slt (s.x rs2)) s)

def execBge (m : SMark) (rs1 rs2 : Reg) (imm : BitVec 11) (s : State) : Out :=
  .next (branch (.bge m rs1 rs2 imm) m imm (fun s => !(s.x rs1).slt (s.x rs2)) s)

def execBltu (m : SMark) (rs1 rs2 : Reg) (imm : BitVec 11) (s : State) : Out :=
  .next (branch (.bltu m rs1 rs2 imm) m imm (fun s => (s.x rs1).ult (s.x rs2)) s)

def execBgeu (m : SMark) (rs1 rs2 : Reg) (imm : BitVec 11) (s : State) : Out :=
  .next (branch (.bgeu m rs1 rs2 imm) m imm (fun s => !(s.x rs1).ult (s.x rs2)) s)

end Sys2Proof.Machine
end

