-- ==== Sys2Proof/Machine/LoadStore.lean ====
section
/-! DEFINITION. Loads, stores, acquire, release and prefetch (04 R92 to R98). -/

namespace Sys2Proof.Machine

/-- The low bytes of a register. -/
def lowBytes (v : Word) (n : Nat) : List Byte := leBytes v.toNat n

def execLb (m : SMark) (rd rs1 : Reg) (imm : BitVec 11) (s : State) : Out :=
  .next (issue (.lb m rd rs1 imm) m true (fun s => s.load rd (s.x rs1 + immI imm) 1 true) s)

def execLbu (m : SMark) (rd rs1 : Reg) (imm : BitVec 11) (s : State) : Out :=
  .next (issue (.lbu m rd rs1 imm) m true (fun s => s.load rd (s.x rs1 + immI imm) 1 false) s)

def execLh (m : SMark) (rd rs1 : Reg) (imm : BitVec 11) (s : State) : Out :=
  .next (issue (.lh m rd rs1 imm) m true (fun s => s.load rd (s.x rs1 + immI imm) 2 true) s)

def execLhu (m : SMark) (rd rs1 : Reg) (imm : BitVec 11) (s : State) : Out :=
  .next (issue (.lhu m rd rs1 imm) m true (fun s => s.load rd (s.x rs1 + immI imm) 2 false) s)

def execLw (m : SMark) (rd rs1 : Reg) (imm : BitVec 11) (s : State) : Out :=
  .next (issue (.lw m rd rs1 imm) m true (fun s => s.load rd (s.x rs1 + immI imm) 4 true) s)

def execLwu (m : SMark) (rd rs1 : Reg) (imm : BitVec 11) (s : State) : Out :=
  .next (issue (.lwu m rd rs1 imm) m true (fun s => s.load rd (s.x rs1 + immI imm) 4 false) s)

def execLd (m : SMark) (rd rs1 : Reg) (imm : BitVec 11) (s : State) : Out :=
  .next (issue (.ld m rd rs1 imm) m true (fun s => s.load rd (s.x rs1 + immI imm) 8 false) s)

def execLacq (m : SMark) (sc : Scope) (wd : Width) (rd rs1 : Reg) (s : State) : Out :=
  .next (issue (.lacq m sc wd rd rs1) m true (fun s => s.loadAcquire sc rd (s.x rs1) (widthBytes wd)) s)

def execSb (m : SMark) (rs1 rs2 : Reg) (imm : BitVec 11) (s : State) : Out :=
  .next (issue (.sb m rs1 rs2 imm) m true (fun s => s.store (s.x rs1 + immI imm) (lowBytes (s.x rs2) 1)) s)

def execSh (m : SMark) (rs1 rs2 : Reg) (imm : BitVec 11) (s : State) : Out :=
  .next (issue (.sh m rs1 rs2 imm) m true (fun s => s.store (s.x rs1 + immI imm) (lowBytes (s.x rs2) 2)) s)

def execSw (m : SMark) (rs1 rs2 : Reg) (imm : BitVec 11) (s : State) : Out :=
  .next (issue (.sw m rs1 rs2 imm) m true (fun s => s.store (s.x rs1 + immI imm) (lowBytes (s.x rs2) 4)) s)

def execSd (m : SMark) (rs1 rs2 : Reg) (imm : BitVec 11) (s : State) : Out :=
  .next (issue (.sd m rs1 rs2 imm) m true (fun s => s.store (s.x rs1 + immI imm) (lowBytes (s.x rs2) 8)) s)

def execSrel (m : SMark) (sc : Scope) (wd : Width) (rs1 rs2 : Reg) (s : State) : Out :=
  .next (issue (.srel m sc wd rs1 rs2) m true
    (fun s => s.storeRelease sc (s.x rs1) (lowBytes (s.x rs2) (widthBytes wd))) s)

def execPref (m : SMark) (l2 : Bool) (rs1 : Reg) (imm : BitVec 11) (s : State) : Out :=
  .next (issue (.pref m l2 rs1 imm) m true (fun s => .ok (s.prefetch l2 (s.x rs1 + immI imm).toNat)) s)

end Sys2Proof.Machine
end

