-- ==== Sys2Proof/Machine/Recast.lean ====
section
/-! DEFINITION. Ticks (11 R226), epoch ends with the census's choices and page placement (11 R227, R228, R241, R251), lease
expiries and notice deadlines (11 R229, R232), what becomes of a tile that is re-cast (11 R233 to R237, R250). -/

namespace Sys2Proof.Machine

/-! ## Leases and deadlines (11 R229, R232, R247) -/

def State.leaseDue (s : State) (l : Nat) : Bool := let e := s.role l; e.v && e.lse && s.isPast e.lexp

def State.doLeaseExpiry (s : State) (l : Nat) : State :=
  if s.leaseDue l then (s.castRole l { s.role l with lse := false }).holdEnded l else s

def execLeaseExpiry (ltid : BitVec 12) (s : State) : Out := .next (s.doLeaseExpiry ltid.toNat)

/-- A deadline has something to do: a tile in notice pending enters moving; a furrow opened through a tile that had entered
moving earlier is severed (11 R237). -/
def State.deadlineDue (s : State) (l : Nat) : Bool :=
  let e := s.role l
  e.v && s.isPast e.ndl && (e.cstate == 2 || (e.cstate == 3 && s.furrowHeld e))

def State.doDeadline (s : State) (l : Nat) : State :=
  if !s.deadlineDue l then s
  else if (s.role l).cstate = 2 then s.toMoving l
  else s.severThrough (s.role l).ptile.toNat

/-- NOTICE_DEADLINE of the notice `nid`; one that is no longer the tile's own has nothing to do (11 R231). -/
def execNoticeDeadline (ltid : BitVec 12) (nid : Byte) (s : State) : Out :=
  .next (if (s.role ltid.toNat).nid == nid then s.doDeadline ltid.toNat else s)

/-! ## TICK (11 R226, R251, 21 R351, R357) -/

/-- What the census applies when a tick begins: every lease expiry, then every past deadline (11 R251). -/
def State.applyTick (s : State) : State :=
  let s1 := s.roles.foldl (fun s e => s.doLeaseExpiry e.1) s
  s1.roles.foldl (fun s e => s.doDeadline e.1) s1

/-- The compute dies lose power: every L1 is cleaned first (13 R262, 21 R357). -/
def State.powerOff (s : State) : State :=
  let s1 := s.tiles.foldl (fun s e => s.cleanL1 e.1) s
  { s1 with tiles := [] }

/-- The count advances; the arithmetic clock takes a change at the boundary, corrected errors are counted anew in each epoch
of 50 ticks, and the census applies what has expired. After a shutdown the compute dies lose power once every strand has
left. -/
def execTick (s : State) : Out :=
  let n := s.tick + 1
  let s1 : State := { s with
    tick := n
    mgmt := { s.mgmt with clock := if s.mgmt.held then 10 else s.mgmt.nextClock }
    ceSeen := if n % 50 = 0 then Vector.replicate 5 [] else s.ceSeen }
  let s2 := s1.applyTick
  .next (if s2.powered || s2.tiles.any (fun e => !e.2.residents.isEmpty) then s2 else s2.powerOff)

/-! ## The search of an epoch end (11 R227, R228, R251) -/

/-- A workspace's census policy. -/
structure Policy where
  mn : List Nat
  mx : List Nat
  margin : List Nat
  cpri : Nat
  deriving DecidableEq, Repr

def State.policy (s : State) (ws : Nat) : Policy :=
  let p := (s.wsWord ws 5).toNat + (s.wsWord ws 6).toNat * 2 ^ 64
  let mx := [nbit p 10 10, nbit p 30 10, nbit p 50 10]
  { mn := [min (nbit p 0 10) (nbit p 10 10), min (nbit p 20 10) (nbit p 30 10), min (nbit p 40 10) (nbit p 50 10)], mx := mx,
    margin := [nbit p 64 10, nbit p 74 10, nbit p 84 10], cpri := nbit p 96 8 }

/-- Workspaces in the order in which the census serves them. -/
def State.censusOrder (s : State) : List Nat :=
  let all := s.listedWs.filter s.wsValid
  all.mergeSort fun a b => decide ((s.policy b).cpri < (s.policy a).cpri) || ((s.policy a).cpri == (s.policy b).cpri && decide (a ≤ b))

/-- Tiles of a workspace on a die that still count as held in their roles. -/
def State.heldTiles (s : State) (die ws : Nat) (chosen : List Nat) : List (Nat × RoleEntry) :=
  (s.dieTiles die).filterMap fun p =>
    let e := s.role p.1
    if e.owner.toNat == ws && decide (e.cstate.toNat ≤ 1) && !chosen.contains p.1 then some (p.1, e) else none

/-- The pair of roles of a search: the one to give up, the one to gain; the largest difference of pressures. -/
def rolePair (p : Policy) (press : List Nat) (held : Nat → Nat) : Option (Nat × Nat) :=
  let pairs := [0, 1, 2].flatMap fun b => [2, 1, 0].map fun a => (a, b)
  (pairs.foldl (fun (best : Option (Nat × Nat × Nat)) q =>
    let pa := press.getD q.1 0
    let pb := press.getD q.2 0
    if q.1 != q.2 && decide (pa + p.margin.getD q.2 0 < pb) && decide (p.mn.getD q.1 0 < held q.1) && decide (held q.2 < p.mx.getD q.2 0) then
      match best with
      | none => some (pb - pa, q)
      | some x => if x.1 < pb - pa then some (pb - pa, q) else best
    else best) none).map (·.2)

/-- Tiles of a die in the routing role. -/
def State.routers (s : State) (die : Nat) : List Nat := (s.dieTiles die).filterMap fun p => if (s.role p.1).role == 2 then some p.2 else none

/-- Routing tiles four positions away along the row, and along the column. -/
def rowNear (rs : List Nat) (t : Nat) : Nat := rs.countP fun r => r / 16 == t / 16 && (r % 16 == t % 16 + 4 || t % 16 == r % 16 + 4)
def colNear (rs : List Nat) (t : Nat) : Nat :=
  rs.countP fun r => r / 256 == t / 256 && r % 16 == t % 16 && (r % 256 / 16 == t % 256 / 16 + 4 || t % 256 / 16 == r % 256 / 16 + 4)

/-- Candidates for routing narrowed: near a routing tile, else those of the row of the greatest link stall. -/
def narrowRouting (rs stalls : List Nat) (cs : List (Nat × RoleEntry)) : List (Nat × RoleEntry) :=
  let near := cs.filter fun c => rowNear rs c.2.ptile.toNat + colNear rs c.2.ptile.toNat != 0
  if !near.isEmpty then near
  else
    let row (c : Nat × RoleEntry) : Nat := c.2.ptile.toNat % 256 / 16
    let best := (List.range 16).foldl (fun (b : Option Nat) y =>
      if cs.any (row · == y) then match b with
        | none => some y
        | some z => if stalls.getD z 0 < stalls.getD y 0 then some y else b
      else b) none
    cs.filter fun c => best == some (row c)

def Tile.gangHere (t : Tile) : Bool := t.residents.any fun c => t.ctx[c].gang

/-- The first in the order of a role: fewest strands, fewest page slots; then the lowest physical number. -/
def State.pickCandidate (s : State) (a : Nat) (cs : List (Nat × RoleEntry)) : Option Nat :=
  let load (c : Nat × RoleEntry) : Nat :=
    let t := s.tileAt c.2.ptile.toNat
    if a = 0 then t.residents.length else if a = 1 then t.slots.length else 0
  (cs.foldl (fun (best : Option (Nat × Nat × Nat)) c =>
    let k := (load c, c.2.ptile.toNat, c.1)
    match best with
    | none => some k
    | some b => if decide (k.1 < b.1) || (k.1 == b.1 && decide (k.2.1 < b.2.1)) then some k else best) none).map (·.2.2)

/-- One search for a workspace: the LTID and the role it is to gain. -/
def State.search (s : State) (die ws : Nat) (press stalls chosen : List Nat) : Option (Nat × Nat) :=
  let mine := s.heldTiles die ws chosen
  let held (r : Nat) : Nat := mine.countP fun c => c.2.role.toNat == r
  match rolePair (s.policy ws) press held with
  | none => none
  | some (a, b) =>
    let cs := mine.filter fun c => c.2.role.toNat == a && !(s.tileAt c.2.ptile.toNat).gangHere
    let rs := s.routers die
    let cs1 := if b = 2 then narrowRouting rs stalls cs else cs
    let cs2 := if a = 2 then cs1.filter fun c => decide (rowNear rs c.2.ptile.toNat ≤ 1) && decide (colNear rs c.2.ptile.toNat ≤ 1) else cs1
    (s.pickCandidate a cs2).map fun l => (l, b)

/-- A tile chosen enters the state machine of R229. -/
def State.choose (s : State) (l b : Nat) : State :=
  let e := { s.role l with trole := BitVec.ofNat 2 b }
  if e.cstate == 1 || e.lse || e.xwin then s.castRole l { e with cstate := 1 }
  else (s.castRole l e).censusNotice l 0

/-- Searches for one workspace while notices are left. -/
def State.epochWs (s : State) (die ws : Nat) (press stalls : List Nat) : Nat → List Nat → State × List Nat
  | 0, ch => (s, ch)
  | fuel + 1, ch =>
    if (s.die die).maxrc ≤ (s.die die).posted then (s, ch)
    else match s.search die ws press stalls ch with
      | none => (s, ch)
      | some (l, b) => (s.choose l b).epochWs die ws press stalls fuel (l :: ch)

/-- A wanted tile that was not chosen returns to bound; one whose notice is owed does not. -/
def State.unwant (s : State) (die : Nat) (chosen : List Nat) : State :=
  (s.dieTiles die).foldl (fun s p =>
    let e := s.role p.1
    let owed := (s.die die).censusOn && (s.die die).owed.any fun o => o.1 == p.1
    if e.cstate == 1 && !chosen.contains p.1 && !owed then s.castRole p.1 { e with cstate := 0, trole := 0 } else s) s

/-- Notices put off are posted at the start of the next epoch (11 R228). -/
def State.postOwed (s : State) (die : Nat) : State :=
  let d := s.die die
  let s1 := s.setDie die { d with posted := 0, owed := [] }
  d.owed.foldl (fun s o =>
    let e := s.role o.1
    if e.v && e.cstate == 1 && !e.lse && !e.xwin then s.censusNotice o.1 o.2 else s) s1

/-! ## Page placement (11 R236, R240, R241) -/

/-- Regions of a die. -/
def State.regionsOf (s : State) (die : Nat) : List Rgn :=
  (s.tableOwners.flatMap fun o => (List.range (2 ^ min ((s.wsWord o wSWCTL).toNat % 32) 16)).filterMap fun r => s.rgnOf o r).filter (·.die == die)

/-- A slot is neither occupied nor promised to a page on its way. -/
def State.slotFree (s : State) (t l slot : Nat) : Bool :=
  (sget slot (s.tileAt t).slots).isNone && !s.moves.any fun m => m.dst == some (l, slot)

/-- Free slots of the store tiles of a die that take pages, lowest LTID and slot first (11 R238). -/
def State.freeSlots (s : State) (die : Nat) : List (Nat × Nat) :=
  let ls := ((s.dieTiles die).filter fun p => (s.role p.1).role == 1 && decide ((s.role p.1).cstate.toNat ≤ 1)).mergeSort fun a b => decide (a.1 ≤ b.1)
  ls.flatMap fun p => ((List.range 24).filter (s.slotFree p.2 p.1)).map fun n => (p.1, n)

/-- A page set on its way. -/
def State.startMove (s : State) (r : Rgn) (page : Nat) (dst : Option (Nat × Nat)) : State :=
  let s1 := s.setPageEnt r page { s.pageEnt r page with moving := true }
  { s1 with moves := s1.moves ++ [{ ows := r.ows, rid := r.rid, page := page, dst := dst }] }

/-- Pages of a die that stand at their backing, the hottest first. -/
def State.coldPages (s : State) (die : Nat) : List (Nat × Rgn × Nat) :=
  let all := (s.regionsOf die).flatMap fun r => (List.range r.npages).filterMap fun n =>
    let e := s.pageEnt r n
    if !e.loc && !e.moving then some (e.hot, r, n) else none
  all.mergeSort fun a b => decide (b.1 < a.1) || (a.1 == b.1 && (decide (a.2.1.rid < b.2.1.rid)
    || (a.2.1.rid == b.2.1.rid && (decide (a.2.2 < b.2.2) || (a.2.2 == b.2.2 && decide (a.2.1.ows ≤ b.2.1.ows))))))

/-- Up to 64 pages go from their backing into free slots, then every HOT count halves. -/
def State.placePages (s : State) (die : Nat) : State :=
  let s1 := ((s.coldPages die).take 64).zip (s.freeSlots die) |>.foldl (fun s p => s.startMove p.1.2.1 p.1.2.2 (some p.2)) s
  (s1.regionsOf die).foldl (fun s r => (List.range r.npages).foldl (fun s n =>
    s.setPageEnt r n { s.pageEnt r n with hot := (s.pageEnt r n).hot / 2 }) s) s1

/-! ## EPOCH_END -/

/-- The census of a die still has an expiry or a deadline to apply in this tick (11 R251). -/
def State.censusBusy (s : State) (die : Nat) : Bool := (s.dieTiles die).any fun p => s.leaseDue p.1 || s.deadlineDue p.1

def State.epochDue (s : State) (die : Nat) : Bool := decide (50 * (s.die die).epoch ≤ s.tick) && !s.censusBusy die

/-- PS: a per-mille, from the bytes that the headgate refused in the epoch and what else is sampled (11 R227, 15 R298). -/
def State.storePressure (s : State) (die ps : Nat) : Nat := min (Config.storePressure (s.die die).refused ps) 1000

/-- EPOCH_END with the three pressures and the link stall of each row. -/
def State.doEpochEnd (s : State) (die : Nat) (press stalls : List Nat) : State :=
  if !s.epochDue die then s
  else
    let (s1, chosen) := if (s.die die).censusOn then
        s.censusOrder.foldl (fun (a : State × List Nat) ws => a.1.epochWs die ws press stalls 256 a.2) (s, [])
      else (s, [])
    let s2 := ((s1.unwant die chosen).postOwed die).placePages die
    s2.setDie die { s2.die die with epoch := s.tick / 50 + 1, refused := 0 }

def execEpochEnd (die : Fin 4) (pc ps pl : Nat) (rowStall : List Nat) (s : State) : Out :=
  .next (s.doEpochEnd die.val [pc, s.storePressure die.val ps, pl] rowStall)

/-! ## PAGE_FLIP (11 R236, R241) -/

/-- The bytes and the poisoned words of a page where it stands. -/
def State.pageData (s : State) (r : Rgn) (page : Nat) : List Byte × List Nat :=
  let e := s.pageEnt r page
  let words := List.range (pageSize / 8)
  if e.loc then
    let t := s.tileAt (s.role e.ltid).ptile.toNat
    let o := e.slot * pageSize
    (mdense t.store o pageSize, words.filter fun w => nsMem (o / 8 + w) t.poison)
  else
    let pa := r.back + pageSize * page
    ((s.readAt pa pageSize).1, words.filter fun w => (s.latestWord (pa / 8 + w)).poison)

/-- A page written at its new place. -/
def State.putPage (s : State) (r : Rgn) (page : Nat) (dst : Option (Nat × Nat)) (bytes : List Byte) (bad : List Nat) : State :=
  match dst with
  | some (l, slot) =>
    let n := (s.role l).ptile.toNat
    let t := s.tileAt n
    let o := slot * pageSize
    let store := t.store.filter (fun c => c.1 < o) ++ memOf o bytes ++ t.store.filter (fun c => o + pageSize ≤ c.1)
    let poison := bad.foldl (fun p w => nsAdd (o / 8 + w) p) (t.poison.filter fun w => !(decide (o / 8 ≤ w) && decide (w < (o + pageSize) / 8)))
    s.setTile n { t with
      store := store, poison := poison
      slots := sset slot { ws := BitVec.ofNat 12 r.ows, region := r.rid, page := page } t.slots }
  | none =>
    let pa := r.back + pageSize * page
    bad.foldl (fun s w => s.setPoison (pa / 8 + w) true) (s.writeAt pa bytes (BitVec.ofNat 12 r.ows))

/-- The slot that a page leaves is free. -/
def State.leaveSlot (s : State) (e : PageEnt) : State :=
  if e.loc then
    let n := (s.role e.ltid).ptile.toNat
    let t := s.tileAt n
    s.setTile n { t with slots := sdel e.slot t.slots }
  else s

/-- Page move `n` completes: the entry takes the new place, GEN advances, MOVING clears. -/
def State.doPageFlip (s : State) (n : Nat) : State :=
  match s.moves[n]? with
  | none => s
  | some m =>
    let s0 := { s with moves := s.moves.eraseIdx n }
    match s.rgnOf m.ows m.rid with
    | none => s0
    | some r =>
      let e := s.pageEnt r m.page
      let d := s.pageData r m.page
      let s0 := if e.loc then s0 else s0.seeRuns [(r.back + pageSize * m.page, pageSize)] r.ows
      let s1 := (s0.leaveSlot e).putPage r m.page m.dst d.1 d.2
      let to' := m.dst.getD (0, 0)
      s1.setPageEnt r m.page { loc := m.dst.isSome, moving := false, ltid := to'.1, slot := to'.2, gen := e.gen + 1, hot := e.hot }

/-! ## The end of a region (11 R241) -/

/-- A page of the region is moving. -/
def State.regionMoving (s : State) (ws rid : Nat) : Bool := s.moves.any fun m => m.ows == ws && m.rid == rid

/-- RGNFREE once no page moves: the slots are free, the descriptor has V = 0. -/
def State.freeRegion (s : State) (ws rid : Nat) : State :=
  match s.rgnOf ws rid with
  | none => s
  | some r =>
    let mine (p : PageSlot) : Bool := p.ws.toNat == ws && p.region == rid
    let s1 := { s with tiles := s.tiles.map fun (e : Nat × Tile) => (e.1, ({ e.2 with slots := e.2.slots.filter fun p => !mine p.2 } : Tile)) }
    s1.putNat r.desc 8 (s.natAt r.desc 8 / 2 * 2) (BitVec.ofNat 12 noWs)

/-- A waiting RGNFREE completes. -/
def State.finishFree (s : State) : State :=
  let ws := (s.mgmt.sarg[0]).toNat
  let rid := (s.mgmt.sarg[1]).toNat
  if s.mgmt.scmd = 6 && !s.regionMoving ws rid then
    let s1 := s.freeRegion ws rid
    { s1 with mgmt := { s1.mgmt with scmd := 0, sstat := 0 } }
  else s

def execPageFlip (n : Nat) (s : State) : Out := .next (s.doPageFlip n).finishFree

/-! ## ENTER_MOVING (11 R233, R234, R236, R237) -/

def State.isCleared (s : State) (l : Nat) : Bool := (sget l s.notices).any (·.cleared)

def State.setCleared (s : State) (l : Nat) : State :=
  match sget l s.notices with
  | some n => { s with notices := sset l { n with cleared := true } s.notices }
  | none => { s with notices := sset l { nid := (s.role l).nid, why := 0, count := 0, wss := [], cleared := true } s.notices }

/-- Step 4 of R233: the copies are cancelled, and their completions are recorded. -/
def Chan.recastCancel (c : Chan) : Chan := if c.st == .running || c.st == .cancelling then { c with st := .cancelling, recast := c.stage.isNone } else c

/-- Step 3 of R233 (06 R127): a side core stopped, its registers and store zeroed. DESIGN CHOICE: its image address too (log
78). -/
def SideCore.retire (c : SideCore) : SideCore := { SideCore.reset with inc := c.inc + 1 }

/-- Step 6 of R233, with the exchange schedule (15 R294) and the instruction cache (06 R374). -/
def Tile.clear (t : Tile) : Tile :=
  { t with
    store := [], full := [], poison := [], panels := Vector.replicate 16 .reset, queues := Vector.replicate 4 [],
    mail := [], mailWait := [], bfn := Vector.replicate 8 none, tt := [], tlb := [], plru := 0, icache := [], tq := [], chans := Vector.replicate 4 .reset, locks := [],
    xsched := [], xnew := [], slots := [] }

/-- Furrows that end at a tile severed, and its endpoints freed. -/
def State.severAt (s : State) (n : Nat) : State :=
  let s1 := (s.furrows.filter fun f => f.src == n || f.sink == n).foldl (fun s f => s.sever f n) s
  s1.setTile n { s1.tileAt n with fsrc := Vector.replicate 4 none, fsink := Vector.replicate 4 none }

/-- Windows of a tile that leaves the compute role closed. -/
def State.closeWindows (s : State) (n : Nat) : State := (s.tileAt n).xwin.foldl (fun s w => s.closeWindow n w.ch) s

/-- A staged packet that chose this tile goes back to the headgate; its copies stop (11 R234, 15 R300). -/
def State.restage (s : State) (n : Nat) : State :=
  (List.range 4).foldl (fun s die =>
    ((s.die die).heads.filter fun p => p.tile == some n).foldl (fun s p =>
      let gone := s.fresh
      let mark (c : Chan) : Chan := if c.stage == some p.id then { c with stage := some gone, st := if c.st == .running then .cancelling else c.st } else c
      let s1 := { s with
        fresh := s.fresh + 1
        tiles := s.tiles.map fun (e : Nat × Tile) => (e.1, ({ e.2 with chans := e.2.chans.map mark } : Tile)) }
      let d := s1.die die
      let p1 := { p with admitted := false, released := false, unstaged := p.ents.any (·.isEmpty), tile := none, todo := [], running := 0 }
      s1.setDie die { d with
        use := if p.admitted then d.use - p.total else d.use
        heads := d.heads.map fun h => if h.id == p.id then p1 else h }) s) s

/-- Nothing of the tile's work is left: strands have gone and copies have stopped. -/
def Tile.idle (t : Tile) : Bool := t.residents.isEmpty && !(t.chans.any Chan.active)

/-- Steps 2 to 6 of R233, as far as they can go now: each waits for those before it. -/
def State.leaveCompute (s : State) (l n : Nat) : State :=
  let s1 := ((s.tileAt n).residents).foldl (fun s c => s.preempt n c 2 .deadline) (s.restage n)
  let t := s1.tileAt n
  if !t.residents.isEmpty then s1
  else
  let s2 := ((s1.sideLeft n .loader).sideLeft n .storer).setTile n
    { t with ldr := t.ldr.retire, str := t.str.retire, chans := t.chans.map Chan.recastCancel }
  if !(s2.tileAt n).idle then s2
  else
    let s3 := ((s2.cleanL1 n).severAt n).closeWindows n
    (s3.setTile n (s3.tileAt n).clear).setCleared l

/-- Where a page of a tile that leaves the store role goes (11 R236). -/
def State.pageTarget (s : State) (die : Nat) (p : PageSlot) : Option (Nat × Nat) :=
  let fs := s.freeSlots die
  let same (q : Nat × Nat) : Bool := (s.tileAt (s.role q.1).ptile.toNat).slots.any fun e => e.2.ws == p.ws && e.2.region == p.region
  match fs.find? same with
  | some q => some q
  | none => fs.head?

/-- A page leaves or reaches a tile. -/
def State.pageMoving (s : State) (l : Nat) : Bool :=
  s.moves.any fun m => m.dst.any (·.1 == l) || (match s.rgnOf m.ows m.rid with
    | some r => (s.pageEnt r m.page).loc && (s.pageEnt r m.page).ltid == l
    | none => false)

/-- The next page of a tile that leaves the store role sets out, in ascending slot order, one at a time. -/
def State.leaveStore (s : State) (l n : Nat) : State :=
  if s.pageMoving l then s
  else match (s.tileAt n).slots with
    | [] => s.setCleared l
    | (slot, p) :: _ => match s.rgnOf p.ws.toNat p.region with
      | none => s.setTile n { s.tileAt n with slots := sdel slot (s.tileAt n).slots }
      | some r => s.startMove r p.page (s.pageTarget (n / 256) p)

/-- ENTER_MOVING: what a tile in moving still has to do, as far as it can be done now. -/
def State.doEnterMoving (s : State) (l : Nat) : State :=
  let e := s.role l
  let n := e.ptile.toNat
  if !e.v || e.cstate != 3 || s.isCleared l then s
  else if e.role = 0 then s.leaveCompute l n
  else if e.role = 1 then s.leaveStore l n
  else if (s.furrowsThrough n).isEmpty && !s.draining n then s.setCleared l else s

def execEnterMoving (ltid : BitVec 12) (s : State) : Out := .next (s.doEnterMoving ltid.toNat)

/-! ## MOVE_COMPLETE (11 R229, R233, R235, R250) -/

def State.awaiting (s : State) (l : Nat) : Bool := s.dies.any fun d => d.await.contains l

/-- The lowest LTID of the free pool. -/
def State.poolLtid (s : State) : Option Nat := (List.range 4096).find? fun l => !(s.role l).v && !s.awaiting l

/-- An LTID goes back to the free pool. -/
def State.toPool (s : State) (l : Nat) : State :=
  let e := s.role l
  s.castRole l { e with v := false, ptile := 0, gen := e.gen + 1, owner := 0xFFF, lse := false, xwin := false, cstate := 0 }

/-- An LTID bound to a tile with its generation advanced. -/
def State.bindTo (s : State) (l n : Nat) : State :=
  let e := s.role l
  s.castRole l { e with v := true, ptile := BitVec.ofNat 10 n, gen := e.gen + 1, cstate := 0 }

/-- A free compute tile of a die and its LTID: no owner, no strand, bound; the lowest physical number. -/
def State.freeCompute (s : State) (die : Nat) : Option (Nat × Nat) :=
  (s.dieTiles die).find? fun p =>
    let e := s.role p.1
    e.role == 0 && e.owner == 0xFFF && e.cstate == 0 && (s.tileAt p.2).residents.isEmpty

/-- The physical tile takes the lowest LTID of the pool for its new role, with the owner of the one it gave up. -/
def State.takeLtid (s : State) (n : Nat) (old : RoleEntry) : State :=
  match s.poolLtid with
  | none => s
  | some k =>
    let e := s.role k
    (s.castRole k { e with role := old.trole, trole := old.trole, owner := old.owner, lse := false, xwin := false }).bindTo k n

/-- The store of a free tile that takes another's LTID is zero (11 R233, log 50). -/
def Tile.zeroStore (t : Tile) : Tile := { t with store := [], full := [], poison := [] }

/-- A tile that enters the compute role takes the LTID that has waited longest, and gives up its own (11 R235). -/
def State.takeQueued (s : State) (l n : Nat) : State :=
  let die := n / 256
  let d := s.die die
  match d.await with
  | [] => s
  | k :: rest => ((s.setDie die { d with await := rest }).toPool l).bindTo k n

/-- The LTID of a tile that leaves the compute role is rebound (11 R235); the store it meets is zero (11 R233). -/
def State.rebind (s : State) (l : Nat) : State :=
  let e := s.role l
  let n := e.ptile.toNat
  let die := n / 256
  let s1 := match s.freeCompute die with
    | some (k, m) => ((s.setTile m (s.tileAt m).zeroStore).toPool k).bindTo l m
    | none =>
      let s1 := s.castRole l { e with v := false, ptile := 0, gen := e.gen + 1, cstate := 0 }
      s1.setDie die { s1.die die with await := (s1.die die).await ++ [l] }
  let s2 := s1.takeLtid n e
  if e.trole = 0 then s2.takeQueued (s2.ltidOf n) n else s2

/-- The parts of a tile cleared, but for the staging copies that it runs: 15 R300 names no re-cast of a store tile among what
stops them. -/
def Tile.clearParts (t : Tile) : Tile :=
  let runs (c : Chan) : Bool := c.stage.isSome && c.active
  { t.clear with
    chans := t.chans.map fun c => if runs c then c else .reset
    locks := t.locks.filter fun e => runs t.chans[e.2.chan] }

/-- A tile that left the store or the routing role is bound in its new role and keeps its LTID (11 R250). -/
def State.bindNew (s : State) (l : Nat) : State :=
  let e := s.role l
  let n := e.ptile.toNat
  let s1 := (s.setTile n (s.tileAt n).clearParts).castRole l { e with role := e.trole, gen := e.gen + 1, cstate := 0 }
  if e.trole = 0 then s1.takeQueued l n else s1

/-- The work of a move is done; the notice and its count stay for the NTCACKs still to come (11 R231, R246). -/
def State.doMoveComplete (s : State) (l : Nat) : State :=
  let e := s.role l
  if !e.v || e.cstate != 3 || !s.isCleared l then s
  else
    let s1 := { s with notices := s.notices.map fun (p : Nat × Notice) => if p.1 == l then (p.1, { p.2 with cleared := false }) else p }
    if e.role = 0 then s1.rebind l else s1.bindNew l

def execMoveComplete (ltid : BitVec 12) (s : State) : Out := .next (s.doMoveComplete ltid.toNat)

/-! ## ROLE_CACHE_INVALIDATION (11 R225) -/

/-- The broadcast of a changed entry reaches an interface. -/
def execRoleCacheInvalidation (tile : Nat) (ltid : BitVec 12) (s : State) : Out :=
  .next (s.setTile tile { s.tileAt tile with roleCache := (s.tileAt tile).roleCache.filter (fun e => e.1 != ltid.toNat) })

end Sys2Proof.Machine
end

