-- ==== Sys2Proof/Machine/Slice.lean ====
section
/-! DEFINITION. The steps of the home slices, of the L1s and of translation as operations of the machine (01 R17, 13 R255 to
R271, 06 R374, 22 R363). -/

namespace Sys2Proof.Machine

/-- REMOTE_RESULT_ARRIVAL; `outside` are the bytes that a node of the fabric returned. -/
def execRemoteResultArrival (n : Nat) (outside : List Byte) (s : State) : Out := .next (s.doResultArrival n outside)

/-- STORE_REGISTRATION: a store, or an atomic, reaches the place where it performs (13 R255, 10 R200). -/
def execStoreRegistration (n : Nat) (s : State) : Out :=
  .next (match s.flights[n]? with
    | some (.atom ..) | some (.winAtom ..) | some (.bankAtom ..) => s.doAtom n
    | _ => s.doStoreRegistration n)

def execRegistrationAck (n : Nat) (s : State) : Out := .next (s.doRegistrationAck n)
def execSliceFill (n : Nat) (s : State) : Out := .next (s.doSliceFill n)
def execForwardedRead (n : Nat) (s : State) : Out := .next (s.doForwardedRead n)
def execWriteBack (tile line : Nat) (s : State) : Out := .next (s.doWriteBack tile line)
def execLeave (n : Nat) (s : State) : Out := .next (s.doLeave n)
def execRegistryErrorRecall (line : Nat) (s : State) : Out := .next (s.doRegistryRecall line)
def execReplicaLapse (line helper : Nat) (s : State) : Out := .next (s.doReplicaLapse line helper)
def execTableWalk (n : Nat) (s : State) : Out := .next (s.doTableWalk n)
def execStewardPageService (n : Nat) (a : PageAnswer) (s : State) : Out := .next (s.doStewardPage n a)
def execIcacheFill (n : Nat) (s : State) : Out := .next (s.doIcacheFill n)

/-- REMOTE_ACCESS_TIMEOUT (22 R363). -/
def execRemoteAccessTimeout (n : Nat) (s : State) : Out := .next (s.doRemoteTimeout n)

end Sys2Proof.Machine
end

