-- ==== Sys2Proof/Machine/Steward.lean ====
section
/-! DEFINITION. The steward's commands (05 R113) and the writes of the management window. -/

namespace Sys2Proof.Machine

/-! ## Commands (05 R113) -/

def scDONE : Nat := 0
def scBADCMD : Nat := 1
def scBADARG : Nat := 2
def scNOWS : Nat := 3
def scNOMEM : Nat := 4
def scINUSE : Nat := 5

def State.arg (s : State) (i : Fin 7) : Nat := (s.mgmt.sarg[i]).toNat

/-- A command ended: its status and its result. -/
def State.endCommand (s : State) (status : Nat) (res : Word) : State :=
  { s with mgmt := { s.mgmt with sstat := BitVec.ofNat 8 status, sres := res, scmd := 0 } }

/-- SCMD written: dropped while a command runs. -/
def State.command (s : State) (f : State → State) : State := if s.mgmt.sstat = 0x80 then s else f s

/-- The workspace named by SARG0 exists, or the command ends with NOWS. -/
def State.forWs (s : State) (f : Nat → State) : State :=
  if 4096 ≤ s.arg 0 then s.endCommand scBADARG 0
  else if !s.wsValid (s.arg 0) then s.endCommand scNOWS 0
  else f (s.arg 0)

def State.onTiles (s : State) (f : Tile → Tile) : State := { s with tiles := s.tiles.map fun e => (e.1, f e.2) }

/-- What depends on a word of a workspace's entry, invalidated on every tile. -/
def Tile.forget (t : Tile) (ws off : Nat) : Tile :=
  let t1 := { t with tt := if off = 32 then t.tt.filter fun e => e.ws.toNat != ws else t.tt }
  if off = 56 then t1.tlbKeep fun e => e.ws.toNat != ws else t1

/-- The walk caches without what they hold of a workspace (13 R269). -/
def State.dropWalkCache (s : State) (ws : Nat) : State := { s with walkCache := s.walkCache.filter fun e => e.ws.toNat != ws }

def State.wswrite (s : State) : State :=
  let ws := s.arg 0
  let off := s.arg 1
  if 4096 ≤ ws || off % 8 != 0 || decide (120 ≤ off) then s.endCommand scBADARG 0
  else
    let s1 := (s.setWsWord ws (off / 8) (s.mgmt.sarg[2])).onTiles fun t => t.forget ws off
    (if off = 56 then s1.dropWalkCache ws else s1).endCommand scDONE 0

/-- A translation overlaps the range; a length of 0 is the whole space. -/
def TlbEntry.overlaps (e : TlbEntry) (ws va len : Nat) : Bool :=
  e.ws.toNat == ws && (len == 0 || (decide (va < e.va + e.size) && decide (e.va < va + len)))

def State.tlbinv (s : State) : State :=
  s.forWs fun ws =>
    let one (t : Tile) : Tile := { t.tlbKeep (fun e => !e.overlaps ws (s.arg 1) (s.arg 2)) with icache := t.icache.filter fun l => l.ws.toNat != ws }
    ((s.onTiles one).dropWalkCache ws).endCommand scDONE 0

def State.ttflush (s : State) : State :=
  s.forWs fun ws =>
    let first := s.arg 1
    let n := s.arg 2
    if 1024 ≤ first || n == 0 || decide (1024 < n) then s.endCommand scBADARG 0
    else (s.onTiles fun t => { t with
      tt := t.tt.filter fun e => !(e.ws.toNat == ws && decide (first ≤ e.tid.toNat) && decide (e.tid.toNat < first + n)) }).endCommand scDONE 0

/-! ### Regions (11 R239 to R241) -/

/-- Physical spans overlap. -/
def spansMeet (a n b m : Nat) : Bool := decide (a < b + m) && decide (b < a + n)

/-- The backings, the store tables and the region tables in use. -/
def State.spansInUse (s : State) : List (Nat × Nat) :=
  (List.range 4).flatMap (fun d => (s.regionsOf d).flatMap fun r => [(r.back, r.npages * pageSize), (r.pgtab, 8 * r.npages)])
  ++ [(s.mgmt.wstBase.toNat, 0x10_0000)]
  ++ s.tableOwners.map fun o => ((s.wsWord o wSWBASE).toNat, 64 * 2 ^ min ((s.wsWord o wSWCTL).toNat % 32) 16)

/-- A span that the steward may take in a die's HBM: aligned, backed, apart from those in use. -/
def State.spanFree (s : State) (die a n align : Nat) : Bool :=
  a % align == 0
  && (match regionOf a, regionOf (a + n - 1) with
    | .hbm d off, .hbm d' off' => d == die && d' == die && hbmBacked s d off && hbmBacked s d off'
    | _, _ => false)
  && !s.spansInUse.any fun q => spansMeet a n q.1 q.2

/-- The bytes of a span of a die's HBM made zero; where a byte that no entry lists is not zero, an entry says so (log 2). -/
def mzero (m : Mem) (a n : Nat) : Mem :=
  let lo := max a (a / 2 ^ 37 * 2 ^ 37 + wstOff)
  let hi := min (a + n) (a / 2 ^ 37 * 2 ^ 37 + wstOff + 2 ^ 20)
  ((List.range (hi - lo)).map (lo + ·)).foldl (fun m x => mset m x 0) (m.filter fun c => !(decide (a ≤ c.1) && decide (c.1 < a + n)))

/-- Memory cleared to zeros, as if written at the slices: registrants and the host's holds are gone (13 R255, 18 R315). -/
def State.zeroSpan (s : State) (a n : Nat) : State :=
  let inside (w : Nat) : Bool := decide (a / 8 ≤ w) && decide (w < (a + n) / 8)
  let s1 := ((s.reg.map (·.1)).filter inside).foldl State.revoke s
  { s1 with mem := mzero s1.mem a n, mpoison := s1.mpoison.filter fun w => !inside w, hold := s1.hold.filter fun e => !inside (8 * e.1) }

/-- A descriptor of 64 bytes. -/
def rgnDesc (die npages nltid back pgtab : Nat) : List Byte :=
  leBytes (1 + die % 4 * 2 + npages % 2 ^ 16 * 2 ^ 3 + nltid % 2 ^ 12 * 2 ^ 19 + back % 2 ^ 52 * 2 ^ 32 + pgtab % 2 ^ 52 * 2 ^ 192) 64

def State.rgnmake (s : State) : State :=
  s.forWs fun ws =>
    let rid := s.arg 1
    let npages := s.arg 2
    let die := s.arg 3
    let nltid := s.arg 4
    let base := (s.wsWord ws wSWBASE).toNat
    if base == 0 || decide (2 ^ min ((s.wsWord ws wSWCTL).toNat % 32) 16 ≤ rid) || npages == 0 || decide (65535 < npages)
        || decide (4 ≤ die) || decide (4096 ≤ nltid) then s.endCommand scBADARG 0
    else if (s.rgnOf ws rid).isSome then s.endCommand scINUSE 0
    else
      let back := Config.regionBack s.fresh
      let table := Config.regionTable s.fresh
      let s0 := { s with fresh := s.fresh + 1 }
      if !s.spanFree die back (npages * pageSize) pageSize || !s.spanFree die table (8 * npages) 8
          || spansMeet back (npages * pageSize) table (8 * npages) then s0.endCommand scNOMEM 0
      else
        let s1 := (s0.zeroSpan back (npages * pageSize)).zeroSpan table (8 * npages)
        (s1.writeAt (base + 64 * rid) (rgnDesc die npages nltid back table) (BitVec.ofNat 12 noWs)).endCommand scDONE (BitVec.ofNat 64 back)

/-- Grant `i` of a descriptor: its workspace, and whether it grants anything. -/
def grantWs (g i : Nat) : Nat := nbit g (16 * i) 12
def grantLive (g i : Nat) : Bool := let r := nbit g (16 * i + 12) 2; r == 1 || r == 3

def State.rgngrant (s : State) : State :=
  s.forWs fun ws =>
    let grantee := s.arg 2
    let rights := s.arg 3
    match s.rgnOf ws (s.arg 1) with
    | none => s.endCommand scBADARG 0
    | some r =>
      if 4096 ≤ grantee || decide (3 < rights) then s.endCommand scBADARG 0
      else
        let g := r.grants
        let put (i v : Nat) : State :=
          (s.putNat (r.desc + 16) 8 (g - nbit g (16 * i) 16 * 2 ^ (16 * i) + v * 2 ^ (16 * i)) (BitVec.ofNat 12 noWs)).endCommand scDONE 0
        let word := if rights = 1 || rights = 3 then grantee + rights * 2 ^ 12 else 0
        match (List.range 4).find? fun i => grantLive g i && grantWs g i == grantee with
        | some i => put i word
        | none =>
          if word = 0 then s.endCommand scDONE 0
          else match (List.range 4).find? fun i => !grantLive g i with
            | some i => put i word
            | none => s.endCommand scBADARG 0

/-- A packet at a headgate stages into region 0 of a workspace. -/
def State.stagesRegion0 (s : State) (ws : Nat) : Bool :=
  s.dies.any fun d => d.heads.any fun p => p.ws.toNat == ws && (List.range (pkEntries (pktHead p.bytes))).any fun i => weTgt (pkEntry p.bytes i) == 2

def State.rgnfree (s : State) : State :=
  s.forWs fun ws =>
    let rid := s.arg 1
    if (s.rgnOf ws rid).isNone then s.endCommand scBADARG 0
    else if rid == 0 && s.stagesRegion0 ws then s.endCommand scINUSE 0
    else ({ s with mgmt := { s.mgmt with scmd := 6, sstat := 0x80, sres := 0 } } : State).finishFree

/-! ### FORCECAST and TASKSTOP -/

def State.forcecast (s : State) : State :=
  let l := s.arg 0
  let r := s.arg 1
  let e := s.role l
  if 4096 ≤ l || decide (2 < r) || !e.v then s.endCommand scBADARG 0
  else if 2 ≤ e.cstate.toNat then s.endCommand scINUSE 0
  else ((s.castRole l { e with trole := BitVec.ofNat 2 r }).postNotice l 2).endCommand scDONE 0

/-- The packets of a queue taken off a headgate and discarded. -/
def State.stopTasks (s : State) (q : Word) (ws die : Nat) : State :=
  let mine (p : HeadPkt) : Bool := p.queue == q && p.ws.toNat == ws && pkWsp (pktHead p.bytes) == 1
  ((s.die die).heads.filter mine).foldl (fun s p =>
    let s1 := s.cancelStage p.id
    let d := s1.die die
    let s2 := s1.setDie die { d with use := if p.admitted then d.use - p.total else d.use, heads := d.heads.filter fun h => h.id != p.id }
    s2.qDiscard ws q.toNat 20 3) s

def State.taskstop (s : State) : State :=
  let ws := s.arg 1
  if 4096 ≤ ws then s.endCommand scBADARG 0
  else if !s.wsValid ws then s.endCommand scNOWS 0
  else ((List.range 4).foldl (fun s d => s.stopTasks (s.mgmt.sarg[0]) ws d) s).endCommand scDONE 0

def execWswrite (s : State) : Out := .next (s.command State.wswrite)
def execTlbinv (s : State) : Out := .next (s.command State.tlbinv)
def execTtflush (s : State) : Out := .next (s.command State.ttflush)
def execRgnmake (s : State) : Out := .next (s.command State.rgnmake)
def execRgngrant (s : State) : Out := .next (s.command State.rgngrant)
def execRgnfree (s : State) : Out := .next (s.command State.rgnfree)
def execForcecast (s : State) : Out := .next (s.command State.forcecast)
def execTaskstop (s : State) : Out := .next (s.command State.taskstop)

/-- A nonzero code that names no command; a code of 0 starts nothing. -/
def execBadcmd (code : Word) (s : State) : Out :=
  .next (if code = 0 || decide (code.toNat ≤ 8) then s else s.command fun s => s.endCommand scBADCMD 0)

/-! ## The other registers of the window -/

/-- A write to a register of an ENQ window, dropped while the window is busy; 1 to EQGO makes it busy (15 R280). -/
def State.enqRegister (s : State) (i : Fin 4) (off : Nat) (v : Word) : State :=
  let w := s.mgmt.enq[i]
  let put (w : EnqWin) : State := { s with mgmt := { s.mgmt with enq := s.mgmt.enq.set i w } }
  if w.busy then s
  else if off = 0 then put { w with addr := v }
  else if off = 8 then put { w with ws := v.setWidth 12 }
  else if off = 0x10 then (if v = 1 then put { w with busy := true } else s)
  else if 0x100 ≤ off && decide (off < 0x200) then
    let o := off - 0x100
    put { w with pkt := w.pkt.take o ++ leBytes v.toNat 8 ++ w.pkt.drop (o + 8) }
  else s

/-- What the host reads at an offset of the management window, 8 bytes: the identification (00 R6), CENSUS_CTL (11 R227),
STAGE_CTL (15 R297), ERRCNT and the error rings (21 R351), WSTBASE (05 R112), SSTAT and SRES (05 R113), EQSTAT (15 R280), AGE_PCT
and EOL_DAYS (21 R353), BOOTSTAT (21 R355), PWRCAP (21 R357), the report, its request word and the certificate (21 R356), FRT
(22 R358); none where no readable register stands. A read changes nothing. -/
def State.mgmtRead (s : State) (off : Nat) : Option Word :=
  let k (base : Nat) : Nat := (off - base) / 8
  let bytes (f : Nat → Byte) (base : Nat) : Option Word := some (BitVec.ofNat 64 (leNat ((List.range 8).map fun i => f (off - base + i))))
  if off % 8 != 0 then none
  else if off = 0 then some idVendor
  else if off = 8 then some idPart
  else if off = 0x10 then some idStep
  else if off = 0x18 then some s.idConfig
  else if 0x1000 ≤ off && decide (off < 0x1020) then some (s.die (k 0x1000)).ctl
  else if 0x1100 ≤ off && decide (off < 0x1120) then some ((s.die (k 0x1100)).l2res.setWidth 64)
  else if 0x1200 ≤ off && decide (off < 0x1228) then some (s.errCe.getD (k 0x1200) 0 ++ s.errWritten.getD (k 0x1200) 0)
  else if off = 0x2000 then some s.mgmt.wstBase
  else if off = 0x2140 then some (s.mgmt.sstat.setWidth 64)
  else if off = 0x2148 then some s.mgmt.sres
  else if 0x2200 ≤ off && decide (off < 0x3000) && (off - 0x2200) % 0x400 == 0x18 then
    (s.mgmt.enq[(off - 0x2200) / 0x400]?).map fun w => BitVec.ofNat 64 (w.status.toNat + b2n w.busy * 2 ^ 8)
  else if off = 0x3000 then some (s.agePct.setWidth 64)
  else if off = 0x3008 then some (s.eolDays.setWidth 64)
  else if off = 0x3010 then some (s.mgmt.bootstat.setWidth 64)
  else if off = 0x3018 then some (s.mgmt.pwrcap.setWidth 64)
  else if off = 0x3120 then some s.mgmt.attReq
  else if 0x3200 ≤ off && decide (off < 0x3408) then bytes (fun i => s.mgmt.report.getD i 0) 0x3200
  else if 0x4000 ≤ off && decide (off < 0x5000) then bytes Config.certByte 0x4000
  else if 0x5000 ≤ off && decide (off < 0x5200) then some ((sget (k 0x5000) s.mgmt.frt).getD 0)
  else if 0x1_0000 ≤ off && decide (off < 0x1_A000) then
    let o := off - 0x1_0000
    some ((s.ringEntry (o / 0x2000) (o % 0x2000 / 32)).extractLsb' (8 * (o % 32)) 64)
  else none

/-- The nonce with one of its four words replaced. -/
def nonceWith (n : BitVec 256) (k : Nat) (v : Word) : BitVec 256 :=
  BitVec.ofNat 256 (n.toNat - nbit n.toNat (64 * k) 64 * 2 ^ (64 * k) + v.toNat * 2 ^ (64 * k))

/-- A write of 8 bytes to a register of the window with no row of its own: CENSUS_CTL (11 R227), STAGE_CTL (15 R297), ERRCNT
(21 R351), WSTBASE (05 R112), SARG (05 R113), the ENQ windows (15 R280), PWRCAP (21 R357), the nonce and its request
(21 R356), FRT (22 R358). A read-only register keeps its value. -/
def State.mgmtWrite (s : State) (off : Nat) (v : Word) : State :=
  let k (base : Nat) : Nat := (off - base) / 8
  if off % 8 != 0 then s
  else if 0x1000 ≤ off && decide (off < 0x1020) then s.setDie (k 0x1000) { s.die (k 0x1000) with ctl := v &&& 0x1FFF }
  else if 0x1100 ≤ off && decide (off < 0x1120) then s.setDie (k 0x1100) { s.die (k 0x1100) with l2res := v.setWidth 8 }
  else if 0x1200 ≤ off && decide (off < 0x1228) then
    if v.toNat / 2 ^ 32 = 0 then { s with errCe := s.errCe.setIfInBounds (k 0x1200) 0 } else s
  else if off = 0x2000 then { s with mgmt := { s.mgmt with wstBase := v &&& 0x000F_FFFF_FFF0_0000 } }
  else if 0x2108 ≤ off && decide (off ≤ 0x2138) then
    s.command fun s => { s with mgmt := { s.mgmt with sarg := s.mgmt.sarg.setIfInBounds (k 0x2108) v } }
  else if 0x2200 ≤ off && decide (off < 0x3000) then
    s.enqRegister ⟨(off - 0x2200) / 0x400 % 4, by omega⟩ ((off - 0x2200) % 0x400) v
  else if off = 0x3018 then { s with mgmt := { s.mgmt with pwrcap := v.setWidth 16 } }
  else if 0x3100 ≤ off && decide (off < 0x3120) then { s with mgmt := { s.mgmt with nonce := nonceWith s.mgmt.nonce (k 0x3100) v } }
  else if off = 0x3120 then (if v = 1 then { s with mgmt := { s.mgmt with attReq := 1 } } else s)
  else if 0x5000 ≤ off && decide (off < 0x5200) then
    { s with mgmt := { s.mgmt with frt := sset (k 0x5000) (v &&& 0xF_FFFF) s.mgmt.frt } }
  else s

def execMgmtRegisterWrite (off : BitVec 32) (v : Word) (s : State) : Out := .next (s.mgmtWrite off.toNat v)

end Sys2Proof.Machine
end

