-- ==== Sys2Proof/Machine/Upkeep.lean ====
section
/-! DEFINITION. Errors found by the checks (21 R349 to R351), wear (21 R353), bring-up (21 R354), signed images and attestation
(21 R355, R356), power and temperature (21 R357). -/

namespace Sys2Proof.Machine

/-! ## Errors (21 R349 to R351) -/

def unitTILE : Nat := 0
def unitSLICE : Nat := 1
def unitHBM : Nat := 2
def unitLINK : Nat := 3
def unitIO : Nat := 4

/-- Words added to a set of poisoned ones. -/
def poisonAll (p : NatSet) (ws : List Nat) : NatSet := ws.foldl (fun p w => nsAdd w p) p

/-- Words of a slice's or a memory's data found uncorrectable: at the slice where it holds the line, else at the controller of
the line's HBM stack. The entry names the line of the first. -/
def State.ueMemory (s : State) (ws : List Nat) : State :=
  let hit := ws.filter fun w => backed s (8 * w) && (match regionOf (8 * w) with
    | .regs | .reserved | .device => false
    | _ => true)
  match hit with
  | [] => s
  | w :: _ =>
    let pa := 8 * w
    let s1 := hit.foldl (fun s w =>
      let s1 := s.setPoison w true
      if s.l2Has (w / 16) && !nsMem w s.mpoison then { s1 with l2Bad := nsAdd w s1.l2Bad } else s1) s
    let at' : Nat × Nat := if s.l2Has (pa / 128) || !s.fullService then (unitSLICE, s.homeSlice pa) else match s.stackOf pa with
      | some k => (unitHBM, k.1)
      | none => (unitSLICE, s.homeSlice pa)
    s1.logError (homeDie pa) errUE at'.1 at'.2 noWs (pa / 128 * 128) 0

/-- Words of data marked poisoned where they are among those of an error. -/
def spoilWords (ws : List Nat) (got : List WordData) : List WordData :=
  got.map fun d => if ws.contains d.word then { d with poison := true } else d

/-- The words of a flight's data marked poisoned; none where it carries no data. What another node keeps of a store is no state of
this one. -/
def Flight.spoilt (ws : List Nat) : Flight → Option Flight
  | .data src tag pos pa len keep sealed got => some (.data src tag pos pa len keep sealed (spoilWords ws got))
  | .fwd src tag pos pa len keep sealed got need => some (.fwd src tag pos pa len keep sealed (spoilWords ws got) need)
  | .wdata src sid word cells p => some (.wdata src sid word cells (p || ws.contains word))
  | .ack src (some d) => some (.ack src (some (if ws.contains d.word then { d with poison := true } else d)))
  | .winWrite src sid ows rid off bytes bad => some (.winWrite src sid ows rid off bytes (poisonAll bad ws))
  | .fabWrite src sid node pa bytes port since => some (.fabWrite src sid node pa bytes port since)
  | .answer src tag bytes p => some (.answer src tag bytes (p || !ws.isEmpty))
  | .pkt t d g k q w => some (.pkt t d g k q { w with bad := poisonAll w.bad ws })
  | .fdatum o f k e (some v) w => some (.fdatum o f k e (some v) { w with bad := poisonAll w.bad ws })
  | _ => none

/-- UE: every word that the error touches is marked poisoned and the entry written. An error on the mesh is found by the tile
whose access it is (log 76). -/
def execUe (p : ErrPlace) (s : State) : Out :=
  let log (s : State) (n : Nat) : State := s.logError (n / 256) errUE unitTILE n noWs 0 0
  .next (match p with
    | .store n ws =>
      let hit := ws.filter fun w => decide (8 * w < storeSize)
      if n < 1024 && !hit.isEmpty then log (s.setTile n { s.tileAt n with poison := poisonAll (s.tileAt n).poison hit }) n else s
    | .memory ws => s.ueMemory ws
    | .panel n z ws =>
      let hit := ws.filter fun w => decide (w < 2448)
      let P := (s.tileAt n).panel z
      if n < 1024 && !hit.isEmpty then log (s.setTile n ((s.tileAt n).setPanel z { P with poison := poisonAll P.poison hit })) n else s
    | .l1 n ws =>
      let T := s.tileAt n
      if n < 1024 && T.l1.any (fun e => ws.contains e.1) then
        log (s.setTile n { T with l1 := T.l1.map fun e => if ws.contains e.1 then (e.1, { e.2 with poison := true }) else e }) n
      else s
    | .copy sl ws =>
      let mark (e : L2Line) : L2Line := if e.slice = sl then { e with copy := e.copy.map (spoilWords ws) } else e
      if s.l2.any fun e => e.slice == sl && (e.copy.getD []).any fun d => ws.contains d.word then
        ({ s with l2 := s.l2.map mark } : State).logError (sl / 64) errUE unitSLICE sl noWs (128 * (ws.headD 0 / 16)) 0
      else s
    | .cluster c ws =>
      let mine (w : Nat) : Bool := ws.contains w && (s.cuHit c w).isSome
      if s.cu.any fun e => mine e.1 then
        log { s with cu := s.cu.map fun e => if mine e.1 then (e.1, { e.2 with poison := true }) else e } (holderTile (.cluster c))
      else s
    | .flit n ws =>
      match s.flights[n]?.bind (Flight.spoilt ws) with
      | some f => log (s.putFlight n f) (match f with
        | .pkt t .. => t
        | .fdatum o .. | .data o .. | .fwd o .. | .wdata o .. | .answer o .. | .ack o .. | .winWrite o .. | .fabWrite o .. => o.tile
        | _ => 0)
      | none => s)

/-- CE: the count advances; the first at a place in an epoch leaves an entry. -/
def execCe (die : Fin 5) (unit : BitVec 3) (loc : BitVec 12) (s : State) : Out :=
  let key := unit.toNat * 4096 + loc.toNat
  let s1 := { s with errCe := s.errCe.set die (BitVec.ofNat 32 (satInc (s.errCe[die]).toNat (2 ^ 32 - 1))) }
  .next (if nsMem key s1.ceSeen[die] then s1
    else ({ s1 with ceSeen := s1.ceSeen.set die (nsAdd key s1.ceSeen[die]) } : State).logError die.val errCE unit.toNat loc.toNat noWs 0 0)

/-- Replays of one flit. -/
def maxReplays : Nat := 16

/-- A link taken down: its bit of ID_CONFIG clears, and the entry names the replays. -/
def State.linkDownNow (s : State) (l : Nat) : State :=
  let s1 := { s with
    linkDown := nsAdd l s.linkDown
    linkFails := sdel l s.linkFails
    idFab := if l < cxlLink then s.idFab &&& ~~~(1#16 <<< l) else s.idFab
    idCxl := if cxlLink ≤ l && decide (l < hostLink) then s.idCxl &&& ~~~(1#4 <<< (l - cxlLink)) else s.idCxl }
  s1.logError 4 errLINK unitLINK l noWs 0 maxReplays

/-- LINK_CRC_FAILURE of a flit, or of its replay: it is replayed up to 16 times, then the link is taken down. -/
def execLinkCrcFailure (link : BitVec 12) (again : Bool) (s : State) : Out :=
  let l := link.toNat
  let n := if again then (sget l s.linkFails).getD 0 else 0
  .next (if hostLink < l || nsMem l s.linkDown then s
    else if maxReplays ≤ n then s.linkDownNow l
    else { s with linkFails := sset l (n + 1) s.linkFails })

/-! ## Wear (21 R353) -/

/-- Ticks between two updates: a minute. -/
def wearPeriod : Nat := 60_000_000

/-- WEAR_UPDATE, once a minute. -/
def execWearUpdate (pct : Byte) (days : BitVec 32) (s : State) : Out :=
  .next (if s.tick < s.wearDue then s
    else { s with agePct := BitVec.ofNat 8 (min pct.toNat 100), eolDays := days, wearDue := (s.tick / wearPeriod + 1) * wearPeriod })

/-! ## Bring-up (21 R354) -/

/-- POWER_ON_RESET; `pass` are the dies whose self-test passes, of which the lowest runs reduced service with the workspace
table in its slices. The version counter is a fuse. -/
def execPowerOnReset (pass : BitVec 4) (s : State) : Out :=
  let d := (List.range 4).find? pass.getLsbD
  .next { State.reset with
    idDies := match d with
      | some k => 1#4 <<< k
      | none => 0
    mgmt := { Mgmt.reset with version := s.mgmt.version, wstBase := BitVec.ofNat 64 (0x80_0000_0000 + d.getD 0 * 2 ^ 37 + wstOff) } }

/-- Every strand terminated, resident or not: an entry in its workspace's fault record. -/
def State.terminateAll (s : State) : State :=
  s.strands.foldl (fun s e => s.faultRecord e.2.ws.toNat frTERMINATED (s.ltidOf e.2.tile) 0 e.1) s

/-- FULL_SERVICE_SWITCH, once an image has been accepted: every strand is terminated; strands, stores and slices of reduced
service are gone, with the entries in their memory; the clock is to rise at the next tick (00 R5) and ID_CONFIG is set. What
is no state of the service stays: TICK, the error rings, wear, the links, the security processor's registers and the hold at
105 °C. -/
def execFullServiceSwitch (dies : BitVec 4) (hbm : BitVec 8) (cxl : BitVec 4) (fab : BitVec 16) (node : BitVec 6) (s : State) : Out :=
  .next (if s.fullService || !s.powered || !s.mgmt.booted then s
    else
      let s := s.terminateAll
      { State.reset with
      fullService := true, idDies := dies, idHbm := hbm, idCxl := cxl, idFab := fab, idNode := node
      tick := s.tick
      mgmt := { Mgmt.reset with
        version := s.mgmt.version, fwDigest := s.mgmt.fwDigest, bootstat := s.mgmt.bootstat, booted := true
        clock := s.mgmt.clock, nextClock := 19, held := s.mgmt.held }
      rings := s.rings, errWritten := s.errWritten, errCe := s.errCe, ceSeen := s.ceSeen
      agePct := s.agePct, eolDays := s.eolDays, wearDue := s.wearDue, linkDown := s.linkDown, linkFails := s.linkFails
      dies := State.reset.dies.map fun d => { d with epoch := s.tick / 50 + 1 }
      fresh := s.fresh, rota := s.rota, turns := s.turns })

/-! ## Signed images (21 R355) -/

/-- Bytes of a number, highest first. -/
def beBytes (v n : Nat) : List Byte := (leBytes v n).reverse

/-- The four digests' index of a public key, given by its modulus. -/
def keyIndex (key : BitVec 3072) : Option (Fin 4) :=
  (List.finRange 4).find? fun i => beBytes (Config.keyFuse i).toNat 32 == sha256 (beBytes key.toNat 384)

/-- a^(2^k) mod n. -/
def squareMod (n : Nat) : Nat → Nat → Nat
  | 0, a => a
  | k + 1, a => squareMod n k (a * a % n)

/-- The encoded message of RSASSA-PKCS1-v1_5 with SHA-256 in 384 bytes (RFC 8017). -/
def pkcs1 (image : List Byte) : List Byte :=
  let info : List Byte := [0x30, 0x31, 0x30, 0x0d, 0x06, 0x09, 0x60, 0x86, 0x48, 0x01, 0x65, 0x03, 0x04, 0x02, 0x01, 0x05, 0x00, 0x04, 0x20]
  let t := info ++ sha256 image
  [0x00#8, 0x01#8] ++ List.replicate (384 - 3 - t.length) 0xFF#8 ++ [0x00#8] ++ t

/-- The signature verifies under a modulus of 3,072 bits: sig^65537 mod n is the encoded message. -/
def sigOk (key sig : BitVec 3072) (image : List Byte) : Bool :=
  let n := key.toNat
  decide (2 ^ 3071 ≤ n) && decide (sig.toNat < n) && beBytes (squareMod n 16 sig.toNat * sig.toNat % n) 384 == pkcs1 image

/-- BOOTSTAT of an image: 0 where it is accepted. -/
def bootStatus (key : BitVec 3072) (image : List Byte) (sig : BitVec 3072) (version counter : Word) : Byte :=
  match keyIndex key with
  | none => 1
  | some i =>
    if Config.keyRevoked i then 3
    else if !sigOk key sig image then 2
    else if version.toNat < counter.toNat then 4
    else 0

/-- IMAGE_VERIFY: an accepted image raises the counter and becomes the running firmware. -/
def execImageVerify (key : BitVec 3072) (image : List Byte) (sig : BitVec 3072) (version : Word) (s : State) : Out :=
  let st := bootStatus key image sig version s.mgmt.version
  .next { s with mgmt :=
    if st = 0 then { s.mgmt with bootstat := 0, booted := true, version := version, fwDigest := BitVec.ofNat 256 (leNat (sha256 image)) }
    else { s.mgmt with bootstat := st, booted := false } }

/-! ## Attestation (21 R356) -/

/-- ATTESTATION_REQUEST: the nonce and 1 written by the host. -/
def execAttestationRequest (nonce : BitVec 256) (s : State) : Out :=
  .next { s with mgmt := { s.mgmt with nonce := nonce, attReq := 1 } }

/-- The first 136 bytes of a report. -/
def State.reportBody (s : State) : List Byte :=
  (leBytes idVendor.toNat 8 ++ leBytes idPart.toNat 8 ++ leBytes idStep.toNat 8 ++ leBytes (idConfig s).toNat 8)
  ++ leBytes s.mgmt.fwDigest.toNat 32 ++ leBytes Config.spDigest.toNat 32 ++ leBytes s.mgmt.version.toNat 8
  ++ leBytes s.mgmt.nonce.toNat 32

/-- ATTESTATION_REPORT_READY: the report stands in the window and the request word reads 0. -/
def execAttestationReportReady (s : State) : Out :=
  .next (if s.mgmt.attReq = 0 then s
    else { s with mgmt := { s.mgmt with
      attReq := 0, report := s.reportBody ++ leBytes (Config.reportSign s.reportBody).toNat 384 } })

/-! ## Power and temperature (21 R357) -/

/-- CLOCK_STEP at a reading of the package's power, to take effect at the next tick: above the cap down, no further than
1.0 GHz; at 5 % below the cap or less up, no further than 1.9 GHz. -/
def execClockStep (watts : BitVec 16) (s : State) : Out :=
  let n := s.mgmt.nextClock
  let cap := s.mgmt.pwrcap.toNat
  .next (if !s.fullService then s
    else if cap < watts.toNat then { s with mgmt := { s.mgmt with nextClock := max 10 (n - 1) } }
    else if 100 * watts.toNat ≤ 95 * cap then { s with mgmt := { s.mgmt with nextClock := min 19 (n + 1) } }
    else s)

/-- INFO of a THERMAL entry. -/
def thermalInfo (temp : Byte) (action : Nat) : Nat := temp.toNat + action * 2 ^ 8

/-- THERMAL_HOLD: an onset at 105 °C. -/
def execThermalHold (temp : Byte) (s : State) : Out :=
  .next (if s.mgmt.held || decide (temp.toNat < 105) then s
    else ({ s with mgmt := { s.mgmt with held := true } } : State).logError 4 errTHERMAL unitIO 0 noWs 0 (thermalInfo temp 1))

/-- THERMAL_HOLD_END, where the junction temperature at this tick is below 105 °C. -/
def execThermalHoldEnd (s : State) : Out :=
  .next (if (Config.junction s.tick).toNat < 105 then { s with mgmt := { s.mgmt with held := false } } else s)

/-- THERMAL_SHUTDOWN at 115 °C: dispatch stops, every strand is pre-empted as at a deadline, the entry is written; the compute
dies are off once the strands have left (log 69). -/
def execThermalShutdown (temp : Byte) (s : State) : Out :=
  .next (if !s.powered || decide (temp.toNat < 115) then s
    else
      let s1 := ({ s with powered := false } : State).logError 4 errTHERMAL unitIO 0 noWs 0 (thermalInfo temp 2)
      s1.tiles.foldl (fun s e => e.2.residents.foldl (fun s c => s.preempt e.1 c 1 .deadline) s) s1)

end Sys2Proof.Machine
end

