-- ==== Sys2Proof/Machine/VecMem.lean ====
section
/-! DEFINITION. The vector memory instructions (07 R154 to R157). -/

namespace Sys2Proof.Machine

/-- An active element of an access: its number, its address, its bytes. -/
structure VAcc where
  j : Nat
  va : Nat
  n : Nat
  deriving DecidableEq, Repr

/-- The active elements of an access with a stride in bytes. Each element's address is taken modulo 2^64, also past the last
address of the tile window (07 R154; DESIGN CHOICE, log 80). -/
def State.vElems (s : State) (mk : KReg) (t : ETy) (base : Word) (stride : Word) : List VAcc :=
  ((List.range (etNum t)).filter fun j => laneOn (s.mask mk) (etBits t) j).map fun j =>
    { j := j, va := (base + BitVec.ofNat 64 j * stride).toNat, n := etBits t / 8 }

/-- The active lanes of a gather or scatter: four bytes each. -/
def State.vLanes (s : State) (mk : KReg) (base : Word) (offs : VWord) : List VAcc :=
  ((List.range 32).filter fun i => (s.mask mk).getLsbD i).map fun i =>
    { j := i, va := (base + BitVec.ofNat 64 (elem 32 offs i)).toNat, n := 4 }

/-- The first element in another region than these allow (07 R155). -/
def outside (ok : VRegion → Bool) (es : List VAcc) : Option VAcc := es.find? fun e => !ok (accessRegion e.va e.n)

/-- The first element that overlaps a range lock takes the trap (04 R93 step 4). -/
def State.vLock (s : State) (es : List VAcc) : Option Done :=
  (es.find? fun e => (s.tile.lockHit [(e.va, e.n)]).isSome).bind fun e => s.lockTrap e.va [(e.va, e.n)]

/-- The checks of a tile-window access. -/
def State.vTile (s : State) (store : Bool) (es : List VAcc) (k : State → Done) : Done :=
  match s.accessWait store (es.map fun e => (e.va, e.n)) with
  | some d => d
  | none =>
  match outside (· == .tile) es with
    | some e => Done.trapAt s trACCESS_FAULT (BitVec.ofNat 64 e.va) 0
    | none =>
      match s.vLock es with
      | some d => d
      | none => if store && s.storeFull then .hold s else k s

def State.vNote (s : State) (es : List VAcc) : State := s.noteOut (outByte (es.map fun e => (e.va, e.n)))

/-- A register whose listed elements, of `n` bytes each, hold bytes read. -/
def putElems (n : Nat) (old : VWord) (es : List (Nat × Nat)) : VWord :=
  BitVec.ofNat 1024 (packElems (8 * n) ((List.range (128 / n)).map fun j =>
    match es.find? fun e => e.1 == j with
    | some e => e.2
    | none => elem (8 * n) old j))

/-- A tile-window load (07 R155, R156). -/
def State.vLoad (s : State) (vd : Reg) (n : Nat) (es : List VAcc) : Done :=
  s.vTile false es fun s =>
    match es.find? fun e => s.tile.poisoned (tileOff e.va) e.n with
    | some e => .trap { code := trPOISON, tpc := s.pc, taddr := BitVec.ofNat 64 e.va, tinfo := s.pc, resume := .region } s
    | none => .ok ((s.vNote es).setV vd (putElems n (s.v vd) (es.map fun e => (e.j, s.tile.natAt (tileOff e.va) e.n))))

/-- The bytes of an element of a register. -/
def elemBytes (v : VWord) (e : VAcc) : List Byte := leBytes (elem (8 * e.n) v e.j) e.n

/-- A contiguous tile-window store: one write (06 R131). -/
def State.vStore (s : State) (vd : Reg) (es : List VAcc) : Done :=
  s.vTile true es fun s =>
    let cells := es.flatMap fun e => (List.range e.n).zip (elemBytes (s.v vd) e) |>.map fun c => (tileOff e.va + c.1, c.2)
    .ok ((s.vNote es).putTile ((s.vNote es).tile.writeCells cells))

/-- A scatter or strided store: element after element, in ascending order (07 R157). -/
def State.vScatter (s : State) (vd : Reg) (es : List VAcc) : Done :=
  s.vTile true es fun s =>
    .ok ((s.vNote es).putTile (es.foldl (fun t e => t.writeBytes (tileOff e.va) (elemBytes (s.v vd) e)) (s.vNote es).tile))

/-- Runs of consecutive active elements as spans: position in the register, address, length. -/
def vSpans (es : List VAcc) : List (Nat × Nat × Nat) :=
  (es.foldl (fun (acc : List (Nat × Nat × Nat)) e =>
    match acc with
    | (pos, va, n) :: r => if pos + n = e.j * e.n && va + n = e.va then (pos, va, n + e.n) :: r else (e.j * e.n, e.va, e.n) :: acc
    | [] => [(e.j * e.n, e.va, e.n)]) []).reverse

/-- The checks of VLDG and VSTG: one region, global or store window (07 R155). Without an active element the access counts as one of
global memory, and a VSTG then does not commit (DESIGN CHOICE, log 80). -/
def State.vGlobal (s : State) (need : Need) (es : List VAcc) (k : State → Bool → List Piece → Done) : Done :=
  match s.accessWait need.w (es.map fun e => (e.va, e.n)) with
  | some d => d
  | none =>
    let r := match es with
      | e :: _ => accessRegion e.va e.n
      | [] => .global
    let off := if r == .global || r == .window then outside (· == r) es else es.head?
    match off with
    | some e => Done.trapAt s trACCESS_FAULT (BitVec.ofNat 64 e.va) 0
    | none =>
      s.reachThen need (vSpans es) (s.vLock es) fun u ps => k u (r == .window) ps

/-- The bytes of the listed elements. -/
def activeBytes (es : List VAcc) : BitVec 128 :=
  BitVec.ofNat 128 (packElems 1 ((List.range 128).map fun i => if es.any fun e => e.j == i / e.n then 1 else 0))

def execVld (m : SMark) (mk : KReg) (t : ETy) (vd rs1 rs2 : Reg) (s : State) : Out :=
  vec (.vld m mk t vd rs1 rs2) m (fun s =>
    s.vLoad vd (etBits t / 8) (s.vElems mk t (s.x rs1 + s.x rs2) (BitVec.ofNat 64 (etBits t / 8)))) s

def execVst (m : SMark) (mk : KReg) (t : ETy) (vd rs1 rs2 : Reg) (s : State) : Out :=
  vec (.vst m mk t vd rs1 rs2) m (fun s =>
    s.vStore vd (s.vElems mk t (s.x rs1 + s.x rs2) (BitVec.ofNat 64 (etBits t / 8)))) s

def execVlds (m : SMark) (mk : KReg) (t : ETy) (vd rs1 rs2 : Reg) (s : State) : Out :=
  vec (.vlds m mk t vd rs1 rs2) m (fun s => s.vLoad vd (etBits t / 8) (s.vElems mk t (s.x rs1) (s.x rs2))) s

def execVsts (m : SMark) (mk : KReg) (t : ETy) (vd rs1 rs2 : Reg) (s : State) : Out :=
  vec (.vsts m mk t vd rs1 rs2) m (fun s => s.vScatter vd (s.vElems mk t (s.x rs1) (s.x rs2))) s

def execVgath (m : SMark) (mk : KReg) (t : ETy) (vd rs1 vs2 : Reg) (s : State) : Out :=
  vec (.vgath m mk t vd rs1 vs2) m (fun s => s.vLoad vd 4 (s.vLanes mk (s.x rs1) (s.v vs2))) s

def execVscat (m : SMark) (mk : KReg) (t : ETy) (vd rs1 vs2 : Reg) (s : State) : Out :=
  vec (.vscat m mk t vd rs1 vs2) m (fun s => s.vScatter vd (s.vLanes mk (s.x rs1) (s.v vs2))) s

/-- The elements active at issue are those that land (07 R156). -/
def execVldg (m : SMark) (mk : KReg) (t : ETy) (vd rs1 rs2 : Reg) (s : State) : Out :=
  vec (.vldg m mk t vd rs1 rs2) m (fun s =>
    let es := s.vElems mk t (s.x rs1 + s.x rs2) (BitVec.ofNat 64 (etBits t / 8))
    s.vGlobal needLoad es fun s _ ps =>
      let act := activeBytes es
      .ok (s.beginRead (.v vd act) ((es.head?.map (·.va)).getD 0)
        ((List.range 128).map fun i => if act.getLsbD i then none else some 0) none (!ps.isEmpty) ps)) s

/-- Posted; into the store window it commits (07 R156, R157). -/
def execVstg (m : SMark) (mk : KReg) (t : ETy) (vd rs1 rs2 : Reg) (s : State) : Out :=
  vec (.vstg m mk t vd rs1 rs2) m (fun s =>
    s.vGlobal needStore (s.vElems mk t (s.x rs1 + s.x rs2) (BitVec.ofNat 64 (etBits t / 8))) fun u win ps =>
      if s.storeFull then .hold s
      else
        let s1 := u.postStore ps (leBytes (s.v vd).toNat 128)
        if win then .commit s1 else .ok s1) s

end Sys2Proof.Machine
end

