-- ==== Sys2Proof/Machine/Vector.lean ====
section
/-! DEFINITION. The vector instructions that stay in registers (07 R140 to R153) and the mask instructions (07 R158). -/

namespace Sys2Proof.Machine

def execVadd (m : SMark) (mk : KReg) (t : ETy) (vd vs1 vs2 : Reg) (s : State) : Out :=
  vec (.vadd m mk t vd vs1 vs2) m (fun s => s.vbin mk t vd vs1 vs2 (arith2 t (· + ·) (fun f a b => f.add s.rm a b))) s

def execVsub (m : SMark) (mk : KReg) (t : ETy) (vd vs1 vs2 : Reg) (s : State) : Out :=
  vec (.vsub m mk t vd vs1 vs2) m (fun s => s.vbin mk t vd vs1 vs2 (arith2 t (· - ·) (fun f a b => f.sub s.rm a b))) s

def execVmul (m : SMark) (mk : KReg) (t : ETy) (vd vs1 vs2 : Reg) (s : State) : Out :=
  vec (.vmul m mk t vd vs1 vs2) m (fun s => s.vbin mk t vd vs1 vs2 (arith2 t (· * ·) (fun f a b => f.mul s.rm a b))) s

def execVfma (m : SMark) (mk : KReg) (t : ETy) (vd vs1 vs2 : Reg) (s : State) : Out :=
  vec (.vfma m mk t vd vs1 vs2) m (fun s => s.putV vd (vmap (s.mask mk) (etBits t) (s.v vd) fun j =>
    arith3 t s.rm (elem (etBits t) (s.v vd) j) (elem (etBits t) (s.v vs1) j) (elem (etBits t) (s.v vs2) j))) s

def execVmin (m : SMark) (mk : KReg) (t : ETy) (vd vs1 vs2 : Reg) (s : State) : Out :=
  vec (.vmin m mk t vd vs1 vs2) m (fun s => s.vbin mk t vd vs1 vs2 (arith2 t min (fun f a b => f.minmax false a b))) s

def execVmax (m : SMark) (mk : KReg) (t : ETy) (vd vs1 vs2 : Reg) (s : State) : Out :=
  vec (.vmax m mk t vd vs1 vs2) m (fun s => s.vbin mk t vd vs1 vs2 (arith2 t max (fun f a b => f.minmax true a b))) s

def execVabs (m : SMark) (mk : KReg) (t : ETy) (vd vs1 : Reg) (s : State) : Out :=
  vec (.vabs m mk t vd vs1) m (fun s => s.vun mk t vd vs1 (quiet1 (absE t))) s

def execVneg (m : SMark) (mk : KReg) (t : ETy) (vd vs1 : Reg) (s : State) : Out :=
  vec (.vneg m mk t vd vs1) m (fun s => s.vun mk t vd vs1 (quiet1 (negE t))) s

def execVand (m : SMark) (mk : KReg) (t : ETy) (vd vs1 vs2 : Reg) (s : State) : Out :=
  vec (.vand m mk t vd vs1 vs2) m (fun s => s.vbin mk t vd vs1 vs2 (fun a b => (a &&& b, flNone))) s

def execVor (m : SMark) (mk : KReg) (t : ETy) (vd vs1 vs2 : Reg) (s : State) : Out :=
  vec (.vor m mk t vd vs1 vs2) m (fun s => s.vbin mk t vd vs1 vs2 (fun a b => (a ||| b, flNone))) s

def execVxor (m : SMark) (mk : KReg) (t : ETy) (vd vs1 vs2 : Reg) (s : State) : Out :=
  vec (.vxor m mk t vd vs1 vs2) m (fun s => s.vbin mk t vd vs1 vs2 (fun a b => (a ^^^ b, flNone))) s

def execVshl (m : SMark) (mk : KReg) (t : ETy) (vd vs1 vs2 : Reg) (s : State) : Out :=
  vec (.vshl m mk t vd vs1 vs2) m (fun s => s.vbin mk t vd vs1 vs2 (fun a b => (shlE (etBits t) a b, flNone))) s

def execVshr (m : SMark) (mk : KReg) (t : ETy) (vd vs1 vs2 : Reg) (s : State) : Out :=
  vec (.vshr m mk t vd vs1 vs2) m (fun s => s.vbin mk t vd vs1 vs2 (fun a b => (shrE (etBits t) a b, flNone))) s

def execVsra (m : SMark) (mk : KReg) (t : ETy) (vd vs1 vs2 : Reg) (s : State) : Out :=
  vec (.vsra m mk t vd vs1 vs2) m (fun s => s.vbin mk t vd vs1 vs2 (fun a b => (sraE (etBits t) a b, flNone))) s

def execVsel (m : SMark) (mk : KReg) (t : ETy) (vd vs1 vs2 : Reg) (s : State) : Out :=
  vec (.vsel m mk t vd vs1 vs2) m (fun s => s.putV vd (vmap (s.mask mk) (etBits t) (s.v vs2) (quiet1 (elem (etBits t) (s.v vs1))))) s

def execVmv (m : SMark) (mk : KReg) (t : ETy) (vd vs1 : Reg) (s : State) : Out :=
  vec (.vmv m mk t vd vs1) m (fun s => s.vun mk t vd vs1 (quiet1 id)) s

def execVcmpEq (m : SMark) (mk : KReg) (t : ETy) (kd : KReg) (vs1 vs2 : Reg) (s : State) : Out :=
  vec (.vcmpEq m mk t kd vs1 vs2) m (fun s => s.vcmp mk t kd vs1 vs2 .eq) s

def execVcmpNe (m : SMark) (mk : KReg) (t : ETy) (kd : KReg) (vs1 vs2 : Reg) (s : State) : Out :=
  vec (.vcmpNe m mk t kd vs1 vs2) m (fun s => s.vcmp mk t kd vs1 vs2 .ne) s

def execVcmpLt (m : SMark) (mk : KReg) (t : ETy) (kd : KReg) (vs1 vs2 : Reg) (s : State) : Out :=
  vec (.vcmpLt m mk t kd vs1 vs2) m (fun s => s.vcmp mk t kd vs1 vs2 .lt) s

def execVcmpLe (m : SMark) (mk : KReg) (t : ETy) (kd : KReg) (vs1 vs2 : Reg) (s : State) : Out :=
  vec (.vcmpLe m mk t kd vs1 vs2) m (fun s => s.vcmp mk t kd vs1 vs2 .le) s

def execVcmpGt (m : SMark) (mk : KReg) (t : ETy) (kd : KReg) (vs1 vs2 : Reg) (s : State) : Out :=
  vec (.vcmpGt m mk t kd vs1 vs2) m (fun s => s.vcmp mk t kd vs1 vs2 .gt) s

def execVcmpGe (m : SMark) (mk : KReg) (t : ETy) (kd : KReg) (vs1 vs2 : Reg) (s : State) : Out :=
  vec (.vcmpGe m mk t kd vs1 vs2) m (fun s => s.vcmp mk t kd vs1 vs2 .ge) s

def execVcmpLtu (m : SMark) (mk : KReg) (t : ETy) (kd : KReg) (vs1 vs2 : Reg) (s : State) : Out :=
  vec (.vcmpLtu m mk t kd vs1 vs2) m (fun s => s.vcmp mk t kd vs1 vs2 .ltu) s

def execVcmpGeu (m : SMark) (mk : KReg) (t : ETy) (kd : KReg) (vs1 vs2 : Reg) (s : State) : Out :=
  vec (.vcmpGeu m mk t kd vs1 vs2) m (fun s => s.vcmp mk t kd vs1 vs2 .geu) s

def execVbcast (m : SMark) (mk : KReg) (t : ETy) (vd rs1 : Reg) (s : State) : Out :=
  vec (.vbcast m mk t vd rs1) m (fun s => s.putV vd (vmap (s.mask mk) (etBits t) (s.v vd) (quiet1 fun _ => (s.x rs1).toNat % 2 ^ etBits t))) s

def execVextr (m : SMark) (t : ETy) (rd vs1 rs2 : Reg) (s : State) : Out :=
  vec (.vextr m t rd vs1 rs2) m (fun s => .ok (s.setX rd (elemScalar t (elem (etBits t) (s.v vs1) ((s.x rs2).toNat % etNum t))))) s

def execVins (m : SMark) (t : ETy) (vd rs1 rs2 : Reg) (s : State) : Out :=
  vec (.vins m t vd rs1 rs2) m (fun s => s.putV vd (vmap (BitVec.allOnes 32) (etBits t) (s.v vd) (quiet1 fun j =>
    if j = (s.x rs2).toNat % etNum t then (s.x rs1).toNat % 2 ^ etBits t else elem (etBits t) (s.v vd) j))) s

def execVperm (m : SMark) (mk : KReg) (t : ETy) (vd vs1 vs2 : Reg) (s : State) : Out :=
  vec (.vperm m mk t vd vs1 vs2) m (fun s => s.putV vd (vmap (s.mask mk) (etBits t) (s.v vd) (quiet1 fun j =>
    elem (etBits t) (s.v vs1) (elem (etBits t) (s.v vs2) j % etNum t)))) s

def execVslide (m : SMark) (mk : KReg) (t : ETy) (vd vs1 rs2 : Reg) (s : State) : Out :=
  vec (.vslide m mk t vd vs1 rs2) m (fun s => s.putV vd (vmap (s.mask mk) (etBits t) (s.v vd) (quiet1 (slideE t (s.v vs1) (s.x rs2).toInt)))) s

def execViota (m : SMark) (mk : KReg) (t : ETy) (vd : Reg) (ks1 : KReg) (s : State) : Out :=
  vec (.viota m mk t vd ks1) m (fun s => s.putV vd (vmap (s.mask mk) (etBits t) (s.v vd) (quiet1 (iotaE t (s.k ks1))))) s

def execVmpop (m : SMark) (mk : KReg) (rd : Reg) (ks1 : KReg) (s : State) : Out :=
  vec (.vmpop m mk rd ks1) m (fun s => .ok (s.setX rd (BitVec.ofNat 64 (popc 32 (s.k ks1 &&& s.mask mk))))) s

def execVredsum (m : SMark) (mk : KReg) (t : ETy) (rd vs1 rs2 : Reg) (s : State) : Out :=
  vec (.vredsum m mk t rd vs1 rs2) m (fun s => s.vreduce mk t rd vs1 rs2 (· + ·) (fun a b => fp32.add s.rm a b)) s

def execVredmax (m : SMark) (mk : KReg) (t : ETy) (rd vs1 rs2 : Reg) (s : State) : Out :=
  vec (.vredmax m mk t rd vs1 rs2) m (fun s => s.vreduce mk t rd vs1 rs2 max (fun a b => fp32.minmax true a b)) s

def execVredmin (m : SMark) (mk : KReg) (t : ETy) (rd vs1 rs2 : Reg) (s : State) : Out :=
  vec (.vredmin m mk t rd vs1 rs2) m (fun s => s.vreduce mk t rd vs1 rs2 min (fun a b => fp32.minmax false a b)) s

def execVscan (m : SMark) (mk : KReg) (t : ETy) (vd vs1 rs2 : Reg) (s : State) : Out :=
  vec (.vscan m mk t vd vs1 rs2) m (fun s => let rs := scanE t s.rm (s.mask mk) (s.v vs1) (s.v vd) (List.range (etNum t)) ((s.x rs2).toNat % 2 ^ etBits t)
    s.putV vd (BitVec.ofNat 1024 (packElems (etBits t) (rs.map (·.1))), rs.foldl (fun a r => a ||| r.2) flNone)) s

def execVcvt (m : SMark) (mk : KReg) (t : ETy) (dst : ETy) (vd vs1 : Reg) (s : State) : Out :=
  vec (.vcvt m mk t dst vd vs1) m (fun s => s.putV vd (vcvtV t dst s.rm s.th.nanov (s.mask mk) (s.v vs1) (s.v vd))) s

def execVpack (m : SMark) (mk : KReg) (t : ETy) (vd vs1 vs2 : Reg) (s : State) : Out :=
  vec (.vpack m mk t vd vs1 vs2) m (fun s => s.putV vd (vmap (s.mask mk) (etBits t) (s.v vd) fun j =>
    if j < etNum t / 2 then packE t s.rm (elem (2 * etBits t) (s.v vs1) j)
    else packE t s.rm (elem (2 * etBits t) (s.v vs2) (j - etNum t / 2)))) s

def execVunpack (m : SMark) (mk : KReg) (t : ETy) (hi : Bool) (vd vs1 : Reg) (s : State) : Out :=
  vec (.vunpack m mk t hi vd vs1) m (fun s => s.putV vd (vmap (s.mask mk) (2 * etBits t) (s.v vd) fun j =>
    unpackE t (elem (etBits t) (s.v vs1) (j + if hi then etNum t / 2 else 0)))) s

def execVdot (m : SMark) (mk : KReg) (t : ETy) (vd vs1 vs2 : Reg) (s : State) : Out :=
  vec (.vdot m mk t vd vs1 vs2) m (fun s => s.putV vd (vmap (s.mask mk) 32 (s.v vd) fun i =>
    dotLane t s.rm (elem 32 (s.v vd) i) (s.v vs1) (s.v vs2) i)) s

def execVexp2 (m : SMark) (mk : KReg) (t : ETy) (vd vs1 : Reg) (s : State) : Out :=
  vec (.vexp2 m mk t vd vs1) m (fun s => s.vun mk t vd vs1 (exp2E (etFmt t) s.rm)) s

def execVlog2 (m : SMark) (mk : KReg) (t : ETy) (vd vs1 : Reg) (s : State) : Out :=
  vec (.vlog2 m mk t vd vs1) m (fun s => s.vun mk t vd vs1 (log2E (etFmt t) s.rm)) s

def execVrcp (m : SMark) (mk : KReg) (t : ETy) (vd vs1 : Reg) (s : State) : Out :=
  vec (.vrcp m mk t vd vs1) m (fun s => s.vun mk t vd vs1 (rcpE (etFmt t) s.rm)) s

def execVrsqrt (m : SMark) (mk : KReg) (t : ETy) (vd vs1 : Reg) (s : State) : Out :=
  vec (.vrsqrt m mk t vd vs1) m (fun s => s.vun mk t vd vs1 (rsqrtE (etFmt t) s.rm)) s

def execVquant (m : SMark) (mk : KReg) (t : ETy) (f : TFmt) (vd vs1 : Reg) (s : State) : Out :=
  vec (.vquant m mk t f vd vs1) m (fun s => s.putV vd (vquantV t f s.th.nanov (s.mask mk) (s.v vs1))) s

def execVdeq (m : SMark) (mk : KReg) (t : ETy) (f : TFmt) (vd vs1 : Reg) (s : State) : Out :=
  vec (.vdeq m mk t f vd vs1) m (fun s => s.putV vd (vmap (s.mask mk) (etBits t) (s.v vd) (deqE t f (s.v vs1)))) s

def execKand (m : SMark) (kd ks1 ks2 : KReg) (s : State) : Out :=
  vec (.kand m kd ks1 ks2) m (fun s => .ok (s.setK kd (s.k ks1 &&& s.k ks2))) s

def execKor (m : SMark) (kd ks1 ks2 : KReg) (s : State) : Out :=
  vec (.kor m kd ks1 ks2) m (fun s => .ok (s.setK kd (s.k ks1 ||| s.k ks2))) s

def execKxor (m : SMark) (kd ks1 ks2 : KReg) (s : State) : Out :=
  vec (.kxor m kd ks1 ks2) m (fun s => .ok (s.setK kd (s.k ks1 ^^^ s.k ks2))) s

def execKnot (m : SMark) (kd ks1 : KReg) (s : State) : Out :=
  vec (.knot m kd ks1) m (fun s => .ok (s.setK kd (~~~(s.k ks1)))) s

end Sys2Proof.Machine
end

