-- ==== Sys2Proof/Machine/Dispatch.lean ====
section
/-! DEFINITION. The meaning of every operation: one arm for each constructor of `Instr`. -/

namespace Sys2Proof.Machine

open Sys2Proof

/-- What an operation does in a state. -/
def exec (i : Instr) (s : State) : Host.Outcome State Fault Refusal :=
  match i with
  | .addi m rd rs1 imm => Sys2Proof.Machine.execAddi m rd rs1 imm s
  | .slli m rd rs1 sh => Sys2Proof.Machine.execSlli m rd rs1 sh s
  | .srli m rd rs1 sh => Sys2Proof.Machine.execSrli m rd rs1 sh s
  | .srai m rd rs1 sh => Sys2Proof.Machine.execSrai m rd rs1 sh s
  | .slti m rd rs1 imm => Sys2Proof.Machine.execSlti m rd rs1 imm s
  | .sltiu m rd rs1 imm => Sys2Proof.Machine.execSltiu m rd rs1 imm s
  | .xori m rd rs1 imm => Sys2Proof.Machine.execXori m rd rs1 imm s
  | .addiw m rd rs1 imm => Sys2Proof.Machine.execAddiw m rd rs1 imm s
  | .ori m rd rs1 imm => Sys2Proof.Machine.execOri m rd rs1 imm s
  | .andi m rd rs1 imm => Sys2Proof.Machine.execAndi m rd rs1 imm s
  | .add m rd rs1 rs2 => Sys2Proof.Machine.execAdd m rd rs1 rs2 s
  | .sub m rd rs1 rs2 => Sys2Proof.Machine.execSub m rd rs1 rs2 s
  | .sll m rd rs1 rs2 => Sys2Proof.Machine.execSll m rd rs1 rs2 s
  | .srl m rd rs1 rs2 => Sys2Proof.Machine.execSrl m rd rs1 rs2 s
  | .sra m rd rs1 rs2 => Sys2Proof.Machine.execSra m rd rs1 rs2 s
  | .slt m rd rs1 rs2 => Sys2Proof.Machine.execSlt m rd rs1 rs2 s
  | .sltu m rd rs1 rs2 => Sys2Proof.Machine.execSltu m rd rs1 rs2 s
  | .and m rd rs1 rs2 => Sys2Proof.Machine.execAnd m rd rs1 rs2 s
  | .or m rd rs1 rs2 => Sys2Proof.Machine.execOr m rd rs1 rs2 s
  | .xor m rd rs1 rs2 => Sys2Proof.Machine.execXor m rd rs1 rs2 s
  | .min m rd rs1 rs2 => Sys2Proof.Machine.execMin m rd rs1 rs2 s
  | .max m rd rs1 rs2 => Sys2Proof.Machine.execMax m rd rs1 rs2 s
  | .minu m rd rs1 rs2 => Sys2Proof.Machine.execMinu m rd rs1 rs2 s
  | .maxu m rd rs1 rs2 => Sys2Proof.Machine.execMaxu m rd rs1 rs2 s
  | .addw m rd rs1 rs2 => Sys2Proof.Machine.execAddw m rd rs1 rs2 s
  | .subw m rd rs1 rs2 => Sys2Proof.Machine.execSubw m rd rs1 rs2 s
  | .sllw m rd rs1 rs2 => Sys2Proof.Machine.execSllw m rd rs1 rs2 s
  | .srlw m rd rs1 rs2 => Sys2Proof.Machine.execSrlw m rd rs1 rs2 s
  | .sraw m rd rs1 rs2 => Sys2Proof.Machine.execSraw m rd rs1 rs2 s
  | .clz m rd rs1 => Sys2Proof.Machine.execClz m rd rs1 s
  | .ctz m rd rs1 => Sys2Proof.Machine.execCtz m rd rs1 s
  | .popc m rd rs1 => Sys2Proof.Machine.execPopc m rd rs1 s
  | .sextB m rd rs1 => Sys2Proof.Machine.execSextB m rd rs1 s
  | .sextH m rd rs1 => Sys2Proof.Machine.execSextH m rd rs1 s
  | .sextW m rd rs1 => Sys2Proof.Machine.execSextW m rd rs1 s
  | .zextW m rd rs1 => Sys2Proof.Machine.execZextW m rd rs1 s
  | .mul m rd rs1 rs2 => Sys2Proof.Machine.execMul m rd rs1 rs2 s
  | .mulh m rd rs1 rs2 => Sys2Proof.Machine.execMulh m rd rs1 rs2 s
  | .mulhu m rd rs1 rs2 => Sys2Proof.Machine.execMulhu m rd rs1 rs2 s
  | .mulw m rd rs1 rs2 => Sys2Proof.Machine.execMulw m rd rs1 rs2 s
  | .div m rd rs1 rs2 => Sys2Proof.Machine.execDiv m rd rs1 rs2 s
  | .divu m rd rs1 rs2 => Sys2Proof.Machine.execDivu m rd rs1 rs2 s
  | .rem m rd rs1 rs2 => Sys2Proof.Machine.execRem m rd rs1 rs2 s
  | .remu m rd rs1 rs2 => Sys2Proof.Machine.execRemu m rd rs1 rs2 s
  | .divW m rd rs1 rs2 => Sys2Proof.Machine.execDivW m rd rs1 rs2 s
  | .divuW m rd rs1 rs2 => Sys2Proof.Machine.execDivuW m rd rs1 rs2 s
  | .remW m rd rs1 rs2 => Sys2Proof.Machine.execRemW m rd rs1 rs2 s
  | .remuW m rd rs1 rs2 => Sys2Proof.Machine.execRemuW m rd rs1 rs2 s
  | .lui m rd imm => Sys2Proof.Machine.execLui m rd imm s
  | .auipc m rd imm => Sys2Proof.Machine.execAuipc m rd imm s
  | .jal m rd imm => Sys2Proof.Machine.execJal m rd imm s
  | .jalr m rd rs1 imm => Sys2Proof.Machine.execJalr m rd rs1 imm s
  | .beq m rs1 rs2 imm => Sys2Proof.Machine.execBeq m rs1 rs2 imm s
  | .bne m rs1 rs2 imm => Sys2Proof.Machine.execBne m rs1 rs2 imm s
  | .blt m rs1 rs2 imm => Sys2Proof.Machine.execBlt m rs1 rs2 imm s
  | .bge m rs1 rs2 imm => Sys2Proof.Machine.execBge m rs1 rs2 imm s
  | .bltu m rs1 rs2 imm => Sys2Proof.Machine.execBltu m rs1 rs2 imm s
  | .bgeu m rs1 rs2 imm => Sys2Proof.Machine.execBgeu m rs1 rs2 imm s
  | .fadd m p rd rs1 rs2 => Sys2Proof.Machine.execFadd m p rd rs1 rs2 s
  | .fsub m p rd rs1 rs2 => Sys2Proof.Machine.execFsub m p rd rs1 rs2 s
  | .fmul m p rd rs1 rs2 => Sys2Proof.Machine.execFmul m p rd rs1 rs2 s
  | .fmac m p rd rs1 rs2 => Sys2Proof.Machine.execFmac m p rd rs1 rs2 s
  | .fdiv m p rd rs1 rs2 => Sys2Proof.Machine.execFdiv m p rd rs1 rs2 s
  | .fsqrt m p rd rs1 => Sys2Proof.Machine.execFsqrt m p rd rs1 s
  | .fmin m p rd rs1 rs2 => Sys2Proof.Machine.execFmin m p rd rs1 rs2 s
  | .fmax m p rd rs1 rs2 => Sys2Proof.Machine.execFmax m p rd rs1 rs2 s
  | .fcmpEq m p rd rs1 rs2 => Sys2Proof.Machine.execFcmpEq m p rd rs1 rs2 s
  | .fcmpLt m p rd rs1 rs2 => Sys2Proof.Machine.execFcmpLt m p rd rs1 rs2 s
  | .fcmpLe m p rd rs1 rs2 => Sys2Proof.Machine.execFcmpLe m p rd rs1 rs2 s
  | .fclass m p rd rs1 => Sys2Proof.Machine.execFclass m p rd rs1 s
  | .fsgnj m p rd rs1 rs2 => Sys2Proof.Machine.execFsgnj m p rd rs1 rs2 s
  | .fsgnjN m p rd rs1 rs2 => Sys2Proof.Machine.execFsgnjN m p rd rs1 rs2 s
  | .fsgnjX m p rd rs1 rs2 => Sys2Proof.Machine.execFsgnjX m p rd rs1 rs2 s
  | .fcvt m p op rd rs1 => Sys2Proof.Machine.execFcvt m p op rd rs1 s
  | .lb m rd rs1 imm => Sys2Proof.Machine.execLb m rd rs1 imm s
  | .lbu m rd rs1 imm => Sys2Proof.Machine.execLbu m rd rs1 imm s
  | .lh m rd rs1 imm => Sys2Proof.Machine.execLh m rd rs1 imm s
  | .lhu m rd rs1 imm => Sys2Proof.Machine.execLhu m rd rs1 imm s
  | .lw m rd rs1 imm => Sys2Proof.Machine.execLw m rd rs1 imm s
  | .lwu m rd rs1 imm => Sys2Proof.Machine.execLwu m rd rs1 imm s
  | .ld m rd rs1 imm => Sys2Proof.Machine.execLd m rd rs1 imm s
  | .lacq m sc wd rd rs1 => Sys2Proof.Machine.execLacq m sc wd rd rs1 s
  | .sb m rs1 rs2 imm => Sys2Proof.Machine.execSb m rs1 rs2 imm s
  | .sh m rs1 rs2 imm => Sys2Proof.Machine.execSh m rs1 rs2 imm s
  | .sw m rs1 rs2 imm => Sys2Proof.Machine.execSw m rs1 rs2 imm s
  | .sd m rs1 rs2 imm => Sys2Proof.Machine.execSd m rs1 rs2 imm s
  | .srel m sc wd rs1 rs2 => Sys2Proof.Machine.execSrel m sc wd rs1 rs2 s
  | .pref m l2 rs1 imm => Sys2Proof.Machine.execPref m l2 rs1 imm s
  | .csrrd m rd csr => Sys2Proof.Machine.execCsrrd m rd csr s
  | .csrwr m rd rs1 csr => Sys2Proof.Machine.execCsrwr m rd rs1 csr s
  | .csrset m rd rs1 csr => Sys2Proof.Machine.execCsrset m rd rs1 csr s
  | .csrclr m rd rs1 csr => Sys2Proof.Machine.execCsrclr m rd rs1 csr s
  | .ecall m code => Sys2Proof.Machine.execEcall m code s
  | .ebreak m code => Sys2Proof.Machine.execEbreak m code s
  | .eret m => Sys2Proof.Machine.execEret m s
  | .wfi m => Sys2Proof.Machine.execWfi m s
  | .halt m => Sys2Proof.Machine.execHalt m s
  | .tlbsync m => Sys2Proof.Machine.execTlbsync m s
  | .rgn m d => Sys2Proof.Machine.execRgn m d s
  | .rgnv m count => Sys2Proof.Machine.execRgnv m count s
  | .amoadd m sc dw rd rs1 rs2 => Sys2Proof.Machine.execAmoadd m sc dw rd rs1 rs2 s
  | .amoand m sc dw rd rs1 rs2 => Sys2Proof.Machine.execAmoand m sc dw rd rs1 rs2 s
  | .amoor m sc dw rd rs1 rs2 => Sys2Proof.Machine.execAmoor m sc dw rd rs1 rs2 s
  | .amoxor m sc dw rd rs1 rs2 => Sys2Proof.Machine.execAmoxor m sc dw rd rs1 rs2 s
  | .amomin m sc dw rd rs1 rs2 => Sys2Proof.Machine.execAmomin m sc dw rd rs1 rs2 s
  | .amomax m sc dw rd rs1 rs2 => Sys2Proof.Machine.execAmomax m sc dw rd rs1 rs2 s
  | .amominu m sc dw rd rs1 rs2 => Sys2Proof.Machine.execAmominu m sc dw rd rs1 rs2 s
  | .amomaxu m sc dw rd rs1 rs2 => Sys2Proof.Machine.execAmomaxu m sc dw rd rs1 rs2 s
  | .amoswp m sc dw rd rs1 rs2 => Sys2Proof.Machine.execAmoswp m sc dw rd rs1 rs2 s
  | .amocas m sc dw rd rs1 rs2 => Sys2Proof.Machine.execAmocas m sc dw rd rs1 rs2 s
  | .amofadd m sc p rd rs1 rs2 => Sys2Proof.Machine.execAmofadd m sc p rd rs1 rs2 s
  | .bfnld m slot rs1 => Sys2Proof.Machine.execBfnld m slot rs1 s
  | .bupd m slot rs1 rs2 => Sys2Proof.Machine.execBupd m slot rs1 rs2 s
  | .fence m sc pred succ => Sys2Proof.Machine.execFence m sc pred succ s
  | .fenceE m sc => Sys2Proof.Machine.execFenceE m sc s
  | .ldf m rd rs1 imm => Sys2Proof.Machine.execLdf m rd rs1 imm s
  | .ldff m rd rs1 imm => Sys2Proof.Machine.execLdff m rd rs1 imm s
  | .ste m rs1 rs2 imm => Sys2Proof.Machine.execSte m rs1 rs2 imm s
  | .stf m rs1 rs2 imm => Sys2Proof.Machine.execStf m rs1 rs2 imm s
  | .tgset m rs1 imm => Sys2Proof.Machine.execTgset m rs1 imm s
  | .tgclr m rs1 imm => Sys2Proof.Machine.execTgclr m rs1 imm s
  | .winit m rs1 rs2 => Sys2Proof.Machine.execWinit m rs1 rs2 s
  | .wjoin m rs1 => Sys2Proof.Machine.execWjoin m rs1 s
  | .wleave m rs1 => Sys2Proof.Machine.execWleave m rs1 s
  | .warr m rs1 rs2 => Sys2Proof.Machine.execWarr m rs1 rs2 s
  | .warrd m rs1 => Sys2Proof.Machine.execWarrd m rs1 s
  | .wexp m rd rs1 rs2 => Sys2Proof.Machine.execWexp m rd rs1 rs2 s
  | .wwait m rs1 rs2 => Sys2Proof.Machine.execWwait m rs1 rs2 s
  | .wwaitt m rd rs1 rs2 => Sys2Proof.Machine.execWwaitt m rd rs1 rs2 s
  | .wtest m rd rs1 => Sys2Proof.Machine.execWtest m rd rs1 s
  | .mrecv m rd rs1 => Sys2Proof.Machine.execMrecv m rd rs1 s
  | .mpeek m rd rs1 => Sys2Proof.Machine.execMpeek m rd rs1 s
  | .mwait m => Sys2Proof.Machine.execMwait m s
  | .put m wd rs1 rs2 => Sys2Proof.Machine.execPut m wd rs1 rs2 s
  | .get m wd rd rs1 => Sys2Proof.Machine.execGet m wd rd rs1 s
  | .notify m rs1 rs2 => Sys2Proof.Machine.execNotify m rs1 rs2 s
  | .fopen m rd rs1 rs2 => Sys2Proof.Machine.execFopen m rd rs1 rs2 s
  | .fsend m rd rs1 rs2 => Sys2Proof.Machine.execFsend m rd rs1 rs2 s
  | .frecv m rd rs1 rs2 => Sys2Proof.Machine.execFrecv m rd rs1 rs2 s
  | .fclose m rd rs1 rs2 => Sys2Proof.Machine.execFclose m rd rs1 rs2 s
  | .enq m rd rs1 rs2 => Sys2Proof.Machine.execEnq m rd rs1 rs2 s
  | .rclaim m rd rs1 rs2 => Sys2Proof.Machine.execRclaim m rd rs1 rs2 s
  | .rsplit m rd rs1 rs2 => Sys2Proof.Machine.execRsplit m rd rs1 rs2 s
  | .depdec m rd rs1 => Sys2Proof.Machine.execDepdec m rd rs1 s
  | .tdone m => Sys2Proof.Machine.execTdone m s
  | .susp m rd rs1 => Sys2Proof.Machine.execSusp m rd rs1 s
  | .yield m => Sys2Proof.Machine.execYield m s
  | .gbar m ch => Sys2Proof.Machine.execGbar m ch s
  | .gbwait m rd ch => Sys2Proof.Machine.execGbwait m rd ch s
  | .vote m op ch rs1 => Sys2Proof.Machine.execVote m op ch rs1 s
  | .ssend m slot rs1 => Sys2Proof.Machine.execSsend m slot rs1 s
  | .lease m rd rs1 rs2 => Sys2Proof.Machine.execLease m rd rs1 rs2 s
  | .unlease m rd rs1 rs2 => Sys2Proof.Machine.execUnlease m rd rs1 rs2 s
  | .roleq m rd rs1 rs2 => Sys2Proof.Machine.execRoleq m rd rs1 rs2 s
  | .ntcack m rd rs1 rs2 => Sys2Proof.Machine.execNtcack m rd rs1 rs2 s
  | .tcopy m rd rs1 rs2 => Sys2Proof.Machine.execTcopy m rd rs1 rs2 s
  | .cpcancel m rd rs1 rs2 => Sys2Proof.Machine.execCpcancel m rd rs1 rs2 s
  | .cpstat m rd rs1 rs2 => Sys2Proof.Machine.execCpstat m rd rs1 rs2 s
  | .qpush m q rs1 => Sys2Proof.Machine.execQpush m q rs1 s
  | .qpop m rd q => Sys2Proof.Machine.execQpop m rd q s
  | .vadd m mk t vd vs1 vs2 => Sys2Proof.Machine.execVadd m mk t vd vs1 vs2 s
  | .vsub m mk t vd vs1 vs2 => Sys2Proof.Machine.execVsub m mk t vd vs1 vs2 s
  | .vmul m mk t vd vs1 vs2 => Sys2Proof.Machine.execVmul m mk t vd vs1 vs2 s
  | .vfma m mk t vd vs1 vs2 => Sys2Proof.Machine.execVfma m mk t vd vs1 vs2 s
  | .vmin m mk t vd vs1 vs2 => Sys2Proof.Machine.execVmin m mk t vd vs1 vs2 s
  | .vmax m mk t vd vs1 vs2 => Sys2Proof.Machine.execVmax m mk t vd vs1 vs2 s
  | .vabs m mk t vd vs1 => Sys2Proof.Machine.execVabs m mk t vd vs1 s
  | .vneg m mk t vd vs1 => Sys2Proof.Machine.execVneg m mk t vd vs1 s
  | .vand m mk t vd vs1 vs2 => Sys2Proof.Machine.execVand m mk t vd vs1 vs2 s
  | .vor m mk t vd vs1 vs2 => Sys2Proof.Machine.execVor m mk t vd vs1 vs2 s
  | .vxor m mk t vd vs1 vs2 => Sys2Proof.Machine.execVxor m mk t vd vs1 vs2 s
  | .vshl m mk t vd vs1 vs2 => Sys2Proof.Machine.execVshl m mk t vd vs1 vs2 s
  | .vshr m mk t vd vs1 vs2 => Sys2Proof.Machine.execVshr m mk t vd vs1 vs2 s
  | .vsra m mk t vd vs1 vs2 => Sys2Proof.Machine.execVsra m mk t vd vs1 vs2 s
  | .vsel m mk t vd vs1 vs2 => Sys2Proof.Machine.execVsel m mk t vd vs1 vs2 s
  | .vmv m mk t vd vs1 => Sys2Proof.Machine.execVmv m mk t vd vs1 s
  | .vcmpEq m mk t kd vs1 vs2 => Sys2Proof.Machine.execVcmpEq m mk t kd vs1 vs2 s
  | .vcmpNe m mk t kd vs1 vs2 => Sys2Proof.Machine.execVcmpNe m mk t kd vs1 vs2 s
  | .vcmpLt m mk t kd vs1 vs2 => Sys2Proof.Machine.execVcmpLt m mk t kd vs1 vs2 s
  | .vcmpLe m mk t kd vs1 vs2 => Sys2Proof.Machine.execVcmpLe m mk t kd vs1 vs2 s
  | .vcmpGt m mk t kd vs1 vs2 => Sys2Proof.Machine.execVcmpGt m mk t kd vs1 vs2 s
  | .vcmpGe m mk t kd vs1 vs2 => Sys2Proof.Machine.execVcmpGe m mk t kd vs1 vs2 s
  | .vcmpLtu m mk t kd vs1 vs2 => Sys2Proof.Machine.execVcmpLtu m mk t kd vs1 vs2 s
  | .vcmpGeu m mk t kd vs1 vs2 => Sys2Proof.Machine.execVcmpGeu m mk t kd vs1 vs2 s
  | .vbcast m mk t vd rs1 => Sys2Proof.Machine.execVbcast m mk t vd rs1 s
  | .vextr m t rd vs1 rs2 => Sys2Proof.Machine.execVextr m t rd vs1 rs2 s
  | .vins m t vd rs1 rs2 => Sys2Proof.Machine.execVins m t vd rs1 rs2 s
  | .vperm m mk t vd vs1 vs2 => Sys2Proof.Machine.execVperm m mk t vd vs1 vs2 s
  | .vslide m mk t vd vs1 rs2 => Sys2Proof.Machine.execVslide m mk t vd vs1 rs2 s
  | .viota m mk t vd ks1 => Sys2Proof.Machine.execViota m mk t vd ks1 s
  | .vmpop m mk rd ks1 => Sys2Proof.Machine.execVmpop m mk rd ks1 s
  | .vredsum m mk t rd vs1 rs2 => Sys2Proof.Machine.execVredsum m mk t rd vs1 rs2 s
  | .vredmax m mk t rd vs1 rs2 => Sys2Proof.Machine.execVredmax m mk t rd vs1 rs2 s
  | .vredmin m mk t rd vs1 rs2 => Sys2Proof.Machine.execVredmin m mk t rd vs1 rs2 s
  | .vscan m mk t vd vs1 rs2 => Sys2Proof.Machine.execVscan m mk t vd vs1 rs2 s
  | .vcvt m mk t dst vd vs1 => Sys2Proof.Machine.execVcvt m mk t dst vd vs1 s
  | .vpack m mk t vd vs1 vs2 => Sys2Proof.Machine.execVpack m mk t vd vs1 vs2 s
  | .vunpack m mk t hi vd vs1 => Sys2Proof.Machine.execVunpack m mk t hi vd vs1 s
  | .vdot m mk t vd vs1 vs2 => Sys2Proof.Machine.execVdot m mk t vd vs1 vs2 s
  | .vld m mk t vd rs1 rs2 => Sys2Proof.Machine.execVld m mk t vd rs1 rs2 s
  | .vst m mk t vd rs1 rs2 => Sys2Proof.Machine.execVst m mk t vd rs1 rs2 s
  | .vlds m mk t vd rs1 rs2 => Sys2Proof.Machine.execVlds m mk t vd rs1 rs2 s
  | .vsts m mk t vd rs1 rs2 => Sys2Proof.Machine.execVsts m mk t vd rs1 rs2 s
  | .vgath m mk t vd rs1 vs2 => Sys2Proof.Machine.execVgath m mk t vd rs1 vs2 s
  | .vscat m mk t vd rs1 vs2 => Sys2Proof.Machine.execVscat m mk t vd rs1 vs2 s
  | .vldg m mk t vd rs1 rs2 => Sys2Proof.Machine.execVldg m mk t vd rs1 rs2 s
  | .vstg m mk t vd rs1 rs2 => Sys2Proof.Machine.execVstg m mk t vd rs1 rs2 s
  | .vexp2 m mk t vd vs1 => Sys2Proof.Machine.execVexp2 m mk t vd vs1 s
  | .vlog2 m mk t vd vs1 => Sys2Proof.Machine.execVlog2 m mk t vd vs1 s
  | .vrcp m mk t vd vs1 => Sys2Proof.Machine.execVrcp m mk t vd vs1 s
  | .vrsqrt m mk t vd vs1 => Sys2Proof.Machine.execVrsqrt m mk t vd vs1 s
  | .vquant m mk t f vd vs1 => Sys2Proof.Machine.execVquant m mk t f vd vs1 s
  | .vdeq m mk t f vd vs1 => Sys2Proof.Machine.execVdeq m mk t f vd vs1 s
  | .kand m kd ks1 ks2 => Sys2Proof.Machine.execKand m kd ks1 ks2 s
  | .kor m kd ks1 ks2 => Sys2Proof.Machine.execKor m kd ks1 ks2 s
  | .kxor m kd ks1 ks2 => Sys2Proof.Machine.execKxor m kd ks1 ks2 s
  | .knot m kd ks1 => Sys2Proof.Machine.execKnot m kd ks1 s
  | .mma m fb fa zb za zc acc => Sys2Proof.Machine.execMma m fb fa zb za zc acc s
  | .zld m z rs1 rs2 => Sys2Proof.Machine.execZld m z rs1 rs2 s
  | .zst m z rs1 rs2 => Sys2Proof.Machine.execZst m z rs1 rs2 s
  | .zzero m zc => Sys2Proof.Machine.execZzero m zc s
  | .zcvt m fa zc za => Sys2Proof.Machine.execZcvt m fa zc za s
  | .zscl m zc za => Sys2Proof.Machine.execZscl m zc za s
  | .zxp m zc za => Sys2Proof.Machine.execZxp m zc za s
  | .zmovv m z vs1 rs2 => Sys2Proof.Machine.execZmovv m z vs1 rs2 s
  | .vmovz m vd z rs2 => Sys2Proof.Machine.execVmovz m vd z rs2 s
  | .bform m rd rs1 rs2 => Sys2Proof.Machine.execBform m rd rs1 rs2 s
  | .bcommit m rd rs1 rs2 => Sys2Proof.Machine.execBcommit m rd rs1 rs2 s
  | .rqfork m rd rs1 rs2 => Sys2Proof.Machine.execRqfork m rd rs1 rs2 s
  | .rqevict m rd rs1 rs2 => Sys2Proof.Machine.execRqevict m rd rs1 rs2 s
  | .rqstat m rd rs1 rs2 => Sys2Proof.Machine.execRqstat m rd rs1 rs2 s
  | .slotrd m rd rs1 rs2 => Sys2Proof.Machine.execSlotrd m rd rs1 rs2 s
  | .kvapp m rd rs1 rs2 => Sys2Proof.Machine.execKvapp m rd rs1 rs2 s
  | .kvlook m rd rs1 rs2 => Sys2Proof.Machine.execKvlook m rd rs1 rs2 s
  | .kvrel m rd rs1 rs2 => Sys2Proof.Machine.execKvrel m rd rs1 rs2 s
  | .dattn m rd rs1 rs2 => Sys2Proof.Machine.execDattn m rd rs1 rs2 s
  | .cpGo m rd => Sys2Proof.Machine.execCpGo m rd s
  | .ttinv m f rd rs1 => Sys2Proof.Machine.execTtinv m f rd rs1 s
  | .zcfgWrite m f z rd rs1 => Sys2Proof.Machine.execZcfgWrite m f z rd rs1 s
  | .xsdataWrite m f rd rs1 => Sys2Proof.Machine.execXsdataWrite m f rd rs1 s
  | .sideCoreGo m sd f rd rs1 => Sys2Proof.Machine.execSideCoreGo m sd f rd rs1 s
  | .sideCoreStop m sd f rd rs1 => Sys2Proof.Machine.execSideCoreStop m sd f rd rs1 s
  | .sideImageLoaded tile sd => Sys2Proof.Machine.execSideImageLoaded tile sd s
  | .sideCoreTrap tile sd => Sys2Proof.Machine.execSideCoreTrap tile sd s
  | .recordPickup tile c => Sys2Proof.Machine.execRecordPickup tile c s
  | .preemption tile c => Sys2Proof.Machine.execPreemption tile c s
  | .trapDelivery tile c => Sys2Proof.Machine.execTrapDelivery tile c s
  | .suspensionRetry tile c => Sys2Proof.Machine.execSuspensionRetry tile c s
  | .faultQueueRetry n => Sys2Proof.Machine.execFaultQueueRetry n s
  | .remoteResultArrival n outside => Sys2Proof.Machine.execRemoteResultArrival n outside s
  | .contextSwitch tile => Sys2Proof.Machine.execContextSwitch tile s
  | .runlimitExpiry tile => Sys2Proof.Machine.execRunlimitExpiry tile s
  | .wfiTimeout tile c => Sys2Proof.Machine.execWfiTimeout tile c s
  | .wwaittTimeout tile a => Sys2Proof.Machine.execWwaittTimeout tile a s
  | .gbwaitTimeout tile c => Sys2Proof.Machine.execGbwaitTimeout tile c s
  | .mailboxDeferredPlace tile => Sys2Proof.Machine.execMailboxDeferredPlace tile s
  | .copyPiece tile chan => Sys2Proof.Machine.execCopyPiece tile chan s
  | .copyCompletion tile chan => Sys2Proof.Machine.execCopyCompletion tile chan s
  | .copyCompletionPlaced tile chan => Sys2Proof.Machine.execCopyCompletionPlaced tile chan s
  | .packetArrival n => Sys2Proof.Machine.execPacketArrival n s
  | .nackReceipt n => Sys2Proof.Machine.execNackReceipt n s
  | .replay tile dst => Sys2Proof.Machine.execReplay tile dst s
  | .acceptAck n => Sys2Proof.Machine.execAcceptAck n s
  | .replayExpiry tile dst => Sys2Proof.Machine.execReplayExpiry tile dst s
  | .furrowDatumArrival n => Sys2Proof.Machine.execFurrowDatumArrival n s
  | .creditReturn n => Sys2Proof.Machine.execCreditReturn n s
  | .tick => Sys2Proof.Machine.execTick s
  | .epochEnd die pc ps pl rowStall => Sys2Proof.Machine.execEpochEnd die pc ps pl rowStall s
  | .leaseExpiry ltid => Sys2Proof.Machine.execLeaseExpiry ltid s
  | .noticeDeadline ltid nid => Sys2Proof.Machine.execNoticeDeadline ltid nid s
  | .enterMoving ltid => Sys2Proof.Machine.execEnterMoving ltid s
  | .moveComplete ltid => Sys2Proof.Machine.execMoveComplete ltid s
  | .pageFlip n => Sys2Proof.Machine.execPageFlip n s
  | .roleCacheInvalidation tile ltid => Sys2Proof.Machine.execRoleCacheInvalidation tile ltid s
  | .storeRegistration n => Sys2Proof.Machine.execStoreRegistration n s
  | .registrationAck n => Sys2Proof.Machine.execRegistrationAck n s
  | .sliceFill n => Sys2Proof.Machine.execSliceFill n s
  | .forwardedRead n => Sys2Proof.Machine.execForwardedRead n s
  | .writeBack tile line => Sys2Proof.Machine.execWriteBack tile line s
  | .leave n => Sys2Proof.Machine.execLeave n s
  | .registryErrorRecall line => Sys2Proof.Machine.execRegistryErrorRecall line s
  | .replicaLapse line helper => Sys2Proof.Machine.execReplicaLapse line helper s
  | .tableWalk n => Sys2Proof.Machine.execTableWalk n s
  | .stewardPageService n a => Sys2Proof.Machine.execStewardPageService n a s
  | .icacheFill n => Sys2Proof.Machine.execIcacheFill n s
  | .hostReadShared pa => Sys2Proof.Machine.execHostReadShared pa s
  | .hostReadOwn pa => Sys2Proof.Machine.execHostReadOwn pa s
  | .hostWriteback pa data keep => Sys2Proof.Machine.execHostWriteback pa data keep s
  | .hostUncachedWrite pa data => Sys2Proof.Machine.execHostUncachedWrite pa data s
  | .backInvalidationResponse pa data => Sys2Proof.Machine.execBackInvalidationResponse pa data s
  | .hostSnoop pa => Sys2Proof.Machine.execHostSnoop pa s
  | .dispatch die => Sys2Proof.Machine.execDispatch die s
  | .schedulerSplit die => Sys2Proof.Machine.execSchedulerSplit die s
  | .headgateAdmission die => Sys2Proof.Machine.execHeadgateAdmission die s
  | .stagingDeadline die n => Sys2Proof.Machine.execStagingDeadline die n s
  | .counterSignal n => Sys2Proof.Machine.execCounterSignal n s
  | .counterEnqueueRetry n => Sys2Proof.Machine.execCounterEnqueueRetry n s
  | .barrierRelease die ch => Sys2Proof.Machine.execBarrierRelease die ch s
  | .scheduledInjection tile slot late => Sys2Proof.Machine.execScheduledInjection tile slot late s
  | .memberLost tile c => Sys2Proof.Machine.execMemberLost tile c s
  | .dattnCompletion die => Sys2Proof.Machine.execDattnCompletion die s
  | .enqWindowGo j => Sys2Proof.Machine.execEnqWindowGo j s
  | .wswrite => Sys2Proof.Machine.execWswrite s
  | .tlbinv => Sys2Proof.Machine.execTlbinv s
  | .ttflush => Sys2Proof.Machine.execTtflush s
  | .rgnmake => Sys2Proof.Machine.execRgnmake s
  | .rgngrant => Sys2Proof.Machine.execRgngrant s
  | .rgnfree => Sys2Proof.Machine.execRgnfree s
  | .forcecast => Sys2Proof.Machine.execForcecast s
  | .taskstop => Sys2Proof.Machine.execTaskstop s
  | .mgmtRegisterWrite off v => Sys2Proof.Machine.execMgmtRegisterWrite off v s
  | .attestationRequest nonce => Sys2Proof.Machine.execAttestationRequest nonce s
  | .attestationReportReady => Sys2Proof.Machine.execAttestationReportReady s
  | .imageVerify key image sig version => Sys2Proof.Machine.execImageVerify key image sig version s
  | .powerOnReset pass => Sys2Proof.Machine.execPowerOnReset pass s
  | .fullServiceSwitch dies hbm cxl fab node => Sys2Proof.Machine.execFullServiceSwitch dies hbm cxl fab node s
  | .ue p => Sys2Proof.Machine.execUe p s
  | .ce die unit loc => Sys2Proof.Machine.execCe die unit loc s
  | .linkCrcFailure link again => Sys2Proof.Machine.execLinkCrcFailure link again s
  | .thermalHold temp => Sys2Proof.Machine.execThermalHold temp s
  | .thermalShutdown temp => Sys2Proof.Machine.execThermalShutdown temp s
  | .clockStep watts => Sys2Proof.Machine.execClockStep watts s
  | .wearUpdate pct days => Sys2Proof.Machine.execWearUpdate pct days s
  | .remoteAccessTimeout n => Sys2Proof.Machine.execRemoteAccessTimeout n s
  | .replyArrival n => Sys2Proof.Machine.execReplyArrival n s
  | .tensorEngineCompletion tile => Sys2Proof.Machine.execTensorEngineCompletion tile s
  | .thermalHoldEnd => Sys2Proof.Machine.execThermalHoldEnd s
  | .badcmd code => Sys2Proof.Machine.execBadcmd code s

end Sys2Proof.Machine
end

