-- ==== Sys2Proof/Machine/Turns.lean ====
section
/-! DEFINITION. Which step comes next, and the steps of the default order (log 4). -/

namespace Sys2Proof.Machine

/-! ## Turns -/

/-- The step that is due for what is in flight; what waits for another node is answered, or runs out of time (22 R363). -/
def State.flightDue (s : State) (n : Nat) : Flight → Due
  | .fill .. => .fill n
  | .fwd .. => .fwd n
  | .data .. | .winRead .. | .answer .. => .result n
  | .regist .. | .wdata .. | .winWrite .. | .atom .. | .winAtom .. | .bankAtom .. => .store n
  | .ack .. => .ack n
  | .ifill .. => .line n
  | .fabRead _ _ _ k _ _ _ since | .fabAtom _ _ k _ _ since => if s.farOver k since then .remote n else .result n
  | .fabWrite _ _ k _ _ _ since => if s.farOver k since then .remote n else .ack n
  | .leave _ => .leave n
  | .pkt .. => .packet n
  | .accept .. => .accept n
  | .nack .. => .nack n
  | .fdatum .. => .datum n
  | .fcredit .. => .credit n
  | .reply .. => .reply n

def whenDue (c : Bool) (d : Due) : List Due := if c then [d] else []

def sideDue (n : Nat) (sd : Side) (a : Agent) (c : SideCore) : List Due :=
  match c.st with
  | .running => whenDue c.stall.isNone (.issue n a) ++ whenDue c.pending.isSome (.sideTrap n sd)
  | .loading => [.image n sd]
  | _ => []

/-- What is due in a context: its issue, a trap's delivery, a suspension's retry, a pre-emption that was asked for. -/
def State.ctxDue (s : State) (n : Nat) (c : Fin 8) (k : Context) : List Due :=
  whenDue ((k.evict.isSome || k.evictAt.any (· < s.tick)) && k.st != .free && k.st != .waiting .trap) (.evict n c)
  ++ match k.st with
    | .running => whenDue (s.powered && k.evict.isNone) (.issue n (.ctx c))
    | .waiting .trap => whenDue (s.quiet n c) (.trap n c)
    | .waiting .frame => whenDue (decide (k.retryTick < s.tick)) (.frame n c)
    | _ => []

def chanDue (n : Nat) (ch : Fin 4) (c : Chan) : List Due :=
  match c.st with
  | .idle => []
  | .running | .cancelling => whenDue (!c.over) (.piece n ch) ++ whenDue (c.over && c.inAir == 0) (.copyEnd n ch)
  | .posting => [.copyPlaced n ch]

def State.windowDue (s : State) (n dst : Nat) (w : Window) : List Due :=
  whenDue w.backoff (.replay n dst) ++ whenDue (s.windowExpired n dst) (.expiry n dst)

/-- Words of the role map that have changed since an interface cached them (11 R225). -/
def State.staleRoles (s : State) (n : Nat) (t : Tile) : List Due :=
  (t.roleCache.filter fun e => e.2 != (s.role e.1).word0 e.1).map fun e => .roleCache n (BitVec.ofNat 12 e.1)

def State.tileDue (s : State) (n : Nat) (t : Tile) : List Due :=
  whenDue (s.powered && t.run.isNone && t.ctx.any Context.canRun) (.switch n)
  ++ (List.finRange 8).flatMap (fun c => s.ctxDue n c t.ctx[c])
  ++ sideDue n .loader .loader t.ldr ++ sideDue n .storer .storer t.str
  ++ whenDue (!t.tq.isEmpty) (.tensor n)
  ++ (List.finRange 4).flatMap (fun c => chanDue n c t.chans[c])
  ++ whenDue (!t.mailWait.isEmpty && decide (t.mail.length < 64)) (.mail n)
  ++ t.windows.flatMap (fun e => s.windowDue n e.1 e.2)
  ++ (t.xsend.filter fun x => t.hasRoom (xsDltid x.entry)).map (fun x => .inject n x.slot)
  ++ s.staleRoles n t

/-- What the census has to apply before the next tick: expiries, deadlines, epoch ends (11 R226, R227, R251). -/
def State.censusDue (s : State) : List Due :=
  s.roles.flatMap (fun e => whenDue (s.leaseDue e.1) (.lease (BitVec.ofNat 12 e.1)) ++ whenDue (s.deadlineDue e.1) (.deadline (BitVec.ofNat 12 e.1)))
  ++ ((List.finRange 4).filter fun d => s.epochDue d.val).map (fun d => .epoch d)

/-- Tiles that are moving (11 R233). -/
def State.movingDue (s : State) : List Due :=
  s.roles.flatMap fun e =>
    whenDue (e.2.v && e.2.cstate == 3) (if s.isCleared e.1 then .moveDone (BitVec.ofNat 12 e.1) else .enterMoving (BitVec.ofNat 12 e.1))

/-- Barriers to release, decode attention, and the work of the scheduler and the headgate of a die. -/
def State.dieDue (s : State) (d : Fin 4) : List Due :=
  ((List.range 8).filter fun c => s.barrierReady d.val (BitVec.ofNat 3 c)).map (fun c => .barrier d (BitVec.ofNat 3 c))
  ++ whenDue (!(s.dies[d]).dattn.isEmpty) (.dattn d)
  ++ ((List.range (s.dies[d]).heads.length).filter (s.stagingDue d.val)).map (.staging d)
  ++ [.headgate d, .dispatch d, .split d]

/-- The limit of a side core's WWAITT. -/
def SideCore.limitDue (c : SideCore) (n : Nat) (a : Fin 10) : List Due :=
  match c.stall with
  | some (.phase _ _ true) => [.wwaitt n a]
  | _ => []

/-- Limits of waits, which pass where nothing else happens (05 R117, 09 R187, 15 R293). -/
def limitDue (n : Nat) (t : Tile) : List Due :=
  ((List.finRange 8).flatMap fun c => match t.ctx[c].st with
    | .waiting (.wfi _) => [.wfi n c]
    | .waiting (.phase _ _ true) => [.wwaitt n (c.castLE (by omega))]
    | .waiting (.barrier _) => whenDue (t.ctx[c].gbtimeout != 0) (.gbwait n c)
    | _ => []) ++ t.ldr.limitDue n 8 ++ t.str.limitDue n 9

/-- Packets that found their queue full, each tried once a tick (15 R284, 05 R111). -/
def retryDue (tick : Nat) (d : Nat → Due) (rs : List Retry) : List Due :=
  ((List.range rs.length).zip rs).flatMap fun e => whenDue (decide (e.2.since < tick)) (d e.1)

/-- The steps of the engines and the agents that are due, in a fixed order. -/
def State.busy (s : State) : List Due :=
  ((List.range s.flights.length).zip s.flights).map (fun e => s.flightDue e.1 e.2)
  ++ (((List.range s.walks.length).zip s.walks).filter fun e => !e.2.steward).map (fun e => .walk e.1)
  ++ s.tiles.flatMap (fun e => s.tileDue e.1 e.2)
  ++ whenDue (!s.signals.isEmpty) .signal ++ retryDue s.tick .cntRetry s.cntRetry ++ retryDue s.tick .fqRetry s.fqRetry
  ++ ((List.finRange 4).filter fun i => s.mgmt.enq[i].busy).map .enqGo
  ++ (List.range s.moves.length).map .flip ++ s.movingDue
  ++ whenDue (s.mgmt.attReq != 0) .report ++ whenDue (decide (s.wearDue ≤ s.tick)) .wear

/-- Every step that is due: a tick only when the census has nothing to apply, the limit of a wait only when no engine and
no agent has a step to take. -/
def State.candidates (s : State) : List Due :=
  let census := s.censusDue
  let busy := s.busy
  busy ++ census ++ (List.finRange 4).flatMap s.dieDue ++ (if busy.isEmpty then s.tiles.flatMap fun e => limitDue e.1 e.2 else [])
  ++ whenDue census.isEmpty .tick

/-- The turn taken and the state without it: the first of `turns`, or the steps that are due in rotation (log 4). -/
def State.nextTurn (s : State) : Turn × State :=
  match s.turns with
  | t :: r => (t, { s with turns := r })
  | [] => (.due (s.candidates.getD (s.rota % s.candidates.length) .tick), { s with rota := s.rota + 1 })

/-- What another node of the fabric answers to flight `n` (log 13). -/
def State.outsideBytes (s : State) (n : Nat) : List Byte :=
  match s.flights[n]? with
  | some (.fabRead _ _ _ k pa len ..) => (List.range len).map fun i => Config.nodeByte k (pa + i) s.rota
  | some (.fabAtom _ op k pa ..) => (List.range op.n).map fun i => Config.nodeByte k (pa + i) s.rota
  | _ => []

/-- A step of the default order but the issue of an agent: the meaning of its operation. -/
def runDue (d : Due) (s : State) : Out :=
  match d with
  | .issue _ _ => .next s
  | .fill n => execSliceFill n s
  | .fwd n => execForwardedRead n s
  | .result n => execRemoteResultArrival n (s.outsideBytes n) s
  | .store n => execStoreRegistration n s
  | .ack n => execRegistrationAck n s
  | .line n => execIcacheFill n s
  | .leave n => execLeave n s
  | .packet n => execPacketArrival n s
  | .accept n => execAcceptAck n s
  | .nack n => execNackReceipt n s
  | .datum n => execFurrowDatumArrival n s
  | .credit n => execCreditReturn n s
  | .reply n => execReplyArrival n s
  | .walk n => execTableWalk n s
  | .switch t => execContextSwitch t s
  | .evict t c => execPreemption t c s
  | .trap t c => execTrapDelivery t c s
  | .sideTrap t sd => execSideCoreTrap t sd s
  | .wfi t c => execWfiTimeout t c s
  | .wwaitt t a => execWwaittTimeout t a s
  | .gbwait t c => execGbwaitTimeout t c s
  | .frame t c => execSuspensionRetry t c s
  | .pickup t c => execRecordPickup t c s
  | .image t sd => execSideImageLoaded t sd s
  | .tensor t => execTensorEngineCompletion t s
  | .piece t ch => execCopyPiece t ch s
  | .copyEnd t ch => execCopyCompletion t ch s
  | .copyPlaced t ch => execCopyCompletionPlaced t ch s
  | .mail t => execMailboxDeferredPlace t s
  | .replay t dst => execReplay t dst s
  | .expiry t dst => execReplayExpiry t dst s
  | .signal => execCounterSignal 0 s
  | .cntRetry n => execCounterEnqueueRetry n s
  | .fqRetry n => execFaultQueueRetry n s
  | .enqGo i => execEnqWindowGo i s
  | .staging d n => execStagingDeadline d n s
  | .flip n => execPageFlip n s
  | .lease l => execLeaseExpiry l s
  | .deadline l => execNoticeDeadline l (s.role l.toNat).nid s
  | .epoch d => execEpochEnd d 0 0 0 [] s
  | .enterMoving l => execEnterMoving l s
  | .moveDone l => execMoveComplete l s
  | .roleCache t l => execRoleCacheInvalidation t l s
  | .inject t slot => execScheduledInjection t slot false s
  | .remote n => execRemoteAccessTimeout n s
  | .headgate d => execHeadgateAdmission d s
  | .dispatch d => execDispatch d s
  | .split d => execSchedulerSplit d s
  | .report => execAttestationReportReady s
  | .wear => execWearUpdate (Config.wearPct s.tick) (Config.wearDays s.tick) s
  | .barrier d ch => execBarrierRelease d ch s
  | .dattn d => execDattnCompletion d s
  | .tick => execTick s

/-- Whether the acting agent may issue: the running context unless it is being pre-empted, or a
running side core that does not stall; none after a thermal shutdown (21 R357). -/
def State.mayIssue (s : State) : Bool :=
  match s.curAgent with
  | .ctx c => s.powered && s.tile.run == some c && s.tile.ctx[c].evict.isNone
  | .loader => s.powered && s.tile.ldr.st == .running && s.tile.ldr.stall.isNone
  | .storer => s.powered && s.tile.str.st == .running && s.tile.str.stall.isNone

/-- Whether an operation is a step of an engine or of the outside world: it has no word. -/
def isEvent (i : Instr) : Bool := (encode i).isNone

end Sys2Proof.Machine
end

