-- ==== Sys2Proof/Machine/Step.lean ====
section
/-! DEFINITION. One step of the package (log 4): the next turn, the fetched and decoded instruction or the engine's
step, and what becomes Ready after it. -/

namespace Sys2Proof.Machine

/-- The acting agent fetches, decodes and executes one word. -/
def runWord (s : State) : Host.Outcome State Fault Refusal :=
  match s.fetchWord with
  | .error s' => .next s'
  | .ok w =>
    match decodeWord w with
    | .ok i => if s.interlocked w then .next s else exec i s
    | .error _ => .next (s.illegalWord w)

/-- An agent of a tile issues, if it may. -/
def runAgent (n : Nat) (a : Agent) (s : State) : Host.Outcome State Fault Refusal :=
  if n < 1024 then
    let s1 := { s with curTile := n, curAgent := a }
    if s1.mayIssue then runWord s1 else .next s1
  else .fault .illFormedTurn

/-- A turn taken. -/
def runTurn (t : Turn) (s : State) : Host.Outcome State Fault Refusal :=
  match t with
  | .issue n a => runAgent n a s
  | .due (.issue n a) => runAgent n a s
  | .due d => runDue d s
  | .event i => if isEvent i && i.wf then exec i s else .fault .illFormedTurn

/-- Contexts whose condition holds become Ready at the end of a step. -/
def settled : Host.Outcome State Fault Refusal → Host.Outcome State Fault Refusal
  | .next s => .next s.settle
  | o => o

/-- One step of the package. -/
def step (s : State) : Host.Outcome State Fault Refusal := settled (runTurn s.nextTurn.1 s.nextTurn.2)

/-- `s` with an instruction stored where the next step fetches it: a strand runs in context 0 of tile 0 at the context's
program counter, whose page the TLB maps to the first page of HBM, whose line stands in memory and in the instruction
cache; and the next turn is that context's (log 5). -/
def State.withFetchWord (s : State) (nbits w : Nat) : State :=
  let t := s.tileAt 0
  let k := t.ctx[0]
  let off := k.th.pc.toNat % 4096
  let pa := 0x80_0000_0000 + off
  let v := w % 2 ^ nbits
  let mem := mwrite s.mem pa (leBytes v 4)
  let e : TlbEntry :=
    { ws := k.wsid, va := k.th.pc.toNat / 4096 * 4096, size := 4096, pa := 0x80_0000_0000, r := true, w := true, x := true, sealed := false }
  let line : ICLine := { ws := k.wsid, line := pa / 128, bytes := mread mem (pa / 128 * 128) 128 }
  { s with
    turns := [.issue 0 (.ctx 0)]
    mem := mem
    tiles := sset 0 { t with
      run := some 0, tlb := [(0, e)], icache := line :: t.icache,
      ctx := t.ctx.set 0 { k with st := .running, pending := none } } s.tiles }

end Sys2Proof.Machine
end

