-- ==== Sys2Proof/Safety.lean ====
section
/-! DEFINITION. What a safe run is, and the words in which the statements say when an instruction issues, what it leaves
as it was and how its agent goes on. -/

namespace Sys2Proof.Safety

open Sys2Proof.Machine

/-- A step that answers a next state. -/
def goesOn (s : State) : Prop := ∃ t, step s = .next t

/-- A run of `k` steps that never stops. -/
def Runs : Nat → State → Prop
  | 0, _ => True
  | k + 1, s => ∃ t, step s = .next t ∧ Runs k t

/-! ## When an instruction issues -/

/-- An instruction with S bit `m` issues in `s`: where it is S-marked, every outstanding remote result has arrived and
landed in `u` (01 R17), and the claim on the argument area has ended (06 R132). -/
def issues (s : State) (m : SMark) (u : State) : Prop := ∃ s1, s.sPoint m = .ok s1 ∧ u = if m then s1.endClaim else s1

/-- No access of the agent stands before a load or a store: no acquiring load whose read is outstanding (04 R96), no
queued stream of the tensor engine that orders it (08 R174), no atomic of its own between its read and its write of the
tile store (01 R26, 10 R201). -/
def accessFree (u : State) : Prop :=
  u.acquiring = false ∧ (∀ a b, u.tile.streams u.src a b = false) ∧ u.flights.any (Flight.bankOf u.src) = false

/-- An operation answers a next state, of which `P` holds. -/
def completes (i : Instr) (s : State) (P : State → Prop) : Prop := ∃ t, Sys2Proof.Machine.exec i s = .next t ∧ P t

/-- No context and no side core waits for something that holds; none that has a trap to take at its next boundary waits,
unless for a reply or for the delivery of a trap (06 R120, 02 R28). -/
def noWaitHolds (s : State) : Prop :=
  (∀ n, ∀ c : Fin 8, ∀ w, (s.tileAt n).ctx[c].st = .waiting w → s.waitOver (s.srcOf n c) (s.tileAt n).ctx[c].th w = false
    ∧ ((s.tileAt n).ctx[c].pending = none ∨ w = .trap ∨ w = .reply))
  ∧ ∀ n, ∀ sd : Side, ∀ w, ((s.tileAt n).side sd).stall = some w →
      s.waitOver { tile := n, agent := if sd = .loader then .loader else .storer, ws := ((s.tileAt n).side sd).wsid, inc := ((s.tileAt n).side sd).inc }
        ((s.tileAt n).side sd).th w = false ∧ (((s.tileAt n).side sd).pending = none ∨ w = .reply)

/-! ## How the agent goes on -/

/-- The acting agent with its program counter at `pc`, and no mark left of an earlier wait; nothing else changes. -/
def wentOn (pc : Word) (u : State) : State :=
  match u.curAgent with
  | .ctx c => u.putTile { u.tile with
      ctx := u.tile.ctx.set c { u.tile.ctx[c] with th := { u.tile.ctx[c].th with pc := pc }, released := false, expired := false, suspending := false } }
  | .loader => u.putTile { u.tile with ldr := { u.tile.ldr with th := { u.tile.ldr.th with pc := pc }, released := false, expired := false } }
  | .storer => u.putTile { u.tile with str := { u.tile.str with th := { u.tile.str.th with pc := pc }, released := false, expired := false } }

/-- A strand past a committing instruction: a region begins at `pc` (01 R20, 05 R102), and the claim on the argument area
ends (06 R132). -/
def beganRegion (pc : Word) (k : Context) : Context :=
  { k with th := { k.th with pc := pc }, rgnpc := pc, live := k.live.union k.written, written := .empty, claim := false,
           released := false, expired := false, suspending := false }

/-- The acting strand past a committing instruction; nothing else changes. -/
def committedTo (pc : Word) (u : State) : State :=
  match u.curAgent with
  | .ctx c => u.putTile { u.tile with ctx := u.tile.ctx.set c (beganRegion pc u.tile.ctx[c]) }
  | _ => wentOn pc u

/-- The acting agent stops until a condition holds: a context becomes Waiting at a switch point and leaves issue
(06 R120), a side core stalls (06 R129); nothing else changes. -/
def waitsFor (w : Wait) (u : State) : State :=
  match u.curAgent with
  | .ctx c => u.putTile { u.tile with ctx := u.tile.ctx.set c { u.tile.ctx[c] with st := .waiting w, claim := w.keepsClaim && u.tile.ctx[c].claim },
                                        run := none, last := c }
  | .loader => u.putTile { u.tile with ldr := { u.tile.ldr with stall := some w } }
  | .storer => u.putTile { u.tile with str := { u.tile.str with stall := some w } }

/-! ## What is left as it was -/

/-- Everything of the package but its tiles, and every tile but the acting agent's. -/
def sameBeyond (s t : State) : Prop := { t with tiles := s.tiles } = s ∧ ∀ n, n ≠ s.curTile → t.tileAt n = s.tileAt n

/-- Everything of the acting agent's tile but its agents: store, tags, poison, panels, queues, mailbox, channels, caches,
interface and the rest. -/
def sameCore (s t : State) : Prop := { t.tile with ctx := s.tile.ctx, ldr := s.tile.ldr, str := s.tile.str } = s.tile

/-- The other agents of the tile. -/
def sameOthers (s t : State) : Prop :=
  (∀ c : Fin 8, s.curAgent ≠ .ctx c → t.tile.ctx[c] = s.tile.ctx[c])
  ∧ (s.curAgent ≠ .loader → t.tile.ldr = s.tile.ldr) ∧ (s.curAgent ≠ .storer → t.tile.str = s.tile.str)

/-- Of what a side core has, everything but its thread and the marks of a wait that is over. -/
def sameSides (s t : State) : Prop :=
  { t.tile.ldr with th := s.tile.ldr.th, released := s.tile.ldr.released, expired := s.tile.ldr.expired } = s.tile.ldr
  ∧ { t.tile.str with th := s.tile.str.th, released := s.tile.str.released, expired := s.tile.str.expired } = s.tile.str

/-- Of the acting agent's thread, everything but its x registers, its program counter and its flags. -/
def sameControl (s t : State) : Prop := { t.th with x := s.th.x, pc := s.th.pc, fflags := s.th.fflags } = s.th

/-- Of a context's strand, everything beside its thread but the set of registers written in the region, its v and k
registers and the marks of a wait that is over. -/
def sameStrand (s t : State) : Prop :=
  { t.ctx with th := s.ctx.th, v := s.ctx.v, k := s.ctx.k, written := s.ctx.written, released := s.ctx.released,
               expired := s.ctx.expired, suspending := s.ctx.suspending } = s.ctx

/-- The v and the k registers. -/
def sameVK (s t : State) : Prop := t.ctx.v = s.ctx.v ∧ t.ctx.k = s.ctx.k

/-- Every byte of physical memory, as the machine reads it, and every byte of every tile store. -/
def sameBytes (s t : State) : Prop :=
  (∀ a, t.readAt a 1 = s.readAt a 1) ∧ ∀ n off, (t.tileAt n).byte off = (s.tileAt n).byte off

/-- Everything but the acting agent's x, v and k registers, flags and program counter, and WRITTEN. -/
def sameButRegs (s t : State) : Prop :=
  sameBeyond s t ∧ sameCore s t ∧ sameOthers s t ∧ sameSides s t ∧ sameControl s t ∧ sameStrand s t ∧ sameBytes s t

/-- Every x register but one. -/
def sameX (s t : State) (rd : Reg) : Prop := ∀ r, r ≠ rd → t.x r = s.x r

/-- An instruction that only writes `rd` and goes on at `pc`, and ORs `f` into FFLAGS: x0 stays zero (01 R14), a register
that is not x0 joins the registers written in the region (05 R102); nothing else changes. -/
def writesTo (pc : Word) (f : Flags) (s t : State) (rd : Reg) (v : Word) : Prop :=
  t.x rd = (if rd = 0 then 0 else v) ∧ t.pc = pc ∧ t.th.fflags = s.th.fflags ||| f ∧ sameX s t rd
  ∧ (s.isCtx = true → t.ctx.written = s.ctx.written.addX rd) ∧ sameVK s t ∧ sameButRegs s t

/-- The same with no flag and the next instruction. -/
def writesOnly (s t : State) (rd : Reg) (v : Word) : Prop := writesTo (s.pc + 4) 0 s t rd v

/-- An instruction that only writes v register `vd` and ORs `f` into FFLAGS. -/
def writesV (f : Flags) (s t : State) (vd : Reg) (v : VWord) : Prop :=
  t.v vd = v ∧ (∀ r, r ≠ vd → t.v r = s.v r) ∧ t.ctx.k = s.ctx.k ∧ (∀ r, t.x r = s.x r) ∧ t.pc = s.pc + 4
  ∧ t.th.fflags = s.th.fflags ||| f ∧ t.ctx.written = s.ctx.written.addV vd ∧ sameButRegs s t

/-- An instruction that only writes k register `kd` and ORs `f` into FFLAGS. -/
def writesK (f : Flags) (s t : State) (kd : KReg) (v : BitVec 32) : Prop :=
  t.k kd = v ∧ (∀ r, r ≠ kd → t.k r = s.k r) ∧ t.ctx.v = s.ctx.v ∧ (∀ r, t.x r = s.x r) ∧ t.pc = s.pc + 4
  ∧ t.th.fflags = s.th.fflags ||| f ∧ t.ctx.written = s.ctx.written.addK kd ∧ sameButRegs s t

/-- An instruction that only sets the program counter. -/
def jumpsTo (s t : State) (pc : Word) : Prop :=
  t.pc = pc ∧ (∀ r, t.x r = s.x r) ∧ t.th.fflags = s.th.fflags ∧ t.ctx.written = s.ctx.written ∧ sameVK s t ∧ sameButRegs s t

/-! ## Elements of vector registers -/

/-- Element `j` of width `w` is active under a mask field: code 0 names every lane (07 R138). -/
def active (u : State) (mk : KReg) (w j : Nat) : Bool := mk == 0 || (u.k mk).getLsbD (w * j / 32)

/-- An instruction that only writes v register `vd`: its active elements get `f`, the others keep those of `old`; the flags
are those of the active elements (07 R138, R139). -/
def setsElems (u t : State) (mk : KReg) (w : Nat) (vd : Reg) (old : VWord) (f : Nat → Nat × Flags) : Prop :=
  ∃ v, writesV ((List.range (1024 / w)).foldl (fun a j => if active u mk w j then a ||| (f j).2 else a) 0) u t vd v
    ∧ ∀ j, j < 1024 / w → elem w v j = if active u mk w j then (f j).1 % 2 ^ w else elem w old j

/-! ## Accesses -/

/-- An access of `n` bytes at a tile-window address passes every check (04 R93): no earlier access orders it, no range
lock overlaps it. -/
def tileAccess (u : State) (a : Word) (n : Nat) : Prop :=
  accessFree u ∧ accessRegion a.toNat n = .tile ∧ u.tile.lockHit [(a.toNat, n)] = none

/-- An access of `n` bytes outside the tile window passes every check: every page it touches is translated with the
rights it needs, or lies in a region of the store window that is the workspace's own or granted to it, and `ps` is where
its pieces perform (04 R93, 13 R269); no range lock overlaps it; an access that is no atomic has no atomic of its own agent
ahead of it (01 R26). -/
def reaches (u : State) (need : Need) (a : Word) (n : Nat) (ps : List Piece) : Prop :=
  accessFree u ∧ (accessRegion a.toNat n = .global ∨ accessRegion a.toNat n = .window)
  ∧ u.reachPieces need (lineChunks 0 a.toNat n) = .ok ps ∧ u.tile.lockHit [(a.toNat, n)] = none
  ∧ ((need.r && need.w) = true ∨ u.atomAhead ps = false)

/-- OORF and OORA after an access of `n` bytes at a tile-store offset: the lowest byte out of range is noted, unless
one was noted before (01 R25). -/
def rangeNoted (h : Thread) (off n : Nat) : Thread :=
  if off + n ≤ storeSize ∨ n = 0 ∨ h.oorf = true then h
  else { h with oorf := true, oora := BitVec.ofNat 64 (tileBase + max off storeSize) }

/-- An object of `n` bytes at a tile-window address passes the checks of its instructions: region, alignment, locks
(09 R187, R191). -/
def objectAt (u : State) (a : Word) (n : Nat) : Prop := tileAccess u a n ∧ a.toNat % n = 0

/-- The state with OORF and OORA noted for an access of `n` bytes at a tile-window address. -/
def noted (u : State) (a : Word) (n : Nat) : State := u.setTh (rangeNoted u.th (a.toNat - tileBase) n)

/-- Bytes written to a tile store: those out of range are dropped (01 R25), a word written whole loses its poison
(06 R131), every other byte of the store and everything else of the tile is as it was. -/
def storedAt (T T' : Tile) (off : Nat) (bs : List Byte) : Prop :=
  { T' with store := T.store, poison := T.poison } = T
  ∧ (∀ i, T'.byte i = if off ≤ i ∧ i < off + bs.length ∧ i < storeSize then bs.getD (i - off) 0 else T.byte i)
  ∧ ∀ w, nsMem w T'.poison = (nsMem w T.poison && !(decide (off ≤ 8 * w ∧ 8 * w + 8 ≤ off + bs.length ∧ 8 * w < storeSize)))

/-- Everything but the tile of the acting agent, what is in flight and the next number; of that tile everything but its
agents, its L1 and the order in which its translations were used (13 R269); of its agents the others. -/
def sameButTraffic (s t : State) : Prop :=
  { t with tiles := s.tiles, flights := s.flights, fresh := s.fresh } = s ∧ (∀ n, n ≠ s.curTile → t.tileAt n = s.tileAt n)
  ∧ { t.tile with ctx := s.tile.ctx, ldr := s.tile.ldr, str := s.tile.str, l1 := s.tile.l1, plru := s.tile.plru } = s.tile ∧ sameOthers s t

/-- What names an outstanding result: its number, destination, the PC and address of the load, its length, the scope of
an acquire. -/
def resultKey (r : Remote) : Nat × RDest × Word × Word × Nat × Option Scope := (r.tag, r.dest, r.pc, r.addr, r.bytes.length, r.acquire)

/-- A read of the remote class has begun (01 R17): no register changes, the result is outstanding after the earlier
ones, and nothing else changes; without an acquire under way the L1 stays as it is and the read only adds to what is in
flight. -/
def beganRead (u t : State) (keep : Bool) (dest : RDest) (a : Word) (n : Nat) (acq : Option Scope) : Prop :=
  t.pc = u.pc + 4 ∧ (∀ r, t.x r = u.x r) ∧ t.th.fflags = u.th.fflags ∧ { t.th with pc := u.th.pc, outs := u.th.outs } = u.th
  ∧ t.th.outs.map resultKey = u.th.outs.map resultKey ++ (if keep then [(u.fresh, dest, u.pc, a, n, acq)] else [])
  ∧ t.ctx.v = u.ctx.v ∧ t.ctx.written = u.ctx.written ∧ sameButTraffic u t
  ∧ ((∀ r ∈ u.th.outs, r.acquire = none) ∧ acq = none → t.tile.l1 = u.tile.l1 ∧ ∃ fl, t.flights = u.flights ++ fl)

/-- A read of `n` bytes at an instruction's issue passes its checks: what the instruction does with the state and the bytes
that it gives is what the instruction does (15 R279). -/
def readsNow (u : State) (va n : Nat) (v : State) (bs : List Byte) : Prop := ∀ k, u.readNow va n k = k v bs

/-! ## Values that several statements name -/

/-- The quotient of 04 R81 and R82 of a width, signed: rounded toward zero, −1 by zero. -/
def quotS (a b : BitVec w) : BitVec w := if b = 0 then BitVec.ofInt w (-1) else BitVec.ofInt w (a.toInt.tdiv b.toInt)
/-- Unsigned: 2^n − 1 by zero. -/
def quotU (a b : BitVec w) : BitVec w := if b = 0 then BitVec.ofNat w (2 ^ w - 1) else BitVec.ofNat w (a.toNat / b.toNat)
/-- The remainder of 04 R81 and R82: with the sign of a; a itself by zero. -/
def restS (a b : BitVec w) : BitVec w := if b = 0 then a else BitVec.ofInt w (a.toInt.tmod b.toInt)
/-- Unsigned. -/
def restU (a b : BitVec w) : BitVec w := if b = 0 then a else BitVec.ofNat w (a.toNat % b.toNat)

end Sys2Proof.Safety
end

