-- ==== Sys2Proof/Certificates/Slice0/Obligations.lean ====
section
/-! DEFINITION. The statements for the provers, chapter by chapter of the spec. -/

open Sys2Proof Sys2Proof.Machine Sys2Proof.Safety

/-! ## Scalar integer instructions -/

/-- 04 R79: every form completes, on every operand, with the value of the rule in rd and nothing else changed; the
immediate forms, then the register forms. -/
def Obligations.IntegerArithmetic : Prop :=
  (∀ (s u : State) (m : SMark), issues s m u → ∀ (rd rs1 : Reg) (imm : BitVec 11) (sh : BitVec 6),
    completes (.addi m rd rs1 imm) s (fun t => writesOnly u t rd (u.x rs1 + imm.signExtend 64))
    ∧ completes (.slti m rd rs1 imm) s (fun t => writesOnly u t rd (if (u.x rs1).toInt < imm.toInt then 1 else 0))
    ∧ completes (.sltiu m rd rs1 imm) s
        (fun t => writesOnly u t rd (if (u.x rs1).toNat < (imm.signExtend 64).toNat then 1 else 0))
    ∧ completes (.andi m rd rs1 imm) s (fun t => writesOnly u t rd (u.x rs1 &&& imm.signExtend 64))
    ∧ completes (.ori m rd rs1 imm) s (fun t => writesOnly u t rd (u.x rs1 ||| imm.signExtend 64))
    ∧ completes (.xori m rd rs1 imm) s (fun t => writesOnly u t rd (u.x rs1 ^^^ imm.signExtend 64))
    ∧ completes (.addiw m rd rs1 imm) s
        (fun t => writesOnly u t rd (((u.x rs1 + imm.signExtend 64).extractLsb' 0 32).signExtend 64))
    ∧ completes (.slli m rd rs1 sh) s (fun t => writesOnly u t rd (u.x rs1 <<< sh.toNat))
    ∧ completes (.srli m rd rs1 sh) s (fun t => writesOnly u t rd (u.x rs1 >>> sh.toNat))
    ∧ completes (.srai m rd rs1 sh) s (fun t => writesOnly u t rd ((u.x rs1).sshiftRight sh.toNat)))
  ∧ (∀ (s u : State) (m : SMark), issues s m u → ∀ (rd rs1 rs2 : Reg),
    completes (.add m rd rs1 rs2) s (fun t => writesOnly u t rd (u.x rs1 + u.x rs2))
    ∧ completes (.sub m rd rs1 rs2) s (fun t => writesOnly u t rd (u.x rs1 - u.x rs2))
    ∧ completes (.and m rd rs1 rs2) s (fun t => writesOnly u t rd (u.x rs1 &&& u.x rs2))
    ∧ completes (.or m rd rs1 rs2) s (fun t => writesOnly u t rd (u.x rs1 ||| u.x rs2))
    ∧ completes (.xor m rd rs1 rs2) s (fun t => writesOnly u t rd (u.x rs1 ^^^ u.x rs2))
    ∧ completes (.sll m rd rs1 rs2) s (fun t => writesOnly u t rd (u.x rs1 <<< ((u.x rs2).extractLsb' 0 6).toNat))
    ∧ completes (.srl m rd rs1 rs2) s (fun t => writesOnly u t rd (u.x rs1 >>> ((u.x rs2).extractLsb' 0 6).toNat))
    ∧ completes (.sra m rd rs1 rs2) s
        (fun t => writesOnly u t rd ((u.x rs1).sshiftRight ((u.x rs2).extractLsb' 0 6).toNat))
    ∧ completes (.slt m rd rs1 rs2) s (fun t => writesOnly u t rd (if (u.x rs1).toInt < (u.x rs2).toInt then 1 else 0))
    ∧ completes (.sltu m rd rs1 rs2) s (fun t => writesOnly u t rd (if (u.x rs1).toNat < (u.x rs2).toNat then 1 else 0))
    ∧ completes (.min m rd rs1 rs2) s (fun t => ∃ v, writesOnly u t rd v ∧ v.toInt = min (u.x rs1).toInt (u.x rs2).toInt)
    ∧ completes (.max m rd rs1 rs2) s (fun t => ∃ v, writesOnly u t rd v ∧ v.toInt = max (u.x rs1).toInt (u.x rs2).toInt)
    ∧ completes (.minu m rd rs1 rs2) s (fun t => ∃ v, writesOnly u t rd v ∧ v.toNat = min (u.x rs1).toNat (u.x rs2).toNat)
    ∧ completes (.maxu m rd rs1 rs2) s (fun t => ∃ v, writesOnly u t rd v ∧ v.toNat = max (u.x rs1).toNat (u.x rs2).toNat)
    ∧ completes (.addw m rd rs1 rs2) s
        (fun t => writesOnly u t rd (((u.x rs1 + u.x rs2).extractLsb' 0 32).signExtend 64))
    ∧ completes (.subw m rd rs1 rs2) s
        (fun t => writesOnly u t rd (((u.x rs1 - u.x rs2).extractLsb' 0 32).signExtend 64))
    ∧ completes (.sllw m rd rs1 rs2) s
        (fun t => writesOnly u t rd (((u.x rs1).extractLsb' 0 32 <<< ((u.x rs2).extractLsb' 0 5).toNat).signExtend 64))
    ∧ completes (.srlw m rd rs1 rs2) s
        (fun t => writesOnly u t rd (((u.x rs1).extractLsb' 0 32 >>> ((u.x rs2).extractLsb' 0 5).toNat).signExtend 64))
    ∧ completes (.sraw m rd rs1 rs2) s
        (fun t => writesOnly u t rd ((((u.x rs1).extractLsb' 0 32).sshiftRight ((u.x rs2).extractLsb' 0 5).toNat).signExtend 64)))


/-- 04 R80: counts of bits, said by what they count, and extensions. -/
def Obligations.BitCountsAndExtensions : Prop :=
  ∀ (s u : State) (m : SMark), issues s m u → ∀ (rd rs1 : Reg),
    completes (.clz m rd rs1) s (fun t => ∃ n, n ≤ 64 ∧ writesOnly u t rd (BitVec.ofNat 64 n)
      ∧ (u.x rs1).toNat < 2 ^ (64 - n) ∧ (n < 64 → (u.x rs1).getLsbD (63 - n) = true))
    ∧ completes (.ctz m rd rs1) s (fun t => ∃ n, n ≤ 64 ∧ writesOnly u t rd (BitVec.ofNat 64 n)
      ∧ (u.x rs1).toNat % 2 ^ n = 0 ∧ (n < 64 → (u.x rs1).getLsbD n = true))
    ∧ completes (.popc m rd rs1) s
        (fun t => writesOnly u t rd (BitVec.ofNat 64 ((List.range 64).countP fun i => (u.x rs1).getLsbD i)))
    ∧ completes (.sextB m rd rs1) s (fun t => writesOnly u t rd (((u.x rs1).extractLsb' 0 8).signExtend 64))
    ∧ completes (.sextH m rd rs1) s (fun t => writesOnly u t rd (((u.x rs1).extractLsb' 0 16).signExtend 64))
    ∧ completes (.sextW m rd rs1) s (fun t => writesOnly u t rd (((u.x rs1).extractLsb' 0 32).signExtend 64))
    ∧ completes (.zextW m rd rs1) s (fun t => writesOnly u t rd (((u.x rs1).extractLsb' 0 32).setWidth 64))

/-- 04 R81, R82: products, quotients and remainders on every pair of operands, the boundary cases among them; no trap, no flag. -/
def Obligations.ProductsAndQuotients : Prop :=
  (∀ (s u : State) (m : SMark), issues s m u → ∀ (rd rs1 rs2 : Reg),
    completes (.mul m rd rs1 rs2) s (fun t => writesOnly u t rd (BitVec.ofNat 64 ((u.x rs1).toNat * (u.x rs2).toNat)))
    ∧ completes (.mulh m rd rs1 rs2) s
        (fun t => writesOnly u t rd ((BitVec.ofInt 128 ((u.x rs1).toInt * (u.x rs2).toInt)).extractLsb' 64 64))
    ∧ completes (.mulhu m rd rs1 rs2) s
        (fun t => writesOnly u t rd ((BitVec.ofNat 128 ((u.x rs1).toNat * (u.x rs2).toNat)).extractLsb' 64 64))
    ∧ completes (.mulw m rd rs1 rs2) s
        (fun t => writesOnly u t rd ((BitVec.ofNat 32 ((u.x rs1).toNat * (u.x rs2).toNat)).signExtend 64)))
  ∧ (∀ (s u : State) (m : SMark), issues s m u → ∀ (rd rs1 rs2 : Reg),
    let a := u.x rs1
    let b := u.x rs2
    let aw := a.extractLsb' 0 32
    let bw := b.extractLsb' 0 32
    completes (.div m rd rs1 rs2) s (fun t => writesOnly u t rd (quotS a b))
    ∧ completes (.divu m rd rs1 rs2) s (fun t => writesOnly u t rd (quotU a b))
    ∧ completes (.rem m rd rs1 rs2) s (fun t => writesOnly u t rd (restS a b))
    ∧ completes (.remu m rd rs1 rs2) s (fun t => writesOnly u t rd (restU a b))
    ∧ completes (.divW m rd rs1 rs2) s (fun t => writesOnly u t rd ((quotS aw bw).signExtend 64))
    ∧ completes (.divuW m rd rs1 rs2) s (fun t => writesOnly u t rd ((quotU aw bw).signExtend 64))
    ∧ completes (.remW m rd rs1 rs2) s (fun t => writesOnly u t rd ((restS aw bw).signExtend 64))
    ∧ completes (.remuW m rd rs1 rs2) s (fun t => writesOnly u t rd ((restU aw bw).signExtend 64)))


/-- 04 R83 and R85: upper immediates, and the jumps with their links; rs1 of JALR is read before the link is written. -/
def Obligations.UpperImmediatesAndJumps : Prop :=
  ∀ (s u : State) (m : SMark), issues s m u → ∀ (rd rs1 : Reg) (imm : BitVec 11) (up : BitVec 19),
    completes (.lui m rd up) s (fun t => writesOnly u t rd (up.signExtend 64 * 2048))
    ∧ completes (.auipc m rd up) s (fun t => writesOnly u t rd (u.pc + up.signExtend 64 * 2048))
    ∧ completes (.jal m rd up) s (fun t => writesTo (u.pc + up.signExtend 64 * 4) 0 u t rd (u.pc + 4))
    ∧ completes (.jalr m rd rs1 imm) s
        (fun t => writesTo ((u.x rs1 + imm.signExtend 64) &&& ~~~3) 0 u t rd (u.pc + 4))

/-- 04 R84: the branches set the program counter alone. -/
def Obligations.Branches : Prop :=
  ∀ (s u : State) (m : SMark), issues s m u → ∀ (rs1 rs2 : Reg) (imm : BitVec 11),
    let a := u.x rs1
    let b := u.x rs2
    let to' (c : Prop) [Decidable c] : Word := if c then u.pc + imm.signExtend 64 * 4 else u.pc + 4
    completes (.beq m rs1 rs2 imm) s (fun t => jumpsTo u t (to' (a = b)))
    ∧ completes (.bne m rs1 rs2 imm) s (fun t => jumpsTo u t (to' (a ≠ b)))
    ∧ completes (.blt m rs1 rs2 imm) s (fun t => jumpsTo u t (to' (a.toInt < b.toInt)))
    ∧ completes (.bge m rs1 rs2 imm) s (fun t => jumpsTo u t (to' (b.toInt ≤ a.toInt)))
    ∧ completes (.bltu m rs1 rs2 imm) s (fun t => jumpsTo u t (to' (a.toNat < b.toNat)))
    ∧ completes (.bgeu m rs1 rs2 imm) s (fun t => jumpsTo u t (to' (b.toNat ≤ a.toNat)))

/-! ## Scalar floating point -/

/-- 04 R86, 01 R14: an arithmetic instruction delivers the exact result rounded once by FRM.RM, with its flags and NV for
a signalling operand; FP32 reads bits 31:0 and clears bits 63:32. FMAC reads rd as well. 04 R86: division by zero, 0/0 and ∞/∞, the root of a negative value, and the invalid product of FMAC, in both
formats and every rounding mode. -/
def Obligations.FloatArithmetic : Prop :=
  (∀ (s u : State) (m : SMark), issues s m u → ∀ (p : Prec) (rd rs1 rs2 : Reg),
    let f := precFmt p
    let rm := RM.ofBits u.th.rm
    let a := u.fx p rs1
    let b := u.fx p rs2
    let c := u.fx p rd
    let put (ops : List Nat) (x : Exact × Flags) : State → Prop := fun t =>
      writesTo (u.pc + 4) ((if ops.any f.isSnan then flNV else 0) ||| x.2 ||| (f.round false rm x.1).2) u t rd
        (BitVec.ofNat 64 (f.round false rm x.1).1)
    completes (.fadd m p rd rs1 rs2) s (put [a, b] (Exact.add rm (f.decode a) (f.decode b)))
    ∧ completes (.fsub m p rd rs1 rs2) s (put [a, b] (Exact.add rm (f.decode a) (f.decode (f.flipSign b))))
    ∧ completes (.fmul m p rd rs1 rs2) s (put [a, b] (Exact.mul (f.decode a) (f.decode b)))
    ∧ completes (.fdiv m p rd rs1 rs2) s (put [a, b] (Exact.div (f.decode a) (f.decode b)))
    ∧ completes (.fsqrt m p rd rs1) s (put [a] (Exact.sqrt (f.decode a)))
    ∧ completes (.fmac m p rd rs1 rs2) s (put [a, b, c]
        ((Exact.add rm (f.decode c) (Exact.mul (f.decode a) (f.decode b)).1).1,
         (Exact.mul (f.decode a) (f.decode b)).2 ||| (Exact.add rm (f.decode c) (Exact.mul (f.decode a) (f.decode b)).1).2)))
  ∧ (∀ (p : Prec) (rm : RM) (a b c : Nat), a < 2 ^ (if p = .f32 then 32 else 64) → b < 2 ^ (if p = .f32 then 32 else 64) →
    let f := precFmt p
    let zero := fun x => f.magBits x = 0
    let finite := fun x => f.isNan x = false ∧ f.isInf x = false
    (finite a ∧ ¬ zero a ∧ zero b → f.div rm a b = (f.withSign (f.signBit a != f.signBit b) f.infCode, flDZ))
    ∧ ((zero a ∧ zero b) ∨ (f.isInf a = true ∧ f.isInf b = true) → f.div rm a b = (f.nanCode, flNV))
    ∧ (zero a → f.sqrt rm a = (f.withSign (f.signBit a) 0, 0))
    ∧ (finite a ∧ ¬ zero a ∧ f.signBit a = true → f.sqrt rm a = (f.nanCode, flNV))
    ∧ (zero a ∧ f.isInf b = true → (f.fma rm c a b).1 = f.nanCode ∧ (f.fma rm c a b).2 &&& flNV = flNV))


/-- 04 R87 to R90: minimum and maximum, comparisons, the class, the sign copies: values and flags. -/
def Obligations.FloatComparisonsAndSigns : Prop :=
  ∀ (s u : State) (m : SMark), issues s m u → ∀ (p : Prec) (rd rs1 rs2 : Reg),
    let f := precFmt p
    let a := u.fx p rs1
    let b := u.fx p rs2
    let isNan := f.isNan a || f.isNan b
    let quiet : Flags := if f.isSnan a || f.isSnan b then flNV else 0
    let put (fl : Flags) (v : Nat) : State → Prop := fun t => writesTo (u.pc + 4) fl u t rd (BitVec.ofNat 64 v)
    let less (x y : Nat) : Bool := (f.decode x).lt (f.decode y) || (f.magBits x == 0 && f.magBits y == 0 && f.signBit x && !f.signBit y)
    let pick (x y z : Nat) : Nat := if f.isNan a && f.isNan b then f.nanCode else if f.isNan a then y else if f.isNan b then x else z
    completes (.fmin m p rd rs1 rs2) s (put quiet (pick a b (if less b a then b else a)))
    ∧ completes (.fmax m p rd rs1 rs2) s (put quiet (pick a b (if less a b then b else a)))
    ∧ completes (.fcmpEq m p rd rs1 rs2) s
        (put quiet (if !isNan && !(f.decode a).lt (f.decode b) && !(f.decode b).lt (f.decode a) then 1 else 0))
    ∧ completes (.fcmpLt m p rd rs1 rs2) s (put (if isNan then flNV else 0) (if !isNan && (f.decode a).lt (f.decode b) then 1 else 0))
    ∧ completes (.fcmpLe m p rd rs1 rs2) s (put (if isNan then flNV else 0) (if !isNan && !(f.decode b).lt (f.decode a) then 1 else 0))
    ∧ completes (.fclass m p rd rs1) s (fun t => ∃ n, n < 10 ∧ put 0 (2 ^ n) t
        ∧ (n = 0 ↔ f.isInf a = true ∧ f.signBit a = true) ∧ (n = 7 ↔ f.isInf a = true ∧ f.signBit a = false)
        ∧ (n = 8 ↔ f.isSnan a = true) ∧ (n = 9 ↔ f.isNan a = true ∧ f.isSnan a = false)
        ∧ (n = 3 ↔ f.magBits a = 0 ∧ f.signBit a = true) ∧ (n = 4 ↔ f.magBits a = 0 ∧ f.signBit a = false)
        ∧ (n = 2 ∨ n = 5 ↔ 0 < f.magBits a ∧ f.magBits a < 2 ^ f.mb) ∧ (n = 1 ∨ n = 2 → f.signBit a = true)
        ∧ (n = 5 ∨ n = 6 → f.signBit a = false))
    ∧ completes (.fsgnj m p rd rs1 rs2) s (put 0 (f.withSign (f.signBit b) (f.magBits a)))
    ∧ completes (.fsgnjN m p rd rs1 rs2) s (put 0 (f.withSign (!f.signBit b) (f.magBits a)))
    ∧ completes (.fsgnjX m p rd rs1 rs2) s (put 0 (f.withSign (f.signBit a != f.signBit b) (f.magBits a)))

/-- 04 R91, 03 R71: the conversions by their codes; a conversion to an integer rounds first and saturates after, INT32
sign-extended, unsigned 32-bit zero-extended. -/
def Obligations.FloatConversions : Prop :=
  ∀ (s u : State) (m : SMark), issues s m u → ∀ (p : Prec) (rd rs1 : Reg),
    let f := precFmt p
    let g := otherFmt p
    let rm := RM.ofBits u.th.rm
    let a := u.x rs1
    let put (r : Nat × Flags) : State → Prop := fun t => writesTo (u.pc + 4) r.2 u t rd (BitVec.ofNat 64 r.1)
    let int (r : Int × Flags) : State → Prop := fun t => writesTo (u.pc + 4) r.2 u t rd (BitVec.ofInt 64 r.1)
    let src := f.decode (a.toNat % 2 ^ f.width)
    completes (.fcvt m p .fromOther rd rs1) s (put (g.convert f u.th.nanov rm (a.toNat % 2 ^ g.width)))
    ∧ completes (.fcvt m p .fromL rd rs1) s (put (f.round false rm (Exact.ofInt a.toInt)))
    ∧ completes (.fcvt m p .fromLU rd rs1) s (put (f.round false rm (Exact.ofInt a.toNat)))
    ∧ completes (.fcvt m p .fromW rd rs1) s (put (f.round false rm (Exact.ofInt (a.extractLsb' 0 32).toInt)))
    ∧ completes (.fcvt m p .fromWU rd rs1) s (put (f.round false rm (Exact.ofInt (a.extractLsb' 0 32).toNat)))
    ∧ completes (.fcvt m p .toL rd rs1) s (int (toInt rm (-2 ^ 63) (2 ^ 63 - 1) src))
    ∧ completes (.fcvt m p .toLU rd rs1) s (int (toInt rm 0 (2 ^ 64 - 1) src))
    ∧ completes (.fcvt m p .toW rd rs1) s (int (toInt rm (-2 ^ 31) (2 ^ 31 - 1) src))
    ∧ completes (.fcvt m p .toWU rd rs1) s (int (toInt rm 0 (2 ^ 32 - 1) src))

/-! ## Loads and stores -/

/-- 04 R92, R94, 01 R25: a load from the tile window completes at once with its bytes, extended by sign or zeros; an
out-of-range byte reads zero and is noted. -/
def Obligations.TileWindowLoads : Prop :=
  ∀ (s u : State) (m : SMark), issues s m u → ∀ (rd rs1 : Reg) (imm : BitVec 11),
    let a := u.x rs1 + imm.signExtend 64
    let off := a.toNat - tileBase
    let ok (n : Nat) : Prop := tileAccess u a n ∧ ∀ w, off / 8 ≤ w → w ≤ (off + n - 1) / 8 → nsMem w u.tile.poison = false
    let put (n : Nat) (v : Word) : State → Prop := fun t => writesTo (u.pc + 4) 0 (u.setTh (rangeNoted u.th off n)) t rd v
    let val (n : Nat) : Nat := leNat ((List.range n).map fun i => if off + i < storeSize then mget u.tile.store (off + i) else 0)
    (ok 1 → completes (.lb m rd rs1 imm) s (put 1 ((BitVec.ofNat 8 (val 1)).signExtend 64))
      ∧ completes (.lbu m rd rs1 imm) s (put 1 (BitVec.ofNat 64 (val 1))))
    ∧ (ok 2 → completes (.lh m rd rs1 imm) s (put 2 ((BitVec.ofNat 16 (val 2)).signExtend 64))
      ∧ completes (.lhu m rd rs1 imm) s (put 2 (BitVec.ofNat 64 (val 2))))
    ∧ (ok 4 → completes (.lw m rd rs1 imm) s (put 4 ((BitVec.ofNat 32 (val 4)).signExtend 64))
      ∧ completes (.lwu m rd rs1 imm) s (put 4 (BitVec.ofNat 64 (val 4))))
    ∧ (ok 8 → completes (.ld m rd rs1 imm) s (put 8 (BitVec.ofNat 64 (val 8))))

/-- 04 R92, R76, 01 R17: a load outside the tile window is of the remote class: it completes with its result outstanding,
no register changed; a load to x0 leaves nothing outstanding. -/
def Obligations.RemoteLoads : Prop :=
  ∀ (s u : State) (m : SMark), issues s m u → ∀ (rd rs1 : Reg) (imm : BitVec 11) (ps : List Piece),
    let a := u.x rs1 + imm.signExtend 64
    let put (n : Nat) (sx : Bool) : State → Prop := fun t => beganRead u t (rd != 0) (.x rd sx) a n none
    (reaches u needLoad a 1 ps → completes (.lb m rd rs1 imm) s (put 1 true) ∧ completes (.lbu m rd rs1 imm) s (put 1 false))
    ∧ (reaches u needLoad a 2 ps → completes (.lh m rd rs1 imm) s (put 2 true) ∧ completes (.lhu m rd rs1 imm) s (put 2 false))
    ∧ (reaches u needLoad a 4 ps → completes (.lw m rd rs1 imm) s (put 4 true) ∧ completes (.lwu m rd rs1 imm) s (put 4 false))
    ∧ (reaches u needLoad a 8 ps → completes (.ld m rd rs1 imm) s (put 8 false))

/-- 01 R17, 04 R94: where every outstanding result has arrived, none of them poisoned or dropped, an S-marked instruction
issues with all of them landed in order of issue: a register holds the last result for it, extended, and a register that
no result names holds what it held. -/
def Obligations.ResultsLand : Prop :=
  ∀ (s : State), (∀ r ∈ s.th.outs, r.arrived = true ∧ r.poison = false ∧ r.dropped = none) →
    ∃ u, issues s true u ∧ u.th.outs = []
      ∧ (∀ q : Reg, (∀ r ∈ s.th.outs, ∀ sx, r.dest ≠ .x q sx) → u.x q = s.x q)
      ∧ ∀ (pre post : List Remote) (r : Remote) (q : Reg) (sx : Bool), s.th.outs = pre ++ r :: post → r.dest = .x q sx → q ≠ 0 →
          (∀ p ∈ post, ∀ sx', p.dest ≠ .x q sx') →
          u.x q = extendBytes (leNat (r.bytes.map (·.getD 0))) r.bytes.length sx

/-- 04 R92, 01 R25, 06 R131: a store to the tile window writes its bytes and goes on; nothing else of the machine changes. One
that finds sixteen stores of the strand outstanding is held (04 R95). SREL of an aligned address does the same once what its agent
did before has performed at its scope (04 R97). -/
def Obligations.TileWindowStores : Prop :=
  ∀ (s u : State) (m : SMark), issues s m u → ∀ (rs1 rs2 : Reg) (imm : BitVec 11) (sc : Scope) (wd : Width),
    let a := u.x rs1 + imm.signExtend 64
    let low (n : Nat) : List Byte := leBytes (u.x rs2).toNat n
    let put (a : Word) (n : Nat) : State → Prop := fun t =>
      let v := u.setTh (rangeNoted u.th (a.toNat - tileBase) n)
      ∃ T, storedAt v.tile T (a.toNat - tileBase) (low n) ∧ t = wentOn (u.pc + 4) (v.putTile T)
        ∧ (∀ b, t.readAt b 1 = u.readAt b 1) ∧ ∀ k off, k ≠ u.curTile → (t.tileAt k).byte off = (u.tileAt k).byte off
    let ok (a : Word) (n : Nat) : Prop := tileAccess u a n ∧ u.storeFull = false
    (ok a 1 → completes (.sb m rs1 rs2 imm) s (put a 1))
    ∧ (ok a 2 → completes (.sh m rs1 rs2 imm) s (put a 2))
    ∧ (ok a 4 → completes (.sw m rs1 rs2 imm) s (put a 4))
    ∧ (ok a 8 → completes (.sd m rs1 rs2 imm) s (put a 8))
    ∧ (u.storeFull = true → (tileAccess u a 1 → exec (.sb m rs1 rs2 imm) s = .next u) ∧ (tileAccess u a 2 → exec (.sh m rs1 rs2 imm) s = .next u)
        ∧ (tileAccess u a 4 → exec (.sw m rs1 rs2 imm) s = .next u) ∧ (tileAccess u a 8 → exec (.sd m rs1 rs2 imm) s = .next u)
        ∧ (tileAccess u (u.x rs1) (widthBytes wd) → (u.x rs1).toNat % widthBytes wd = 0 → u.released u.th.outs u.src sc = true →
            exec (.srel m sc wd rs1 rs2) s = .next u))
    ∧ (ok (u.x rs1) (widthBytes wd) → (u.x rs1).toNat % widthBytes wd = 0 → u.released u.th.outs u.src sc = true →
        completes (.srel m sc wd rs1 rs2) s (put (u.x rs1) (widthBytes wd)))

/-- 04 R95, 13 R255: a store to global memory is posted: the agent goes on at once. Where it lies in one word whose line the
L1 holds, the L1 then holds that word Registered with those bytes and the
others as they were, and its registration travels; otherwise the bytes travel. Memory itself does not change yet. SREL of an aligned
address does the same once what its agent did before has performed at its scope (04 R97). A store to the store window is posted too,
and commits (01 R20). Of a store that lies across two words nothing is said here. -/
def Obligations.PostedStores : Prop :=
  ∀ (s u : State) (m : SMark), issues s m u → ∀ (rs1 rs2 : Reg) (imm : BitVec 11) (sc : Scope) (wd : Width) (pa : Nat) (sealed : Bool),
    let a := u.x rs1 + imm.signExtend 64
    let low (n : Nat) : List Byte := leBytes (u.x rs2).toNat n
    let ok (a : Word) (n : Nat) : Prop :=
      reaches u needStore a n [{ pos := 0, len := n, at' := .mem pa sealed }] ∧ accessRegion a.toNat n = .global
      ∧ u.storeFull = false ∧ pa % 8 + n ≤ 8
    let put (n : Nat) : State → Prop := fun t =>
      t.pc = u.pc + 4 ∧ { t.th with pc := u.th.pc } = u.th ∧ sameStrand u t ∧ sameVK u t ∧ t.ctx.written = u.ctx.written ∧ sameButTraffic u t
      ∧ (∀ w, w ≠ pa / 8 → sget w t.tile.l1 = sget w u.tile.l1)
      ∧ if u.tile.linePresent (pa / 128) = true then
          (∃ l, sget (pa / 8) t.tile.l1 = some l ∧ l.st = .registered
            ∧ (∀ i, i < n → l.bytes.getD (pa % 8 + i) 0 = (low n).getD i 0)
            ∧ ∀ l', sget (pa / 8) u.tile.l1 = some l' → ∀ i, i < 8 → i < pa % 8 ∨ pa % 8 + n ≤ i → l.bytes.getD i 0 = l'.bytes.getD i 0)
          ∧ t.flights = u.flights.map (Flight.stale u.curTile (pa / 8)) ++ [.regist u.src u.fresh (pa / 8)]
        else t.tile.l1 = u.tile.l1
          ∧ t.flights = u.flights.map (Flight.stale u.curTile (pa / 8)) ++ [.wdata u.src u.fresh (pa / 8) ((List.range n).map fun i => (pa % 8 + i, (low n).getD i 0)) false]
    (ok a 1 → completes (.sb m rs1 rs2 imm) s (put 1))
    ∧ (ok a 2 → completes (.sh m rs1 rs2 imm) s (put 2))
    ∧ (ok a 4 → completes (.sw m rs1 rs2 imm) s (put 4))
    ∧ (ok a 8 → completes (.sd m rs1 rs2 imm) s (put 8))
    ∧ (ok (u.x rs1) (widthBytes wd) → (u.x rs1).toNat % widthBytes wd = 0 → u.released u.th.outs u.src sc = true →
        completes (.srel m sc wd rs1 rs2) s (put (widthBytes wd)))
    ∧ ∀ ows rid off,
        let okW (a : Word) (n : Nat) : Prop :=
          reaches u needStore a n [{ pos := 0, len := n, at' := .win ows rid off }] ∧ accessRegion a.toNat n = .window ∧ u.storeFull = false
        let putW (n : Nat) : State → Prop := fun t => ∃ v, t = committedTo (u.pc + 4) v ∧ (∀ r, v.x r = u.x r) ∧ v.mem = u.mem
          ∧ v.tile.store = u.tile.store ∧ v.tile.l1 = u.tile.l1 ∧ v.flights = u.flights ++ [.winWrite u.src u.fresh ows rid off (low n) []]
        (okW a 1 → completes (.sb m rs1 rs2 imm) s (putW 1)) ∧ (okW a 2 → completes (.sh m rs1 rs2 imm) s (putW 2))
        ∧ (okW a 4 → completes (.sw m rs1 rs2 imm) s (putW 4)) ∧ (okW a 8 → completes (.sd m rs1 rs2 imm) s (putW 8))

/-- 04 R96, R98, 13 R258: an acquiring load is of the remote class in every region, its value sign-extended; from the tile
window its result has arrived at once, and at cluster scope or wider the L1 then holds Registered words and words of
sealed lines alone. One to x0 stays outstanding as well, which is the model's reading (log 19). PREF brings a line and changes no
architectural state. -/
def Obligations.AcquiresAndPrefetches : Prop :=
  ∀ (s u : State) (m : SMark), issues s m u → ∀ (rd rs1 : Reg) (imm : BitVec 11) (sc : Scope) (wd : Width) (l2 : Bool) (ps : List Piece),
    let a := u.x rs1
    let n := widthBytes wd
    let off := a.toNat - tileBase
    (reaches u needLoad a n ps → a.toNat % n = 0 →
      completes (.lacq m sc wd rd rs1) s (fun t => beganRead u t true (.x rd true) a n (some sc)))
    ∧ (tileAccess u a n → a.toNat % n = 0 → u.tile.poisoned off n = false →
        completes (.lacq m sc wd rd rs1) s (fun t =>
          beganRead (u.setTh (rangeNoted u.th off n)) t true (.x rd true) a n (some sc)
          ∧ (t.th.outs.getLast?.map (fun r => (r.bytes, r.poison))) = some ((u.tile.bytes off n).map some, false)
          ∧ t.tile.l1 = if wideScope sc then u.tile.l1.filter (fun e => e.2.st == .registered || e.2.sealed) else u.tile.l1))
    ∧ completes (.pref m l2 rs1 imm) s (fun t => jumpsTo { u with flights := t.flights, fresh := t.fresh, walks := t.walks, walkQ := t.walkQ } t (u.pc + 4)
        ∧ (t.flights = u.flights ∨ ∃ f, t.flights = u.flights ++ [f]))

/-- 04 R93, R99: the traps of an access, in the order of the checks, with nothing changed before the trap is taken:
ACCESS_FAULT outside every region, MISALIGNED for the instructions that need alignment, RANGE_LOCKED with the lowest entry
in TINFO, POISON at a tile-window load. -/
def Obligations.AccessTraps : Prop :=
  ∀ (s u : State) (m : SMark), issues s m u → accessFree u → ∀ (rd rs1 rs2 : Reg) (imm : BitVec 11) (sc : Scope) (wd : Width) (e : Nat),
    let a := u.x rs1 + imm.signExtend 64
    let n := widthBytes wd
    let trap (code : Byte) (addr info : Word) (r : Resume) : State :=
      u.takeTrap { code := code, tpc := u.pc, taddr := addr, tinfo := info, resume := r }
    (accessRegion a.toNat 8 = .unassigned →
      exec (.ld m rd rs1 imm) s = .next (trap 0x04 a 0 (.at u.pc)) ∧ exec (.sd m rs1 rs2 imm) s = .next (trap 0x04 a 0 (.at u.pc)))
    ∧ (accessRegion (u.x rs1).toNat n ≠ .unassigned → (u.x rs1).toNat % n ≠ 0 →
        exec (.lacq m sc wd rd rs1) s = .next (trap 0x07 (u.x rs1) 0 (.at u.pc))
        ∧ exec (.srel m sc wd rs1 rs2) s = .next (trap 0x07 (u.x rs1) 0 (.at u.pc)))
    ∧ (accessRegion a.toNat 8 = .tile → u.tile.lockHit [(a.toNat, 8)] = some e →
        exec (.ld m rd rs1 imm) s = .next (trap 0x08 a (BitVec.ofNat 64 e) (.at u.pc))
        ∧ exec (.sd m rs1 rs2 imm) s = .next (trap 0x08 a (BitVec.ofNat 64 e) (.at u.pc)))
    ∧ (tileAccess u a 8 → u.tile.poisoned (a.toNat - tileBase) 8 = true →
        exec (.ld m rd rs1 imm) s = .next (trap 0x09 a u.pc .region))

/-! ## System instructions and CSRs -/

/-- 05 R100, R101, 01 R16, 00 R6: CSRRD puts the CSR's value in rd and changes nothing else: of a context every CSR, of a
side core those that 06 R123 gives it. -/
def Obligations.CsrReads : Prop :=
  ∀ (s u : State) (m : SMark), issues s m u → u.tile.tensorBusy u.src = false → ∀ (rd : Reg),
    let get (n : BitVec 11) (v : Word) : Prop := completes (.csrrd m rd n) s (fun t => writesOnly u t rd v)
    let bit (b : Bool) : Nat := if b then 1 else 0
    let cp := u.th.cp
    let ctl (c : SideCore) : Word := BitVec.ofNat 64 (c.len.toNat
      + (match c.st with | .stopped => 0 | .loading => 1 | .running => 2 | .trapped => 3) * 2 ^ 20
      + c.tcode.toNat * 2 ^ 24 + c.spc.toNat * 2 ^ 32 + c.wsid.toNat * 2 ^ 48)
    get 0x001 (u.th.fflags.setWidth 64)
    ∧ get 0x002 (BitVec.ofNat 64 (u.th.rm.toNat + 8 * bit u.th.nanov))
    ∧ get 0x003 (BitVec.ofNat 64 (bit u.th.oorf)) ∧ get 0x004 u.th.oora
    ∧ get 0x020 (BitVec.ofNat 64 ((u.tile.queue 0).length + (u.tile.queue 1).length * 2 ^ 8
        + (u.tile.queue 2).length * 2 ^ 16 + (u.tile.queue 3).length * 2 ^ 24))
    ∧ get 0x050 cp.src ∧ get 0x051 cp.dst ∧ get 0x052 cp.len ∧ get 0x053 cp.opt ∧ get 0x056 cp.faddr
    ∧ get 0x055 (BitVec.ofNat 64 (cp.overrun.toNat + cp.fxid.toNat * 2 ^ 32 + cp.fcode.toNat * 2 ^ 48))
    ∧ get 0x060 u.tile.bfnStat
    ∧ get 0x7C0 0x1D7A ∧ get 0x7C1 0x0400_0A40 ∧ get 0x7C2 0x0100_0201
    ∧ get 0x7C3 (BitVec.ofNat 64 (u.idDies.toNat + u.idHbm.toNat * 2 ^ 4 + u.idCxl.toNat * 2 ^ 12 + u.idFab.toNat * 2 ^ 16
        + u.idNode.toNat * 2 ^ 32))
    ∧ get 0x7D0 (u.agePct.setWidth 64) ∧ get 0x7D1 (u.eolDays.setWidth 64)
    ∧ ∀ c : Fin 8, u.curAgent = .ctx c →
      get 0x005 (BitVec.ofNat 64 (c.val + u.ltidOf u.curTile % 4096 * 2 ^ 4 + u.ctx.wsid.toNat * 2 ^ 16 + u.ctx.domain.toNat * 2 ^ 28
        + u.ctx.prio.toNat * 2 ^ 36))
      ∧ get 0x006 (u.ctx.rgnpc &&& 0x00FF_FFFF_FFFF_FFFC) ∧ get 0x007 (u.ctx.trec &&& 0x00FF_FFFF_FFFF_FFC0)
      ∧ get 0x008 (u.ctx.runlimit.setWidth 64)
      ∧ get 0x021 (ctl u.tile.ldr) ∧ get 0x022 (ctl u.tile.str) ∧ get 0x023 u.tile.ldr.img ∧ get 0x024 u.tile.str.img
      ∧ (∀ z : BitVec 4, get (0x03#7 ++ z) (u.tile.panels.getD z.toNat .reset).cfg)
      ∧ get 0x040 0 ∧ get 0x070 (BitVec.ofNat 64 u.tick)
      ∧ get 0x080 (u.tile.dommem.setWidth 64) ∧ get 0x081 (u.ctx.gbtimeout.setWidth 64) ∧ get 0x082 (u.tile.xsidx.setWidth 64)
      ∧ get 0x083 (u.tile.xsEntry u.tile.xsidx.toNat) ∧ get 0x084 (u.tile.xstat.setWidth 64) ∧ get 0x090 0x1040_2020

/-- 05 R100, R16: the write forms read the CSR in full, form the new value, write it field by field and put the old value
in rd: FRM.RM refuses 5 to 7, OORF clears only on 0; CP_OPT and the image addresses keep the bits that are named, CP_STAT takes OVERRUN alone, and
BFNSTAT.DROP is cleared by 0 (06 R124, 09 R193, 10 R205). 05 R100, 00 R7: a write form that names a read-only CSR takes ILLEGAL, and so does any form that names no CSR, and in a side core
one that names a CSR of which 06 R123 does not give it the read or the write; TINFO
is the word, and execution resumes at the instruction. -/
def Obligations.CsrWrites : Prop :=
  (∀ (s u : State) (m : SMark), issues s m u → u.isCtx = true → u.tile.tensorBusy u.src = false → ∀ (f : CsrForm) (rd rs1 : Reg),
    let i (n : BitVec 11) : Instr := match f with
      | .wr => .csrwr m rd rs1 n
      | .set => .csrset m rd rs1 n
      | .clr => .csrclr m rd rs1 n
    let new (old : Word) : Word := match f with
      | .wr => u.x rs1
      | .set => old ||| u.x rs1
      | .clr => old &&& ~~~(u.x rs1)
    let put (old : Word) (v : State) : State → Prop := fun t => writesOnly v t rd old
    let frm : Word := BitVec.ofNat 64 (u.th.rm.toNat + 8 * (if u.th.nanov then 1 else 0))
    let oor : Word := if u.th.oorf then 1 else 0
    let stat (cp : CopyCsrs) : Word := BitVec.ofNat 64 (cp.overrun.toNat + cp.fxid.toNat * 2 ^ 32 + cp.fcode.toNat * 2 ^ 48)
    completes (i 0x001) s (put (u.th.fflags.setWidth 64) (u.setTh { u.th with fflags := (new (u.th.fflags.setWidth 64)).setWidth 7 }))
    ∧ completes (i 0x002) s (put frm (u.setTh { u.th with
        rm := if (new frm).toNat % 8 ≤ 4 then (new frm).setWidth 3 else u.th.rm, nanov := (new frm).getLsbD 3 }))
    ∧ completes (i 0x003) s (put oor (u.setTh { u.th with oorf := u.th.oorf && (new oor).getLsbD 0 }))
    ∧ completes (i 0x008) s (put (u.ctx.runlimit.setWidth 64) (u.setCtx { u.ctx with runlimit := (new (u.ctx.runlimit.setWidth 64)).setWidth 24 }))
    ∧ completes (i 0x081) s (put (u.ctx.gbtimeout.setWidth 64) (u.setCtx { u.ctx with gbtimeout := (new (u.ctx.gbtimeout.setWidth 64)).setWidth 32 }))
    ∧ completes (i 0x050) s (put u.th.cp.src (u.setTh { u.th with cp := { u.th.cp with src := new u.th.cp.src } }))
    ∧ completes (i 0x051) s (put u.th.cp.dst (u.setTh { u.th with cp := { u.th.cp with dst := new u.th.cp.dst } }))
    ∧ completes (i 0x052) s (put u.th.cp.len (u.setTh { u.th with cp := { u.th.cp with len := new u.th.cp.len &&& 0xFFFF_FFFF } }))
    ∧ completes (i 0x082) s (put (u.tile.xsidx.setWidth 64) (u.putTile { u.tile with xsidx := (new (u.tile.xsidx.setWidth 64)).setWidth 6 }))
    ∧ completes (i 0x053) s (put u.th.cp.opt (u.setTh { u.th with cp := { u.th.cp with opt := new u.th.cp.opt &&& 0x001F_FFFF_0000_03FF } }))
    ∧ completes (i 0x055) s (put (stat u.th.cp) (u.setTh { u.th with cp := { u.th.cp with overrun := (new (stat u.th.cp)).setWidth 32 } }))
    ∧ completes (i 0x060) s (put u.tile.bfnStat
        (if (new u.tile.bfnStat).extractLsb' 16 32 = 0 then u.putTile { u.tile with bfnDrop := 0 } else u))
    ∧ completes (i 0x023) s (put u.tile.ldr.img (u.putTile { u.tile with ldr := { u.tile.ldr with img := new u.tile.ldr.img &&& 0x00FF_FFFF_FFFF_FFFC } }))
    ∧ completes (i 0x024) s (put u.tile.str.img (u.putTile { u.tile with str := { u.tile.str with img := new u.tile.str.img &&& 0x00FF_FFFF_FFFF_FFFC } })))
  ∧ (∀ (s u : State) (m : SMark), issues s m u → ∀ (rd rs1 : Reg) (n : BitVec 11),
    let ill (i : Instr) : Prop := exec i s = .next (u.takeTrap
      { code := 0x01, tpc := u.pc, taddr := 0, tinfo := ((encode i).getD 0).setWidth 64, resume := .at u.pc })
    (n ∈ [0x004, 0x005, 0x006, 0x007, 0x020, 0x054, 0x056, 0x070, 0x080, 0x084, 0x090, 0x7C0, 0x7C1, 0x7C2, 0x7C3, 0x7D0, 0x7D1] →
      ill (.csrwr m rd rs1 n) ∧ ill (.csrset m rd rs1 n) ∧ ill (.csrclr m rd rs1 n))
    ∧ (u.isCtx = false → sideReads n.toNat = false → ill (.csrrd m rd n))
    ∧ (u.isCtx = false → sideWrites n.toNat = false →
        ill (.csrwr m rd rs1 n) ∧ ill (.csrset m rd rs1 n) ∧ ill (.csrclr m rd rs1 n))
    ∧ (csrExists n.toNat = false → ill (.csrrd m rd n) ∧ ill (.csrwr m rd rs1 n) ∧ ill (.csrset m rd rs1 n) ∧ ill (.csrclr m rd rs1 n)))


/-- The CSR writes that command a unit: TTINV (08 R165) drops the named entry of the workspace, or all of them; ZCFG takes
a legal configuration whole and keeps the old one otherwise (08 R163); XSDATA writes the entry that XSIDX names, at once or,
while a window is open, for the next one (15 R294); GO starts a side core that does not run, STOP stops one that does
(06 R125), whose faults of dropped sends not yet taken are recorded (10 R214). -/
def Obligations.CsrCommands : Prop :=
  ∀ (s u : State) (m : SMark), issues s m u → u.isCtx = true → ∀ (rd rs1 : Reg) (z : ZReg) (sd : Side),
    let v := u.x rs1
    let put (old : Word) (w : State) : State → Prop := fun t => writesOnly w t rd old
    let core := u.tile.side sd
    (u.storesOut u.src = false → completes (.ttinv m .wr rd rs1) s (fun t => ∃ old, put old
      (u.putTile { u.tile with tt := u.tile.tt.filter fun e => !(e.ws == u.ws && (v.getLsbD 63 || e.tid == v.setWidth 10)) }) t))
    ∧ ((cfgOf v).ok = false → completes (.zcfgWrite m .wr z rd rs1) s (put (u.tile.panels.getD z.toNat .reset).cfg u))
    ∧ ((cfgOf v).ok = true → completes (.zcfgWrite m .wr z rd rs1) s (fun t =>
        put (u.tile.panels.getD z.toNat .reset).cfg
          (u.putTile { u.tile with panels := u.tile.panels.setIfInBounds z.toNat ((u.tile.panels.getD z.toNat .reset).setCfg (cfgOf v)) }) t))
    ∧ (u.tile.xwin ≠ [] → completes (.xsdataWrite m .wr rd rs1) s (fun t => ∃ old, put old
        (u.putTile { u.tile with xnew := sset u.tile.xsidx.toNat (v &&& 0x87FF_FF7F_FFFF_FFFF) u.tile.xnew }) t))
    ∧ (u.tile.xwin = [] → v &&& 0x87FF_FF7F_FFFF_FFFF ≠ 0 → completes (.xsdataWrite m .wr rd rs1) s (fun t => ∃ old, put old
        (u.putTile { u.tile with xnew := sdel u.tile.xsidx.toNat u.tile.xnew,
                                 xsched := sset u.tile.xsidx.toNat (v &&& 0x87FF_FF7F_FFFF_FFFF) u.tile.xsched }) t))
    ∧ (v.getLsbD 17 = true → v.getLsbD 18 = false → core.st ≠ .loading → core.st ≠ .running → 4 ≤ (v.setWidth 17 : BitVec 17).toNat →
        completes (.sideCoreGo m sd .wr rd rs1) s (put core.ctl (u.putTile (u.tile.setSide sd
          { core with len := v.setWidth 17, wsid := u.ws, inc := core.inc + 1, st := .loading, goLen := v.setWidth 17, goImg := core.img, stall := none }))))
    ∧ (v.getLsbD 18 = true → core.st = .running →
        completes (.sideCoreStop m sd .wr rd rs1) s (put core.ctl ((u.sideLeft u.curTile sd).putTile ((u.sideLeft u.curTile sd).tile.setSide sd
          { core with len := v.setWidth 17, st := .stopped, stall := none, pending := none, th := { core.th with outs := [] },
                      spc := if core.th.pc.toNat < 0x1_0000 then BitVec.ofNat 16 core.th.pc.toNat else 0xFFFF }))))

/-- 09 R193 to R198, 08 R183: a read of CP_GO launches a copy: a channel that was idle runs it with the CSRs' values and, in
tensor mode, with both entries as they are now; rd names the copy, the next copy has another number. A copy of nothing is over
at once. A launch that is refused says the lowest reason in rd and starts nothing; with every channel busy that is 1, with an
entry that cannot be read 4. -/
def Obligations.CopyLaunch : Prop :=
  ∀ (s u w : State) (m : SMark) (rd : Reg) (es : Option (List Byte × List Byte)), issues s m u → accessFree u →
    u.released u.th.outs u.src .tile = true →
    (if opMode u.th.cp.opt then u.copyEntries u.ws (u.th.cp.src.setWidth 10) (u.th.cp.dst.setWidth 10) = .ok (w, es)
     else w = u ∧ es = none) →
    let cp := w.th.cp
    (∀ ch : Fin 4, w.tile.refuses cp es = none → w.tile.idleChan = some ch → completes (.cpGo m rd) s (fun t =>
      t.x rd = (if rd = 0 then 0 else BitVec.ofNat 64 (w.tile.nextXid.toNat + ch.val * 2 ^ 16)) ∧ sameX u t rd ∧ t.pc = u.pc + 4
      ∧ t.tile.nextXid = nextXid w.tile.nextXid
      ∧ t.tile.chans[ch].st = (if copyCount cp es = 0 then .posting else .running)
      ∧ (copyCount cp es = 0 → t.tile.chans[ch].status = 0)
      ∧ t.tile.chans[ch].xid = w.tile.nextXid ∧ t.tile.chans[ch].owner = u.src
      ∧ t.tile.chans[ch].srcA = cp.src ∧ t.tile.chans[ch].dstA = cp.dst ∧ t.tile.chans[ch].opt = cp.opt
      ∧ t.tile.chans[ch].srcE = (es.map (·.1)).getD [] ∧ t.tile.chans[ch].dstE = (es.map (·.2)).getD []
      ∧ (opMode cp.opt = false → t.tile.chans[ch].len = cp.len.toNat % 2 ^ 32)
      ∧ t.tile.chans[ch].len = copyCount cp es ∧ t.tile.chans[ch].next = 0 ∧ t.tile.chans[ch].inAir = 0
      ∧ ∀ c, c ≠ ch → t.tile.chans[c] = w.tile.chans[c]))
    ∧ (∀ r, w.tile.refuses cp es = some r → completes (.cpGo m rd) s (fun t =>
        t.x rd = (if rd = 0 then 0 else BitVec.ofNat 64 (2 ^ 63 + r * 2 ^ 60)) ∧ sameX u t rd ∧ t.pc = u.pc + 4 ∧ sameCore w t ∧ sameBytes w t))
    ∧ (w.tile.idleChan = none → w.tile.refuses cp es = some 1)
    ∧ (opMode cp.opt = true → es = none → ∃ r, w.tile.refuses cp es = some r ∧ r ≤ 4)

/-- 05 R108 to R110, R115: ECALL and EBREAK take their trap, with the service code in TINFO and the resumption after
themselves. Where nothing of the strand is outstanding, the context is freed at once; else it waits with the trap, and no byte of
the tile changes. 05 R116, R118: ERET and HALT wait for the strand's stores, and for room in the windows of its departures
(10 R214); then the context is free and, for ERET, the record that
the handler served is on its queue again. ERET outside a handler takes ILLEGAL. -/
def Obligations.TrapsAndReturns : Prop :=
  (∀ (s u : State) (m : SMark) (code : BitVec 11) (c : Fin 8), issues s m u → u.curAgent = .ctx c →
    let tr (n : Byte) : Trap := { code := n, tpc := u.pc, taddr := 0, tinfo := code.setWidth 64, resume := .at (u.pc + 4) }
    exec (.ecall m code) s = .next (u.takeTrap (tr 0x0A)) ∧ exec (.ebreak m code) s = .next (u.takeTrap (tr 0x0B))
    ∧ (u.quiet u.curTile c = true → completes (.ecall m code) s (fun t => t.tile.ctx[c].st = .free ∧ t.tile.ctx[c].wsid = 0 ∧ t.tile.run ≠ some c)
        ∧ completes (.ebreak m code) s (fun t => t.tile.ctx[c].st = .free ∧ t.tile.ctx[c].wsid = 0 ∧ t.tile.run ≠ some c))
    ∧ (u.quiet u.curTile c = false → completes (.ecall m code) s (fun t =>
        t.tile.ctx[c].st = .waiting .trap ∧ t.tile.ctx[c].pending = some (tr 0x0A) ∧ t.tile.run = none ∧ sameBytes u t)))
  ∧ (∀ (s u : State) (m : SMark) (c : Fin 8), issues s m u → u.curAgent = .ctx c →
    (u.storesOut u.src = true → exec (.halt m) s = .next (waitsFor .stores u) ∧ (u.ctx.trec ≠ 0 → exec (.eret m) s = .next (waitsFor .stores u)))
    ∧ (∀ w, u.storesOut u.src = false → u.departWait = some w →
        exec (.halt m) s = .next (waitsFor w u) ∧ (u.ctx.trec ≠ 0 → exec (.eret m) s = .next (waitsFor w u)))
    ∧ (u.storesOut u.src = false → u.departWait = none → completes (.halt m) s (fun t => t.tile.ctx[c].st = .free ∧ t.tile.run ≠ some c))
    ∧ (u.storesOut u.src = false → u.departWait = none → u.ctx.trec ≠ 0 → completes (.eret m) s (fun t => t.tile.ctx[c].st = .free ∧ t.tile.run ≠ some c
        ∧ ∃ d : Fin 4, ∃ e ∈ t.dies[d].resume, e.record = u.ctx.trec ∧ e.ws = u.ws))
    ∧ (u.ctx.trec = 0 → exec (.eret m) s = .next (u.takeTrap
        { code := 0x01, tpc := u.pc, taddr := 0, tinfo := ((encode (.eret m)).getD 0).setWidth 64, resume := .at u.pc })))


/-- 05 R117, R119, R102: WFI waits at its issue and completes at its re-issue; TLBSYNC drops the workspace's translations
and instruction lines of the tile; RGN and RGNV open a region at themselves with the declared live-ins. -/
def Obligations.WaitsSyncsAndRegions : Prop :=
  ∀ (s u : State) (m : SMark) (c : Fin 8), issues s m u → u.curAgent = .ctx c → ∀ (d : BitVec 23) (count : BitVec 18),
    ((u.ctx.released = true ∨ u.ctx.expired = true) → completes (.wfi m) s (fun t => jumpsTo u t (u.pc + 4)))
    ∧ (u.ctx.released = false → u.ctx.expired = false → exec (.wfi m) s = .next (waitsFor (.wfi u.tile.phases) u))
    ∧ (u.storesOut u.src = false → completes (.tlbsync m) s (fun t => jumpsTo (u.putTile { u.tile with
        tlb := u.tile.tlb.filter (fun e => e.2.ws != u.ws), icache := u.tile.icache.filter (fun e => e.ws != u.ws) }) t (u.pc + 4)))
    ∧ completes (.rgn m d) s (fun t => jumpsTo (u.setCtx { u.ctx with
        rgnpc := u.pc, written := .empty, live := { RegSet.empty with x := d.setWidth 32 <<< 1 } }) t (u.pc + 4))
    ∧ (∀ l pa, u.fetchLine ((u.pc &&& ~~~31) + count.signExtend 64 * 32).toNat = .ok (l, pa) →
        descOk ((l.bytes.drop (pa % 128)).take 32) = true →
        completes (.rgnv m count) s (fun t => jumpsTo (u.setCtx { u.ctx with
          rgnpc := u.pc, written := .empty, live := .ofBytes ((l.bytes.drop (pa % 128)).take 32) }) t (u.pc + 4)))

/-- 06 R128, R129: QPUSH appends to a queue with room once the agent's earlier accesses have performed; QPOP takes the
oldest entry; both commit. A full queue holds a context and stalls a side core, an empty one makes the agent wait; an agent
that is not the queue's pusher or popper takes ILLEGAL. -/
def Obligations.QueueRegisters : Prop :=
  ∀ (s u : State) (m : SMark), issues s m u → (∀ a b, u.tile.streams u.src a b = false) → ∀ (q : BitVec 2) (rd rs1 : Reg),
    let pushes := (u.isCtx = true ∧ q = 1) ∨ (u.curAgent = .loader ∧ q = 0) ∨ (u.curAgent = .storer ∧ q = 2)
    let pops := (u.isCtx = true ∧ (q = 0 ∨ q = 3)) ∨ (u.curAgent = .loader ∧ (q = 2 ∨ q = 3)) ∨ (u.curAgent = .storer ∧ (q = 1 ∨ q = 3))
    (pushes → (u.tile.queue q).length < 16 → u.released u.th.outs u.src .tile = true →
      completes (.qpush m q rs1) s (fun t => t = committedTo (u.pc + 4) (u.putTile (u.tile.setQueue q (u.tile.queue q ++ [u.x rs1])))))
    ∧ (pushes → 16 ≤ (u.tile.queue q).length → exec (.qpush m q rs1) s = .next (if u.isCtx then u else waitsFor (.room q) u))
    ∧ (∀ v r, pops → u.tile.queue q = v :: r →
        completes (.qpop m rd q) s (fun t => t = committedTo (u.pc + 4) ((u.putTile (u.tile.setQueue q r)).setX rd v)))
    ∧ (pops → u.tile.queue q = [] → exec (.qpop m rd q) s = .next (waitsFor (.queue q) u))
    ∧ (¬ pushes → exec (.qpush m q rs1) s = .next (u.takeTrap
        { code := 0x01, tpc := u.pc, taddr := 0, tinfo := ((encode (.qpush m q rs1)).getD 0).setWidth 64, resume := .at u.pc }))
    ∧ (¬ pops → exec (.qpop m rd q) s = .next (u.takeTrap
        { code := 0x01, tpc := u.pc, taddr := 0, tinfo := ((encode (.qpop m rd q)).getD 0).setWidth 64, resume := .at u.pc }))

/-! ## Weirs, tagged words, the mailbox -/

/-- 09 R187 to R190: the weir instructions on a weir in range: WINIT writes both words, WARR and WARRD apply one arrival
or one departure, WEXP adds to the expectation and returns the credit word, WWAIT and WWAITT complete where the phase
differs, or the release is recorded, and wait where it does not, WWAITT returns 1 past its limit before it looks at the phase
and at once where its limit is 0, WTEST returns the phase word; WJOIN and WLEAVE keep the strand's list. 09 R186: one thread arrival of n bytes at a weir that still expects arrivals: it counts, the bytes add up to the
saturating limit, and the weir completes exactly when the arrivals and the bytes expected are there: the phase flips, the
generation advances modulo 2^15, the arrivals start over, and the surplus of bytes is carried. At a weir that expects no more,
the bytes add up, EXCESS is set and nothing completes.
What a weir out of range does is not said here (log 33). -/
def Obligations.WeirInstructions : Prop :=
  (∀ (s u : State) (m : SMark), issues s m u → ∀ (rd rs1 rs2 : Reg), objectAt u (u.x rs1) 16 →
    let off := (u.x rs1).toNat - tileBase
    let v := noted u (u.x rs1) 16
    let n := (u.x rs2).toNat
    let w := u.tile.weir off
    let p := (u.x rs2).getLsbD 0
    let clean := u.tile.poisoned off 16 = false
    let rel := u.released u.th.outs u.src .tile = true
    off + 16 ≤ storeSize →
    (w.phase = false → completes (.winit m rs1 rs2) s (fun t => ∃ T,
        storedAt v.tile T off (leBytes (n % 2 ^ 16) 8 ++ leBytes (n / 2 ^ 32) 8) ∧ t = committedTo (u.pc + 4) (v.putTile T)))
    ∧ (w.phase = true → completes (.winit m rs1 rs2) s (fun t => t.pc = u.pc + 4 ∧ t.tile.weir off = Weir.ofWords (n % 2 ^ 16) (n / 2 ^ 32)))
    ∧ (rel → clean → u.joined off = none → completes (.warr m rs1 rs2) s
        (fun t => t = committedTo (u.pc + 4) (v.putTile (v.tile.weirEvent off (.thread (n % 2 ^ 32))))))
    ∧ (∀ i, rel → clean → u.joined off = some i → completes (.warr m rs1 rs2) s
        (fun t => t.pc = u.pc + 4 ∧ t.tile.weir off = (v.tile.weirEvent off (.thread (n % 2 ^ 32))).weir off
          ∧ t.ctx.joins = u.ctx.joins.setIfInBounds i (joinWord off (u.ltidOf u.curTile) true w.gen)))
    ∧ (rel → clean → u.joined off = none → completes (.warrd m rs1) s
        (fun t => t = committedTo (u.pc + 4) (v.putTile (v.tile.weirEvent off (.depart true)))))
    ∧ (∀ i, rel → clean → u.joined off = some i → completes (.warrd m rs1) s (fun t => t.pc = u.pc + 4
        ∧ t.ctx.joins = u.ctx.joins.setIfInBounds i 0
        ∧ t.tile.weir off = (v.tile.weirEvent off
            (.depart (!(joinArr (u.ctx.joins.getD i 0) && joinGen (u.ctx.joins.getD i 0) == w.gen)))).weir off))
    ∧ (clean → completes (.wexp m rd rs1 rs2) s (fun t =>
        t = committedTo (u.pc + 4) ((v.putTile (v.tile.putWeir off (w.expect (n % 2 ^ 32)).1)).setX rd (w.expect (n % 2 ^ 32)).2)))
    ∧ (clean → (v.marked = true ∨ w.phase ≠ p → completes (.wwait m rs1 rs2) s (fun t => t = wentOn (u.pc + 4) v))
        ∧ (v.marked = false → w.phase = p → exec (.wwait m rs1 rs2) s = .next (waitsFor (.phase off p false) v)))
    ∧ (clean → (v.limitPassed = true → completes (.wwaitt m rd rs1 rs2) s (fun t => t = wentOn (u.pc + 4) (v.setX rd 1)))
        ∧ (v.limitPassed = false → v.marked = true ∨ w.phase ≠ p →
            completes (.wwaitt m rd rs1 rs2) s (fun t => t = wentOn (u.pc + 4) (v.setX rd 0)))
        ∧ (v.limitPassed = false → v.marked = false → w.phase = p → n / 2 ^ 32 = 0 →
            completes (.wwaitt m rd rs1 rs2) s (fun t => t = wentOn (u.pc + 4) (v.setX rd 1)))
        ∧ (v.limitPassed = false → v.marked = false → w.phase = p → n / 2 ^ 32 ≠ 0 →
            exec (.wwaitt m rd rs1 rs2) s = .next (waitsFor (.phase off p true) v)))
    ∧ (clean → completes (.wtest m rd rs1) s (fun t => t = wentOn (u.pc + 4) (v.setX rd (phaseWord w (u.joined off).isSome))))
    ∧ (u.isCtx = true → u.joined off = none → ∀ i : Fin 4, u.ctx.joins[i].getLsbD 63 = false → (∀ j : Fin 4, j < i → u.ctx.joins[j].getLsbD 63 = true) →
        completes (.wjoin m rs1) s (fun t =>
          t = wentOn (u.pc + 4) (v.setCtx { v.ctx with joins := v.ctx.joins.set i (joinWord off (u.ltidOf u.curTile) false 0) })))
    ∧ (u.isCtx = false ∨ (u.joined off).isSome ∨ (∀ i : Fin 4, u.ctx.joins[i].getLsbD 63 = true) →
        completes (.wjoin m rs1) s (fun t => t = wentOn (u.pc + 4) v))
    ∧ (u.joined off = none → completes (.wleave m rs1) s (fun t => t = wentOn (u.pc + 4) v))
    ∧ (∀ i, u.joined off = some i →
        completes (.wleave m rs1) s (fun t => t = wentOn (u.pc + 4) (v.setCtx { v.ctx with joins := v.ctx.joins.setIfInBounds i 0 }))))
  ∧ (∀ (w : Weir) (n : Nat),
    let b := min (w.arrb + n) (2 ^ 32 - 1)
    let r := w.apply (.thread n)
    (w.arra < w.expa → w.arra + 1 = w.expa ∧ w.expb ≤ b → r.phase = !w.phase ∧ r.gen = (w.gen + 1) % 2 ^ 15 ∧ r.arra = 0 ∧ r.arrb = b - w.expb ∧ r.expb = 0
      ∧ r.expa = w.expa - w.depart ∧ r.depart = 0 ∧ r.carry = (b - w.expb != 0) ∧ r.zero = (w.expa - w.depart == 0) ∧ r.excess = w.excess)
    ∧ (w.arra < w.expa → ¬ (w.arra + 1 = w.expa ∧ w.expb ≤ b) → r = { w with arra := w.arra + 1, arrb := b, bsat := w.bsat || decide (2 ^ 32 ≤ w.arrb + n) })
    ∧ (w.expa ≤ w.arra → r = { w with arrb := b, bsat := w.bsat || decide (2 ^ 32 ≤ w.arrb + n), excess := true }))


/-- 09 R191: loads and stores of tagged words: LDF reads a full word, LDFF empties it too, STE fills an empty word, STF fills
any, TGSET and TGCLR set and clear the tag; where the tag is the other one LDF, LDFF and STE wait. -/
def Obligations.TaggedWords : Prop :=
  ∀ (s u : State) (m : SMark), issues s m u → ∀ (rd rs1 rs2 : Reg) (imm : BitVec 11),
    let a := u.x rs1 + imm.signExtend 64
    objectAt u a 8 → u.tile.poisoned (a.toNat - tileBase) 8 = false → a.toNat - tileBase < storeSize →
    let off := a.toNat - tileBase
    let v := noted u a 8
    let full := nsMem (off / 8) u.tile.full
    let val : Word := BitVec.ofNat 64 (leNat ((List.range 8).map fun i => u.tile.byte (off + i)))
    let rel := u.released u.th.outs u.src .tile = true
    let tagged (T : Tile) (b : Bool) : Tile := { T with full := if b then nsAdd (off / 8) T.full else nsDel (off / 8) T.full }
    (full = true → completes (.ldf m rd rs1 imm) s (fun t => t = wentOn (u.pc + 4) (v.setX rd val))
      ∧ completes (.ldff m rd rs1 imm) s (fun t => t = committedTo (u.pc + 4) ((v.putTile (tagged v.tile false)).setX rd val)))
    ∧ (full = false → exec (.ldf m rd rs1 imm) s = .next (waitsFor (.tag off true) v)
      ∧ exec (.ldff m rd rs1 imm) s = .next (waitsFor (.tag off true) v))
    ∧ (rel → full = false → completes (.ste m rs1 rs2 imm) s (fun t => ∃ T, storedAt v.tile T off (leBytes (u.x rs2).toNat 8)
        ∧ t = committedTo (u.pc + 4) (v.putTile (tagged T true))))
    ∧ (rel → full = true → exec (.ste m rs1 rs2 imm) s = .next (waitsFor (.tag off false) v))
    ∧ (rel → completes (.stf m rs1 rs2 imm) s (fun t => ∃ T, storedAt v.tile T off (leBytes (u.x rs2).toNat 8)
        ∧ t = committedTo (u.pc + 4) (v.putTile (tagged T true))))
    ∧ (rel → completes (.tgset m rs1 imm) s (fun t => t = committedTo (u.pc + 4) (v.putTile (tagged v.tile true))))
    ∧ completes (.tgclr m rs1 imm) s (fun t => t = committedTo (u.pc + 4) (v.putTile (tagged v.tile false)))

/-- 09 R192, 06 R134: MRECV takes the oldest message that its agent may take, MPEEK only shows it: its 16 bytes go to the
tile store, rd gets the kind and how many there are, with x0 no bytes are stored; without one rd is 0. MWAIT completes where
there is one and waits where there is none. -/
def Obligations.Mailbox : Prop :=
  ∀ (s u : State) (m : SMark), issues s m u → (∀ a b, u.tile.streams u.src a b = false) → ∀ (rd : Reg),
    let mine := fun (x : BitVec 128) => x.toNat / 2 ^ 8 % 2 ^ 8 == agentCode u.curAgent || x.toNat / 2 ^ 8 % 2 ^ 8 == 0xFF
    (∀ x pre post, u.tile.mail = pre ++ x :: post → pre.all (fun y => !mine y) = true → mine x = true →
      let n := post.filter mine
      completes (.mpeek m rd 0) s (fun t => t = wentOn (u.pc + 4) ((u.putTile u.tile).setX rd
          (BitVec.ofNat 64 (x.toNat % 2 ^ 8 + (n.length + 1) % 2 ^ 7 * 2 ^ 8))))
      ∧ (x.toNat % 2 ^ 8 ≠ 1 → completes (.mrecv m rd 0) s (fun t =>
          t = committedTo (u.pc + 4) ((u.putTile { u.tile with mail := pre ++ post }).setX rd (BitVec.ofNat 64 (x.toNat % 2 ^ 8 + n.length % 2 ^ 7 * 2 ^ 8)))))
      ∧ completes (.mrecv m rd 0) s (fun t => t.tile.mail = pre ++ post ∧ t.pc = u.pc + 4
          ∧ t.x rd = (if rd = 0 then 0 else BitVec.ofNat 64 (x.toNat % 2 ^ 8 + n.length % 2 ^ 7 * 2 ^ 8)) ∧ sameX u t rd)
      ∧ (∀ rs1 : Reg, rs1 ≠ 0 → tileAccess u (u.x rs1) 16 → (u.x rs1).toNat % 8 = 0 → completes (.mpeek m rd rs1) s (fun t =>
          t.tile.mail = u.tile.mail ∧ t.pc = u.pc + 4
          ∧ t.x rd = (if rd = 0 then 0 else BitVec.ofNat 64 (x.toNat % 2 ^ 8 + (n.length + 1) % 2 ^ 7 * 2 ^ 8)) ∧ sameX u t rd
          ∧ ∀ i, (u.x rs1).toNat - tileBase + i < storeSize → i < 16 → t.tile.byte ((u.x rs1).toNat - tileBase + i) = BitVec.ofNat 8 (x.toNat / 256 ^ i)))
      ∧ (∀ rs1 : Reg, rs1 ≠ 0 → tileAccess u (u.x rs1) 16 → (u.x rs1).toNat % 8 = 0 → completes (.mrecv m rd rs1) s (fun t =>
          t.tile.mail = pre ++ post ∧ t.pc = u.pc + 4
          ∧ t.x rd = (if rd = 0 then 0 else BitVec.ofNat 64 (x.toNat % 2 ^ 8 + n.length % 2 ^ 7 * 2 ^ 8)) ∧ sameX u t rd
          ∧ ∀ i, (u.x rs1).toNat - tileBase + i < storeSize → i < 16 → t.tile.byte ((u.x rs1).toNat - tileBase + i) = BitVec.ofNat 8 (x.toNat / 256 ^ i)))
      ∧ completes (.mwait m) s (fun t => jumpsTo u t (u.pc + 4)))
    ∧ (u.tile.mail.all (fun y => !mine y) = true → completes (.mrecv m rd 0) s (fun t => writesOnly u t rd 0)
        ∧ completes (.mpeek m rd 0) s (fun t => writesOnly u t rd 0)
        ∧ exec (.mwait m) s = .next (waitsFor .message u))

/-! ## Atomics, bank functions, fences -/

/-- 10 R200 to R204: an atomic of tile scope reads the word at the tile's bank update unit, commits and goes on: its result is
outstanding, and x0 leaves nothing outstanding; while another one is open on its word it is held. At the unit's later step the
store gets the operation's value, unless AMOCAS does not find what it compares with or the word is poisoned, and the result
for rd is the old value; no other byte of a store changes.
That the unit's write is a step of its own is the model's cut (log 7). -/
def Obligations.TileAtomics : Prop :=
  (∀ (s u : State) (m : SMark), issues s m u → ∀ (dw : Bool) (p : Prec) (rd rs1 rs2 : Reg),
    let a := u.x rs1
    let off := a.toNat - tileBase
    let n := if dw then 8 else 4
    let nf := if p = .f32 then 4 else 8
    let ok (i : Instr) (n : Nat) (sx : Bool) (k : AtomKind) : Prop :=
      (objectAt u a n → u.bankBusy u.curTile off n = true → exec i s = .next u)
      ∧ (objectAt u a n → u.bankBusy u.curTile off n = false → completes i s (fun t =>
        let v := { noted u a n with fresh := u.fresh + 1 }
        let w := if rd = 0 then v else v.setTh { v.th with outs := u.th.outs ++ [
          { tag := u.fresh, dest := .x rd sx, pc := u.pc, addr := a, bytes := List.replicate n none, poison := false, dropped := none, acquire := none }] }
        t = committedTo (u.pc + 4) { w with flights := u.flights ++ [.bankAtom u.src
          { kind := k, n := n, b := (u.x rs2).toNat % 2 ^ (8 * n), cmp := (u.x rd).toNat % 2 ^ (8 * n), sc := .tile, va := a.toNat,
            tag := u.fresh, keep := rd != 0 } off (leNat ((List.range n).map fun i => u.tile.byte (off + i))) (u.tile.poisoned off n)] }))
    ok (.amoadd m .tile dw rd rs1 rs2) n true .add ∧ ok (.amoand m .tile dw rd rs1 rs2) n true .and
    ∧ ok (.amoor m .tile dw rd rs1 rs2) n true .or ∧ ok (.amoxor m .tile dw rd rs1 rs2) n true .xor
    ∧ ok (.amomin m .tile dw rd rs1 rs2) n true .min ∧ ok (.amomax m .tile dw rd rs1 rs2) n true .max
    ∧ ok (.amominu m .tile dw rd rs1 rs2) n true .minu ∧ ok (.amomaxu m .tile dw rd rs1 rs2) n true .maxu
    ∧ ok (.amoswp m .tile dw rd rs1 rs2) n true .swp ∧ ok (.amocas m .tile dw rd rs1 rs2) n true .cas
    ∧ ok (.amofadd m .tile p rd rs1 rs2) nf false .fadd)
  ∧ ∀ (s : State) (k : Nat) (src : Src) (o : AtomOp) (off old : Nat) (poison : Bool),
    s.flights[k]? = some (.bankAtom src o off old poison) →
    let sgn (a : Nat) : Int := (BitVec.ofNat (8 * o.n) a).toInt
    let new : Nat := match o.kind with
      | .add => (old + o.b) % 2 ^ (8 * o.n)
      | .and => old &&& o.b | .or => old ||| o.b | .xor => old ^^^ o.b
      | .min => if sgn old ≤ sgn o.b then old else o.b
      | .max => if sgn o.b ≤ sgn old then old else o.b
      | .minu => min old o.b | .maxu => max old o.b
      | .swp | .cas => o.b
      | .fadd => ((if o.n = 4 then fp32 else fp64).add .ne old o.b).1
    let writes : Prop := poison = false ∧ (o.kind = .cas → old = o.cmp)
    completes (.storeRegistration k) s (fun t =>
      (∀ i, (t.tileAt src.tile).byte i =
        if writes ∧ off ≤ i ∧ i < off + o.n ∧ i < storeSize then (leBytes new o.n).getD (i - off) 0 else (s.tileAt src.tile).byte i)
      ∧ (∀ n i, n ≠ src.tile → (t.tileAt n).byte i = (s.tileAt n).byte i)
      ∧ (o.keep = true → t.flights.length + 1 = s.flights.length
        ∧ ((t.tileAt src.tile).thread src.agent).outs = ((s.tileAt src.tile).thread src.agent).outs.map fun r =>
            if r.tag = o.tag then r.fill 0 (leBytes old o.n) poison else r))

/-- 10 R200 to R202, R204: an atomic of cluster, die, package or system scope outside the tile window commits and goes on: its result is
outstanding, x0 leaves nothing outstanding, and it travels to its place. At the home slice, in HBM that the slice holds, it reads the
latest bytes, unless another atomic is open on them, and at a later step it writes the operation's value, unless AMOCAS does not
find what it compares with or a word read was poisoned; the answer brings the old value, and no other byte of memory changes.
That the read and the write are two steps is the model's cut (log 7). -/
def Obligations.WideAtomics : Prop :=
  (∀ (s u : State) (m : SMark), issues s m u → ∀ (dw : Bool) (p : Prec) (sc : Scope) (rd rs1 rs2 : Reg) (piece : Piece), sc ≠ .tile →
    let a := u.x rs1
    let n := if dw then 8 else 4
    let nf := if p = .f32 then 4 else 8
    let ok (i : Instr) (n : Nat) (sx : Bool) (k : AtomKind) : Prop :=
      reaches u needAtomic a n [piece] → a.toNat % n = 0 → (∀ q pa, piece.at' ≠ .node q pa) →
      completes i s (fun t => ∃ v, t = committedTo (u.pc + 4) v ∧ (∀ r, v.x r = u.x r) ∧ v.mem = u.mem ∧ v.tile.store = u.tile.store
        ∧ v.th.outs = u.th.outs ++ (if rd = 0 then [] else [
            { tag := u.fresh, dest := .x rd sx, pc := u.pc, addr := a, bytes := List.replicate n none, poison := false, dropped := none, acquire := none }])
        ∧ let o : AtomOp := { kind := k, n := n, b := (u.x rs2).toNat % 2 ^ (8 * n), cmp := (u.x rd).toNat % 2 ^ (8 * n), sc := sc, va := a.toNat,
                              tag := u.fresh, keep := rd != 0 }
          ∃ before f, v.flights = before ++ [f] ∧ before.length = u.flights.length ∧ match piece.at' with
            | .mem pa _ => f = .atom u.src o pa none
            | .win ows rid off => f = .winAtom u.src o ows rid off none
            | .node .. => False)
    ok (.amoadd m sc dw rd rs1 rs2) n true .add ∧ ok (.amoand m sc dw rd rs1 rs2) n true .and
    ∧ ok (.amoor m sc dw rd rs1 rs2) n true .or ∧ ok (.amoxor m sc dw rd rs1 rs2) n true .xor
    ∧ ok (.amomin m sc dw rd rs1 rs2) n true .min ∧ ok (.amomax m sc dw rd rs1 rs2) n true .max
    ∧ ok (.amominu m sc dw rd rs1 rs2) n true .minu ∧ ok (.amomaxu m sc dw rd rs1 rs2) n true .maxu
    ∧ ok (.amoswp m sc dw rd rs1 rs2) n true .swp ∧ ok (.amocas m sc dw rd rs1 rs2) n true .cas
    ∧ ok (.amofadd m sc p rd rs1 rs2) nf false .fadd)
  ∧ ∀ (s : State) (k : Nat) (src : Src) (o : AtomOp) (pa : Nat),
    let w := pa / 8
    Mem.wf s.mem = true → (o.sc = .die ∨ o.sc = .pkg) → (o.n = 4 ∨ o.n = 8) → pa % o.n = 0 →
    (∀ b, b < 8 → isHbm (8 * w + b) = true ∧ backed s (8 * w + b) = true) → (s.fullService = false ∨ s.l2Has (pa / 128) = true) →
    sget w s.reg = none → s.sealedTrace (pa / 128) = false → s.inOrder k src [w] = true → s.hostGate [2, o.tag] (sectorsOf pa o.n) true = none →
    (s.flights[k]? = some (.atom src o pa none) →
      (s.spotBusy (.slice pa) o.n = false → completes (.storeRegistration k) s (fun t => t.mem = s.mem
        ∧ t.flights = s.flights.set k (.atom src o pa (some (leNat (s.readAt pa o.n).1, (s.readAt pa o.n).2)))))
      ∧ (s.spotBusy (.slice pa) o.n = true → completes (.storeRegistration k) s (fun t => t.mem = s.mem ∧ t.flights = s.flights)))
    ∧ ∀ old poison, s.flights[k]? = some (.atom src o pa (some (old, poison))) →
      let sgn (a : Nat) : Int := (BitVec.ofNat (8 * o.n) a).toInt
      let new : Nat := match o.kind with
        | .add => (old + o.b) % 2 ^ (8 * o.n)
        | .and => old &&& o.b | .or => old ||| o.b | .xor => old ^^^ o.b
        | .min => if sgn old ≤ sgn o.b then old else o.b
        | .max => if sgn o.b ≤ sgn old then old else o.b
        | .minu => min old o.b | .maxu => max old o.b
        | .swp | .cas => o.b
        | .fadd => ((if o.n = 4 then fp32 else fp64).add .ne old o.b).1
      (o.keep = true ∨ poison = false) → completes (.storeRegistration k) s (fun t =>
        (t.readAt pa o.n).1 = (if poison = false ∧ (o.kind = .cas → old = o.cmp) then leBytes new o.n else (s.readAt pa o.n).1)
        ∧ (∀ b, b < pa ∨ pa + o.n ≤ b → (t.readAt b 1).1 = (s.readAt b 1).1)
        ∧ t.flights.length + (if o.keep = true then 0 else 1) = s.flights.length
        ∧ (o.keep = true → Flight.answer src o.tag (leBytes old o.n) poison ∈ t.flights))

/-- 10 R205 to R207, R210: BFNLD writes a slot or empties it, a malformed descriptor takes ILLEGAL; BUPD sends its update; an
update of one step on INT32 or UINT32 gives the old element and the operand combined: sum, difference, minimum, maximum, AND, OR and
XOR. -/
def Obligations.BankFunctions : Prop :=
  ∀ (s u : State) (m : SMark), issues s m u → ∀ (slot : BitVec 3) (rs1 rs2 : Reg),
    let d := u.x rs1
    (d.getLsbD 3 = false → completes (.bfnld m slot rs1) s (fun t => t = wentOn (u.pc + 4)
        (u.putTile { u.tile with bfn := u.tile.bfn.set slot.toNat none slot.isLt })))
    ∧ (d.getLsbD 3 = true → bfMalformed d = false → completes (.bfnld m slot rs1) s (fun t => t = wentOn (u.pc + 4)
        (u.putTile { u.tile with bfn := u.tile.bfn.set slot.toNat (some d) slot.isLt })))
    ∧ (d.getLsbD 3 = true → bfMalformed d = true → exec (.bfnld m slot rs1) s = .next (u.takeTrap
        { code := 0x01, tpc := u.pc, taddr := 0, tinfo := ((encode (.bfnld m slot rs1)).getD 0).setWidth 64, resume := .at u.pc }))
    ∧ (accessFree u → taBad (u.x rs1) = false → taOff (u.x rs1) < storeSize → u.tile.hasRoom (taLtid (u.x rs1)) = true →
        completes (.bupd m slot rs1 rs2) s (fun t => t = committedTo (u.pc + 4)
          (u.sendMsg u.curTile (taLtid (u.x rs1)) u.src u.pc (u.x rs1) (.bupd (taOff (u.x rs1)) slot (u.x rs2)))))
    ∧ ∀ (T : Tile) (off op ty : Nat) (b : Word), op ∈ [1, 2, 3, 4, 5, 6, 7] → ty ≤ 1 → off % 4 = 0 → off + 4 ≤ storeSize →
        T.bfn[slot.toNat]'slot.isLt = some (BitVec.ofNat 64 (ty + 8 + op * 2 ^ 8)) →
        let a := T.natAt off 4
        let c := b.toNat % 2 ^ 32
        let below (x y : Nat) : Bool := if ty = 0 then decide ((BitVec.ofNat 32 x).toInt ≤ (BitVec.ofNat 32 y).toInt) else decide (x ≤ y)
        (T.bankUpdate off slot b).natAt off 4 = (match op with
          | 1 => (a + c) % 2 ^ 32 | 2 => (a + 2 ^ 32 - c) % 2 ^ 32 | 3 => if below a c then a else c | 4 => if below c a then a else c
          | 5 => a &&& c | 6 => a ||| c | _ => a ^^^ c)

/-- 10 R208, R209, 13 R258: a FENCE completes once its predecessors have performed and waits before; with r among its
successors at cluster scope or wider the L1 then holds only Registered words and words of sealed lines. FENCE.E
completes at once.
That a FENCE holds its agent until its predecessors have performed is the model's reading (log 45). -/
def Obligations.Fences : Prop :=
  ∀ (s u : State) (m : SMark), issues s m u → ∀ (sc : Scope) (pred succ : FenceSet),
    (u.fenced u.th.outs u.src sc pred = false → exec (.fence m sc pred succ) s = .next (waitsFor (.fence sc pred) u))
    ∧ (u.fenced u.th.outs u.src sc pred = true → (wideScope sc && succ.r) = false →
        completes (.fence m sc pred succ) s (fun t => jumpsTo u t (u.pc + 4)))
    ∧ (u.fenced u.th.outs u.src sc pred = true → (wideScope sc && succ.r) = true →
        completes (.fence m sc pred succ) s (fun t => t.pc = u.pc + 4 ∧ (∀ r, t.x r = u.x r) ∧ t.mem = u.mem
          ∧ t.tile.l1 = u.tile.l1.filter (fun e => e.2.st == .registered || e.2.sealed)))
    ∧ completes (.fenceE m sc) s (fun t => t = wentOn (u.pc + 4) (u.setTh { u.th with fenceE := u.th.fenceE + 1 }))

/-! ## Messages between tiles and furrows -/

/-- 10 R210 to R214: PUT, GET and NOTIFY enter one message in the replay window of the named tile, under the next number,
and commit (GET leaves its result outstanding and does not); with no room there they wait. A bad tile address takes
ACCESS_FAULT, a misaligned offset MISALIGNED; nothing is sent for an offset out of range, which is noted, and such a GET
brings zeros. -/
def Obligations.SendingMessages : Prop :=
  ∀ (s u : State) (m : SMark), issues s m u → u.isCtx = true → accessFree u → ∀ (wd : Width) (rd rs1 rs2 : Reg),
    let a := u.x rs1
    let n := widthBytes wd
    let dst := a.toNat / 2 ^ 24 % 2 ^ 12
    let off := a.toNat % 2 ^ 21
    let good := taBad a = false ∧ off % n = 0 ∧ off < storeSize
    let room := u.tile.hasRoom dst = true
    let entered (t : State) (b : MsgBody) : Prop :=
      (t.tile.window dst).msgs = (u.tile.window dst).msgs ++ [{ src := u.src, pc := u.pc, addr := a, seq := (u.tile.window dst).next, first := u.tick, body := b }]
      ∧ (t.tile.window dst).next = (u.tile.window dst).next + 1 ∧ (∀ d, d ≠ dst → t.tile.window d = u.tile.window d)
      ∧ t.pc = u.pc + 4 ∧ (∀ r, t.x r = u.x r) ∧ t.mem = u.mem ∧ t.tile.store = u.tile.store
    (good → room → completes (.put m wd rs1 rs2) s (fun t => entered t (.put off (leBytes (u.x rs2).toNat n)) ∧ t.ctx.rgnpc = u.pc + 4))
    ∧ (good → room → completes (.get m wd rd rs1) s (fun t => entered t (.get off n u.fresh) ∧ t.ctx.rgnpc = u.ctx.rgnpc
        ∧ t.th.outs.map resultKey = u.th.outs.map resultKey ++ (if rd = 0 then [] else [(u.fresh, .x rd true, u.pc, a, n, none)])))
    ∧ (∀ c, notifyCtx a = some c → u.notifyReady u.th.outs u.src dst = true → room →
        completes (.notify m rs1 rs2) s (fun t => entered t (.notify c (u.ltidOf u.curTile) (agentCode u.curAgent) (u.x rs2)) ∧ t.ctx.rgnpc = u.pc + 4))
    ∧ (taBad a = true → exec (.put m wd rs1 rs2) s = .next (u.takeTrap
          { code := 0x04, tpc := u.pc, taddr := a, tinfo := 0, resume := .at u.pc })
        ∧ exec (.get m wd rd rs1) s = .next (u.takeTrap { code := 0x04, tpc := u.pc, taddr := a, tinfo := 0, resume := .at u.pc }))
    ∧ (taBad a = false → off % n ≠ 0 → exec (.put m wd rs1 rs2) s = .next (u.takeTrap
          { code := 0x07, tpc := u.pc, taddr := a, tinfo := 0, resume := .at u.pc })
        ∧ exec (.get m wd rd rs1) s = .next (u.takeTrap { code := 0x07, tpc := u.pc, taddr := a, tinfo := 0, resume := .at u.pc }))
    ∧ (taBad a = false → off % n = 0 → storeSize ≤ off →
        completes (.put m wd rs1 rs2) s (fun t => t.tile.windows = u.tile.windows ∧ t.flights = u.flights ∧ t.th.oorf = true
          ∧ t.pc = u.pc + 4 ∧ t.ctx.rgnpc = u.pc + 4)
        ∧ completes (.get m wd rd rs1) s (fun t => t.tile.windows = u.tile.windows ∧ t.flights = u.flights ∧ t.th.oorf = true
          ∧ t.pc = u.pc + 4
          ∧ t.th.outs = u.th.outs ++ (if rd = 0 then [] else [
              { tag := u.fresh, dest := .x rd true, pc := u.pc, addr := a, bytes := List.replicate n (some 0), poison := false, dropped := none, acquire := none }])))
    ∧ (notifyCtx a = none → exec (.notify m rs1 rs2) s = .next (u.takeTrap
          { code := 0x04, tpc := u.pc, taddr := a, tinfo := 0, resume := .at u.pc }))
    ∧ (∀ c, notifyCtx a = some c → u.notifyReady u.th.outs u.src dst = false →
        exec (.notify m rs1 rs2) s = .next (waitsFor (.notify (BitVec.ofNat 12 dst)) u))
    ∧ (good → ¬ room → exec (.put m wd rs1 rs2) s = .next (waitsFor (.window (BitVec.ofNat 12 dst)) u)
        ∧ exec (.get m wd rd rs1) s = .next (waitsFor (.window (BitVec.ofNat 12 dst)) u))

/-- 10 R215 to R218, 01 R20: FOPEN opens both endpoints with the depth as credit and answers the source endpoint by a reply,
or why not; FSEND on an open source with credit sends its datum, takes a credit and commits, as it does whatever it
returns; FRECV writes the oldest datum, returns a credit and takes it from the buffer; a severed source answers its status and is
free, a severed sink answers it and keeps its data, which later FRECVs take before the endpoint is free; a closed end answers its
status and is free; with no credit, or nothing to receive, the strand waits; FCLOSE frees the endpoint; an endpoint that is
not open answers 3.
The order of FOPEN's checks is the model's reading (log 46). -/
def Obligations.Furrows : Prop :=
  ∀ (s u : State) (m : SMark), issues s m u → u.isCtx = true → accessFree u → ∀ (rd rs1 rs2 : Reg),
    let a := u.x rs1
    let ep : Fin 4 := ⟨a.toNat % 4, by omega⟩
    let l := a.toNat % 2 ^ 12
    let k := (u.role l).ptile.toNat
    let sep : Fin 4 := ⟨a.toNat / 2 ^ 12 % 4, by omega⟩
    let good := a.toNat / 2 ^ 14 = 0 ∧ u.x rs2 ≠ 0 ∧ (u.x rs2).toNat ≤ 256
    let held := u.heldFurrow u.ws l (BitVec.ofNat 2 sep.val)
    let bound := (u.role l).v = true ∧ (u.role l).role = 0
    let replies (v : Word) : Prop := completes (.fopen m rd rs1 rs2) s (fun t => t = waitsFor .reply (wentOn (u.pc + 4)
      { u.owes rd with flights := u.flights ++ [.reply u.src rd v] }))
    (∀ e : Fin 4, good → bound → held = none → (u.tileAt k).fsink[sep] = none → u.tile.fsrc[e] = none →
      (∀ j : Fin 4, j < e → u.tile.fsrc[j] ≠ none) → (∀ r ∈ u.routersOn u.curTile k, (u.role (u.ltidOf r)).cstate.toNat < 2) →
      completes (.fopen m rd rs1 rs2) s (fun t => t.pc = u.pc + 4 ∧ t.flights = u.flights ++ [.reply u.src rd (BitVec.ofNat 64 e.val)]
        ∧ t.tile.fsrc[e] = some { fid := u.fresh, ws := u.ws, sinkTile := k, sinkLtid := BitVec.ofNat 12 l, sinkEp := BitVec.ofNat 2 sep.val,
                                  credit := (u.x rs2).toNat, accepted := 0, severed := false, closed := false }
        ∧ (t.tileAt k).fsink[sep] = some { fid := u.fresh, ws := u.ws, srcTile := u.curTile, srcEp := BitVec.ofNat 2 e.val,
                                           depth := (u.x rs2).toNat, buf := [], severed := false, drained := false, closed := false }))
    ∧ (¬ good → replies (4 * 2 ^ 8)) ∧ (∀ e, good → held = some e → replies (BitVec.ofNat 64 e.val))
    ∧ (good → held = none → ¬ bound → replies (2 * 2 ^ 8))
    ∧ (good → held = none → bound → (u.tileAt k).fsink[sep] ≠ none → replies (1 * 2 ^ 8))
    ∧ (good → held = none → bound → (u.tileAt k).fsink[sep] = none → (∀ e : Fin 4, u.tile.fsrc[e] ≠ none) → replies (3 * 2 ^ 8))
    ∧ (∀ f, u.tile.fsrc[ep] = some f → f.ws = u.ws →
        let open' := f.severed = false ∧ f.closed = false
        let freed (v : Word) : Prop := completes (.fsend m rd rs1 rs2) s (fun t => t.x rd = (if rd = 0 then 0 else v) ∧ sameX u t rd
          ∧ t.pc = u.pc + 4 ∧ t.ctx.rgnpc = u.pc + 4 ∧ t.tile.fsrc[ep] = none ∧ t.flights = u.flights)
        let rel := u.released u.th.outs u.src (tileScope u.curTile f.sinkTile) = true
        (open' → 0 < f.credit → rel → completes (.fsend m rd rs1 rs2) s (fun t => t.x rd = 0 ∧ sameX u t rd ∧ t.pc = u.pc + 4
          ∧ t.ctx.rgnpc = u.pc + 4 ∧ t.tile.fsrc[ep] = some { f with credit := f.credit - 1 }
          ∧ ∃ w, t.flights = u.flights ++ [.fdatum u.src f.fid f.sinkTile f.sinkEp (some (u.x rs2)) w] ∧ w.bad = []
              ∧ w.path = u.route u.curTile f.sinkTile))
        ∧ (open' → f.credit = 0 → rel → exec (.fsend m rd rs1 rs2) s = .next (waitsFor (.credit (BitVec.ofNat 2 ep.val)) u))
        ∧ (f.severed = true → freed (BitVec.ofNat 64 (1 + f.accepted % 2 ^ 32 * 2 ^ 32)))
        ∧ (f.severed = false → f.closed = true → freed 2))
    ∧ (∀ f v rest, u.tile.fsink[ep] = some f → f.ws = u.ws → f.severed = false → f.buf = v :: rest → objectAt u (u.x rs2) 8 →
        (u.x rs2).toNat - tileBase < storeSize →
        completes (.frecv m rd rs1 rs2) s (fun t => t.x rd = 0 ∧ sameX u t rd ∧ t.pc = u.pc + 4 ∧ t.ctx.rgnpc = u.pc + 4
          ∧ t.tile.fsink[ep] = some { f with buf := rest }
          ∧ (∃ before, t.flights = before ++ [.fcredit f.fid f.srcTile f.srcEp] ∧ before.length = u.flights.length)
          ∧ nsMem (((u.x rs2).toNat - tileBase) / 8) t.tile.poison = v.2
          ∧ (∀ i, i < 8 → t.tile.byte ((u.x rs2).toNat - tileBase + i) = BitVec.ofNat 8 (v.1.toNat / 256 ^ i))))
    ∧ (∀ f, u.tile.fsink[ep] = some f → f.ws = u.ws → f.severed = true → completes (.frecv m rd rs1 rs2) s (fun t =>
        t.x rd = (if rd = 0 then 0 else BitVec.ofNat 64 (1 + f.buf.length % 256 * 2 ^ 8)) ∧ sameX u t rd ∧ t.pc = u.pc + 4
        ∧ t.tile.fsink[ep] = some { f with severed := false, drained := true }))
    ∧ (∀ f, u.tile.fsink[ep] = some f → f.ws = u.ws → f.severed = false → f.buf = [] →
        (f.closed = true → completes (.frecv m rd rs1 rs2) s (fun t =>
          t.x rd = (if rd = 0 then 0 else 2) ∧ sameX u t rd ∧ t.pc = u.pc + 4 ∧ t.tile.fsink[ep] = none))
        ∧ (f.closed = false → f.drained = true → u.flights.any (Flight.ofFurrow f.fid) = false → completes (.frecv m rd rs1 rs2) s (fun t =>
          t.x rd = (if rd = 0 then 0 else 3) ∧ sameX u t rd ∧ t.pc = u.pc + 4 ∧ t.tile.fsink[ep] = none))
        ∧ (f.closed = false → f.drained = false → exec (.frecv m rd rs1 rs2) s = .next (waitsFor (.datum (BitVec.ofNat 2 ep.val)) u)))
    ∧ (u.tile.fsrc[ep] = none → completes (.fsend m rd rs1 rs2) s (fun t => t = committedTo (u.pc + 4) (u.setX rd 3)))
    ∧ (u.tile.fsink[ep] = none → completes (.frecv m rd rs1 rs2) s (fun t => writesOnly u t rd 3))
    ∧ (a.getLsbD 8 = true → u.tile.fsink[ep] = none → completes (.fclose m rd rs1 rs2) s (fun t => writesOnly u t rd 3))
    ∧ (a.getLsbD 8 = false → u.tile.fsrc[ep] = none → completes (.fclose m rd rs1 rs2) s (fun t => writesOnly u t rd 3))
    ∧ (∀ f, a.getLsbD 8 = true → u.tile.fsink[ep] = some f → f.ws = u.ws →
        completes (.fclose m rd rs1 rs2) s (fun t => t.x rd = 0 ∧ t.pc = u.pc + 4 ∧ t.tile.fsink[ep] = none))
    ∧ (∀ f, a.getLsbD 8 = false → u.tile.fsrc[ep] = some f → f.ws = u.ws →
        completes (.fclose m rd rs1 rs2) s (fun t => t.x rd = 0 ∧ t.pc = u.pc + 4 ∧ t.tile.fsrc[ep] = none))

/-! ## The scheduler's instructions, barriers, copies -/

/-- 15 R279, R284, R285, R287 to R289, 02 R28: ENQ, DEPDEC, RCLAIM and RSPLIT are requests: they commit, and their context waits for
the reply that brings the status of the queue's, the counter's or the range's step; RSPLIT of a range that does not split brings bit 63
alone. 15 R283, R286: SUSP goes on with 1 where its counter does not take the record; else it saves the strand 16 bytes past the counter
and frees the context, or waits for a frame. 15 R279: a queue that is closed or full refuses and stays as it is; an open one that is neither takes a good packet with
status 0; a packet its sender may not send is refused as bad.
How a range splits, and that a record stands 16 bytes past its counter whatever its alignment, are the model's readings (log 37, log 82). -/
def Obligations.SchedulerRequests : Prop :=
  (∀ (s u : State) (m : SMark) (c : Fin 8), issues s m u → u.curAgent = .ctx c → accessFree u → ∀ (rd rs1 rs2 : Reg),
    let waiting (w : State) (v : Word) : State → Prop := fun t => t = waitsFor .reply (committedTo (w.pc + 4)
      { w.owes rd with flights := w.flights ++ [.reply w.src rd v] })
    let here (a : Nat) (n : Nat) (need : Need) : Prop :=
      accessRegion a n = .global ∧ ∃ ps, u.engRun u.agentEng need a n = .ok ps ∧ ∀ p ∈ ps, ∀ a k pa, p.1 ≠ EPlace.node a k pa
    let a := (u.x rs1).toNat
    let head := leNat ((List.range 16).map fun i => u.tile.byte ((u.x rs2).toNat - tileBase + i))
    let bytes := (List.range (pkBytes head)).map fun i => u.tile.byte ((u.x rs2).toNat - tileBase + i)
    let near (w : State) (n : Nat) : Prop := ∀ d, w.packetRegion (u.x rs2) n d = d
    let nearQ := ∀ k, u.fabPlace u.ws.toNat a ≠ .node k
    (∀ v h w p, nearQ → near u 32 → readsNow u (u.x rs2).toNat 32 v h → near v (pkBytes (leNat (h.take 16))) →
      readsNow v (u.x rs2).toNat (pkBytes (leNat (h.take 16))) w p → w.released w.th.outs w.src .pkg = true →
      completes (.enq m rd rs1 rs2) s (waiting (w.enqueueAs (pkWsid (pktHead p) != w.ws.toNat) w.ws (u.x rs1) p).1
        (BitVec.ofNat 64 (w.enqueueAs (pkWsid (pktHead p) != w.ws.toNat) w.ws (u.x rs1) p).2)))
    ∧ (∀ k, accessRegion a 64 = .global → u.fabPlace u.ws.toNat a = .node k → exec (.enq m rd rs1 rs2) s = .next (u.takeTrap
        { code := 0x04, tpc := u.pc, taddr := u.x rs1, tinfo := 0, resume := .at u.pc }))
    ∧ (nearQ → tileBase ≤ (u.x rs2).toNat → (u.x rs2).toNat - tileBase + 256 ≤ storeSize → u.tile.locks = [] → u.tile.poison = [] →
      u.released u.th.outs u.src .pkg = true →
      completes (.enq m rd rs1 rs2) s (fun t => ∃ w : State, { w with tiles := u.tiles } = u ∧ (∀ n, w.tileAt n = u.tileAt n)
        ∧ waiting ((w.enqueueAs (pkWsid (pktHead bytes) != u.ws.toNat) u.ws (u.x rs1) bytes).1)
            (BitVec.ofNat 64 (w.enqueueAs (pkWsid (pktHead bytes) != u.ws.toNat) u.ws (u.x rs1) bytes).2) t))
    ∧ (here a 16 needAtomic → a % 16 = 0 → u.released u.th.outs u.src .pkg = true →
        completes (.depdec m rd rs1) s (waiting (u.signal (u.ltidOf u.curTile) u.ws (u.x rs1)).1
          (BitVec.ofNat 64 (u.signal (u.ltidOf u.curTile) u.ws (u.x rs1)).2)))
    ∧ (here a 32 needAtomic → a % 32 = 0 →
        completes (.rclaim m rd rs1 rs2) s (waiting (u.rangeClaim u.ws (u.x rs1) (u.x rs2)).1 (u.rangeClaim u.ws (u.x rs1) (u.x rs2)).2)
        ∧ (u.rangeSplit u.ws (u.x rs1) ((u.x rs2).toNat % 2 ^ 16) (u.rangeQueue u.ws (u.x rs1) ((u.x rs2).toNat % 2 ^ 16)) = none →
            completes (.rsplit m rd rs1 rs2) s (waiting (u.vsee u.ws.toNat a 32) 0x8000_0000_0000_0000))
        ∧ ∀ w j, u.rangeSplit u.ws (u.x rs1) ((u.x rs2).toNat % 2 ^ 16) (u.rangeQueue u.ws (u.x rs1) ((u.x rs2).toNat % 2 ^ 16)) = some (w, j) →
            completes (.rsplit m rd rs1 rs2) s (waiting w (BitVec.ofNat 64 j)))
    ∧ (here a 16 needAtomic → a % 16 = 0 → here (u.x rs1 + 16).toNat 64 needStore →
        let w0 := (u.vnat u.ws.toNat a 8).getD 0
        (w0 / 2 ^ 33 % 2 = 0 ∨ w0 / 2 ^ 34 % 2 = 1 → completes (.susp m rd rs1) s (fun t => t = committedTo (u.pc + 4) ((u.vsee u.ws.toNat a 8).setX rd 1)))
        ∧ (w0 / 2 ^ 33 % 2 = 1 → w0 / 2 ^ 34 % 2 = 0 → u.storesOut u.src = false → u.tile.tensorBusy u.src = false →
            let v := u.setX rd 0
            let sv := (v.setCtx { v.ctx with recAddr := u.x rs1 + 16 }).saveStrand u.curTile c (v.ctx.suspSave 3) .suspend
            ((v.ctx.suspSave 3).needsFrame = false → sv.2 = .done)
            ∧ (sv.2 = .done → completes (.susp m rd rs1) s (fun t => t.tile.ctx[c].st = .free ∧ t.tile.run ≠ some c))
            ∧ ∀ y, sv.2 = .lack y → completes (.susp m rd rs1) s (fun t => t.tile.ctx[c].st = .waiting .frame
                ∧ t.tile.ctx[c].th = u.ctx.th ∧ t.tile.ctx[c].recAddr = u.ctx.recAddr ∧ t.tile.run = none))))
  ∧ (∀ (s : State) (bad : Bool) (ws : Wsid) (q : Word) (p : List Byte) (h : QHead), s.qHead ws.toNat q.toNat = some h → h.bad = false →
    (h.state = 1 → s.enqueueAs bad ws q p = (s.vsee ws.toNat q.toNat 64, 2))
    ∧ (h.state = 0 → bad = false → s.pktBad p h.ws = false → s.wsValid (pkWsid (pktHead p)) = true →
        qCount h = 2 ^ h.log2n → s.enqueueAs bad ws q p = (s.vsee ws.toNat q.toNat 64, 1))
    ∧ (h.state = 0 → bad = true → (s.enqueueAs bad ws q p).2 = 4)
    ∧ (∀ s1, h.state = 0 → bad = false → s.pktBad p h.ws = false → s.wsValid (pkWsid (pktHead p)) = true → qCount h ≠ 2 ^ h.log2n →
        s.vwrite ws.toNat (q.toNat + 64 + 256 * (h.tail % 2 ^ h.log2n)) (p.take (pkBytes (pktHead p))) = .ok s1 →
        (s.enqueueAs bad ws q p).2 = 0))


/-- 15 R285, R286: TDONE, once the streams of its context are over, its stores acknowledged and the windows of its
departures have room, ends the strand: the context is free and the strand's successors are signalled; YIELD frees the context
and leaves its record on a resume list, a save that needs no frame always does, and one that finds no frame waits for
one. -/
def Obligations.StrandEnds : Prop :=
  ∀ (s u : State) (m : SMark) (c : Fin 8), issues s m u → u.curAgent = .ctx c →
    let drained := u.tile.streams u.src true true = false ∧ u.storesOut u.src = false
    (u.tile.streams u.src true true = true → u.streamWalks u.curTile = false → exec (.tdone m) s = .next u)
    ∧ (u.tile.streams u.src true true = true → u.streamWalks u.curTile = true → exec (.tdone m) s = .next (waitsFor .stream u))
    ∧ (u.tile.streams u.src true true = false → u.storesOut u.src = true → exec (.tdone m) s = .next (waitsFor .stores u))
    ∧ (∀ w, drained → u.departWait = some w → exec (.tdone m) s = .next (waitsFor w u))
    ∧ (drained → u.departWait = none → completes (.tdone m) s (fun t => t.tile.ctx[c].st = .free ∧ t.tile.run ≠ some c))
    ∧ (∀ e, drained → u.ctx.trec = 0 → u.ctx.joins = Vector.replicate 4 0 → u.strand u.ws u.ctx.recAddr = some e →
        e.work = .plain → e.reserve = 0 → completes (.tdone m) s (fun t => t.signals = u.signals ++ e.succ.map (fun x => { counter := x, ws := e.ws, ltid := u.ltidOf u.curTile })
          ∧ t.strand u.ws u.ctx.recAddr = none))
    ∧ (u.storesOut u.src = false → u.tile.tensorBusy u.src = false → 
        let sv := u.saveStrand u.curTile c (u.ctx.suspSave 4) .suspend
        ((u.ctx.suspSave 4).needsFrame = false → sv.2 = .done)
        ∧ (sv.2 = .done → completes (.yield m) s (fun t => t.tile.ctx[c].st = .free ∧ t.tile.run ≠ some c
          ∧ ∃ d : Fin 4, ∃ r ∈ t.dies[d].resume, r.record = u.ctx.recAddr ∧ r.ws = u.ws ∧ r.prio = u.ctx.prio))
        ∧ ∀ y, sv.2 = .lack y → completes (.yield m) s (fun t => t.tile.ctx[c].st = .waiting .frame
            ∧ t.tile.ctx[c].th = u.ctx.th ∧ t.tile.run = none))

/-- 15 R290, R292, R293: GBAR and VOTE of a strand that is no member change nothing; a member arrives once what it has sent
and stored has performed, waits until it has, and waits where it has arrived already.
GBWAIT returns 2 to a strand that is no member, 1 after its limit, then the last release, with an acquire, where the tile has
none to wait for, and waits otherwise.
That GBWAIT before any release returns 0 is the model's reading (log 47). -/
def Obligations.GridBarriers : Prop :=
  ∀ (s u : State) (m : SMark) (c : Fin 8), issues s m u → u.curAgent = .ctx c → ∀ (ch : BitVec 3) (op : VoteOp) (rd rs1 : Reg),
    let member := u.tile.dommem.getLsbD ch.toNat = true ∧ u.ctx.gang = true
    let die := if ch = 7 then 0 else u.curTile / 256
    let there (t : State) (votes : List (VoteOp × Nat)) : Prop := t.pc = u.pc + 4 ∧ (∀ r, t.x r = u.x r)
      ∧ t.tile.arrived = u.tile.arrived ||| (1#8 <<< ch.toNat) ∧ (t.chan die ch).votes = (u.chan die ch).votes ++ votes
      ∧ u.curTile ∈ (t.chan die ch).arrived
    (¬ member → completes (.gbar m ch) s (fun t => jumpsTo u t (u.pc + 4)) ∧ completes (.vote m op ch rs1) s (fun t => jumpsTo u t (u.pc + 4))
      ∧ completes (.gbwait m rd ch) s (fun t => writesOnly u t rd 2))
    ∧ (member → u.tile.arrived.getLsbD ch.toNat = false → u.gathered u.src ch = false →
        exec (.gbar m ch) s = .next (waitsFor (.gather ch none) u)
        ∧ exec (.vote m op ch rs1) s = .next (waitsFor (.gather ch (some (op, (u.x rs1).toNat % 2 ^ 16))) u))
    ∧ (member → u.curTile < 1024 → u.tile.arrived.getLsbD ch.toNat = false → u.gathered u.src ch = true →
        completes (.gbar m ch) s (fun t => there t []) ∧ completes (.vote m op ch rs1) s (fun t => there t [(op, (u.x rs1).toNat % 2 ^ 16)]))
    ∧ (member → u.tile.arrived.getLsbD ch.toNat = true → exec (.gbar m ch) s = .next (waitsFor (.arrive ch none) u)
        ∧ exec (.vote m op ch rs1) s = .next (waitsFor (.arrive ch (some (op, (u.x rs1).toNat % 2 ^ 16))) u))
    ∧ (member → u.ctx.expired = true → completes (.gbwait m rd ch) s (fun t => writesOnly u t rd 1))
    ∧ (member → u.ctx.expired = false → u.ctx.released = true ∨ u.tile.arrived.getLsbD ch.toNat = false →
        completes (.gbwait m rd ch) s (fun t =>
          t.x rd = (if rd = 0 then 0 else (u.tile.release[ch.toNat]'ch.isLt).getD 0) ∧ sameX u t rd ∧ t.pc = u.pc + 4
          ∧ t.tile.l1 = u.tile.l1.filter (fun e => e.2.st == .registered || e.2.sealed)))
    ∧ (member → u.tile.arrived.getLsbD ch.toNat = true → u.ctx.released = false → u.ctx.expired = false →
        exec (.gbwait m rd ch) s = .next (waitsFor (.barrier ch) u))

/-- 15 R295: SSEND of a valid entry in its open window that has not been sent commits the slot with its bytes; the other
cases take SLOT_VIOLATION with their reason in TINFO. -/
def Obligations.ScheduledSends : Prop :=
  ∀ (s u : State) (m : SMark) (c : Fin 8), issues s m u → u.curAgent = .ctx c → accessFree u → ∀ (slot : BitVec 6) (rs1 : Reg),
    let a := (u.x rs1).toNat
    let off := a % 2 ^ 21
    let e := (sget slot.toNat u.tile.xsched).getD 0
    let n := e.toNat / 2 ^ 33 % 2 ^ 6 + 1
    let ch : BitVec 3 := e.extractLsb' 56 3
    let good := a / 2 ^ 21 % 2 ^ 3 = 0 ∧ a / 2 ^ 32 = 0 ∧ off % 32 = 0
    let bad (r : Nat) : Prop := exec (.ssend m slot rs1) s = .next (u.takeTrap
      { code := 0x11, tpc := u.pc, taddr := 0, tinfo := BitVec.ofNat 64 r, resume := .at u.pc })
    (¬ good → bad 4) ∧ (good → e.getLsbD 63 = false → bad 0)
    ∧ (good → e.getLsbD 63 = true → u.tile.xwin.all (fun w => w.ch != ch) = true → bad 2)
    ∧ (∀ w, good → e.getLsbD 63 = true → u.tile.xwin.find? (fun w => w.ch == ch) = some w → nsMem slot.toNat w.sent = true → bad 3)
    ∧ (∀ w, good → e.getLsbD 63 = true → u.tile.xwin.find? (fun w => w.ch == ch) = some w → nsMem slot.toNat w.sent = false →
        a / 2 ^ 24 % 2 ^ 8 ≠ n → bad 1)
    ∧ (∀ w, good → e.getLsbD 63 = true → u.tile.xwin.find? (fun w => w.ch == ch) = some w → nsMem slot.toNat w.sent = false →
        a / 2 ^ 24 % 2 ^ 8 = n → u.tile.lockHit [(tileBase + off, 32 * n)] = none → u.tile.poisoned off (32 * n) = false →
        completes (.ssend m slot rs1) s (fun t => t.pc = u.pc + 4 ∧ (∀ r, t.x r = u.x r)
          ∧ t.tile.xsend = u.tile.xsend ++ [{ src := u.src, pc := u.pc, slot := slot, entry := e, bytes := u.tile.bytes off (32 * n) }]
          ∧ t.tile.xwin = u.tile.xwin.map (fun x => if x.ch == ch then { x with sent := nsAdd slot.toNat x.sent } else x)))

/-- 09 R197, 08 R183: CPCANCEL cancels the running copy of its workspace that has the number, and answers 1 where there is
none; CPSTAT returns a channel's word or a lock entry's; TCOPY sets the copy CSRs for a tensor copy and returns the number
of elements. -/
def Obligations.CopyControl : Prop :=
  ∀ (s u : State) (m : SMark), issues s m u → ∀ (rd rs1 rs2 : Reg),
    let x := (u.x rs1).setWidth 16
    let mine (c : Fin 4) : Prop := u.tile.chans[c].xid = x ∧ u.tile.chans[c].owner.ws = u.ws ∧ u.tile.chans[c].st = .running
    (∀ c : Fin 4, mine c → (∀ d, d < c → ¬ mine d) → completes (.cpcancel m rd rs1 rs2) s (fun t => writesOnly
        (u.putTile { u.tile with chans := u.tile.chans.set c { u.tile.chans[c] with st := .cancelling } }) t rd 0))
    ∧ ((∀ c, ¬ mine c) → completes (.cpcancel m rd rs1 rs2) s (fun t => writesOnly u t rd 1))
    ∧ (∀ c : Fin 4, (u.x rs1).getLsbD 8 = false → (u.x rs1).toNat % 4 = c.val → completes (.cpstat m rd rs1 rs2) s (fun t =>
        writesOnly u t rd (u.tile.chans[c]).word))
    ∧ ((u.x rs1).getLsbD 8 = true → completes (.cpstat m rd rs1 rs2) s (fun t =>
        writesOnly u t rd (lockWord (sget ((u.x rs1).toNat % 32) u.tile.locks))))
    ∧ (∀ w eb fb, (u.x rs1).toNat / 2 ^ 10 % 2 ^ 6 = 0 → (u.x rs1).toNat / 2 ^ 26 = 0 →
        u.copyEntries u.ws (BitVec.ofNat 10 (u.x rs1).toNat) (BitVec.ofNat 10 ((u.x rs1).toNat / 2 ^ 16)) = .ok (w, some (eb, fb)) →
        tensorPair (entOf eb) (entOf fb) = none →
        let n := (copyExtent (entOf eb) (entOf fb) ((u.x rs2).toNat % 2 ^ 32) ((u.x rs2).toNat / 2 ^ 32)).1
          * (copyExtent (entOf eb) (entOf fb) ((u.x rs2).toNat % 2 ^ 32) ((u.x rs2).toNat / 2 ^ 32)).2
        completes (.tcopy m rd rs1 rs2) s (fun t => t.x rd = (if rd = 0 then 0 else BitVec.ofNat 64 n) ∧ t.pc = w.pc + 4
          ∧ t.th.cp.len = BitVec.ofNat 64 (n % 2 ^ 32) ∧ t.th.cp.opt = w.th.cp.opt ||| 1
          ∧ t.th.cp.src = BitVec.ofNat 64 ((u.x rs1).toNat % 2 ^ 10 + (u.x rs2).toNat % 2 ^ 32 * 2 ^ 32)))

/-! ## Vector instructions -/

/-- 07 R138 to R141: element-wise arithmetic: integers wrap, floating point is rounded once by FRM.RM with its flags; inactive
elements and everything else stay. -/
def Obligations.VectorArithmetic : Prop :=
  ∀ (s u : State) (m : SMark), issues s m u → u.isCtx = true → ∀ (mk : KReg) (ty : ETy) (vd vs1 vs2 : Reg),
    let w := etBits ty
    let g := etFmt ty
    let rm := RM.ofBits u.th.rm
    let a (j : Nat) : Nat := elem w (u.v vs1) j
    let b (j : Nat) : Nat := elem w (u.v vs2) j
    let c (j : Nat) : Nat := elem w (u.v vd) j
    let bv (x : Nat) : BitVec w := BitVec.ofNat w x
    let two (fi : BitVec w → BitVec w → BitVec w) (ff : Nat → Nat → Nat × Flags) : State → Prop := fun t =>
      setsElems u t mk w vd (u.v vd) fun j => if ty.isInt then ((fi (bv (a j)) (bv (b j))).toNat, 0) else ff (a j) (b j)
    ((Instr.vadd m mk ty vd vs1 vs2).wf = true → completes (.vadd m mk ty vd vs1 vs2) s (two (· + ·) (g.add rm)))
    ∧ ((Instr.vsub m mk ty vd vs1 vs2).wf = true → completes (.vsub m mk ty vd vs1 vs2) s (two (· - ·) (g.sub rm)))
    ∧ ((Instr.vmul m mk ty vd vs1 vs2).wf = true → completes (.vmul m mk ty vd vs1 vs2) s (two (· * ·) (g.mul rm)))
    ∧ ((Instr.vmin m mk ty vd vs1 vs2).wf = true → completes (.vmin m mk ty vd vs1 vs2) s
        (two (fun x y => if y.toInt < x.toInt then y else x) (g.minmax false)))
    ∧ ((Instr.vmax m mk ty vd vs1 vs2).wf = true → completes (.vmax m mk ty vd vs1 vs2) s
        (two (fun x y => if x.toInt < y.toInt then y else x) (g.minmax true)))
    ∧ ((Instr.vfma m mk ty vd vs1 vs2).wf = true → completes (.vfma m mk ty vd vs1 vs2) s (fun t =>
        setsElems u t mk w vd (u.v vd) fun j =>
          if ty.isInt then ((bv (c j) + bv (a j) * bv (b j)).toNat, 0) else g.fma rm (c j) (a j) (b j)))
    ∧ ((Instr.vabs m mk ty vd vs1).wf = true → completes (.vabs m mk ty vd vs1) s (fun t =>
        setsElems u t mk w vd (u.v vd) fun j =>
          (if ty.isInt then (if (bv (a j)).toInt < 0 then (-(bv (a j))).toNat else a j) else a j % 2 ^ (w - 1), 0)))
    ∧ ((Instr.vneg m mk ty vd vs1).wf = true → completes (.vneg m mk ty vd vs1) s (fun t =>
        setsElems u t mk w vd (u.v vd) fun j => (if ty.isInt then (-(bv (a j))).toNat else (bv (a j) ^^^ bv (2 ^ (w - 1))).toNat, 0)))

/-- 07 R142, R144, R145, R158: bitwise operations, shifts by the element's low bits, selection and moves; the mask instructions
on k registers and the count of a mask's ones (R145). -/
def Obligations.VectorLogicAndMasks : Prop :=
  ∀ (s u : State) (m : SMark), issues s m u → u.isCtx = true → ∀ (mk : KReg) (ty : ETy) (vd vs1 vs2 rd : Reg) (kd ks1 ks2 : KReg),
    let w := etBits ty
    let a (j : Nat) : Nat := elem w (u.v vs1) j
    let b (j : Nat) : Nat := elem w (u.v vs2) j
    let put (f : Nat → Nat) : State → Prop := fun t => setsElems u t mk w vd (u.v vd) fun j => (f j, 0)
    let ok (i : Instr) (P : State → Prop) : Prop := i.wf = true → completes i s P
    ok (.vand m mk ty vd vs1 vs2) (put fun j => a j &&& b j)
    ∧ ok (.vor m mk ty vd vs1 vs2) (put fun j => a j ||| b j)
    ∧ ok (.vxor m mk ty vd vs1 vs2) (put fun j => a j ^^^ b j)
    ∧ ok (.vshl m mk ty vd vs1 vs2) (put fun j => a j <<< (b j % w))
    ∧ ok (.vshr m mk ty vd vs1 vs2) (put fun j => a j >>> (b j % w))
    ∧ ok (.vsra m mk ty vd vs1 vs2) (put fun j => ((BitVec.ofNat w (a j)).sshiftRight (b j % w)).toNat)
    ∧ ok (.vsel m mk ty vd vs1 vs2) (fun t => setsElems u t mk w vd (u.v vs2) fun j => (a j, 0))
    ∧ ok (.vmv m mk ty vd vs1) (put a)
    ∧ ok (.kand m kd ks1 ks2) (fun t => writesK 0 u t kd (u.k ks1 &&& u.k ks2))
    ∧ ok (.kor m kd ks1 ks2) (fun t => writesK 0 u t kd (u.k ks1 ||| u.k ks2))
    ∧ ok (.kxor m kd ks1 ks2) (fun t => writesK 0 u t kd (u.k ks1 ^^^ u.k ks2))
    ∧ ok (.knot m kd ks1) (fun t => writesK 0 u t kd (~~~(u.k ks1)))
    ∧ ok (.vmpop m mk rd ks1) (fun t => writesOnly u t rd (BitVec.ofNat 64
        ((List.range 32).countP fun i => (u.k ks1).getLsbD i && (mk == 0 || (u.k mk).getLsbD i))))

/-- 07 R143: a comparison sets a lane's bit where all elements of the lane are in the relation; lanes the mask leaves out keep
their bit. -/
def Obligations.VectorComparisons : Prop :=
  ∀ (s u : State) (m : SMark), issues s m u → u.isCtx = true → ∀ (mk : KReg) (ty : ETy) (kd : KReg) (vs1 vs2 : Reg),
    let w := etBits ty
    let n := 32 / w
    let a (j : Nat) : Nat := elem w (u.v vs1) j
    let b (j : Nat) : Nat := elem w (u.v vs2) j
    let put (r : VRel) : State → Prop := fun t => ∃ fl v, writesK fl u t kd v
      ∧ (ty.isInt = true → fl = 0)
      ∧ ∀ i, i < 32 → v.getLsbD i = if mk == 0 || (u.k mk).getLsbD i then (List.range n).all (fun q => (relE ty r (a (n * i + q)) (b (n * i + q))).1)
          else (u.k kd).getLsbD i
    let ok (i : Instr) (P : State → Prop) : Prop := i.wf = true → completes i s P
    ok (.vcmpEq m mk ty kd vs1 vs2) (put .eq) ∧ ok (.vcmpNe m mk ty kd vs1 vs2) (put .ne)
    ∧ ok (.vcmpLt m mk ty kd vs1 vs2) (put .lt) ∧ ok (.vcmpLe m mk ty kd vs1 vs2) (put .le)
    ∧ ok (.vcmpGt m mk ty kd vs1 vs2) (put .gt) ∧ ok (.vcmpGe m mk ty kd vs1 vs2) (put .ge)
    ∧ ok (.vcmpLtu m mk ty kd vs1 vs2) (put .ltu) ∧ ok (.vcmpGeu m mk ty kd vs1 vs2) (put .geu)

/-- 07 R144 to R147: broadcasts (R144), extraction, insertion, permutation, slides, counts, reductions over the active elements in
ascending order, running sums, of floats rounded at each step. -/
def Obligations.VectorPlacesAndSums : Prop :=
  ∀ (s u : State) (m : SMark), issues s m u → u.isCtx = true → ∀ (mk : KReg) (ty : ETy) (vd vs1 vs2 rd rs1 rs2 : Reg) (ks1 : KReg),
    let w := etBits ty
    let n := 1024 / w
    let a (j : Nat) : Nat := elem w (u.v vs1) j
    let put (f : Nat → Nat) : State → Prop := fun t => setsElems u t mk w vd (u.v vd) fun j => (f j, 0)
    let ok (i : Instr) (P : State → Prop) : Prop := i.wf = true → completes i s P
    let acts := (List.range n).filter (active u mk w)
    let sint (x : Nat) : Int := (BitVec.ofNat w x).toInt
    let red (fi : Int → Int → Int) (ff : Nat → Nat → Nat × Flags) : State → Prop := fun t =>
      if ty.isInt then writesOnly u t rd (BitVec.ofInt 64 (acts.foldl (fun x j => fi x (sint (a j))) (u.x rs2).toInt))
      else
        let r := acts.foldl (fun (x : Nat × Flags) j =>
          let y := ff x.1 (if ty = .bf16 then a j * 2 ^ 16 else a j)
          (y.1, x.2 ||| y.2)) ((u.x rs2).toNat % 2 ^ 32, 0)
        writesTo (u.pc + 4) r.2 u t rd (BitVec.ofNat 64 r.1)
    ok (.vbcast m mk ty vd rs1) (put fun _ => (u.x rs1).toNat)
    ∧ ok (.vextr m ty rd vs1 rs2) (fun t => writesOnly u t rd
        (if ty.isInt then (BitVec.ofNat w (a ((u.x rs2).toNat % n))).signExtend 64 else BitVec.ofNat 64 (a ((u.x rs2).toNat % n))))
    ∧ ok (.vins m ty vd rs1 rs2) (fun t => setsElems u t 0 w vd (u.v vd) fun j =>
        (if j = (u.x rs2).toNat % n then (u.x rs1).toNat else elem w (u.v vd) j, 0))
    ∧ ok (.vperm m mk ty vd vs1 vs2) (put fun j => a (elem w (u.v vs2) j % n))
    ∧ ok (.vslide m mk ty vd vs1 rs2) (put fun j => let p := (j : Int) + (u.x rs2).toInt; if 0 ≤ p ∧ p < n then a p.toNat else 0)
    ∧ ok (.viota m mk ty vd ks1) (put fun j => (List.range j).countP fun i => (u.k ks1).getLsbD (w * i / 32))
    ∧ ok (.vredsum m mk ty rd vs1 rs2) (red (· + ·) (fp32.add (RM.ofBits u.th.rm)))
    ∧ ok (.vredmax m mk ty rd vs1 rs2) (red max (fp32.minmax true))
    ∧ ok (.vredmin m mk ty rd vs1 rs2) (red min (fp32.minmax false))
    ∧ (ty.isInt = true → ok (.vscan m mk ty vd vs1 rs2) (put fun j =>
        (((List.range (j + 1)).filter (active u mk w)).foldl (fun (x : BitVec w) i => x + BitVec.ofNat w (a i)) (BitVec.ofNat w (u.x rs2).toNat)).toNat))
    ∧ (ty.isInt = false → ok (.vscan m mk ty vd vs1 rs2) (fun t => setsElems u t mk w vd (u.v vd) fun j =>
        ((List.range (j + 1)).filter (active u mk w)).foldl (fun x i => (etFmt ty).add (RM.ofBits u.th.rm) x.1 (a i)) ((u.x rs2).toNat % 2 ^ w, 0)))

/-- 07 R141, R148 to R153: conversions: packing and unpacking, dot products (R141), dequantised forms, the approximate functions as the
model computes them and at exact points. Of VCVT and VQUANT it says only that they write the model's vcvtV and vquantV of the
operands. -/
def Obligations.VectorConversions : Prop :=
  ∀ (s u : State) (m : SMark), issues s m u → u.isCtx = true → ∀ (mk : KReg) (ty dst : ETy) (f : TFmt) (hi : Bool) (vd vs1 vs2 : Reg),
    let w := etBits ty
    let g := etFmt ty
    let n := 1024 / w
    let rm := RM.ofBits u.th.rm
    let a (j : Nat) : Nat := elem w (u.v vs1) j
    let ok (i : Instr) (P : State → Prop) : Prop := i.wf = true → completes i s P
    let wide (v : VWord) (j : Nat) : Nat × Flags :=
      if ty = .bf16 then fp32.convert bf16 false rm (elem (2 * w) v j)
      else if ty = .fp32 then fp64.convert fp32 false rm (elem (2 * w) v j)
      else
        let x := (BitVec.ofNat (2 * w) (elem (2 * w) v j)).toInt
        let y := max (-(2 ^ (w - 1) : Int)) (min (2 ^ (w - 1) - 1) x)
        ((BitVec.ofInt w y).toNat, if x = y then 0 else flSAT)
    let unary (h : Nat → Nat × Flags) : State → Prop := fun t => setsElems u t mk w vd (u.v vd) fun j => h (a j)
    ok (.vcvt m mk ty dst vd vs1) (fun t => ∃ fl v, writesV fl u t vd v ∧ (v, fl) = vcvtV ty dst rm u.th.nanov (u.mask mk) (u.v vs1) (u.v vd))
    ∧ ok (.vpack m mk ty vd vs1 vs2) (fun t => setsElems u t mk w vd (u.v vd) fun j =>
        if j < n / 2 then wide (u.v vs1) j else wide (u.v vs2) (j - n / 2))
    ∧ ok (.vunpack m mk ty hi vd vs1) (fun t => setsElems u t mk (2 * w) vd (u.v vd) fun j =>
        let x := a (j + if hi then n / 2 else 0)
        if ty = .bf16 then bf16.convert fp32 false .ne x else if ty = .fp32 then fp32.convert fp64 false .ne x
        else (((BitVec.ofNat w x).signExtend (2 * w)).toNat, 0))
    ∧ (ty = .int8 → ok (.vdot m mk ty vd vs1 vs2) (fun t => setsElems u t mk 32 vd (u.v vd) fun i =>
        let p (q : Nat) : Int := (BitVec.ofNat 8 (elem 8 (u.v vs1) (4 * i + q))).toInt * (BitVec.ofNat 8 (elem 8 (u.v vs2) (4 * i + q))).toInt
        ((BitVec.ofInt 32 ((BitVec.ofNat 32 (elem 32 (u.v vd) i)).toInt + p 0 + p 1 + p 2 + p 3)).toNat, 0)))
    ∧ (ty = .bf16 → ok (.vdot m mk ty vd vs1 vs2) (fun t => setsElems u t mk 32 vd (u.v vd) fun i =>
        let c := elem 32 (u.v vd) i
        let p (q : Nat) := Exact.mul (bf16.decode (elem 16 (u.v vs1) (2 * i + q))) (bf16.decode (elem 16 (u.v vs2) (2 * i + q)))
        let s0 := Exact.add rm (fp32.decode c) (p 0).1
        let s1 := Exact.add rm s0.1 (p 1).1
        let r := fp32.round false rm s1.1
        (r.1, (if fp32.isSnan c || bf16.isSnan (elem 16 (u.v vs1) (2 * i)) || bf16.isSnan (elem 16 (u.v vs2) (2 * i))
            || bf16.isSnan (elem 16 (u.v vs1) (2 * i + 1)) || bf16.isSnan (elem 16 (u.v vs2) (2 * i + 1)) then flNV else 0)
          ||| (p 0).2 ||| (p 1).2 ||| s0.2 ||| s1.2 ||| r.2)))
    ∧ ok (.vquant m mk ty f vd vs1) (fun t => ∃ fl v, writesV fl u t vd v ∧ (v, fl) = vquantV ty f u.th.nanov (u.mask mk) (u.v vs1))
    ∧ ok (.vdeq m mk ty f vd vs1) (fun t => setsElems u t mk w vd (u.v vd) (deqE ty f (u.v vs1)))
    ∧ ok (.vexp2 m mk ty vd vs1) (unary (exp2E g rm)) ∧ ok (.vlog2 m mk ty vd vs1) (unary (log2E g rm))
    ∧ ok (.vrcp m mk ty vd vs1) (unary fun x =>
        let q := Exact.div (.fin false 1 0 false) (g.decode x)
        let z := g.round false rm q.1
        (if z.2 &&& flOF = flOF then g.withSign (g.signBit x) g.infCode else z.1, (if g.isSnan x then flNV else 0) ||| q.2 ||| z.2))
    ∧ ok (.vrsqrt m mk ty vd vs1) (unary (rsqrtE g rm))
    ∧ (exp2E fp32 rm 0 = (0x3F80_0000, 0)) ∧ (log2E fp32 rm 0x3F80_0000 = (0, 0)) ∧ (log2E fp32 rm 0 = (0xFF80_0000, flDZ))
    ∧ (rsqrtE fp32 rm 0xBF80_0000 = (0x7FC0_0000, flNV)) ∧ (exp2E bf16 rm 0xFF80 = (0, 0))

/-- 07 R154 to R157: the vector accesses to the tile window, contiguous, strided, gathered and scattered: active elements are
read into vd or written from it, the others are neither read nor written; a store that finds sixteen stores of the strand
outstanding is held (04 R95); VLDG of global memory begins a read of the remote class with the active bytes; VSTG posts the active
bytes, each in a word that the L1 then holds, with its registration, or on its way to the home slice. -/
def Obligations.VectorMemory : Prop :=
  ∀ (s u : State) (m : SMark), issues s m u → u.isCtx = true → accessFree u → ∀ (mk : KReg) (ty : ETy) (vd rs1 rs2 vs2 : Reg) (ps : List Piece),
    let w := etBits ty
    let k := w / 8
    let ok (i : Instr) (P : State → Prop) : Prop := i.wf = true → completes i s P
    let run (j : Nat) : Nat := (u.x rs1 + u.x rs2 + BitVec.ofNat 64 (j * k)).toNat
    let strided (j : Nat) : Nat := (u.x rs1 + BitVec.ofNat 64 j * u.x rs2).toNat
    let lane (j : Nat) : Nat := (u.x rs1 + BitVec.ofNat 64 (elem 32 (u.v vs2) j)).toNat
    let inside (w : Nat) (at' : Nat → Nat) : Prop := ∀ j, j < 1024 / w → active u mk w j = true →
      tileBase ≤ at' j ∧ at' j - tileBase + w / 8 ≤ storeSize ∧ u.tile.lockHit [(at' j, w / 8)] = none
    let clean (w : Nat) (at' : Nat → Nat) : Prop := ∀ j, j < 1024 / w → active u mk w j = true →
      u.tile.poisoned (at' j - tileBase) (w / 8) = false
    let loads (w : Nat) (at' : Nat → Nat) : State → Prop := fun t => ∃ t', t' = u.setTh u.th
      ∧ setsElems t' t mk w vd (u.v vd) fun j => (leNat ((List.range (w / 8)).map fun i => u.tile.byte (at' j - tileBase + i)), 0)
    let stores (w : Nat) (at' : Nat → Nat) : State → Prop := fun t => t.pc = u.pc + 4 ∧ (∀ r, t.x r = u.x r) ∧ t.ctx.v = u.ctx.v
      ∧ { t.tile with ctx := u.tile.ctx, ldr := u.tile.ldr, str := u.tile.str, store := u.tile.store, poison := u.tile.poison } = u.tile
      ∧ sameBeyond u t ∧ (∀ b, t.readAt b 1 = u.readAt b 1)
      ∧ (∀ off, (∀ j, j < 1024 / w → active u mk w j = true → off < at' j - tileBase ∨ at' j - tileBase + w / 8 ≤ off) →
          t.tile.byte off = u.tile.byte off)
      ∧ ∀ j, j < 1024 / w → active u mk w j = true →
          (∀ l, j < l → l < 1024 / w → active u mk w l = true → at' j + w / 8 ≤ at' l ∨ at' l + w / 8 ≤ at' j) →
          ∀ i, i < w / 8 → t.tile.byte (at' j - tileBase + i) = BitVec.ofNat 8 (elem w (u.v vd) j / 256 ^ i)
    let room := u.storeFull = false
    let held (i : Instr) : Prop := i.wf = true → exec i s = .next u
    (inside w run → (clean w run → ok (.vld m mk ty vd rs1 rs2) (loads w run)) ∧ (room → ok (.vst m mk ty vd rs1 rs2) (stores w run))
      ∧ (¬ room → held (.vst m mk ty vd rs1 rs2)))
    ∧ (inside w strided → (clean w strided → ok (.vlds m mk ty vd rs1 rs2) (loads w strided))
      ∧ (room → ok (.vsts m mk ty vd rs1 rs2) (stores w strided)) ∧ (¬ room → held (.vsts m mk ty vd rs1 rs2)))
    ∧ (inside 32 lane → (clean 32 lane → ok (.vgath m mk ty vd rs1 vs2) (loads 32 lane))
      ∧ (room → ok (.vscat m mk ty vd rs1 vs2) (stores 32 lane)) ∧ (¬ room → held (.vscat m mk ty vd rs1 vs2)))
    ∧ (let es := u.vElems mk ty (u.x rs1 + u.x rs2) (BitVec.ofNat 64 k)
       let chunks := (vSpans es).flatMap fun sp => lineChunks sp.1 sp.2.1 sp.2.2
       let first : Word := BitVec.ofNat 64 ((es.head?.map (·.va)).getD 0)
       u.tile.locks = [] → (∀ j, j < 1024 / w → active u mk w j = true → accessRegion (run j) k = .global) → u.atomAhead ps = false →
       (u.reachPieces needLoad chunks = .ok ps → ok (.vldg m mk ty vd rs1 rs2) (fun t => ∃ act : BitVec 128,
          (∀ i, i < 128 → act.getLsbD i = active u mk w (i / k)) ∧ beganRead u t (!ps.isEmpty) (.v vd act) first 128 none))
       ∧ (u.reachPieces needStore chunks = .ok ps → ¬ room → held (.vstg m mk ty vd rs1 rs2))
       ∧ (u.reachPieces needStore chunks = .ok ps → room → ok (.vstg m mk ty vd rs1 rs2) (fun t =>
          t.pc = u.pc + 4 ∧ (∀ r, t.x r = u.x r) ∧ t.mem = u.mem ∧ t.ctx.v = u.ctx.v ∧ sameButTraffic u t
          ∧ ∀ p ∈ ps, ∀ pa sl, p.at' = .mem pa sl → ∀ i, i < p.len →
              let b := (leBytes (u.v vd).toNat 128).getD (p.pos + i) 0
              (.regist u.src u.fresh ((pa + i) / 8) ∈ t.flights ∧ ∃ l, sget ((pa + i) / 8) t.tile.l1 = some l ∧ l.bytes.getD ((pa + i) % 8) 0 = b)
              ∨ ∃ cells, .wdata u.src u.fresh ((pa + i) / 8) cells false ∈ t.flights ∧ ((pa + i) % 8, b) ∈ cells)))

/-! ## Panels -/

/-- 08 R164, R172, R173, R176 to R182: a panel instruction whose checks hold enters the queue with what its issue fixes: its operands, the
configurations it reads, the entry of its tensor; the configuration that the spec gives its result stands in the panel at once, no
stored element changes yet, the panel counts as written. MMA commits. A format pair that is not implemented, too many columns and a
factor that is no FP32 panel take FORMAT_PAIR with their reason, and so do a TID above 1,023 and a panel of another format than its
entry (R173); a full queue holds ZZERO. 08 R164, R180: ZMOVV and VMOVZ enter the queue, ZMOVV with its v register as it stands at issue; a full queue holds
them. When the engine performs ZMOVV, 128 or 64 bytes of a panel row, or its 12 strip bytes, hold the bytes of the v register;
when it performs VMOVZ, the v register of the strand holds them, the rest zero; a position that names no row writes nothing, or
zero.
That a written panel counts in WRITTEN, and that the checks come before room in the queue, are the model's readings (log 18, log 83). -/
def Obligations.PanelInstructions : Prop :=
  (∀ (s u : State) (m : SMark), issues s m u → u.isCtx = true → ∀ (fa fb : TFmt) (za zb zc : ZReg) (acc : Acc) (rs1 rs2 : Reg),
    let a := u.x rs1
    let b := u.x rs2
    let word (z : ZReg) : Word := (u.tile.panel z).cfg
    let room : Prop := u.tile.tq.length < 8
    let same (t : State) : Prop := t.pc = u.pc + 4 ∧ (∀ r, t.x r = u.x r) ∧ sameVK u t ∧ t.th.fflags = u.th.fflags
      ∧ (∀ z, (t.tile.panel z).data = (u.tile.panel z).data ∧ (t.tile.panel z).strip = (u.tile.panel z).strip)
      ∧ t.tile.store = u.tile.store ∧ t.mem = u.mem
    let queued (t : State) (i : Instr) (x y : Word) (cfg : List Word) (entry : List Byte) : Prop :=
      t.tile.tq = u.tile.tq ++ [{ src := u.src, instr := i, pc := u.pc, a := x, b := y, nanov := u.th.nanov, cfg := cfg, entry := entry,
                                  fenceE := u.th.fenceE }]
    let configured (t : State) (z : ZReg) (c : PCfg) : Prop := t.zcfg z = c ∧ (∀ z', z' ≠ z → t.zcfg z' = u.zcfg z')
      ∧ t.ctx.written = u.ctx.written.addZ z ∧ t.ctx.rgnpc = u.ctx.rgnpc
    let traps (i : Instr) (r : Nat) : Prop := exec i s = .next (u.takeTrap
      { code := 0x10, tpc := u.pc, taddr := 0, tinfo := BitVec.ofNat 64 r, resume := .at u.pc })
    let plain (f : TFmt) : PFmt := { fmt := f.code, w32 := false }
    let f32 : PFmt := { fmt := 0, w32 := true }
    let w32 (f : PFmt) : Prop := f = f32 ∨ f = { fmt := 6, w32 := true }
    (room → completes (.zzero m zc) s (fun t => same t ∧ queued t (.zzero m zc) 0 0 [] [] ∧ configured t zc (u.zcfg zc)))
    ∧ (room → (u.zcfg za).cols ≤ (plain fa).capacity → completes (.zcvt m fa zc za) s (fun t => same t
        ∧ queued t (.zcvt m fa zc za) 0 0 [word za] [] ∧ configured t zc { f := plain fa, rows := (u.zcfg za).rows, cols := (u.zcfg za).cols }))
    ∧ ((plain fa).capacity < (u.zcfg za).cols → traps (.zcvt m fa zc za) 4)
    ∧ (room → (u.zcfg za).f = f32 → (u.zcfg za).rows ≠ 0 → (u.zcfg za).cols ≠ 0 → w32 (u.zcfg zc).f → completes (.zscl m zc za) s (fun t =>
        same t ∧ queued t (.zscl m zc za) 0 0 [word zc, word za] [] ∧ configured t zc { u.zcfg zc with f := f32 }))
    ∧ ((u.zcfg za).f ≠ f32 → traps (.zscl m zc za) 7)
    ∧ (room → (u.zcfg za).cols ≤ 96 → (u.zcfg za).rows ≤ (u.zcfg za).f.capacity → (w32 (u.zcfg za).f ∨ (u.zcfg za).f = plain .bf16 ∨ (u.zcfg za).f = plain .int8) →
        completes (.zxp m zc za) s (fun t => same t ∧ queued t (.zxp m zc za) 0 0 [word za] []
          ∧ configured t zc { f := (u.zcfg za).f, rows := (u.zcfg za).cols, cols := (u.zcfg za).rows }))
    ∧ (room → u.acquiring = false → u.tile.streams u.src true true = false → (mmaK fa fb acc).isSome = true →
        (u.zcfg za).f = plain fa → (u.zcfg zb).f = plain fb → (u.zcfg zc).f = { fmt := if acc = .f32 then 0 else 6, w32 := true } →
        (u.zcfg zc).rows = (u.zcfg za).rows → (u.zcfg zc).cols = 48 → (u.zcfg zb).rows ≤ 48 → zc ≠ za → zc ≠ zb →
        completes (.mma m fb fa zb za zc acc) s (fun t => same t ∧ queued t (.mma m fb fa zb za zc acc) 0 0 [word zc, word za, word zb] []
          ∧ (∀ z, t.zcfg z = u.zcfg z) ∧ t.ctx.rgnpc = u.pc + 4 ∧ t.ctx.live = u.ctx.live.union (u.ctx.written.addZ zc) ∧ t.ctx.written = .empty))
    ∧ ((mmaK fa fb acc) = none → traps (.mma m fb fa zb za zc acc) 0)
    ∧ (∀ w bytes, a.toNat / 1024 = 0 → u.ttRead u.who u.curTile u.ws (a.setWidth 10) = .ok (w, some bytes) → room → u.acquiring = false →
        let e := entOf bytes
        let blk := e.f.block.getD 1
        let col0 := b.toNat % 2 ^ 32
        e.malformed = false → (u.zcfg za).f = e.f → col0 % blk = 0 → col0 % e.f.grain = 0 →
        (e.f.block.isSome = true → e.saxis = 0 ∧ (e.mode = 1 → e.e 0 % blk = 0)) →
        completes (.zld m za rs1 rs2) s (fun t => same t ∧ queued t (.zld m za rs1 rs2) a b [word za] bytes ∧ configured t za (u.zcfg za))
        ∧ ((e.f.block.isSome = true → (u.zcfg za).cols % blk = 0 ∨ e.colsT ≤ col0 + (u.zcfg za).cols) →
            completes (.zst m za rs1 rs2) s (fun t => same t ∧ queued t (.zst m za rs1 rs2) a b [word za] bytes
              ∧ (∀ z, t.zcfg z = u.zcfg z) ∧ t.ctx.written = u.ctx.written)))
    ∧ (a.toNat / 1024 ≠ 0 → traps (.zld m za rs1 rs2) 6 ∧ traps (.zst m za rs1 rs2) 6)
    ∧ (∀ w bytes, a.toNat / 1024 = 0 → u.ttRead u.who u.curTile u.ws (a.setWidth 10) = .ok (w, some bytes) → (u.zcfg za).f ≠ (entOf bytes).f →
        exec (.zld m za rs1 rs2) s = .next (w.takeTrap { code := 0x10, tpc := u.pc, taddr := 0, tinfo := 1, resume := .at u.pc })
        ∧ exec (.zst m za rs1 rs2) s = .next (w.takeTrap { code := 0x10, tpc := u.pc, taddr := 0, tinfo := 1, resume := .at u.pc }))
    ∧ (8 ≤ u.tile.tq.length → exec (.zzero m zc) s = .next u))
  ∧ ((∀ (s u : State) (m : SMark), issues s m u → u.isCtx = true → ∀ (z : ZReg) (vs rs2 : Reg),
    let queued (t : State) (i : Instr) (entry : List Byte) : Prop :=
      t.tile.tq = u.tile.tq ++ [{ src := u.src, instr := i, pc := u.pc, a := u.x rs2, b := 0, nanov := u.th.nanov, cfg := [], entry := entry,
                                  fenceE := u.th.fenceE }]
      ∧ t.pc = u.pc + 4 ∧ (∀ r, t.x r = u.x r) ∧ sameVK u t ∧ t.tile.panels = u.tile.panels ∧ t.mem = u.mem
    (u.tile.tq.length < 8 →
      completes (.zmovv m z vs rs2) s (fun t => queued t (.zmovv m z vs rs2) (leBytes (u.v vs).toNat 128) ∧ t.ctx.written = u.ctx.written.addZ z)
      ∧ completes (.vmovz m vs z rs2) s (fun t => queued t (.vmovz m vs z rs2) [] ∧ t.ctx.written = u.ctx.written.addV vs))
    ∧ (8 ≤ u.tile.tq.length → exec (.zmovv m z vs rs2) s = .next u ∧ exec (.vmovz m vs z rs2) s = .next u))
  ∧ ∀ (s : State) (n : Nat) (o : TensorOp) (rest : List TensorOp), (s.tileAt n).tq = o :: rest →
    ∀ (m : SMark) (z : ZReg) (vs rs2 : Reg) (c : Fin 8),
    let r := o.a.toNat % 128
    let part := o.a.toNat / 256 % 4
    let p := (s.tileAt n).panel z
    let sub (old : Mem) (off k i : Nat) : Byte := if off ≤ i ∧ i < off + k then o.entry.getD (i - off) 0 else mget old i
    let wrote (data strip : Nat → Byte) : State → Prop := fun t => (t.tileAt n).tq = rest
      ∧ (∀ i, mget ((t.tileAt n).panel z).data i = data i) ∧ (∀ i, mget ((t.tileAt n).panel z).strip i = strip i)
      ∧ (∀ z', z' ≠ z → (t.tileAt n).panel z' = (s.tileAt n).panel z') ∧ ((t.tileAt n).panel z).cfg = p.cfg
    let got (x : Mem) (off k : Nat) : State → Prop := fun t => (t.tileAt n).tq = rest ∧ (t.tileAt n).panels = (s.tileAt n).panels
      ∧ (t.cx o.src.tile c).v = (s.cx o.src.tile c).v.set vs.toNat (BitVec.ofNat 1024 (leNat ((List.range k).map fun i => mget x (off + i)))) vs.isLt
    let run (P : State → Prop) : Prop := completes (.tensorEngineCompletion n) s P
    (o.instr = .zmovv m z vs rs2 → o.entry.length = 128 →
      (r < 96 → part = 0 → run (wrote (sub p.data (192 * r) 128) (mget p.strip)))
      ∧ (r < 96 → part = 1 → run (wrote (sub p.data (192 * r + 128) 64) (mget p.strip)))
      ∧ (r < 96 → part = 2 → run (wrote (mget p.data) (sub p.strip (12 * r) 12)))
      ∧ (96 ≤ r ∨ part = 3 → run (fun t => (t.tileAt n).tq = rest ∧ (t.tileAt n).panels = (s.tileAt n).panels)))
    ∧ (o.instr = .vmovz m vs z rs2 → s.resident o.src = some c → p.poison = [] →
      (r < 96 → part = 0 → run (got p.data (192 * r) 128)) ∧ (r < 96 → part = 1 → run (got p.data (192 * r + 128) 64))
      ∧ (r < 96 → part = 2 → run (got p.strip (12 * r) 12)) ∧ (96 ≤ r ∨ part = 3 → run (got [] 0 0))))


/-- 08 R164, R176 (ZZERO), R177 to R182, 03 R72 to R74: what the tensor engine does with the oldest instruction of a tile's queue: it leaves the queue,
only its result panel changes, and that panel holds the zeros, the converted rows, the scaled elements, the transpose, or the old
elements with the products of rows of A and rows of B added: for INT32 the exact sum modulo 2^32, for FP32 the sum rounded once. -/
def Obligations.TensorResults : Prop :=
  ∀ (s : State) (n : Nat) (o : TensorOp) (rest : List TensorOp), (s.tileAt n).tq = o :: rest →
    ∀ (m : SMark) (fa fb : TFmt) (za zb zc : ZReg) (acc : Acc),
    let p (z : ZReg) : Panel := (s.tileAt n).panel z
    let row (x : Panel) (i : Nat) : Nat := x.dataRows.getD i 0
    let strip (x : Panel) (i : Nat) : Nat := x.stripRows.getD i 0
    let clean (z : ZReg) : Prop := (p z).poison = []
    let legal (c : PCfg) : Prop := c.rows ≤ 96 ∧ c.cols ≤ c.f.capacity
    let done (f : Panel → Prop) : State → Prop := fun t => (t.tileAt n).tq = rest ∧ f ((t.tileAt n).panel zc)
      ∧ (∀ z, z ≠ zc → (t.tileAt n).panel z = p z) ∧ ((t.tileAt n).panel zc).cfg = (p zc).cfg
      ∧ (t.tileAt n).store = (s.tileAt n).store ∧ t.mem = s.mem
    let c0 := o.pcfg 0
    let c1 := o.pcfg 1
    let c2 := o.pcfg 2
    (o.instr = .zzero m zc → completes (.tensorEngineCompletion n) s (done fun q => (∀ i, mget q.data i = 0) ∧ (∀ i, mget q.strip i = 0) ∧ q.poison = []))
    ∧ (o.instr = .zcvt m fa zc za → clean za → legal c0 → c0.cols ≤ ({ fmt := fa.code, w32 := false } : PFmt).capacity →
        completes (.tensorEngineCompletion n) s (done fun q => ∀ i, i < 96 → row q i = if i < c0.rows
          then (cvtRow fa o.nanov ((rowVals c0.f (row (p za) i) (strip (p za) i) c0.cols).map Prod.fst)).1 % 2 ^ 1536 else 0))
    ∧ (o.instr = .zscl m zc za → clean za → clean zc → legal c0 → c0.f.bits = 32 → legal c1 → 0 < c1.rows → 0 < c1.cols →
        completes (.tensorEngineCompletion n) s (done fun q => ∀ i j, i < 96 → j < 48 → rowElem 32 (row q i) j = if i < c0.rows ∧ j < c0.cols
          then (zsclElem c0.f (rowElem 32 (row (p zc) i) j) ((rowVals c1.f (row (p za) (i % c1.rows)) 0 c1.cols).getD (j % c1.cols) (.nan, 0))).1 % 2 ^ 32
          else rowElem 32 (row (p zc) i) j))
    ∧ (o.instr = .zxp m zc za → clean za → c0.cols ≤ 96 → c0.rows ≤ c0.f.capacity →
        completes (.tensorEngineCompletion n) s (done fun q => ∀ i j, i < 96 → j < c0.f.capacity → rowElem c0.f.bits (row q i) j =
          if i < c0.cols ∧ j < c0.rows then rowElem c0.f.bits (row (p za) j) i else 0))
    ∧ (∀ k, o.instr = .mma m fb fa zb za zc acc → s.fenceHolds n o.src o.fenceE = false → mmaK fa fb acc = some k → clean za → clean zb → clean zc →
        legal c1 → legal c2 → c2.rows ≤ 48 →
        let terms := min k (min c1.cols c2.cols)
        let int (x : Panel) (i l : Nat) : Int := (BitVec.ofNat 8 (rowElem 8 (row x i) l)).toInt
        let sum (i j : Nat) : Int := (List.range terms).foldl (fun a l => a + int (p za) i l * int (p zb) j l) (BitVec.ofNat 32 (rowElem 32 (row (p zc) i) j)).toInt
        let products (i j : Nat) : List (Exact × Exact) := ((rowVals c1.f (row (p za) i) (strip (p za) i) terms).map Prod.fst).zip
          ((rowVals c2.f (row (p zb) j) (strip (p zb) j) terms).map Prod.fst)
        completes (.tensorEngineCompletion n) s (done fun q => ∀ i j, i < 96 → j < 48 →
          (i < c1.rows ∧ j < c2.rows → match acc with
            | .i32w => rowElem 32 (row q i) j = (BitVec.ofInt 32 (sum i j)).toNat
            | .i32s => rowElem 32 (row q i) j = (BitVec.ofInt 32 (max (-2 ^ 31) (min (2 ^ 31 - 1) (sum i j)))).toNat
            | .f32 => rowElem 32 (row q i) j = (mmaF (rowElem 32 (row (p zc) i) j) (products i j)).1 % 2 ^ 32)
          ∧ (¬ (i < c1.rows ∧ j < c2.rows) → rowElem 32 (row q i) j = rowElem 32 (row (p zc) i) j)))

/-! ## Roles and serving -/

/-- 11 R242 to R246: the role instructions: LEASE and UNLEASE of a tile that the workspace owns, NTCACK of a notice it received, are
requests with a status and change the entry; the other cases change nothing and answer their status; ROLEQ of a cached entry
completes at once, of word 1 or beyond the entries by a reply, and shows a foreign workspace neither tile nor owner nor times. -/
def Obligations.RoleInstructions : Prop :=
  ∀ (s u : State) (m : SMark) (c : Fin 8), issues s m u → u.curAgent = .ctx c → u.tile.streams u.src true true = false → ∀ (rd rs1 rs2 : Reg),
    let a := (u.x rs1).toNat
    let l := a % 4096
    let e := u.role l
    let n := (u.x rs2).toNat
    let requested (w : State) (v : Word) : State → Prop := fun t => t = waitsFor .reply (committedTo (u.pc + 4)
      { w.owes rd with flights := w.flights ++ [.reply u.src rd v] })
    let asked (w : State) (v : Word) : State → Prop := fun t => t = waitsFor .reply (wentOn (u.pc + 4)
      { w.owes rd with flights := w.flights ++ [.reply u.src rd v] })
    let now : BitVec 32 := BitVec.ofNat 32 u.tick
    let until' := if e.lse = true ∧ (now + BitVec.ofNat 32 n - e.lexp).toInt ≤ 0 then e.lexp else now + BitVec.ofNat 32 n
    let mine : Prop := a / 4096 = 0 ∧ e.v = true ∧ e.owner = u.ws
    (mine → 0 < n → n ≤ 4095 → e.cstate.toNat < 2 → completes (.lease m rd rs1 rs2) s
      (requested (u.setRole l { e with lse := true, lexp := until' }) (BitVec.ofNat 64 (until'.toNat * 2 ^ 32))))
    ∧ (n = 0 ∨ 4095 < n ∨ a / 4096 ≠ 0 → completes (.lease m rd rs1 rs2) s (requested u 3))
    ∧ (0 < n → n ≤ 4095 → a / 4096 = 0 → e.v = false → completes (.lease m rd rs1 rs2) s (requested u 2)
        ∧ completes (.unlease m rd rs1 rs2) s (requested u 2))
    ∧ (0 < n → n ≤ 4095 → a / 4096 = 0 → e.v = true → e.owner ≠ u.ws → completes (.lease m rd rs1 rs2) s (requested u 1)
        ∧ completes (.unlease m rd rs1 rs2) s (requested u 1))
    ∧ (mine → 0 < n → n ≤ 4095 → 2 ≤ e.cstate.toNat → completes (.lease m rd rs1 rs2) s (requested u 4))
    ∧ (mine → e.lse = true → (e.cstate ≠ 1 ∨ e.xwin = true) → completes (.unlease m rd rs1 rs2) s
        (requested (u.setRole l { e with lse := false, lexp := now }) 0))
    ∧ (mine → e.lse = true → e.cstate = 1 → e.xwin = false → (u.die (e.ptile.toNat / 256)).ctl.getLsbD 12 = true →
        (u.die (e.ptile.toNat / 256)).posted < min ((u.die (e.ptile.toNat / 256)).ctl.toNat / 2 ^ 8 % 2 ^ 4) 8 →
        completes (.unlease m rd rs1 rs2) s (fun t => (t.role l).cstate = 2 ∧ (t.role l).lse = false ∧ ∃ fl, t.flights = fl ++ [.reply u.src rd 0]))
    ∧ (mine → e.lse = false → completes (.unlease m rd rs1 rs2) s (requested u 5))
    ∧ (∀ x, a / 2 ^ 20 = 0 → e.v = true → sget l u.notices = some x → BitVec.ofNat 8 (a / 4096) = e.nid → x.nid = e.nid →
        x.count ≠ 0 → u.ws ∈ x.wss →
        ((x.count ≠ 1 ∨ e.cstate ≠ 2) → completes (.ntcack m rd rs1 rs2) s (requested { u with notices := sset l { x with count := x.count - 1 } u.notices } 0))
        ∧ (x.count = 1 → e.cstate = 2 → u.furrowHeld e = false → completes (.ntcack m rd rs1 rs2) s (fun t => (t.role l).cstate = 3)))
    ∧ (a / 2 ^ 20 = 0 → e.v = true → sget l u.notices = none → completes (.ntcack m rd rs1 rs2) s (requested u 6))
    ∧ (∀ w, a / 4096 = 0 → sget l u.tile.roleCache = some w → completes (.roleq m rd rs1 rs2) s (fun t => t = wentOn (u.pc + 4)
        (u.setX rd (if w.extractLsb' 32 12 = u.ws then w else w &&& ~~~(0x3FF#64 <<< 12 ||| 0xFFF#64 <<< 32)))))
    ∧ (a / 8192 = 0 → a / 4096 % 2 = 1 → (sget l u.tile.roleCache).isSome = true → completes (.roleq m rd rs1 rs2) s
        (asked u (if e.owner = u.ws then BitVec.ofNat 64 (e.lexp.toNat + e.ndl.toNat * 2 ^ 32) else 0)))
    ∧ (a / 8192 ≠ 0 → completes (.roleq m rd rs1 rs2) s (asked u 0))

/-- 19 R319, R344, R345: a serving instruction whose MGD names a bound group applies its operation to the group, and the value comes
with the reply; without the group, with a faulted group or in reduced service the reply brings the status alone. DATTN puts
its descriptor last in its die's queue and commits.
The order of the statuses is the model's reading (log 56, log 57). -/
def Obligations.ServingInstructions : Prop :=
  ∀ (s u : State) (m : SMark) (c : Fin 8), issues s m u → u.curAgent = .ctx c → accessFree u → u.launchHeld = false → u.storesOut u.src = false →
    ∀ (rd rs1 rs2 : Reg),
    let here (a n : Nat) : Prop := accessRegion a n = .global ∧ ∃ ps, u.engRun u.agentEng needLoad a n = .ok ps ∧ ∀ p ∈ ps, ∀ a k pa, p.1 ≠ EPlace.node a k pa
    let x := (u.x rs2).toNat
    let back (commit : Bool) (w : State) (r : Word) : State → Prop := fun t =>
      let b : State := { w.owes rd with flights := w.flights ++ [.reply w.src rd r] }
      t = waitsFor .reply (if commit = true then committedTo (w.pc + 4) b else wentOn (w.pc + 4) b)
    let served (commit : Bool) (p : Srv × Word) : State → Prop := back commit p.1.close (if p.1.bad.isSome then 7 else p.2)
    let status (p : Srv × Nat) : Srv × Word := (p.1, BitVec.ofNat 64 p.2)
    here (u.x rs1).toNat 128 → (u.x rs1).toNat % 128 = 0 → (∀ k, u.fabPlace u.ws.toNat x ≠ .node k) →
    (∀ v, u.fullService = true → u.findGroup u.ws (u.x rs1) = .ok v →
      completes (.bcommit m rd rs1 rs2) s (served true (status (v.commit u.ws x)))
      ∧ completes (.rqfork m rd rs1 rs2) s (served true (status (v.fork u.ws x)))
      ∧ completes (.rqevict m rd rs1 rs2) s (served true (status (v.evictReq x)))
      ∧ completes (.rqstat m rd rs1 rs2) s (served false (v.statReq x))
      ∧ completes (.slotrd m rd rs1 rs2) s (served false (v, v.readSlot x))
      ∧ completes (.kvrel m rd rs1 rs2) s (served true (status (v.drop x)))
      ∧ (∀ bs, x % 16 = 0 → x < globalEnd → u.vread u.ws.toNat x 16 = .ok (bs, false) →
          completes (.kvlook m rd rs1 rs2) s (served true (({ v with s := v.s.vsee u.ws.toNat x 16 } : Srv).lookup (leNat bs)))))
    ∧ (u.fullService = true → completes (.bform m rd rs1 rs2) s (back true (u.doBform u.ws (u.x rs1)).1 (BitVec.ofNat 64 (u.doBform u.ws (u.x rs1)).2)))
    ∧ (u.fullService = true → tileBase ≤ (u.x rd).toNat → (u.x rd).toNat - tileBase + 512 ≤ storeSize → (u.x rd).toNat % 64 = 0 →
        u.tile.locks = [] → u.tile.poison = [] → completes (.kvapp m rd rs1 rs2) s (fun t => ∃ w : State, { w with tiles := u.tiles } = u
          ∧ (∀ n, w.tileAt n = u.tileAt n) ∧ ∀ v, w.findGroup u.ws (u.x rs1) = .ok v →
            served true (status (v.append x ((List.range 512).map fun i => u.tile.byte ((u.x rd).toNat - tileBase + i)))) t))
    ∧ (∀ st, u.fullService = true → u.findGroup u.ws (u.x rs1) = .error st → exec (.rqstat m rd rs1 rs2) s = .next (waitsFor .reply (wentOn (u.pc + 4)
        { u.owes rd with flights := u.flights ++ [.reply u.src rd (BitVec.ofNat 64 st)] })))
    ∧ (u.fullService = false → completes (.slotrd m rd rs1 rs2) s (back false u 1) ∧ completes (.kvrel m rd rs1 rs2) s (back true u 1))
    ∧ (∀ ps v w1 w2 qe oe sl, u.fullService = true → u.released u.th.outs u.src .pkg = true → u.engRun u.agentEng needLoad (u.x rs1).toNat 64 = .ok ps →
        (∀ p ∈ ps, ∀ a k pa, p.1 ≠ EPlace.node a k pa) →
        let w := u.engTouchAll u.agentEng ps
        let desc := u.engBytes u.agentEng ps
        let d := leNat desc
        w.findGroup w.ws (daMGD d) = .ok v → w.ttRead w.who w.curTile w.ws (daQTID d) = .ok (w1, some qe) → w1.ttRead w1.who w1.curTile w1.ws (daOTID d) = .ok (w2, some oe) →
        daBad d v.g.nlayer = false → daTensorBad qe = false → daTensorBad oe = false → w2.vread w2.ws.toNat (daSLIST d) (2 * daNSL d) = .ok (sl, false) →
        (w2.die (w2.curTile / 256)).dattn.length < 16 →
        let w3 := w2.vsee w2.ws.toNat (daSLIST d) (2 * daNSL d)
        completes (.dattn m rd rs1 rs2) s (fun t => t = committedTo (w2.pc + 4)
          ((w3.setDie (w2.curTile / 256) { w3.die (w2.curTile / 256) with dattn := (w3.die (w2.curTile / 256)).dattn ++
            [{ src := w2.src, addr := w.x rs1, gid := v.g.pa, desc := desc, slist := chop 2 (daNSL d) sl, qe := qe, oe := oe, fenceE := w2.th.fenceE }] }).setX rd 0)))

/-- 19 R325, R328, R333, R339 to R341: what the serving operations do to a group: a forming opens the group and counts the step, a commit
closes it, each turned away where it is not its turn; a mark for eviction, a cancellation, which faults a request whose block list
cannot be read (19 R323); a freed record; the words of records and slots;
the hold that a lookup takes and a release gives back; a fork adds a record.
Orders the spec leaves open are the model's (log 55, log 57). -/
def Obligations.ServingEffects : Prop :=
  ∀ (v : Srv) (ws : Wsid) (x : Nat),
    (v.g.opn = false → (v.form x).1.g.step = v.g.step + 1 ∧ (v.form x).1.g.opn = true ∧ (v.form x).2 % 256 = 0)
    ∧ (v.g.opn = true → (v.form x).2 = 1 ∧ (v.form x).1.g.step = v.g.step ∧ (v.form x).1.g.opn = true ∧ (v.form x).1.s.reqs = v.s.reqs)
    ∧ (v.g.opn = false → (v.commit ws x).2 = 1 ∧ (v.commit ws x).1.s.reqs = v.s.reqs)
    ∧ (v.g.opn = true → x % 64 = 0 → x < globalEnd → (∀ sl, sl < 512 → (v.slotHeld sl).isSome = true → (v.rdIn ws (x + 8 * sl) 8).isSome = true) →
        (v.commit ws x).1.g.opn = false ∧ (v.commit ws x).2 % 256 = 0)
    ∧ (v.g.opn = true → x % 64 ≠ 0 → (v.commit ws x).2 = 5 ∧ (v.commit ws x).1.g.opn = true)
    ∧ (∀ i cancel, x / 2 ^ 33 = 0 → cancel = (x / 2 ^ 32 % 2 == 1) → v.find (x % 2 ^ 32) = some i → (v.req i).w.length = 16 →
        ((v.req i).f rqSTATE = 2 → (v.evictReq x).2 = 0 ∧ ((v.evictReq x).1.req i) = { v.req i with evict := some cancel })
        ∧ ((v.req i).waiting = true → cancel = true → (v.evictReq x).2 = 0 ∧ ((v.evictReq x).1.req i).f rqNBLK = 0
            ∧ ((∀ k, k < (v.req i).f rqNBLK → (v.blockAt (v.req i) k).isSome = true) →
                ((v.evictReq x).1.req i).f rqSTATE = 3 ∧ ((v.evictReq x).1.req i).f rqFCODE = 0x13)
            ∧ (∀ k, k < (v.req i).f rqNBLK → v.blockAt (v.req i) k = none →
                ((v.evictReq x).1.req i).f rqSTATE = 4 ∧ ((v.evictReq x).1.req i).f rqFCODE = 2))
        ∧ ((v.req i).waiting = true → cancel = false → v.evictReq x = (v, 0)))
    ∧ (∀ i, x / 2 ^ 37 = 0 → v.find (x % 2 ^ 32) = some i → (v.statReq x).2 = (v.req i).w.getD (x / 2 ^ 32 % 16) 0
        ∧ (x / 2 ^ 36 % 2 = 0 → (v.statReq x).1 = v)
        ∧ (x / 2 ^ 36 % 2 = 1 → (v.req i).f rqSTATE = 3 → (v.req i).f rqSLOT = 0x3FF → (v.statReq x).1.s.reqs = v.s.reqs.eraseIdx i))
    ∧ (x / 2 ^ 37 = 0 → v.find (x % 2 ^ 32) = none → v.statReq x = (v, 0xFFFF_FFFF_FFFF_FFFF))
    ∧ (x < 512 → v.readSlot x = ((sget x v.g.slots).getD 0).extractLsb' 0 64 ∧ v.readSlot (1024 + x) = ((sget x v.g.slots).getD 0).extractLsb' 64 64)
    ∧ ((v.look x).1 = none → (v.lookup x).2 = 0x8000_0000_0000_0000)
    ∧ (∀ h, (v.look x).1 = some h → (v.lookup x).2 = BitVec.ofNat 64 (h.2 / 2 ^ 192 % 2 ^ 32))
    ∧ (x / 2 ^ 32 = 0 → v.g.nblks ≤ x → v.drop x = (v, 5))
    ∧ (∀ n, x < v.g.nblks → v.ctl? x = some n → (n / 2 ^ 128 % 2 ^ 16 = 0 → v.drop x = (v, 5))
        ∧ (n / 2 ^ 128 % 2 ^ 16 ≠ 0 → (v.drop x).2 = 0)
        ∧ (2 ≤ n / 2 ^ 128 % 2 ^ 16 → (v.drop x).1 = v.putCtl x (n - 2 ^ 128)))
    ∧ ((v.fork ws x).2 = 0 → v.g.opn = false ∧ (v.fork ws x).1.s.reqs.length = v.s.reqs.length + 1)

/-! ## What happens without an instruction -/

/-- 01 R11, R17, 02 R28, 05 R105, R107, R108, R111, R117, 06 R121, R122, R125, R126, R134, 09 R187, 15 R281, R293: the steps of a tile's
agents: the reply that brings rd, the limits of waits, retries, the delivery of a trap, a pre-emption, the switch to the next Ready context,
the forced switch, a message that waited, the image of a side core and its trap, the pickup of a record.
That limits pass and that replies come at steps of their own is the model's (log 3, log 4, log 7). -/
def Obligations.AgentEvents : Prop :=
  ∀ (s : State) (n i : Nat) (c : Fin 8),
    let T := s.tileAt n
    let k := T.ctx[c]
    let put (x : Context) : State := s.setTile n { T with ctx := T.ctx.set c x }
    let canRun (d : Fin 8) : Prop := T.ctx[d].st = .ready ∧ T.ctx[d].evict = none
    (∀ src rd v, s.flights[i]? = some (.reply src rd v) → src.tile = n → src.agent = .ctx c → k.inc = src.inc → k.st = .waiting .reply →
      (k.evict ≠ none → k.pending = none → completes (.replyArrival i) s (fun t => t = s))
      ∧ (k.evict = none ∨ k.pending ≠ none → completes (.replyArrival i) s (fun t => (t.tileAt n).ctx[c].st = .ready ∧ (t.tileAt n).ctx[c].th.readX rd = (if rd = 0 then 0 else v)
        ∧ (∀ r, r ≠ rd → (t.tileAt n).ctx[c].th.readX r = k.th.readX r) ∧ t.flights = s.flights.eraseIdx i)))
    ∧ (∀ ph, k.st = .waiting (.wfi ph) → completes (.wfiTimeout n c) s (fun t => t = put { k with st := .ready, expired := true }))
    ∧ (∀ ch, k.st = .waiting (.barrier ch) → k.gbtimeout ≠ 0 → completes (.gbwaitTimeout n c) s (fun t => t = put { k with st := .ready, expired := true }))
    ∧ (∀ a off p, a.val = c.val → k.st = .waiting (.phase off p true) → completes (.wwaittTimeout n a) s (fun t => t = put { k with st := .ready, expired := true }))
    ∧ (k.st = .waiting .frame → k.retryTick < s.tick → completes (.suspensionRetry n c) s (fun t => t = put { k with st := .ready, retryTick := s.tick }))
    ∧ (∀ tr, k.st = .waiting .trap → k.pending = some tr → s.quiet n c = true → completes (.trapDelivery n c) s (fun t => (t.tileAt n).ctx[c].st = .free))
    ∧ (k.st = .ready → k.pending = none → k.evict = none → (k.preemptNeed 1 (T.mayFlag (s.srcOf n c))).needsFrame = false →
        completes (.preemption n c) s (fun t => t = (s.setTile n (T.stopIssue c 1)).setCx n c { (T.stopIssue c 1).ctx[c] with frame := none }))
    ∧ (∀ why, k.st = .ready ∨ k.st = .waiting .reply → k.pending = none → k.evict = some why → T.tensorBusy (s.srcOf n c) = false → s.storesOut (s.srcOf n c) = false →
        (k.preemptSave (if why = 2 then 2 else 1)).needsFrame = false → completes (.preemption n c) s (fun t => (t.tileAt n).ctx[c].st = .free
          ∧ ∃ d : Fin 4, ∃ r ∈ t.dies[d].resume, r.record = k.recAddr ∧ r.ws = k.wsid ∧ r.prio = k.prio))
    ∧ (∀ j, j < 8 → c.val = (T.last.val + 1 + j) % 8 → canRun c → (∀ j', j' < j → ∀ d : Fin 8, d.val = (T.last.val + 1 + j') % 8 → ¬ canRun d) →
        T.run = none → completes (.contextSwitch n) s (fun t => t = s.setTile n { T with ctx := T.ctx.set c { k with st := .running }, run := some c }))
    ∧ (∀ d, T.run = some c → k.runlimit ≠ 0 → canRun d → completes (.runlimitExpiry n) s (fun t => t = s.setTile n
        { T with ctx := T.ctx.set c { k with st := .ready, claim := false }, run := none, last := c }))
    ∧ (∀ x rest, T.mailWait = x :: rest → T.mail.length < 64 → completes (.mailboxDeferredPlace n) s (fun t =>
        (t.tileAt n).mail = T.mail ++ [x] ∧ (t.tileAt n).mailWait = rest))
    ∧ (∀ sd ps u, (T.side sd).st = .loading →
        let id : EngId := { tile := n, who := whoOf n (if sd = .loader then 8 else 9), ws := (T.side sd).wsid, locks := false }
        s.engAll id needLoad (chunksOf (T.side sd).goImg.toNat (loadLen (T.side sd).goLen)) [] = .done ps none u →
        let b := ps.flatMap ((ps.foldl (fun w r => (w.engTouchAll id r).engNomem id r) u).engBytes id)
        completes (.sideImageLoaded n sd) s (fun t => ((t.tileAt n).side sd).st = .running ∧ ((t.tileAt n).side sd).th.pc = 0
          ∧ ∀ j (h : j < b.length), mget ((t.tileAt n).side sd).imem j = b[j]))
    ∧ (∀ sd tr, (T.side sd).st = .running → (T.side sd).pending = some tr → completes (.sideCoreTrap n sd) s (fun t =>
        ((t.tileAt n).side sd).st = .trapped ∧ ((t.tileAt n).side sd).tcode = tr.code))
    ∧ (∀ r s1 st, s.fqRetry[i]? = some r → r.since < s.tick → s.enqueue r.ws r.queue r.packet = (s1, st) →
        (st = 0 → completes (.faultQueueRetry i) s (fun t => t = { s1 with fqRetry := s1.fqRetry.eraseIdx i }))
        ∧ (st = 1 → completes (.faultQueueRetry i) s (fun t => t = { s1 with fqRetry := s1.fqRetry.set i { r with since := s1.tick } })))
    ∧ (∀ (d : Fin 4) r x panels, n / 256 = d.val → s.powered = true → (∀ q : Fin 4, s.dies[q].queues = []) → s.dies[d].heads = [] → s.dies[d].resume = [r] →
        s.wsValid r.ws.toNat = true → s.pickTile d.val r.ws = some n → T.freeCtxs.head? = some c →
        (s.setDie d.val { s.die d.val with resume := [] }).readRecord r.ws k.inc r.record = some { k := x, arg := [], argBad := [], panels := panels, frame := 0 } →
        s.ofFailedGang r = false →
        completes (.dispatch d) s (fun t => (t.tileAt n).ctx[c] = { x with claim := false } ∧ t.dies[d].resume = [])
        ∧ completes (.recordPickup n c) s (fun t => (t.tileAt n).ctx[c] = { x with claim := false } ∧ t.dies[d].resume = []))

/-- 10 R213 to R218, 11 R225, 09 R196, R197, 15 R295: the steps of messages, furrows and copies: an expected message in a good binding performs
and is accepted, another is refused by its reason; a refusal and an acceptance reach the window; a replay, a limit; a datum, a credit; a piece
between two places of the tile store, a copy that ends, a completion that is placed, a committed slot that is injected.
The cut into steps is the model's (log 7). -/
def Obligations.TrafficEvents : Prop :=
  ∀ (s : State) (n i : Nat) (ch : Fin 4),
    let T := s.tileAt n
    let c := T.chans[ch]
    let f := s.flights[i]?
    let lessOne := s.flights.eraseIdx i
    (∀ (dst : BitVec 12) gen p seq w w1, f = some (.pkt n dst gen p seq w) → s.advance w = some w1 → completes (.packetArrival i) s (fun t =>
        t = { s with flights := s.flights.set i (.pkt n dst gen p seq w1) }))
    ∧ (∀ (dst : BitVec 12) gen p seq w m, f = some (.pkt n dst gen p seq w) → w.path.length ≤ 1 → w.bad = [] →
      (T.window dst.toNat).msgs.find? (·.seq == seq) = some m →
      let e := s.role dst.toNat
      let good := e.v = true ∧ e.ptile.toNat = p ∧ e.gen = gen
      (¬ good → s.expected n dst.toNat ≤ seq → completes (.packetArrival i) s (fun t => t = { s with flights := s.flights.set i (.nack n dst seq .moved) }))
      ∧ (good → e.cstate ≠ 3 → e.role = 0 → s.expected n dst.toNat < seq → completes (.packetArrival i) s (fun t =>
          t = { s with flights := s.flights.set i (.nack n dst seq .order) }))
      ∧ (∀ off bs, good → e.cstate ≠ 3 → e.role = 0 → s.expected n dst.toNat = seq → m.body = .put off bs → completes (.packetArrival i) s (fun t =>
          storedAt (s.tileAt p) (t.tileAt p) off bs ∧ t.expected n dst.toNat = seq + 1 ∧ t.flights = s.flights.set i (.accept n dst seq)))
      ∧ (∀ cx l a v, good → e.cstate ≠ 3 → e.role = 0 → s.expected n dst.toNat = seq → m.body = .notify cx l a v → 60 ≤ (s.tileAt p).mail.length →
          completes (.packetArrival i) s (fun t => t = { s with flights := s.flights.set i (.nack n dst seq .full) })))
    ∧ (∀ (dst : BitVec 12) seq y, f = some (.nack n dst seq y) → (T.window dst.toNat).msgs.any (·.seq == seq) = true →
        completes (.nackReceipt i) s (fun t => ((t.tileAt n).window dst.toNat) = { T.window dst.toNat with backoff := true, refusals := if y = .moved then (T.window dst.toNat).refusals else min ((T.window dst.toNat).refusals + 1) 6 }
          ∧ (y = .moved → sget dst.toNat (t.tileAt n).roleCache = none) ∧ t.flights = lessOne))
    ∧ (∀ (dst : BitVec 12) seq m off bs, f = some (.accept n dst seq) → (T.window dst.toNat).msgs.find? (·.seq == seq) = some m → m.body = .put off bs →
        completes (.acceptAck i) s (fun t => ((t.tileAt n).window dst.toNat).msgs = (T.window dst.toNat).msgs.filter (·.seq != seq)
          ∧ ((t.tileAt n).window dst.toNat).refusals = 0 ∧ t.flights = lessOne))
    ∧ (∀ d, (T.window d).backoff = true → s.windowExpired n d = false → completes (.replay n d) s (fun t =>
        (t.tileAt n).window d = { T.window d with backoff := false } ∧ ∃ fl, t.flights = s.flights ++ fl ∧ fl.length = (T.window d).msgs.length))
    ∧ (∀ d, s.windowExpired n d = true → completes (.replayExpiry n d) s (fun t =>
        ((t.tileAt n).window d).msgs = (T.window d).msgs.filter (fun m => decide (m.seq < s.expected n d))))
    ∧ (∀ o fid (ep : BitVec 2) v w g, f = some (.fdatum o fid n ep (some v) w) → w.path.length ≤ 1 → (s.flights.take i).any (Flight.ofFurrow fid) = false →
        T.fsink[ep.toNat]'ep.isLt = some g → g.fid = fid →
        completes (.furrowDatumArrival i) s (fun t => (t.tileAt n).fsink[ep.toNat]'ep.isLt = some { g with buf := g.buf ++ [(v, !w.bad.isEmpty)] } ∧ t.flights = lessOne))
    ∧ (∀ fid (ep : BitVec 2) g, f = some (.fcredit fid n ep) → T.fsrc[ep.toNat]'ep.isLt = some g → g.fid = fid →
        completes (.creditReturn i) s (fun t => (t.tileAt n).fsrc[ep.toNat]'ep.isLt = some { g with credit := g.credit + 1 } ∧ t.flights = lessOne))
    ∧ (c.st = .running → c.over = false → c.stage = none → c.srcE = [] → c.half = [] → c.opt = 0 → s.fenceHoldsCopy n c = false → T.poison = [] →
        let k := min 64 (c.len - c.next)
        let a := c.srcA.toNat + c.next
        let b := c.dstA.toNat + c.next
        tileBase ≤ a → a - tileBase + k ≤ storeSize → tileBase ≤ b → b - tileBase + k ≤ storeSize →
        completes (.copyPiece n ch) s (fun t => (t.tileAt n).chans[ch] = { c with next := c.next + k, done := c.done + k }
          ∧ ∀ j, (t.tileAt n).byte j = if b - tileBase ≤ j ∧ j < b - tileBase + k then T.byte (a - tileBase + (j - (b - tileBase))) else T.byte j))
    ∧ (c.st = .running → c.over = true → c.inAir = 0 → c.stage = none → c.recast = false → c.stop = 0 → completes (.copyCompletion n ch) s (fun t =>
        (t.tileAt n).chans[ch] = { c with st := .posting, status := 0 } ∧ (t.tileAt n).locks = T.locks.filter (fun e => e.2.chan != ch)))
    ∧ (c.st = .posting → c.postCmb = false → c.postQ3 = false → completes (.copyCompletionPlaced n ch) s (fun t =>
        t = s.setTile n { T with chans := T.chans.set ch { c with st := .idle } }))
    ∧ (c.st = .posting → c.postCmb = true → T.mail.length < 60 → completes (.copyCompletionPlaced n ch) s (fun t =>
        (t.tileAt n).chans[ch] = { c with postCmb := false } ∧ ∃ m, (t.tileAt n).mail = T.mail ++ [m] ∧ m.toNat % 2 ^ 8 = 2 ∧ m.toNat / 2 ^ 64 = c.done % 2 ^ 40))
    ∧ (∀ slot late x, T.xsend.find? (·.slot == slot) = some x → T.hasRoom (x.entry.toNat % 2 ^ 12) = true → completes (.scheduledInjection n slot late) s (fun t =>
        (t.tileAt n).xsend = T.xsend.erase x ∧ ((t.tileAt n).window (x.entry.toNat % 2 ^ 12)).msgs.length = (T.window (x.entry.toNat % 2 ^ 12)).msgs.length + 1))

/-- 13 R255 to R271, 06 R374, 18 R314 to R316, 22 R363: the steps of slices, caches, translation and the host port: a registration, its
acknowledgement, a fill, its data, a write-back, a LEAVE, a lapsed replica, a walk, the steward's answer, a line of instructions, the
host's reads, writes, answers and snoops, its access to an unbacked sector (18 R313), a result, a remote access without an answer.
The cut into steps and what the steward and the host answer are the model's (log 7, log 11, log 12). -/
def Obligations.MemoryEvents : Prop :=
  ∀ (s : State) (i : Nat) (src : Src),
    let f := s.flights[i]?
    let lessOne := s.flights.eraseIdx i
    let quiet (pa : Nat) : Prop := sget (pa / 64) s.hold = none ∧ s.biOn (pa / 64) = false ∧ s.biOrder = []
    let first : Prop := s.flights.take i = []
    (∀ ord w l, f = some (.regist src ord w) → first → quiet (8 * w) → sget w (s.tileAt src.tile).l1 = some l → l.st = .registered →
      completes (.storeRegistration i) s (fun t => sget w t.reg = some { holder := .tile src.tile, ws := src.ws } ∧ ∃ d, t.flights[i]? = some (.ack src (some d)) ∧ d.word = w))
    ∧ (f = some (.ack src none) → completes (.registrationAck i) s (fun t => t = { s with flights := lessOne }))
    ∧ (∀ tag pos pa len keep sealed', f = some (.fill src tag pos pa len keep sealed') → first → quiet pa → quiet (pa + len - 1) →
        (∀ w, pa / 8 ≤ w → w < (pa + len + 7) / 8 → sget w s.reg = none) → completes (.sliceFill i) s (fun t =>
          ∃ kept got, t.flights = lessOne ++ [.data src tag pos pa len kept sealed' got]))
    ∧ (∀ tag pos pa len inst sealed' got need, f = some (.fwd src tag pos pa len inst sealed' got need) → completes (.forwardedRead i) s (fun t =>
        t = { s with flights := lessOne ++ [.data src tag pos pa len inst sealed' (got ++ need.map s.latestWord)] }))
    ∧ (∀ tag bs p, f = some (.answer src tag bs p) → completes (.remoteResultArrival i []) s (fun t => t = ({ s with flights := lessOne } : State).deliver src tag 0 bs p))
    ∧ (∀ n line, completes (.writeBack n line) s (fun t => (t.tileAt n).linePresent line = false))
    ∧ (∀ n, f = some (.leave n) → completes (.leave i) s (fun t => t.flights = lessOne ∧ t.mem = s.mem
        ∧ (∀ w r, sget w t.reg = some r → r.holder ≠ .tile n)
        ∧ (keysRise s.reg = true → ∀ w r, sget w s.reg = some r → r.holder ≠ .tile n → sget w t.reg = some r)))
    ∧ (∀ line, completes (.registryErrorRecall line) s (fun t => ∀ e ∈ t.cu, e.1 / 16 ≠ line))
    ∧ (∀ line h, completes (.replicaLapse line h) s (fun t => (∀ c ∈ t.coppice, c.line = line → h ∉ c.helpers) ∧ ∀ c ∈ s.coppice, c.line ≠ line → c.helpers ≠ [] → c ∈ t.coppice))
    ∧ (∀ w, s.walks[i]? = some w → w.steward = false → (s.walkPage w.unit w.ws (w.page * 4096)).2 = none → w.joined ≠ [] → s.stewardRoom w = true →
        completes (.tableWalk i) s (fun t => t.walks = s.walks.set i { w with steward := true }))
    ∧ (∀ w l j, s.walks[i]? = some w → w.steward = false → (s.walkPage w.unit w.ws (w.page * 4096)).2 = some l → w.joined = [j] → j.met l = true →
        j.who % 16 ≤ 9 → s.walkQ = [] → completes (.tableWalk i) s (fun t => t.walks = s.walks.eraseIdx i
          ∧ ∃ k, sget k (t.tileAt (j.who / 16)).tlb = some { ws := w.ws, va := l.base, size := l.size, pa := l.pa, r := l.r, w := l.w, x := l.x, sealed := l.sealed }))
    ∧ (∀ w, s.walks[i]? = some w → w.steward = true → s.walkQ = [] →
        let same (o : Walk) : Bool := o.steward && o.ws == w.ws && o.page == w.page
        completes (.stewardPageService i .refuse) s (fun t => t.walks = s.walks.filter (fun o => !same o)
          ∧ t.refused = s.refused ++ (((s.walks.filter same).flatMap (·.joined)).map (fun j =>
              ({ who := j.who, ws := w.ws, page := w.page, code := if (s.leafOf w.ws.toNat (w.page * 4096)).isSome then 6 else 5 } : Refused))))
        ∧ ∀ level pte pa, s.pteAddr w.ws.toNat (w.page * 4096) level.toNat = some pa → completes (.stewardPageService i (.install level pte)) s (fun t =>
            t = (let b := s.putNat pa 8 pte.toNat 0xFFF
                 { b with walks := b.walks.map fun o => if o.ws = w.ws ∧ o.page = w.page then { o with steward := false } else o })))
    ∧ (∀ l ws, (s.role l.toNat).v = true → completes (.stewardPageService i (.owner l ws)) s (fun t => t = s.setRole l.toNat { s.role l.toNat with owner := ws }))
    ∧ (∀ pa sl, f = some (.ifill src pa sl) → pa % 128 = 0 → quiet pa → quiet (pa + 64) → completes (.icacheFill i) s (fun t => t.flights = lessOne
        ∧ ∃ l ∈ (t.tileAt src.tile).icache, l.ws = src.ws ∧ l.line = pa / 128))
    ∧ (∀ pa, s.hostMay pa = true → s.filterVictim pa = none → completes (.hostReadShared pa) s (fun t => sget (pa / 64) t.hold = some .hs)
        ∧ completes (.hostReadOwn pa) s (fun t => sget (pa / 64) t.hold = some .ho))
    ∧ (∀ pa v, s.hostMay pa = true → s.filterVictim pa = some v → completes (.hostReadOwn pa) s (fun t => t = { s with bi := nsAdd (2 * (v / 64) + 1) s.bi }))
    ∧ (∀ pa data, (∀ a ∈ sectorsOf pa data.length, s.hostMay a = true ∧ sget (a / 64) s.hold ≠ some .ho) →
        completes (.hostUncachedWrite pa data) s (fun t => t = (s.writeRun pa data 0xFFF).noteNomem pa data.length 0xFFF))
    ∧ (∀ pa data keep, isHbm pa = true → backed s pa = false →
        let t := s.noteNomem (pa / 64 * 64) 64 0xFFF
        exec (.hostReadShared pa) s = .next t ∧ exec (.hostReadOwn pa) s = .next t ∧ exec (.hostWriteback pa data keep) s = .next t)
    ∧ (∀ pa data keep, s.hostMay pa = true → sget (pa / 64) s.hold = some .ho → completes (.hostWriteback pa data keep) s (fun t =>
        sget (pa / 64) t.hold = if keep = true then some .hs else none))
    ∧ (∀ pa data, s.biOn (pa / 64) = true → sget (pa / 64) s.hold = some .hs → completes (.backInvalidationResponse pa data) s (fun t =>
        t.biOn (pa / 64) = false ∧ sget (pa / 64) t.hold = if nsMem (2 * (pa / 64) + 1) s.bi = true then none else some .hs))
    ∧ (∀ pa h, regionOf pa = .host h → completes (.hostSnoop pa) s (fun t => sget (pa / 64) t.hostHeld = none))
    ∧ (∀ ord k pa bs port since, f = some (.fabWrite src ord k pa bs port since) → (s.nodeUp k = false ∨ since + 100 ≤ s.tick) → completes (.remoteAccessTimeout i) s (fun t => t.flights = lessOne ∧ t.mem = s.mem))

/-- 11 R225 to R237, R241, R250, R251, 21 R357: the steps of the census: a tick, an epoch's end, a lease's end, a deadline, what a tile in
moving has still to do and its new binding, a page that takes its new place, the broadcast of a changed entry.
The cut into steps is the model's (log 4, log 7). -/
def Obligations.CensusEvents : Prop :=
  ∀ (s : State) (l : BitVec 12) (d : Fin 4) (i : Nat),
    let e := s.role l.toNat
    let n := e.ptile.toNat
    let past (x : BitVec 32) : Prop := (x - BitVec.ofNat 32 s.tick).toInt ≤ 0
    let cleared (t : State) : Prop := (sget l.toNat t.notices).any (·.cleared) = true
    let ticked : State := { s with tick := s.tick + 1, mgmt := { s.mgmt with clock := if s.mgmt.held = true then 10 else s.mgmt.nextClock },
                                   ceSeen := if (s.tick + 1) % 50 = 0 then Vector.replicate 5 [] else s.ceSeen }
    let nothingDue : Prop := ∀ k, ticked.leaseDue k = false ∧ ticked.deadlineDue k = false
    completes .tick s (fun t => t.tick = s.tick + 1 ∧ t.mgmt.clock = (if s.mgmt.held = true then 10 else s.mgmt.nextClock)
      ∧ (nothingDue → s.powered = true → t = ticked)
      ∧ (nothingDue → s.powered = false → (∀ x ∈ s.tiles, x.2.residents = []) → t.tiles = [] ∧ t.tick = s.tick + 1))
    ∧ (∀ pc ps pl rows, 50 * s.dies[d].epoch ≤ s.tick → s.censusBusy d.val = false → completes (.epochEnd d pc ps pl rows) s (fun t =>
        t.dies[d].epoch = s.tick / 50 + 1 ∧ t.dies[d].refused = 0 ∧ t.tick = s.tick))
    ∧ (e.v = true → e.lse = true → past e.lexp → (e.cstate ≠ 1 ∨ e.xwin = true) → completes (.leaseExpiry l) s (fun t =>
        t = s.setRole l.toNat { e with lse := false }))
    ∧ (e.v = true → e.cstate = 2 → past e.ndl → completes (.noticeDeadline l e.nid) s (fun t => t.role l.toNat = { e with cstate := 3 }
        ∧ ∀ k, k ≠ l.toNat → t.role k = s.role k))
    ∧ (e.v = true → e.cstate = 3 → ¬ cleared s → e.role = 2 → s.furrowsThrough n = [] → s.draining n = false → completes (.enterMoving l) s cleared)
    ∧ (e.v = true → e.cstate = 3 → ¬ cleared s → e.role = 1 → s.pageMoving l.toNat = false → (s.tileAt n).slots = [] → completes (.enterMoving l) s cleared)
    ∧ (e.v = true → e.cstate = 3 → ¬ cleared s → e.role = 0 → (s.tileAt n).residents = [] → (∀ c : Fin 4, (s.tileAt n).chans[c].st = .idle) →
        (∀ d : Fin 4, ∀ p ∈ s.dies[d].heads, p.tile ≠ some n) → completes (.enterMoving l) s (fun t => cleared t ∧ (t.tileAt n).store = []
          ∧ (t.tileAt n).mail = [] ∧ (t.tileAt n).l1 = [] ∧ (t.tileAt n).icache = []))
    ∧ (e.v = true → e.cstate = 3 → cleared s → e.role ≠ 0 → e.trole ≠ 0 → completes (.moveComplete l) s (fun t =>
        t.role l.toNat = { e with role := e.trole, gen := e.gen + 1, cstate := 0 } ∧ (t.tileAt n).store = [] 
        ∧ ∀ x, sget l.toNat s.notices = some x → sget l.toNat t.notices = some { x with cleared := false }))
    ∧ completes (.pageFlip i) s (fun t => t.moves = s.moves.eraseIdx i)
    ∧ (∀ m r k slot, s.moves[i]? = some m → s.rgnOf m.ows m.rid = some r → m.dst = some (k, slot) → s.mgmt.scmd ≠ 6 →
        completes (.pageFlip i) s (fun t => sget slot (t.tileAt (s.role k).ptile.toNat).slots = some { ws := BitVec.ofNat 12 r.ows, region := r.rid, page := m.page }))
    ∧ (∀ j, completes (.roleCacheInvalidation j l) s (fun t => sget l.toNat (t.tileAt j).roleCache = none
        ∧ ∀ k, k ≠ l.toNat → sget k (t.tileAt j).roleCache = sget k (s.tileAt j).roleCache))

/-- 15 R284, R289, R292, R296 to R300, 19 R342: the steps of a die's scheduler: a range split for an idle context, the headgate's
release of a packet beyond the budget, a staging deadline, a counter's signal and its packet tried again, the release of a barrier, the
loss of a gang member, the end of a decode attention.
The cut into steps, the release of a packet beyond the budget and what a lost member does are the model's readings (log 7, log 40, log 41, log 53). -/
def Obligations.SchedulerEvents : Prop :=
  ∀ (s : State) (d : Fin 4) (n : Nat),
    let D := s.dies[d]
    (∀ rec e a i w j, s.canPlace d.val = false → (s.dieTiles d.val).any (fun p => (s.role p.1).takesWork && s.openCtx p.2 != 0) = true →
      s.splitCandidate d.val = some (rec, e) → e.work = .range a i → s.rangeSplit e.ws a i e.queue = some (w, j) → completes (.schedulerSplit d) s (fun t => t = w))
    ∧ (∀ p, s.powered = true → (∀ q : Fin 4, s.dies[q].queues = []) → D.heads = [p] → p.admitted = false → p.released = false → p.todo = [] → s.queueOpen p.ws p.queue = true →
        s.budget d.val < p.total → completes (.headgateAdmission d) s (fun t => t.dies[d].heads = [{ p with released := true, unstaged := true }]))
    ∧ (∀ p, D.heads[n]? = some p → p.released = false → pkSdl (pktHead p.bytes) ≠ 0 → p.since + pkSdl (pktHead p.bytes) ≤ s.tick →
        completes (.stagingDeadline d n) s (fun t => t.dies[d].heads = D.heads.set n { p with released := true, unstaged := p.unstaged || !p.staged, todo := [] }))
    ∧ (∀ g, s.signals[n]? = some g → (s.signals.take n).any (fun h => h.counter == g.counter) = false → completes (.counterSignal n) s (fun t =>
        t = (({ s with signals := s.signals.eraseIdx n } : State).signal g.ltid g.ws g.counter).1))
    ∧ (∀ r s1 st, s.cntRetry[n]? = some r → r.since < s.tick → s.enqueue r.ws r.queue r.packet = (s1, st) →
        (st = 0 → completes (.counterEnqueueRetry n) s (fun t => t = { s1 with cntRetry := s1.cntRetry.eraseIdx n }))
        ∧ (st = 1 → completes (.counterEnqueueRetry n) s (fun t => t = { s1 with cntRetry := s1.cntRetry.set n { r with since := s1.tick } }))
        ∧ (st ≠ 0 → st ≠ 1 → completes (.counterEnqueueRetry n) s (fun t =>
            t = ({ s1 with cntRetry := s1.cntRetry.eraseIdx n } : State).faultRecord r.ws.toNat 4 r.ltid 0 r.addr.toNat)))
    ∧ (∀ ch, s.barrierReady d.val ch = true → completes (.barrierRelease d ch) s (fun t => (t.chan d.val ch).arrived = [] ∧ (t.chan d.val ch).votes = []))
    ∧ (∀ c k x die id, k = s.cx n c → k.st ≠ .free → k.gang = true → s.strand k.wsid k.recAddr = some x → x.work = .gang die id →
        completes (.memberLost n c) s (fun t => (t.cx n c).st = .free))
    ∧ (∀ o rest, D.dattn = o :: rest → s.fenceHolds o.src.tile o.src o.fenceE = false → (s.tileAt o.src.tile).tq = [] →
        completes (.dattnCompletion d) s (fun t => t.dies[d].dattn = rest))

/-- 05 R112, R113, 11 R239 to R241, R247, 15 R280: the steward's commands: with good arguments each does its work and ends with status 0, a
code that is none ends with BADCMD, and while one runs another is dropped; the registers of the window; an ENQ window. RGNMAKE takes the
places that free values name (log 10), or ends with NOMEM where they are not to be had.
That every command but RGNFREE completes at its write is the model's (log 61). -/
def Obligations.StewardCommands : Prop :=
  ∀ (s : State),
    let a (j : Fin 7) : Nat := (s.mgmt.sarg[j]).toNat
    let idle : Prop := s.mgmt.sstat ≠ 0x80
    let ended (t : State) : Prop := t.mgmt.sstat = 0 ∧ t.mgmt.scmd = 0
    let taken : State := { s with fresh := s.fresh + 1 }
    (s.mgmt.sstat = 0x80 → ∀ i ∈ [Instr.wswrite, .tlbinv, .ttflush, .rgnmake, .rgngrant, .rgnfree, .forcecast, .taskstop, .badcmd 9], exec i s = .next s)
    ∧ (idle → a 0 < 4096 → a 1 % 8 = 0 → a 1 < 120 → completes .wswrite s (fun t => ended t
        ∧ (a 1 = 56 → (∀ n, ∀ x ∈ (t.tileAt n).tlb, x.2.ws.toNat ≠ a 0) ∧ ∀ x ∈ t.walkCache, x.ws.toNat ≠ a 0)
        ∧ ∀ d o, s.mgmt.wstBase.toNat % 2 ^ 20 = 0 → regionOf s.mgmt.wstBase.toNat = .hbm d o → backed s (s.wsAddr (a 0) (a 1 / 8)) = true →
            s.hold = [] → s.sealedTrace (s.wsAddr (a 0) (a 1 / 8) / 128) = false →
            t.wsWord (a 0) (a 1 / 8) = s.mgmt.sarg[2] ∧ ∀ w k, w < 4096 → k < 32 → (w ≠ a 0 ∨ k ≠ a 1 / 8) → t.wsWord w k = s.wsWord w k))
    ∧ (idle → a 0 < 4096 → s.wsValid (a 0) = true → completes .tlbinv s (fun t => ended t ∧ ∀ n, (∀ x ∈ (t.tileAt n).tlb, x.2.overlaps (a 0) (a 1) (a 2) = false)
        ∧ ∀ x ∈ (t.tileAt n).icache, x.ws.toNat ≠ a 0))
    ∧ (idle → a 0 < 4096 → s.wsValid (a 0) = true → a 1 < 1024 → 0 < a 2 → a 2 ≤ 1024 → completes .ttflush s (fun t => ended t
        ∧ ∀ n, ∀ x ∈ (t.tileAt n).tt, x.ws.toNat = a 0 → x.tid.toNat < a 1 ∨ a 1 + a 2 ≤ x.tid.toNat))
    ∧ (idle → a 0 < 4096 → s.wsValid (a 0) = true → s.wsWord (a 0) wSWBASE ≠ 0 → a 1 < 2 ^ min ((s.wsWord (a 0) wSWCTL).toNat % 32) 16 → 0 < a 2 → a 2 ≤ 65535 →
        a 3 < 4 → a 4 < 4096 → s.rgnOf (a 0) (a 1) = none → completes .rgnmake s (fun t =>
          if taken.spanFree (a 3) (Config.regionBack s.fresh) (a 2 * pageSize) pageSize = true ∧ taken.spanFree (a 3) (Config.regionTable s.fresh) (8 * a 2) 8 = true
              ∧ spansMeet (Config.regionBack s.fresh) (a 2 * pageSize) (Config.regionTable s.fresh) (8 * a 2) = false
          then ended t ∧ t.mgmt.sres = BitVec.ofNat 64 (Config.regionBack s.fresh) else t = taken.endCommand scNOMEM 0))
    ∧ (∀ r, idle → a 0 < 4096 → s.wsValid (a 0) = true → s.rgnOf (a 0) (a 1) = some r → r.grants = 0 → a 2 < 4096 → (a 3 = 1 ∨ a 3 = 3) →
        completes .rgngrant s (fun t => ended t ∧ t = (s.putNat (r.desc + 16) 8 (a 2 + a 3 * 2 ^ 12) 0xFFF).endCommand 0 0))
    ∧ (idle → a 0 < 4096 → s.wsValid (a 0) = true → (s.rgnOf (a 0) (a 1)).isSome = true → a 1 ≠ 0 →
        (s.regionMoving (a 0) (a 1) = true → completes .rgnfree s (fun t => t.mgmt.sstat = 0x80 ∧ t.mgmt.scmd = 6))
        ∧ (s.regionMoving (a 0) (a 1) = false → completes .rgnfree s (fun t => ended t
            ∧ ∀ n, ∀ p ∈ (t.tileAt n).slots, ¬ (p.2.ws.toNat = a 0 ∧ p.2.region = a 1))))
    ∧ (idle → a 0 < 4096 → a 1 ≤ 2 → (s.role (a 0)).v = true → (s.role (a 0)).cstate.toNat < 2 → completes .forcecast s (fun t => ended t
        ∧ (t.role (a 0)).cstate = 2 ∧ (t.role (a 0)).trole.toNat = a 1))
    ∧ (idle → a 1 < 4096 → s.wsValid (a 1) = true → (∀ d : Fin 4, s.dies[d].heads = []) → completes .taskstop s (fun t => t = s.endCommand 0 0))
    ∧ (∀ code : Word, idle → 8 < code.toNat → completes (.badcmd code) s (fun t => t = s.endCommand 1 0))
    ∧ (∀ (d : Fin 4) v, completes (.mgmtRegisterWrite (BitVec.ofNat 32 (0x1000 + 8 * d.val)) v) s (fun t => t.dies[d] = { s.dies[d] with ctl := v &&& 0x1FFF } ∧ t.mgmt = s.mgmt))
    ∧ (∀ (j : Fin 7) v, idle → completes (.mgmtRegisterWrite (BitVec.ofNat 32 (0x2108 + 8 * j.val)) v) s (fun t =>
        t = { s with mgmt := { s.mgmt with sarg := s.mgmt.sarg.set j v } }))
    ∧ (∀ i : Fin 4, let w := s.mgmt.enq[i]
        let p := w.pkt.take (pkBytes (pktHead w.pkt))
        let r := s.enqueueAs (pkWsid (pktHead p) != w.ws.toNat) w.ws w.addr p
        completes (.enqWindowGo i) s (fun t => t.mgmt.enq[i] = { w with status := BitVec.ofNat 8 r.2, busy := false } ∧ t.mem = r.1.mem ∧ t.dies = r.1.dies)
        ∧ completes (.mgmtRegisterWrite (BitVec.ofNat 32 (0x2210 + 0x400 * i.val)) 1) s (fun t =>
            t = if w.busy = true then s else { s with mgmt := { s.mgmt with enq := s.mgmt.enq.set i { w with busy := true } } }))

/-- 21 R349 to R357: errors found and counted, links taken down, wear, bring-up, images and attestation, clock and temperature.
Link numbers, the order of the checks of an image, what survives and the bounds of the clock are the model's readings (log 15, log 62 to 65), and the junction temperature is a free value (log 4). -/
def Obligations.ReliabilityEvents : Prop :=
  ∀ (s : State),
    (∀ n ws, n < 1024 → (∃ w ∈ ws, 8 * w < storeSize) → completes (.ue (.store n ws)) s (fun t => (∀ b, (t.tileAt n).byte b = (s.tileAt n).byte b)
      ∧ ∀ w, nsMem w (t.tileAt n).poison = (nsMem w (s.tileAt n).poison || (ws.contains w && decide (8 * w < storeSize)))))
    ∧ (∀ ws, completes (.ue (.memory ws)) s (fun t => t.mem = s.mem
        ∧ ∀ w ∈ ws, ∀ d o, regionOf (8 * w) = .hbm d o → backed s (8 * w) = true → nsMem w t.mpoison = true))
    ∧ (∀ n z ws, n < 1024 → completes (.ue (.panel n z ws)) s (fun t => ∀ w ∈ ws, w < 2448 → nsMem w ((t.tileAt n).panel z).poison = true))
    ∧ (∀ n ws, n < 1024 → completes (.ue (.l1 n ws)) s (fun t => ∀ w ∈ ws, ∀ l, sget w (s.tileAt n).l1 = some l →
        sget w (t.tileAt n).l1 = some { l with poison := true }))
    ∧ (∀ (d : Fin 5) u loc, completes (.ce d u loc) s (fun t => t.errCe[d].toNat = min (s.errCe[d].toNat + 1) (2 ^ 32 - 1) ∧ t.mem = s.mem))
    ∧ (∀ (l : BitVec 12) again, l.toNat ≤ 20 → nsMem l.toNat s.linkDown = false →
        let k := if again = true then (sget l.toNat s.linkFails).getD 0 else 0
        (k < 16 → completes (.linkCrcFailure l again) s (fun t => t = { s with linkFails := sset l.toNat (k + 1) s.linkFails }))
        ∧ (16 ≤ k → completes (.linkCrcFailure l again) s (fun t => nsMem l.toNat t.linkDown = true ∧ (l.toNat < 16 → t.idFab.getLsbD l.toNat = false))))
    ∧ (∀ pct days, completes (.wearUpdate pct days) s (fun t =>
        if s.tick < s.wearDue then t = s else t.agePct.toNat = min pct.toNat 100 ∧ t.eolDays = days ∧ s.tick < t.wearDue ∧ t.wearDue % 60_000_000 = 0))
    ∧ (∀ pass : BitVec 4, completes (.powerOnReset pass) s (fun t => t.tick = 0 ∧ t.mem = [] ∧ t.fullService = false ∧ t.mgmt.version = s.mgmt.version
        ∧ (∀ k : Fin 4, pass.getLsbD k.val = true → (∀ j, j < k.val → pass.getLsbD j = false) → t.idDies = 1#4 <<< k.val) ∧ (pass = 0 → t.idDies = 0)))
    ∧ (∀ dies hbm cxl fab node, s.fullService = false → s.powered = true → s.mgmt.booted = true → completes (.fullServiceSwitch dies hbm cxl fab node) s (fun t => t.fullService = true
        ∧ t.idDies = dies ∧ t.idHbm = hbm ∧ t.idCxl = cxl ∧ t.idFab = fab ∧ t.idNode = node ∧ t.tick = s.tick ∧ t.mem = [] ∧ t.mgmt.clock = s.mgmt.clock ∧ t.mgmt.nextClock = 19 ∧ t.mgmt.version = s.mgmt.version))
    ∧ (∀ dies hbm cxl fab node, s.mgmt.booted = false → completes (.fullServiceSwitch dies hbm cxl fab node) s (fun t => t = s))
    ∧ (∀ key img sig ver, completes (.imageVerify key img sig ver) s (fun t => t = { s with
        mgmt := match keyIndex key with
        | none => { s.mgmt with bootstat := 1, booted := false }
        | some i =>
          if Config.keyRevoked i = true then { s.mgmt with bootstat := 3, booted := false }
          else if sigOk key sig img = false then { s.mgmt with bootstat := 2, booted := false }
          else if ver.toNat < s.mgmt.version.toNat then { s.mgmt with bootstat := 4, booted := false }
          else { s.mgmt with bootstat := 0, booted := true, version := ver, fwDigest := BitVec.ofNat 256 (leNat (sha256 img)) } }))
    ∧ (∀ nonce, completes (.attestationRequest nonce) s (fun t => t = { s with mgmt := { s.mgmt with nonce := nonce, attReq := 1 } }))
    ∧ (s.mgmt.attReq ≠ 0 → completes .attestationReportReady s (fun t => t = { s with mgmt := { s.mgmt with
        attReq := 0, report := s.reportBody ++ leBytes (Config.reportSign s.reportBody).toNat 384 } }))
    ∧ (∀ watts, s.fullService = true → completes (.clockStep watts) s (fun t => t = { s with mgmt := { s.mgmt with
        nextClock := if s.mgmt.pwrcap.toNat < watts.toNat then max 10 (s.mgmt.nextClock - 1)
                     else if 100 * watts.toNat ≤ 95 * s.mgmt.pwrcap.toNat then min 19 (s.mgmt.nextClock + 1) else s.mgmt.nextClock } }))
    ∧ (∀ temp : Byte, s.mgmt.held = false → 105 ≤ temp.toNat → completes (.thermalHold temp) s (fun t => t.mgmt = { s.mgmt with held := true } ∧ t.tiles = s.tiles))
    ∧ completes .thermalHoldEnd s (fun t => t = if (Config.junction s.tick).toNat < 105 then { s with mgmt := { s.mgmt with held := false } } else s)
    ∧ (∀ temp : Byte, s.powered = true → 115 ≤ temp.toNat → completes (.thermalShutdown temp) s (fun t => t.powered = false
        ∧ ∀ n, ∀ c : Fin 8, let k := (s.tileAt n).ctx[c]
          k.st ≠ .free → k.st ≠ .waiting .trap → k.pending = none → k.evict = none → (t.tileAt n).ctx[c].evict = some 1 ∨ (t.tileAt n).ctx[c].st = .free))

/-! ## Steps, words, reset -/

/-- 02 R27, R29, 06 R374, 05 R110: a turn that an agent which may issue takes: the word fetched at its program counter is decoded, and the step is
that instruction's, after which the waits that hold end; a word that is no instruction takes ILLEGAL; a strand whose page is translated and whose
line is cached fetches the four bytes at its program counter; the step of an engine or of the outside is that operation's.
That waits end together at the end of a step is the model's (log 4). -/
def Obligations.StepRunsTheDecodedInstruction : Prop :=
  ∀ (s : State) (n : Nat) (a : Agent) (rest : List Turn), n < 1024 → s.turns = .issue n a :: rest →
    let u : State := { s with turns := rest, curTile := n, curAgent := a }
    (u.mayIssue = true → (∀ w i, u.fetchWord = .ok w → decodeWord w = .ok i → u.interlocked w = false → step s = settled (exec i u) ∧ ∀ t, exec i u = .next t → step s = .next t.settle)
      ∧ (∀ w i, u.fetchWord = .ok w → decodeWord w = .ok i → u.interlocked w = true → step s = .next u.settle)
      ∧ (∀ w e, u.fetchWord = .ok w → decodeWord w = .error e → step s = .next (u.illegalWord w).settle)
      ∧ (∀ t, u.fetchWord = .error t → step s = .next t.settle))
    ∧ (u.mayIssue = false → step s = .next u.settle)
    ∧ (∀ c k e l, a = .ctx c → u.ctx.pending = none → u.pc.toNat < globalEnd → u.fabPlace u.ws.toNat u.pc.toNat = .here →
        u.tile.tlb.find? (fun e => e.2.ws == u.ws && decide (e.2.va ≤ u.pc.toNat) && decide (u.pc.toNat < e.2.va + e.2.size)) = some (k, e) → e.x = true →
        u.tile.icache.find? (fun l => l.ws == u.ws && l.line == (e.pa + (u.pc.toNat - e.va)) / 128) = some l →
        u.fetchWord = .ok (BitVec.ofNat 32 (leNat ((l.bytes.drop ((e.pa + (u.pc.toNat - e.va)) % 128)).take 4))))
    ∧ (∀ i r, encode i = none → i.wf = true → step { s with turns := .event i :: r } = settled (exec i { s with turns := r }))

/-- 02 R29, R30, 23: words written out from the spec's encodings decode to their instructions. A sanity statement. -/
def Obligations.WordsDecode : Prop :=
  decodeWord 0x00730284 = .ok (.add false 5 6 7) ∧ decodeWord 0x02730284 = .ok (.sub false 5 6 7)
  ∧ decodeWord 0x40349483 = .ok (.srai false 9 9 3) ∧ decodeWord 0x02C5D505 = .ok (.divuW false 10 11 12)
  ∧ decodeWord 0x2468B286 = .ok (.lui false 5 0x2468B) ∧ decodeWord 0x67828283 = .ok (.addi false 5 5 (-392))
  ∧ decodeWord 0x06C5950B = .ok (.fmac false .f64 10 11 12) ∧ decodeWord 0x0102E301 = .ok (.ld false 6 5 16)
  ∧ decodeWord 0x00543C02 = .ok (.sd false 8 5 24) ∧ decodeWord 0x0110000D = .ok (.ecall false 17)
  ∧ decodeWord 0x0000200D = .ok (.eret false) ∧ decodeWord 0x0540028C = .ok (.csrrd false 5 0x054)
  ∧ decodeWord 0x00B44524 = .ok (.vredsum false 0 .fp32 10 8 11) ∧ decodeWord 0x0001080E = .ok (.rgn false 0x210)

/-- 00 R7, 05 R111, 06 R120, 11 R224, R226, R227, 15 R297, 21 R351, R354, R357: what reset leaves: no tick has passed, reduced service at 1.0 GHz, every context
Free, no error counted; PWRCAP, L2RES, CENSUS_CTL and the fields of a workspace's entry as the spec gives them; each LTID of the die in service on the
tile of its number; nothing in memory's list. No agent waits.
The zeros of memory and of the tile stores and the first XID are the model's (log 1, log 2). -/
def Obligations.ResetValues : Prop :=
  let s := State.reset
  s.tick = 0 ∧ s.fullService = false ∧ s.mgmt.clock = 10 ∧ s.mgmt.pwrcap = 2900 ∧ s.mem = [] ∧ Mem.wf s.mem = true
  ∧ (∀ n, ∀ c : Fin 8, (s.tileAt n).ctx[c].st = .free ∧ (s.tileAt n).ctx[c].th.fflags = 0 ∧ (s.tileAt n).ctx[c].th.rm = 0)
  ∧ (∀ d : Fin 5, s.errWritten[d] = 0 ∧ s.errCe[d] = 0) ∧ (∀ d : Fin 4, s.dies[d].ctl = 20 + 8 * 2 ^ 8 + 2 ^ 12 ∧ s.dies[d].l2res = 32)
  ∧ (∀ w, s.wsWord w 0 = 0 ∧ (s.wsWord w 2).toNat % 8 = 7 ∧ (s.wsWord w 2).toNat / 8 = 16 ∧ s.wsValid w = false)
  ∧ (∀ l, l < 256 → (s.role l).v = true ∧ (s.role l).ptile = BitVec.ofNat 10 l ∧ (s.role l).role = 0 ∧ (s.role l).gen = 0 ∧ (s.role l).cstate = 0)
  ∧ (∀ n, (s.tileAt n).nextXid = 1 ∧ (s.tileAt n).bfnDrop = 0 ∧ ∀ off, (s.tileAt n).byte off = 0)
  ∧ noWaitHolds s

/-- 02 R29 to R38: the decoder gives back every well-formed instruction from the word that the encoder makes of it, with every operand at
every value; the CSR accesses with a row of their own come back as the CSR class whose word they are. -/
def Obligations.DecodeEncode : Prop :=
  ∀ (i : Instr) (w : IWord), i.wf = true → encode i = some w → decodeWord w = .ok i.canon

/-- 06 R120, 02 R28: every step leaves no context and no side core waiting for something that holds, and none that has a trap to take
waiting for anything but its reply or the trap's own delivery. -/
def Obligations.NobodyWaitsForWhatHolds : Prop :=
  ∀ (s t : State), noWaitHolds s → step s = .next t → noWaitHolds t
end

