-- ==== Sys2Proof/Laws/Encoding.lean ====
section
/-! SUPPORT. The fields that the decoder reads from the words that the encoder packs (02 R29): one lemma for each field of each format. -/

namespace Sys2Proof

@[simp] theorem field_packR (m : SMark) (f6 : BitVec 6) (rs2 rs1 : Reg) (f3 : BitVec 3) (rd : Reg) (op : BitVec 7) (i : Nat) :
    (packR m f6 rs2 rs1 f3 rd op).getLsbD i =
      if i < 7 then op.getLsbD i else if i < 12 then rd.getLsbD (i - 7) else if i < 15 then f3.getLsbD (i - 12)
      else if i < 20 then rs1.getLsbD (i - 15) else if i < 25 then rs2.getLsbD (i - 20) else if i < 31 then f6.getLsbD (i - 25)
      else (decide (i = 31) && m) := by
  simp only [packR, BitVec.getLsbD_append, BitVec.getLsbD_ofBool]
  refine if_congr (by omega) rfl ?_
  refine if_congr (by omega) rfl ?_
  refine if_congr (by omega) rfl ?_
  refine if_congr (by omega) rfl ?_
  refine if_congr (by omega) rfl ?_
  split_ifs <;> first | omega | (congr 1 <;> first | omega | exact decide_eq_decide.mpr (by omega))

/-- The two pieces of a concatenation, read back. -/
theorem extract_append_high {a b : Nat} (x : BitVec a) (y : BitVec b) : (x ++ y).extractLsb' b a = x := by
  apply BitVec.eq_of_getLsbD_eq
  intro i hi
  simp [BitVec.getLsbD_append, hi]

theorem extract_append_low {a b : Nat} (x : BitVec a) (y : BitVec b) : (x ++ y).extractLsb' 0 b = y := by
  apply BitVec.eq_of_getLsbD_eq
  intro i hi
  simp [BitVec.getLsbD_append, hi]

/-- A value is its low part and the part above. -/
theorem append_extracts {a b : Nat} (x : BitVec (a + b)) : x.extractLsb' b a ++ x.extractLsb' 0 b = x := by
  apply BitVec.eq_of_getLsbD_eq
  intro i hi
  simp only [BitVec.getLsbD_append, BitVec.getLsbD_extractLsb']
  split_ifs
  · simp [*]
  · rw [show b + (i - b) = i by omega]; simp; omega

section
variable (m : SMark) (f6 : BitVec 6) (rs2 rs1 : Reg) (f3 : BitVec 3) (rd : Reg) (op : BitVec 7)

@[simp] theorem fOp_packR : fOp (packR m f6 rs2 rs1 f3 rd op) = op := by
  apply BitVec.eq_of_getLsbD_eq
  intro i hi
  simp only [fOp, BitVec.getLsbD_extractLsb', field_packR]
  split_ifs <;> first | omega | simp [hi]
@[simp] theorem fRd_packR : fRd (packR m f6 rs2 rs1 f3 rd op) = rd := by
  apply BitVec.eq_of_getLsbD_eq
  intro i hi
  simp only [fRd, BitVec.getLsbD_extractLsb', field_packR]
  split_ifs <;> first | omega | simp [hi]
@[simp] theorem fF3_packR : fF3 (packR m f6 rs2 rs1 f3 rd op) = f3 := by
  apply BitVec.eq_of_getLsbD_eq
  intro i hi
  simp only [fF3, BitVec.getLsbD_extractLsb', field_packR]
  split_ifs <;> first | omega | simp [hi]
@[simp] theorem fRs1_packR : fRs1 (packR m f6 rs2 rs1 f3 rd op) = rs1 := by
  apply BitVec.eq_of_getLsbD_eq
  intro i hi
  simp only [fRs1, BitVec.getLsbD_extractLsb', field_packR]
  split_ifs <;> first | omega | simp [hi]
@[simp] theorem fRs2_packR : fRs2 (packR m f6 rs2 rs1 f3 rd op) = rs2 := by
  apply BitVec.eq_of_getLsbD_eq
  intro i hi
  simp only [fRs2, BitVec.getLsbD_extractLsb', field_packR]
  split_ifs <;> first | omega | simp [hi]
@[simp] theorem fF6_packR : fF6 (packR m f6 rs2 rs1 f3 rd op) = f6 := by
  apply BitVec.eq_of_getLsbD_eq
  intro i hi
  simp only [fF6, BitVec.getLsbD_extractLsb', field_packR]
  split_ifs <;> first | omega | simp [hi]
@[simp] theorem fS_packR : fS (packR m f6 rs2 rs1 f3 rd op) = m := by
  have : (packR m f6 rs2 rs1 f3 rd op).extractLsb' 31 1 = BitVec.ofBool m := by
    apply BitVec.eq_of_getLsbD_eq
    intro i hi
    simp only [BitVec.getLsbD_extractLsb', field_packR, BitVec.getLsbD_ofBool]
    split_ifs <;> first | omega | simp [hi]
  cases m <;> simp [fS, this]
@[simp] theorem fF3b_packR : fF3b (packR m f6 rs2 rs1 f3 rd op) = f6.extractLsb' 0 3 := by
  apply BitVec.eq_of_getLsbD_eq
  intro i hi
  simp only [fF3b, BitVec.getLsbD_extractLsb', field_packR]
  split_ifs <;> first | omega | simp [hi]
@[simp] theorem fTop_packR : fTop (packR m f6 rs2 rs1 f3 rd op) = f6.extractLsb' 3 3 := by
  apply BitVec.eq_of_getLsbD_eq
  intro i hi
  simp only [fTop, BitVec.getLsbD_extractLsb', field_packR]
  split_ifs <;> first | omega | (simp only [hi, decide_true, Bool.true_and]; congr 1; omega)
@[simp] theorem fImmI_packR : fImmI (packR m f6 rs2 rs1 f3 rd op) = f6 ++ rs2 := by
  apply BitVec.eq_of_getLsbD_eq
  intro i hi
  simp only [fImmI, BitVec.getLsbD_extractLsb', field_packR, BitVec.getLsbD_append]
  split_ifs <;> first | omega | (simp only [hi, decide_true, Bool.true_and]; congr 1; omega)
end

/-! Any run of bits inside one field. -/

@[simp] theorem slice_rd (m : SMark) (f6 : BitVec 6) (rs2 rs1 : Reg) (f3 : BitVec 3) (rd : Reg) (op : BitVec 7) (b n : Nat) (h : 7 ≤ b) (h' : b + n ≤ 12) :
    (packR m f6 rs2 rs1 f3 rd op).extractLsb' b n = rd.extractLsb' (b - 7) n := by
  apply BitVec.eq_of_getLsbD_eq
  intro i hi
  simp only [BitVec.getLsbD_extractLsb', field_packR, hi, decide_true, Bool.true_and]
  split_ifs <;> first | omega | (congr 1; omega)
@[simp] theorem slice_rs2 (m : SMark) (f6 : BitVec 6) (rs2 rs1 : Reg) (f3 : BitVec 3) (rd : Reg) (op : BitVec 7) (b n : Nat) (h : 20 ≤ b) (h' : b + n ≤ 25) :
    (packR m f6 rs2 rs1 f3 rd op).extractLsb' b n = rs2.extractLsb' (b - 20) n := by
  apply BitVec.eq_of_getLsbD_eq
  intro i hi
  simp only [BitVec.getLsbD_extractLsb', field_packR, hi, decide_true, Bool.true_and]
  split_ifs <;> first | omega | (congr 1; omega)
@[simp] theorem slice_f6 (m : SMark) (f6 : BitVec 6) (rs2 rs1 : Reg) (f3 : BitVec 3) (rd : Reg) (op : BitVec 7) (b n : Nat) (h : 25 ≤ b) (h' : b + n ≤ 31) :
    (packR m f6 rs2 rs1 f3 rd op).extractLsb' b n = f6.extractLsb' (b - 25) n := by
  apply BitVec.eq_of_getLsbD_eq
  intro i hi
  simp only [BitVec.getLsbD_extractLsb', field_packR, hi, decide_true, Bool.true_and]
  split_ifs <;> first | omega | (congr 1; omega)

theorem packI_eq (m : SMark) (imm : BitVec 11) (rs1 : Reg) (f3 : BitVec 3) (rd : Reg) (op : BitVec 7) :
    packI m imm rs1 f3 rd op = packR m (imm.extractLsb' 5 6) (imm.extractLsb' 0 5) rs1 f3 rd op := by
  apply BitVec.eq_of_getLsbD_eq
  intro i hi
  simp only [packI, field_packR, BitVec.getLsbD_extractLsb', BitVec.getLsbD_append, BitVec.getLsbD_ofBool]
  split_ifs <;> first
    | omega
    | rfl
    | (congr 1; omega)
    | (congr 1; exact decide_eq_decide.mpr (by omega))
    | (rw [decide_eq_true (by omega : i - 20 < 5), Bool.true_and]; congr 1; omega)
    | (rw [decide_eq_true (by omega : i - 25 < 6), Bool.true_and]; congr 1; omega)
@[simp] theorem slice_imm (m : SMark) (imm : BitVec 11) (rs1 : Reg) (f3 : BitVec 3) (rd : Reg) (op : BitVec 7) (b n : Nat) (h : 20 ≤ b) (h' : b + n ≤ 31) :
    (packI m imm rs1 f3 rd op).extractLsb' b n = imm.extractLsb' (b - 20) n := by
  apply BitVec.eq_of_getLsbD_eq
  intro i hi
  simp only [packI_eq, BitVec.getLsbD_extractLsb', field_packR, hi, decide_true, Bool.true_and]
  split_ifs <;> first
    | omega
    | (rw [decide_eq_true (by omega : b + i - 20 < 5), Bool.true_and]; congr 1; omega)
    | (rw [decide_eq_true (by omega : b + i - 25 < 6), Bool.true_and]; congr 1; omega)
@[simp] theorem fS_packI (m : SMark) (imm : BitVec 11) (rs1 : Reg) (f3 : BitVec 3) (rd : Reg) (op : BitVec 7) : fS (packI m imm rs1 f3 rd op) = m := by
  rw [packI_eq, fS_packR]
@[simp] theorem fOp_packI (m : SMark) (imm : BitVec 11) (rs1 : Reg) (f3 : BitVec 3) (rd : Reg) (op : BitVec 7) : fOp (packI m imm rs1 f3 rd op) = op := by
  rw [packI_eq, fOp_packR]
@[simp] theorem fRd_packI (m : SMark) (imm : BitVec 11) (rs1 : Reg) (f3 : BitVec 3) (rd : Reg) (op : BitVec 7) : fRd (packI m imm rs1 f3 rd op) = rd := by
  rw [packI_eq, fRd_packR]
@[simp] theorem fF3_packI (m : SMark) (imm : BitVec 11) (rs1 : Reg) (f3 : BitVec 3) (rd : Reg) (op : BitVec 7) : fF3 (packI m imm rs1 f3 rd op) = f3 := by
  rw [packI_eq, fF3_packR]
@[simp] theorem fRs1_packI (m : SMark) (imm : BitVec 11) (rs1 : Reg) (f3 : BitVec 3) (rd : Reg) (op : BitVec 7) : fRs1 (packI m imm rs1 f3 rd op) = rs1 := by
  rw [packI_eq, fRs1_packR]
@[simp] theorem fImmI_packI (m : SMark) (imm : BitVec 11) (rs1 : Reg) (f3 : BitVec 3) (rd : Reg) (op : BitVec 7) :
    fImmI (packI m imm rs1 f3 rd op) = imm := by
  rw [packI_eq, fImmI_packR]; exact append_extracts (a := 6) (b := 5) imm
@[simp] theorem fImmS_packS (m : SMark) (imm : BitVec 11) (rs2 rs1 : Reg) (f3 : BitVec 3) (op : BitVec 7) :
    fImmS (packS m imm rs2 rs1 f3 op) = imm := by
  rw [packS, fImmS, fF6_packR, fRd_packR]; exact append_extracts (a := 6) (b := 5) imm

/-! The U format, the T format and the words of RGN and RGNV. -/

@[simp] theorem field_packU (m : SMark) (imm : BitVec 19) (rd : Reg) (op : BitVec 7) (i : Nat) :
    (packU m imm rd op).getLsbD i =
      if i < 7 then op.getLsbD i else if i < 12 then rd.getLsbD (i - 7) else if i < 31 then imm.getLsbD (i - 12) else (decide (i = 31) && m) := by
  simp only [packU, BitVec.getLsbD_append, BitVec.getLsbD_ofBool]
  refine if_congr (by omega) rfl ?_
  refine if_congr (by omega) rfl ?_
  split_ifs <;> first | omega | (congr 1 <;> first | omega | exact decide_eq_decide.mpr (by omega))
@[simp] theorem fOp_packU (m : SMark) (imm : BitVec 19) (rd : Reg) (op : BitVec 7) : fOp (packU m imm rd op) = op := by
  apply BitVec.eq_of_getLsbD_eq
  intro i hi
  simp only [fOp, BitVec.getLsbD_extractLsb', field_packU, hi, decide_true, Bool.true_and]
  split_ifs <;> first | omega | (congr 1; omega)
@[simp] theorem fRd_packU (m : SMark) (imm : BitVec 19) (rd : Reg) (op : BitVec 7) : fRd (packU m imm rd op) = rd := by
  apply BitVec.eq_of_getLsbD_eq
  intro i hi
  simp only [fRd, BitVec.getLsbD_extractLsb', field_packU, hi, decide_true, Bool.true_and]
  split_ifs <;> first | omega | (congr 1; omega)
@[simp] theorem fImmU_packU (m : SMark) (imm : BitVec 19) (rd : Reg) (op : BitVec 7) : fImmU (packU m imm rd op) = imm := by
  apply BitVec.eq_of_getLsbD_eq
  intro i hi
  simp only [fImmU, BitVec.getLsbD_extractLsb', field_packU, hi, decide_true, Bool.true_and]
  split_ifs <;> first | omega | (congr 1; omega)
@[simp] theorem fS_packU (m : SMark) (imm : BitVec 19) (rd : Reg) (op : BitVec 7) : fS (packU m imm rd op) = m := by
  have : (packU m imm rd op).extractLsb' 31 1 = BitVec.ofBool m := by
    apply BitVec.eq_of_getLsbD_eq
    intro i hi
    simp only [BitVec.getLsbD_extractLsb', field_packU, BitVec.getLsbD_ofBool]
    split_ifs <;> first | omega | simp [hi]
  cases m <;> simp [fS, this]

@[simp] theorem field_packT (m : SMark) (fb fa : BitVec 3) (zb za zc : ZReg) (acc f3 : BitVec 3) (op : BitVec 7) (i : Nat) :
    (packT m fb fa zb za zc acc f3 op).getLsbD i =
      if i < 7 then op.getLsbD i else if i < 10 then f3.getLsbD (i - 7) else if i < 13 then acc.getLsbD (i - 10)
      else if i < 17 then zc.getLsbD (i - 13) else if i < 21 then za.getLsbD (i - 17) else if i < 25 then zb.getLsbD (i - 21)
      else if i < 28 then fa.getLsbD (i - 25) else if i < 31 then fb.getLsbD (i - 28) else (decide (i = 31) && m) := by
  simp only [packT, BitVec.getLsbD_append, BitVec.getLsbD_ofBool]
  refine if_congr (by omega) rfl ?_
  refine if_congr (by omega) rfl ?_
  refine if_congr (by omega) rfl ?_
  refine if_congr (by omega) rfl ?_
  refine if_congr (by omega) rfl ?_
  refine if_congr (by omega) rfl ?_
  refine if_congr (by omega) rfl ?_
  split_ifs <;> first | omega | (congr 1 <;> first | omega | exact decide_eq_decide.mpr (by omega))

section
variable (m : SMark) (fb fa : BitVec 3) (zb za zc : ZReg) (acc f3 : BitVec 3) (op : BitVec 7)

@[simp] theorem fOp_packT : fOp (packT m fb fa zb za zc acc f3 op) = op := by
  apply BitVec.eq_of_getLsbD_eq
  intro i hi
  simp only [fOp, BitVec.getLsbD_extractLsb', field_packT, hi, decide_true, Bool.true_and]
  split_ifs <;> first | omega | (congr 1; omega)
@[simp] theorem fTF3_packT : fTF3 (packT m fb fa zb za zc acc f3 op) = f3 := by
  apply BitVec.eq_of_getLsbD_eq
  intro i hi
  simp only [fTF3, BitVec.getLsbD_extractLsb', field_packT, hi, decide_true, Bool.true_and]
  split_ifs <;> first | omega | (congr 1; omega)
@[simp] theorem fAcc_packT : fAcc (packT m fb fa zb za zc acc f3 op) = acc := by
  apply BitVec.eq_of_getLsbD_eq
  intro i hi
  simp only [fAcc, BitVec.getLsbD_extractLsb', field_packT, hi, decide_true, Bool.true_and]
  split_ifs <;> first | omega | (congr 1; omega)
@[simp] theorem fZc_packT : fZc (packT m fb fa zb za zc acc f3 op) = zc := by
  apply BitVec.eq_of_getLsbD_eq
  intro i hi
  simp only [fZc, BitVec.getLsbD_extractLsb', field_packT, hi, decide_true, Bool.true_and]
  split_ifs <;> first | omega | (congr 1; omega)
@[simp] theorem fZa_packT : fZa (packT m fb fa zb za zc acc f3 op) = za := by
  apply BitVec.eq_of_getLsbD_eq
  intro i hi
  simp only [fZa, BitVec.getLsbD_extractLsb', field_packT, hi, decide_true, Bool.true_and]
  split_ifs <;> first | omega | (congr 1; omega)
@[simp] theorem fZb_packT : fZb (packT m fb fa zb za zc acc f3 op) = zb := by
  apply BitVec.eq_of_getLsbD_eq
  intro i hi
  simp only [fZb, BitVec.getLsbD_extractLsb', field_packT, hi, decide_true, Bool.true_and]
  split_ifs <;> first | omega | (congr 1; omega)
@[simp] theorem fFmtA_packT : fFmtA (packT m fb fa zb za zc acc f3 op) = fa := by
  apply BitVec.eq_of_getLsbD_eq
  intro i hi
  simp only [fFmtA, BitVec.getLsbD_extractLsb', field_packT, hi, decide_true, Bool.true_and]
  split_ifs <;> first | omega | (congr 1; omega)
@[simp] theorem fFmtB_packT : fFmtB (packT m fb fa zb za zc acc f3 op) = fb := by
  apply BitVec.eq_of_getLsbD_eq
  intro i hi
  simp only [fFmtB, BitVec.getLsbD_extractLsb', field_packT, hi, decide_true, Bool.true_and]
  split_ifs <;> first | omega | (congr 1; omega)
@[simp] theorem fS_packT : fS (packT m fb fa zb za zc acc f3 op) = m := by
  have : (packT m fb fa zb za zc acc f3 op).extractLsb' 31 1 = BitVec.ofBool m := by
    apply BitVec.eq_of_getLsbD_eq
    intro i hi
    simp only [BitVec.getLsbD_extractLsb', field_packT, BitVec.getLsbD_ofBool]
    split_ifs <;> first | omega | simp [hi]
  cases m <;> simp [fS, this]
end

/-! The codes of the fields that are not numbers, read back. -/

@[simp] theorem needType_code (t : ETy) (ok : ETy → Bool) (k : ETy → Decoded) :
    needType t.code ok k = if ok t then k t else .error .elementType := by cases t <;> rfl
@[simp] theorem needScope_code (sc : Scope) (k : Scope → Decoded) : needScope sc.code k = k sc := by cases sc <;> rfl
@[simp] theorem needScope1_code (sc : Scope) (k : Scope → Decoded) (h : sc ≠ .str) : needScope1 sc.code k = k sc := by
  cases sc <;> first | rfl | exact absurd rfl h
@[simp] theorem tfmtOf_code (f : TFmt) : tfmtOf f.code = f := by cases f <;> rfl
@[simp] theorem accOf_code (a : Acc) : accOf a.code = some a := by cases a <;> rfl
@[simp] theorem precOf_code (p : Prec) : precOf p.code = some p := by cases p <;> rfl
@[simp] theorem cvtOf_code (c : CvtOp) : cvtOf c.code = some c := by cases c <;> rfl
@[simp] theorem widthOf_code (wd : Width) : widthOf (wd.code.extractLsb' 0 2) = wd := by cases wd <;> rfl
@[simp] theorem width_code_top (wd : Width) : wd.code.extractLsb' 2 1 = 0#1 := by cases wd <;> rfl
@[simp] theorem fenceSetOf_code (f : FenceSet) : fenceSetOf f.code = f := by
  obtain ⟨a, b, c⟩ := f
  cases a <;> cases b <;> cases c <;> rfl
theorem needZero_true (k : Decoded) : needZero true k = k := rfl
@[simp] theorem needK_field (r : KReg) (k : KReg → Decoded) : needK (0#2 ++ r) k = k r := by
  rw [needK, kregOf, show BitVec.extractLsb' 3 2 (0#2 ++ r : Reg) = 0#2 from extract_append_high 0#2 r,
    show BitVec.extractLsb' 0 3 (0#2 ++ r : Reg) = r from extract_append_low 0#2 r]; rfl
@[simp] theorem needZ_field (r : ZReg) (k : ZReg → Decoded) : needZ (0#1 ++ r) k = k r := by
  rw [needZ, zregOf, show BitVec.extractLsb' 4 1 (0#1 ++ r : Reg) = 0#1 from extract_append_high 0#1 r,
    show BitVec.extractLsb' 0 4 (0#1 ++ r : Reg) = r from extract_append_low 0#1 r]; rfl
@[simp] theorem needQ_field (r : BitVec 2) (k : BitVec 2 → Decoded) : needQ (0#3 ++ r) k = k r := by
  rw [needQ, qregOf, show BitVec.extractLsb' 2 3 (0#3 ++ r : Reg) = 0#3 from extract_append_high 0#3 r,
    show BitVec.extractLsb' 0 2 (0#3 ++ r : Reg) = r from extract_append_low 0#3 r]; rfl

/-! The two halves of an f6 field and of the immediates that are made of parts. -/

@[simp] theorem f6_high (a b : BitVec 3) : BitVec.extractLsb' 3 3 (a ++ b : BitVec 6) = a := extract_append_high a b
@[simp] theorem f6_low (a b : BitVec 3) : BitVec.extractLsb' 0 3 (a ++ b : BitVec 6) = b := extract_append_low a b
theorem imm_append_low {a b : Nat} (x : BitVec a) (y : BitVec b) (s n : Nat) (h : s + n ≤ b) :
    (x ++ y).extractLsb' s n = y.extractLsb' s n := by
  apply BitVec.eq_of_getLsbD_eq
  intro i hi
  simp [BitVec.getLsbD_append, hi, show s + i < b by omega]
@[simp] theorem f6_slice (a b : BitVec 3) (s n : Nat) (h : s + n ≤ 3) : BitVec.extractLsb' s n (a ++ b : BitVec 6) = b.extractLsb' s n :=
  imm_append_low a b s n h
theorem imm_append_high {a b : Nat} (x : BitVec a) (y : BitVec b) (s n : Nat) (h : b ≤ s) :
    (x ++ y).extractLsb' s n = x.extractLsb' (s - b) n := by
  apply BitVec.eq_of_getLsbD_eq
  intro i hi
  simp [BitVec.getLsbD_append, hi, show ¬ s + i < b by omega, show s + i - b = s - b + i by omega]
@[simp] theorem reg_high (a : BitVec 2) (c : BitVec 3) : BitVec.extractLsb' 3 2 (a ++ c : BitVec 5) = a := extract_append_high a c
@[simp] theorem reg_low (a : BitVec 2) (c : BitVec 3) : BitVec.extractLsb' 0 3 (a ++ c : BitVec 5) = c := extract_append_low a c
@[simp] theorem fImmS_parts (m : SMark) (imm : BitVec 11) (rs2 rs1 : Reg) (f3 : BitVec 3) (op : BitVec 7) :
    fImmS (packR m (imm.extractLsb' 5 6) rs2 rs1 f3 (imm.extractLsb' 0 5) op) = imm := fImmS_packS m imm rs2 rs1 f3 op
/-- The immediate of a shift: its kind in two bits, three zero bits, its distance. -/
@[simp] theorem shift_imm (k : BitVec 5) (sh : BitVec 6) :
    BitVec.extractLsb' 9 2 (k ++ sh : BitVec 11) = k.extractLsb' 3 2 ∧ BitVec.extractLsb' 6 3 (k ++ sh : BitVec 11) = k.extractLsb' 0 3
    ∧ BitVec.extractLsb' 0 6 (k ++ sh : BitVec 11) = sh :=
  ⟨imm_append_high k sh 9 2 (by decide), imm_append_high k sh 6 3 (by decide), extract_append_low k sh⟩
/-- The immediates of GBAR, GBWAIT and VOTE: what stands above the channel. -/
@[simp] theorem imm_domain (k : BitVec 8) (ch : BitVec 3) :
    BitVec.extractLsb' 3 8 (k ++ ch : BitVec 11) = k ∧ BitVec.extractLsb' 5 6 (k ++ ch : BitVec 11) = k.extractLsb' 2 6
    ∧ BitVec.extractLsb' 3 2 (k ++ ch : BitVec 11) = k.extractLsb' 0 2 ∧ BitVec.extractLsb' 0 3 (k ++ ch : BitVec 11) = ch :=
  ⟨extract_append_high k ch, imm_append_high k ch 5 6 (by decide), imm_append_high k ch 3 2 (by decide), extract_append_low k ch⟩
/-- The immediate of SSEND. -/
@[simp] theorem imm_ssend (slot : BitVec 6) :
    BitVec.extractLsb' 6 5 (0#5 ++ slot : BitVec 11) = 0#5 ∧ BitVec.extractLsb' 0 6 (0#5 ++ slot : BitVec 11) = slot :=
  ⟨extract_append_high 0#5 slot, extract_append_low 0#5 slot⟩
/-- The fields of the words of RGN and RGNV. -/
theorem field_region (m : SMark) (k : BitVec 1) (d : BitVec 23) :
    let w : IWord := BitVec.ofBool m ++ k ++ d ++ 0x0E#7
    fOp w = 0x0E ∧ w.extractLsb' 30 1 = k ∧ w.extractLsb' 7 23 = d ∧ fRd w = d.extractLsb' 0 5 ∧ w.extractLsb' 12 18 = d.extractLsb' 5 18
    ∧ fS w = m := by
  intro w
  have hw : ∀ i, w.getLsbD i = if i < 7 then (0x0E#7).getLsbD i else if i < 30 then d.getLsbD (i - 7) else if i < 31 then k.getLsbD (i - 30)
      else (decide (i = 31) && m) := by
    intro i
    simp only [w, BitVec.getLsbD_append, BitVec.getLsbD_ofBool]
    refine if_congr (by omega) rfl ?_
    refine if_congr (by omega) rfl ?_
    split_ifs <;> first | omega | (congr 1 <;> first | omega | exact decide_eq_decide.mpr (by omega))
  have hs : w.extractLsb' 31 1 = BitVec.ofBool m := by
    apply BitVec.eq_of_getLsbD_eq
    intro i hi
    simp only [BitVec.getLsbD_extractLsb', hw, BitVec.getLsbD_ofBool]
    split_ifs <;> first | omega | simp [hi]
  have hf : ∀ (b n : Nat) (x : BitVec n), (∀ i, i < n → w.getLsbD (b + i) = x.getLsbD i) → w.extractLsb' b n = x := by
    intro b n x h
    apply BitVec.eq_of_getLsbD_eq
    intro i hi
    rw [BitVec.getLsbD_extractLsb', decide_eq_true hi, Bool.true_and, h i hi]
  refine ⟨hf 0 7 _ ?_, hf 30 1 _ ?_, hf 7 23 _ ?_, hf 7 5 _ ?_, hf 12 18 _ ?_, ?_⟩
  · intro i hi; rw [hw, if_pos (by omega)]; congr 1; omega
  · intro i hi; rw [hw, if_neg (by omega), if_neg (by omega), if_pos (by omega)]; congr 1; omega
  · intro i hi; rw [hw, if_neg (by omega), if_pos (by omega)]; congr 1; omega
  · intro i hi
    rw [hw, if_neg (by omega), if_pos (by omega), BitVec.getLsbD_extractLsb', decide_eq_true hi, Bool.true_and]; congr 1; omega
  · intro i hi
    rw [hw, if_neg (by omega), if_pos (by omega), BitVec.getLsbD_extractLsb', decide_eq_true hi, Bool.true_and]; congr 1; omega
  · cases m <;> simp [fS, hs]
/-- The field of RGNV that must be clear, and its count. -/
theorem imm_rgnv (c : BitVec 18) : BitVec.extractLsb' 0 5 (c ++ 0#5 : BitVec 23) = 0#5 ∧ BitVec.extractLsb' 5 18 (c ++ 0#5 : BitVec 23) = c :=
  ⟨extract_append_low c 0#5, extract_append_high c 0#5⟩
theorem rgnv_word (m : SMark) (c : BitVec 18) :
    decodeWord (BitVec.ofBool m ++ 1#1 ++ c ++ 0#5 ++ 0x0E#7) = .ok (.rgnv m c) := by
  have hw : (BitVec.ofBool m ++ 1#1 ++ c ++ 0#5 ++ 0x0E#7 : IWord) = BitVec.ofBool m ++ 1#1 ++ (c ++ 0#5 : BitVec 23) ++ 0x0E#7 := by
    apply BitVec.eq_of_getLsbD_eq
    intro i hi
    have hc : ∀ j, (c ++ 0#5 : BitVec 23).getLsbD j = if j < 5 then (0#5).getLsbD j else c.getLsbD (j - 5) :=
      fun j => BitVec.getLsbD_append
    simp only [BitVec.getLsbD_append, hc]
    split_ifs <;> first | omega | rfl
  obtain ⟨h1, h2, -, h4, h5, h6⟩ := field_region m 1#1 (c ++ 0#5)
  rw [hw]
  simp only [decodeWord, h1]
  refine (if_neg (by rw [h2]; decide)).trans ?_
  rw [h4, h5, h6, (imm_rgnv c).1, (imm_rgnv c).2]
  rfl

end Sys2Proof
end

