-- ==== Sys2Proof/Laws/Sparse.lean ====
section
/-! SUPPORT. Reading back what is written in the sparse lists; byte memories keep their canonical form (log 2). -/

namespace Sys2Proof.Machine

/-! ## Keys -/

@[simp] theorem sget_sset_same (k : Nat) (v : α) (l : List (Nat × α)) : sget k (sset k v l) = some v := by
  induction l with
  | nil => simp [sset, sget]
  | cons e r ih =>
    obtain ⟨k', v'⟩ := e
    unfold sset
    split
    · simp [sget]
    · split
      · simp [sget]
      · simp_all [sget]

theorem sget_sset_ne {k j : Nat} (h : j ≠ k) (v : α) (l : List (Nat × α)) : sget j (sset k v l) = sget j l := by
  induction l with
  | nil => simp [sset, sget, h]
  | cons e r ih =>
    obtain ⟨k', v'⟩ := e
    unfold sset
    split
    · rename_i hk; subst hk; simp [sget, h]
    · split
      · simp [sget, h]
      · simp [sget, ih]

theorem sset_sset (k : Nat) (v w : α) (l : List (Nat × α)) : sset k w (sset k v l) = sset k w l := by
  induction l with
  | nil => simp [sset]
  | cons e r ih =>
    obtain ⟨k', v'⟩ := e
    by_cases h1 : k = k'
    · simp [sset, h1]
    · by_cases h2 : k < k' <;> simp [sset, h1, h2, ih]

/-- Every key of a list with rising keys is above a bound that is below its first. -/
theorem keysRise_bound {b : Nat} {l : List (Nat × α)} (h : keysRise l = true) (hb : ∀ e ∈ l.head?, b < e.1) : ∀ e ∈ l, b < e.1 := by
  induction l generalizing b with
  | nil => simp
  | cons e r ih =>
    intro x hx
    have he := hb e (by simp)
    cases r with
    | nil => simp_all
    | cons f q =>
      simp only [keysRise, Bool.and_eq_true, decide_eq_true_eq] at h
      rcases List.mem_cons.mp hx with rfl | hx
      · exact he
      · exact Nat.lt_trans he (ih (b := e.1) h.2 (by simpa using h.1) x hx)

theorem keysRise_tail {e : Nat × α} {l : List (Nat × α)} (h : keysRise (e :: l) = true) : keysRise l = true := by
  cases l with
  | nil => rfl
  | cons f q => simp only [keysRise, Bool.and_eq_true] at h; exact h.2

theorem keysRise_cons {k : Nat} {v : α} {l : List (Nat × α)} (h : keysRise l = true) (hb : ∀ e ∈ l.head?, k < e.1) :
    keysRise ((k, v) :: l) = true := by
  cases l with
  | nil => rfl
  | cons f q => simp [keysRise, h, hb f (by simp)]

theorem sset_head {b k : Nat} {v : α} {l : List (Nat × α)} (hk : b < k) (hl : ∀ e ∈ l.head?, b < e.1) :
    ∀ e ∈ (sset k v l).head?, b < e.1 := by
  cases l with
  | nil => simpa [sset] using hk
  | cons e r =>
    obtain ⟨k', v'⟩ := e
    have := hl (k', v') (by simp)
    unfold sset
    split
    · simpa using hk
    · split
      · simpa using hk
      · simpa using this

theorem keysRise_head {e : Nat × α} {l : List (Nat × α)} (h : keysRise (e :: l) = true) : ∀ f ∈ l.head?, e.1 < f.1 := by
  cases l with
  | nil => simp
  | cons f q => simp only [keysRise, Bool.and_eq_true, decide_eq_true_eq] at h; simpa using h.1

theorem keysRise_sset (k : Nat) (v : α) {l : List (Nat × α)} (h : keysRise l = true) : keysRise (sset k v l) = true := by
  induction l with
  | nil => rfl
  | cons e r ih =>
    obtain ⟨k', v'⟩ := e
    have ht := keysRise_tail h
    have hh := keysRise_head h
    unfold sset
    split
    · rename_i hk; subst hk; exact keysRise_cons ht hh
    · split
      · rename_i h2; exact keysRise_cons h (by simpa using h2)
      · exact keysRise_cons (ih ht) (sset_head (by omega) hh)

theorem mem_sdel {k : Nat} {l : List (Nat × α)} : ∀ x ∈ sdel k l, x ∈ l := by
  induction l with
  | nil => simp [sdel]
  | cons e r ih =>
    obtain ⟨k', v'⟩ := e
    unfold sdel
    split
    · intro x hx; exact List.mem_cons_of_mem _ (ih x hx)
    · intro x hx
      rcases List.mem_cons.mp hx with rfl | hx
      · simp
      · exact List.mem_cons_of_mem _ (ih x hx)

theorem keysRise_sdel (k : Nat) {l : List (Nat × α)} (h : keysRise l = true) : keysRise (sdel k l) = true := by
  induction l with
  | nil => rfl
  | cons e r ih =>
    obtain ⟨k', v'⟩ := e
    have ht := keysRise_tail h
    unfold sdel
    split
    · exact ih ht
    · exact keysRise_cons (ih ht) fun e he =>
        keysRise_bound ht (keysRise_head h) e (mem_sdel e (List.mem_of_mem_head? he))

theorem mem_sset {k : Nat} {v : α} {l : List (Nat × α)} : ∀ x ∈ sset k v l, x = (k, v) ∨ x ∈ l := by
  induction l with
  | nil => simp [sset]
  | cons e r ih =>
    obtain ⟨k', v'⟩ := e
    unfold sset
    split
    · intro x hx
      rcases List.mem_cons.mp hx with rfl | hx
      · exact .inl rfl
      · exact .inr (List.mem_cons_of_mem _ hx)
    · split
      · intro x hx
        rcases List.mem_cons.mp hx with rfl | hx
        · exact .inl rfl
        · exact .inr hx
      · intro x hx
        rcases List.mem_cons.mp hx with rfl | hx
        · exact .inr (by simp)
        · rcases ih x hx with h | h
          · exact .inl h
          · exact .inr (List.mem_cons_of_mem _ h)

theorem sget_none {k : Nat} {l : List (Nat × α)} (h : ∀ e ∈ l, k < e.1) : sget k l = none := by
  induction l with
  | nil => rfl
  | cons e r ih =>
    obtain ⟨k', v'⟩ := e
    have h1 := h (k', v') (by simp)
    simp only [sget]
    rw [if_neg (by simp at h1; omega)]
    exact ih fun e he => h e (List.mem_cons_of_mem _ he)

@[simp] theorem sget_sdel_same (k : Nat) (l : List (Nat × α)) : sget k (sdel k l) = none := by
  induction l with
  | nil => rfl
  | cons e r ih =>
    obtain ⟨k', v'⟩ := e
    unfold sdel
    split
    · exact ih
    · rename_i hk; simp [sget, hk, ih]

theorem sget_sdel_ne {k j : Nat} (h : j ≠ k) (l : List (Nat × α)) : sget j (sdel k l) = sget j l := by
  induction l with
  | nil => rfl
  | cons e r ih =>
    obtain ⟨k', v'⟩ := e
    unfold sdel
    split
    · rename_i hk; subst hk; simp [sget, h, ih]
    · simp [sget, ih]

/-! ## Byte memories -/

/-- A byte reads as it was written. -/
@[simp] theorem mget_mset_same (m : Mem) (a : Nat) (b : Byte) : mget (mset m a b) a = b := by
  unfold mset mget
  split
  · rename_i hb; rw [sget_sdel_same, hb]; rfl
  · simp

/-- Every other byte reads as before. -/
theorem mget_mset_ne {a c : Nat} (hc : c ≠ a) (m : Mem) (b : Byte) : mget (mset m a b) c = mget m c := by
  unfold mset mget
  split
  · rw [sget_sdel_ne hc]
  · rw [sget_sset_ne hc]

/-- Bytes outside a run read as before. -/
theorem mget_mwrite_outside {a c : Nat} (m : Mem) (bs : List Byte) (h : c < a ∨ a + bs.length ≤ c) :
    mget (mwrite m a bs) c = mget m c := by
  induction bs generalizing m a with
  | nil => rfl
  | cons b r ih =>
    simp only [List.length_cons] at h
    rw [mwrite, ih _ (by omega), mget_mset_ne (by omega)]

/-- Bytes inside a run read as they were written. -/
theorem mget_mwrite_inside (m : Mem) (a i : Nat) (bs : List Byte) (h : i < bs.length) : mget (mwrite m a bs) (a + i) = bs[i] := by
  induction bs generalizing m a i with
  | nil => simp at h
  | cons b r ih =>
    cases i with
    | zero => rw [mwrite, mget_mwrite_outside _ _ (by omega)]; simp
    | succ i =>
      have := ih (mset m a b) (a + 1) i (by simpa using h)
      rw [show a + 1 + i = a + (i + 1) by omega] at this
      rw [mwrite, this]; rfl

/-- One byte written keeps the canonical form. -/
theorem mset_wf {m : Mem} (a : Nat) (b : Byte) (h : Mem.wf m = true) : Mem.wf (mset m a b) = true := by
  simp only [Mem.wf, Bool.and_eq_true, List.all_eq_true] at h ⊢
  unfold mset
  split
  · exact ⟨keysRise_sdel a h.1, fun c hc => h.2 c (mem_sdel c hc)⟩
  · rename_i hb
    refine ⟨keysRise_sset a b h.1, fun c hc => ?_⟩
    rcases mem_sset c hc with rfl | hc
    · simpa using hb
    · exact h.2 c hc

/-- A run of bytes written keeps the canonical form. -/
theorem mwrite_wf {m : Mem} (a : Nat) (bs : List Byte) (h : Mem.wf m = true) : Mem.wf (mwrite m a bs) = true := by
  induction bs generalizing m a with
  | nil => exact h
  | cons b r ih => exact ih (a + 1) (mset_wf a b h)

theorem empty_wf : Mem.wf [] = true := rfl

end Sys2Proof.Machine
end

