-- ==== Sys2Proof/Laws/Memory.lean ====
section
/-! SUPPORT. Every operation on memory and on a tile's store keeps the canonical form of byte memories (log 2). -/

namespace Sys2Proof.Machine

/-- Rising keys, said of all pairs. -/
theorem keysRise_iff {l : List (Nat × α)} : keysRise l = true ↔ l.Pairwise (fun a b => a.1 < b.1) := by
  induction l with
  | nil => simp [keysRise]
  | cons e r ih =>
    refine ⟨fun h => List.pairwise_cons.mpr ⟨keysRise_bound (keysRise_tail h) (keysRise_head h), ih.mp (keysRise_tail h)⟩, fun h => ?_⟩
    rw [List.pairwise_cons] at h
    exact keysRise_cons (ih.mpr h.2) fun f hf => h.1 f (List.mem_of_mem_head? hf)

theorem wf_iff {m : Mem} : Mem.wf m = true ↔ m.Pairwise (fun a b => a.1 < b.1) ∧ ∀ c ∈ m, c.2 ≠ memDefault c.1 := by
  simp [Mem.wf, keysRise_iff]

/-- A part of a memory. -/
theorem filter_wf {m : Mem} (p : Host.Cell → Bool) (h : Mem.wf m = true) : Mem.wf (m.filter p) = true := by
  rw [wf_iff] at *
  exact ⟨h.1.filter p, fun c hc => h.2 c (List.mem_of_mem_filter hc)⟩

/-- Two memories, one above the other. -/
theorem append_wf {m n : Mem} (hm : Mem.wf m = true) (hn : Mem.wf n = true) (h : ∀ a ∈ m, ∀ b ∈ n, a.1 < b.1) : Mem.wf (m ++ n) = true := by
  rw [wf_iff] at *
  refine ⟨List.pairwise_append.mpr ⟨hm.1, hn.1, h⟩, fun c hc => ?_⟩
  rcases List.mem_append.mp hc with hc | hc
  · exact hm.2 c hc
  · exact hn.2 c hc

theorem mem_memOf {a : Nat} {bs : List Byte} : ∀ c ∈ memOf a bs, a ≤ c.1 ∧ c.1 < a + bs.length := by
  induction bs generalizing a with
  | nil => simp [memOf]
  | cons b r ih =>
    intro c hc
    simp only [List.length_cons]
    have step : c ∈ memOf (a + 1) r → a ≤ c.1 ∧ c.1 < a + (r.length + 1) := fun h => by
      have := ih c h; omega
    unfold memOf at hc
    split at hc
    · exact step hc
    · rcases List.mem_cons.mp hc with rfl | hc
      · simp
      · exact step hc

/-- A memory made of bytes. -/
theorem memOf_wf (a : Nat) (bs : List Byte) : Mem.wf (memOf a bs) = true := by
  induction bs generalizing a with
  | nil => rfl
  | cons b r ih =>
    unfold memOf
    split
    · exact ih _
    · rename_i hb
      have := wf_iff.mp (ih (a + 1))
      exact wf_iff.mpr ⟨List.pairwise_cons.mpr ⟨fun c hc => by have := mem_memOf c hc; simp; omega, this.1⟩,
        fun c hc => by rcases List.mem_cons.mp hc with rfl | hc; exacts [hb, this.2 c hc]⟩

/-- A page laid over a store. -/
theorem splice_wf {m : Mem} (o n : Nat) (bs : List Byte) (hm : Mem.wf m = true) (hn : bs.length ≤ n) :
    Mem.wf (m.filter (fun c => c.1 < o) ++ memOf o bs ++ m.filter (fun c => o + n ≤ c.1)) = true := by
  refine append_wf (append_wf (filter_wf _ hm) (memOf_wf o bs) fun a ha b hb => ?_) (filter_wf _ hm) fun a ha b hb => ?_
  · have h1 := (List.mem_filter.mp ha).2
    have h2 := mem_memOf b hb
    simp at h1; omega
  · have h2 := (List.mem_filter.mp hb).2
    simp at h2
    rcases List.mem_append.mp ha with ha | ha
    · have h1 := (List.mem_filter.mp ha).2
      simp at h1; omega
    · have h1 := mem_memOf a ha; omega

/-- Bytes written one by one. -/
theorem cells_wf {m : Mem} (cs : List (Nat × Byte)) (f : Nat → Nat) (h : Mem.wf m = true) :
    Mem.wf (cs.foldl (fun m c => mset m (f c.1) c.2) m) = true := by
  induction cs generalizing m with
  | nil => exact h
  | cons c r ih => exact ih (mset_wf _ _ h)

/-- A list of updates keeps what each keeps. -/
theorem foldl_keeps {P : State → Prop} {f : State → β → State} (h : ∀ s b, P s → P (f s b)) (l : List β) {s : State} (hs : P s) : P (l.foldl f s) := by
  induction l generalizing s with
  | nil => exact hs
  | cons b r ih => exact ih (h s b hs)

/-! ## Physical memory -/

theorem logError_mem (s : State) (d ty un lo ws ad info : Nat) : (s.logError d ty un lo ws ad info).mem = s.mem := by
  unfold State.logError; rfl

theorem chargeEvict_mem (s : State) (unit loc tile : Nat) (ws : Wsid) (pa : Nat) : (s.chargeEvict unit loc tile ws pa).mem = s.mem := by
  unfold State.chargeEvict; simp [logError_mem]

theorem dropL2_mem (s : State) (e : L2Line) : (s.dropL2 e).mem = s.mem := by
  unfold State.dropL2
  split
  · rfl
  · dsimp only
    cases e.dirty with
    | none => rfl
    | some ws => dsimp only; split <;> simp [chargeEvict_mem]

theorem allocL2_mem (s : State) (e : L2Line) : (s.allocL2 e).mem = s.mem := by
  unfold State.allocL2
  dsimp only
  split
  · rfl
  · split
    · exact dropL2_mem ..
    · rfl

theorem touchLine_mem (s : State) (pa : Nat) : (s.touchLine pa).mem = s.mem := by
  unfold State.touchLine
  split
  · rfl
  · exact allocL2_mem ..

theorem putWord_wf {s : State} (w : Nat) (cs : List (Nat × Byte)) (ws : Wsid) (h : Mem.wf s.mem = true) : Mem.wf (s.putWord w cs ws).mem = true := by
  unfold State.putWord
  split
  · simp only [State.markDirty, touchLine_mem]
    exact cells_wf cs (8 * w + ·) h
  · exact h

theorem writeBackWord_wf {s : State} (w : Nat) (l : L1Word) (n : Holder) (h : Mem.wf s.mem = true) :
    Mem.wf (s.writeBackWord w l n).mem = true := by
  unfold State.writeBackWord
  dsimp only
  split
  · simpa [chargeEvict_mem, State.setPoison] using putWord_wf w _ l.ws h
  · exact putWord_wf w _ l.ws h

theorem unregister_mem (s : State) (w : Nat) : (s.unregister w).mem = s.mem := rfl

theorem revoke_wf {s : State} (w : Nat) (h : Mem.wf s.mem = true) : Mem.wf (s.revoke w).mem = true := by
  unfold State.revoke
  split
  · exact h
  · rename_i r _
    dsimp only
    rw [unregister_mem]
    split
    · unfold State.dropHeld; split <;> exact writeBackWord_wf _ _ _ h
    · exact h

theorem evictWords_wf {s : State} (tile : Nat) (p : Nat → Bool) (h : Mem.wf s.mem = true) : Mem.wf (s.evictWords tile p).mem = true := by
  unfold State.evictWords
  refine foldl_keeps (P := fun s => Mem.wf s.mem = true) (fun s e hs => ?_) _ h
  split
  · split
    · exact writeBackWord_wf _ _ _ hs
    · exact hs
  · exact hs

theorem unseal_wf {s : State} (w : Nat) (keep : Option Nat) (h : Mem.wf s.mem = true) : Mem.wf (s.unseal w keep).mem = true := by
  unfold State.unseal
  dsimp only
  split
  · exact h
  · exact foldl_keeps (P := fun s => Mem.wf s.mem = true) (fun s t hs => evictWords_wf t _ hs) _ h

/-- Bytes written at the slices. -/
theorem sliceWrite_wf {s : State} (w : Nat) (cs : List (Nat × Byte)) (ws : Wsid) (h : Mem.wf s.mem = true) : Mem.wf (s.sliceWrite w cs ws).mem = true :=
  putWord_wf w cs ws (unseal_wf w none (revoke_wf w h))

theorem setHold_mem (s : State) (pa : Nat) (o : Option Hold) : (s.setHold pa o).mem = s.mem := rfl

theorem setHostSt_mem (s : State) (pa : Nat) (o : Option HostSt) : (s.setHostSt pa o).mem = s.mem := by
  unfold State.setHostSt; rfl

/-- A sector brought to its slice. -/
theorem takeSector_wf {s : State} (pa : Nat) (write : Bool) (h : Mem.wf s.mem = true) : Mem.wf (s.takeSector pa write).mem = true := by
  have lay : Mem.wf (s.laySector pa).mem = true := mwrite_wf _ _ h
  unfold State.takeSector
  split
  · split
    · exact lay
    · split
      · exact h
      · exact h
    · exact h
  · have h1 : Mem.wf (if (sget (sectorOf pa) s.hostHeld).isNone then s.laySector pa else s).mem = true := by
      split
      · exact lay
      · exact h
    dsimp only
    split
    · rw [setHostSt_mem]; exact h1
    · exact h1
  · exact h

theorem writeRun_wf {s : State} (pa : Nat) (bs : List Byte) (ws : Wsid) (h : Mem.wf s.mem = true) : Mem.wf (s.writeRun pa bs ws).mem = true :=
  foldl_keeps (P := fun s => Mem.wf s.mem = true) (fun _ w hs => sliceWrite_wf w _ ws hs) _ h

theorem noteNomem_mem (s : State) (pa len ws : Nat) : (s.noteNomem pa len ws).mem = s.mem := by
  unfold State.noteNomem
  split
  · exact logError_mem ..
  · rfl

theorem nomemRuns_mem (s : State) (l : List (Nat × Nat)) (ws : Nat) : (s.nomemRuns l ws).mem = s.mem := by
  unfold State.nomemRuns
  split
  · exact noteNomem_mem ..
  · rfl

theorem putRun_wf {s : State} (pa : Nat) (bs : List Byte) (ws : Wsid) (h : Mem.wf s.mem = true) : Mem.wf (s.putRun pa bs ws).mem = true :=
  writeRun_wf _ _ _ (foldl_keeps (P := fun s => Mem.wf s.mem = true) (fun _ a hs => takeSector_wf a true hs) _ h)

theorem writeAt_wf {s : State} (pa : Nat) (bs : List Byte) (ws : Wsid) (h : Mem.wf s.mem = true) : Mem.wf (s.writeAt pa bs ws).mem = true := by
  unfold State.writeAt
  rw [noteNomem_mem]
  exact putRun_wf _ _ _ h

theorem seeRuns_wf {s : State} (l : List (Nat × Nat)) (ws : Nat) (h : Mem.wf s.mem = true) : Mem.wf (s.seeRuns l ws).mem = true := by
  unfold State.seeRuns
  rw [nomemRuns_mem]
  exact foldl_keeps (P := fun s => Mem.wf s.mem = true) (fun s a hs => takeSector_wf a false (by rw [touchLine_mem]; exact hs)) _ h

theorem walkNomem_mem (s : State) (ws va : Nat) : (s.walkNomem ws va).mem = s.mem := by
  unfold State.walkNomem
  split
  · exact noteNomem_mem ..
  · rfl

theorem vsee_wf {s : State} (ws va n : Nat) (h : Mem.wf s.mem = true) : Mem.wf (s.vsee ws va n).mem = true := by
  unfold State.vsee
  split
  · rw [walkNomem_mem]; exact h
  · exact seeRuns_wf _ _ h

theorem writePieces_wf {s : State} (ws : Wsid) (l : List (Nat × Nat)) (bs : List Byte) (h : Mem.wf s.mem = true) :
    Mem.wf (s.writePieces ws l bs).mem = true := by
  induction l generalizing s bs with
  | nil => exact h
  | cons c r ih => exact ih _ (putRun_wf _ _ _ h)

theorem vwrite_wf {s t : State} {ws va : Nat} {bs : List Byte} (hw : s.vwrite ws va bs = .ok t) (h : Mem.wf s.mem = true) :
    Mem.wf t.mem = true := by
  unfold State.vwrite at hw
  split at hw
  · cases hw
  · cases hw
    rw [nomemRuns_mem]
    exact writePieces_wf _ _ _ h

theorem vput_wf {s : State} (ws va n v : Nat) (h : Mem.wf s.mem = true) : Mem.wf (s.vput ws va n v).mem = true := by
  unfold State.vput
  split
  · exact vwrite_wf ‹_› h
  · exact h

/-- What no read of a unit changes: the tiles, and for whom a word acts. -/
def sameAgents (s t : State) : Prop := t.tiles = s.tiles ∧ t.curTile = s.curTile ∧ t.curAgent = s.curAgent

theorem sameAgents.trans {s t u : State} (h : sameAgents s t) (k : sameAgents t u) : sameAgents s u :=
  ⟨k.1.trans h.1, k.2.1.trans h.2.1, k.2.2.trans h.2.2⟩

theorem sameAgents_foldl {f : State → β → State} (h : ∀ s b, sameAgents s (f s b)) (l : List β) (s : State) : sameAgents s (l.foldl f s) := by
  induction l generalizing s with
  | nil => exact ⟨rfl, rfl, rfl⟩
  | cons b r ih => exact (h s b).trans (ih _)

theorem logError_agents (s : State) (d ty un lo ws ad info : Nat) : sameAgents s (s.logError d ty un lo ws ad info) :=
  ⟨rfl, rfl, rfl⟩

theorem dropL2_agents (s : State) (e : L2Line) : sameAgents s (s.dropL2 e) := by
  unfold State.dropL2
  dsimp only
  split
  · exact ⟨rfl, rfl, rfl⟩
  · split
    · split
      · exact ⟨rfl, rfl, rfl⟩
      · exact ⟨rfl, rfl, rfl⟩
    · exact ⟨rfl, rfl, rfl⟩

theorem touchLine_agents (s : State) (pa : Nat) : sameAgents s (s.touchLine pa) := by
  unfold State.touchLine
  split
  · exact ⟨rfl, rfl, rfl⟩
  · unfold State.allocL2
    dsimp only
    split
    · exact ⟨rfl, rfl, rfl⟩
    · split
      · exact dropL2_agents ..
      · exact ⟨rfl, rfl, rfl⟩

theorem takeSector_agents (s : State) (pa : Nat) (write : Bool) : sameAgents s (s.takeSector pa write) := by
  unfold State.takeSector
  split
  · split
    · exact ⟨rfl, rfl, rfl⟩
    · split <;> exact ⟨rfl, rfl, rfl⟩
    · exact ⟨rfl, rfl, rfl⟩
  · dsimp only
    split <;> split <;> exact ⟨rfl, rfl, rfl⟩
  · exact ⟨rfl, rfl, rfl⟩

theorem noteNomem_agents (s : State) (pa len ws : Nat) : sameAgents s (s.noteNomem pa len ws) := by
  unfold State.noteNomem
  split
  · exact logError_agents ..
  · exact ⟨rfl, rfl, rfl⟩

theorem nomemRuns_agents (s : State) (l : List (Nat × Nat)) (ws : Nat) : sameAgents s (s.nomemRuns l ws) := by
  unfold State.nomemRuns
  split
  · exact noteNomem_agents ..
  · exact ⟨rfl, rfl, rfl⟩

theorem seeRuns_agents (s : State) (l : List (Nat × Nat)) (ws : Nat) : sameAgents s (s.seeRuns l ws) :=
  (sameAgents_foldl (f := fun s a => (s.touchLine a).takeSector a false)
    (fun s a => (touchLine_agents s a).trans (takeSector_agents _ a false)) _ s).trans (nomemRuns_agents ..)

theorem walkNomem_agents (s : State) (ws va : Nat) : sameAgents s (s.walkNomem ws va) := by
  unfold State.walkNomem
  split
  · exact noteNomem_agents ..
  · exact ⟨rfl, rfl, rfl⟩

/-- A read of a unit changes no tile, and not for whom a word acts. -/
theorem vsee_agents (s : State) (ws va n : Nat) : sameAgents s (s.vsee ws va n) := by
  unfold State.vsee
  split
  · exact walkNomem_agents ..
  · exact seeRuns_agents ..

theorem mzero_wf {m : Mem} (a n : Nat) (h : Mem.wf m = true) : Mem.wf (mzero m a n) = true := by
  have step : ∀ (l : List Nat) (m : Mem), Mem.wf m = true → Mem.wf (l.foldl (fun m x => mset m x 0) m) = true := by
    intro l
    induction l with
    | nil => exact fun _ h => h
    | cons x r ih => exact fun m h => ih _ (mset_wf x 0 h)
  exact step _ _ (filter_wf _ h)

/-- Memory cleared by the steward. -/
theorem zeroSpan_wf {s : State} (a n : Nat) (h : Mem.wf s.mem = true) : Mem.wf (s.zeroSpan a n).mem = true :=
  mzero_wf a n (foldl_keeps (P := fun s => Mem.wf s.mem = true) (f := State.revoke) (fun _ w hs => revoke_wf w hs) _ h)

/-! ## A tile's store -/

theorem writeCells_wf {t : Tile} (cs : List (Nat × Byte)) (h : Mem.wf t.store = true) : Mem.wf (t.writeCells cs).store = true :=
  cells_wf _ id h

/-- At reset every memory has the form. -/
theorem reset_wf : Mem.wf State.reset.mem = true ∧ ∀ n, Mem.wf (State.reset.tileAt n).store = true := ⟨rfl, fun _ => rfl⟩

end Sys2Proof.Machine
end

