-- ==== Sys2Proof/Laws/State.lean ====
section
/-! SUPPORT. What an update of the state leaves as it was, field by field; tiles, threads and registers read back. -/

namespace Sys2Proof.Machine

/-! ## One tile replaced -/

@[simp] theorem State.setTile_curTile (s : State) (n : Nat) (t : Tile) : (s.setTile n t).curTile = s.curTile := rfl
@[simp] theorem State.setTile_curAgent (s : State) (n : Nat) (t : Tile) : (s.setTile n t).curAgent = s.curAgent := rfl
@[simp] theorem State.setTile_turns (s : State) (n : Nat) (t : Tile) : (s.setTile n t).turns = s.turns := rfl
@[simp] theorem State.setTile_mem (s : State) (n : Nat) (t : Tile) : (s.setTile n t).mem = s.mem := rfl
@[simp] theorem State.setTile_mpoison (s : State) (n : Nat) (t : Tile) : (s.setTile n t).mpoison = s.mpoison := rfl
@[simp] theorem State.setTile_l2Bad (s : State) (n : Nat) (t : Tile) : (s.setTile n t).l2Bad = s.l2Bad := rfl
@[simp] theorem State.setTile_reg (s : State) (n : Nat) (t : Tile) : (s.setTile n t).reg = s.reg := rfl
@[simp] theorem State.setTile_regLines (s : State) (n : Nat) (t : Tile) : (s.setTile n t).regLines = s.regLines := rfl
@[simp] theorem State.setTile_regOver (s : State) (n : Nat) (t : Tile) : (s.setTile n t).regOver = s.regOver := rfl
@[simp] theorem State.setTile_cu (s : State) (n : Nat) (t : Tile) : (s.setTile n t).cu = s.cu := rfl
@[simp] theorem State.setTile_l2 (s : State) (n : Nat) (t : Tile) : (s.setTile n t).l2 = s.l2 := rfl
@[simp] theorem State.setTile_hot (s : State) (n : Nat) (t : Tile) : (s.setTile n t).hot = s.hot := rfl
@[simp] theorem State.setTile_hold (s : State) (n : Nat) (t : Tile) : (s.setTile n t).hold = s.hold := rfl
@[simp] theorem State.setTile_bi (s : State) (n : Nat) (t : Tile) : (s.setTile n t).bi = s.bi := rfl
@[simp] theorem State.setTile_biOrder (s : State) (n : Nat) (t : Tile) : (s.setTile n t).biOrder = s.biOrder := rfl
@[simp] theorem State.setTile_nomem (s : State) (n : Nat) (t : Tile) : (s.setTile n t).nomem = s.nomem := rfl
@[simp] theorem State.setTile_flights (s : State) (n : Nat) (t : Tile) : (s.setTile n t).flights = s.flights := rfl
@[simp] theorem State.setTile_coppice (s : State) (n : Nat) (t : Tile) : (s.setTile n t).coppice = s.coppice := rfl
@[simp] theorem State.setTile_walks (s : State) (n : Nat) (t : Tile) : (s.setTile n t).walks = s.walks := rfl
@[simp] theorem State.setTile_walkQ (s : State) (n : Nat) (t : Tile) : (s.setTile n t).walkQ = s.walkQ := rfl
@[simp] theorem State.setTile_walkCache (s : State) (n : Nat) (t : Tile) : (s.setTile n t).walkCache = s.walkCache := rfl
@[simp] theorem State.setTile_refused (s : State) (n : Nat) (t : Tile) : (s.setTile n t).refused = s.refused := rfl
@[simp] theorem State.setTile_tick (s : State) (n : Nat) (t : Tile) : (s.setTile n t).tick = s.tick := rfl
@[simp] theorem State.setTile_roles (s : State) (n : Nat) (t : Tile) : (s.setTile n t).roles = s.roles := rfl
@[simp] theorem State.setTile_expect (s : State) (n : Nat) (t : Tile) : (s.setTile n t).expect = s.expect := rfl
@[simp] theorem State.setTile_notices (s : State) (n : Nat) (t : Tile) : (s.setTile n t).notices = s.notices := rfl
@[simp] theorem State.setTile_moves (s : State) (n : Nat) (t : Tile) : (s.setTile n t).moves = s.moves := rfl
@[simp] theorem State.setTile_xholds (s : State) (n : Nat) (t : Tile) : (s.setTile n t).xholds = s.xholds := rfl
@[simp] theorem State.setTile_charges (s : State) (n : Nat) (t : Tile) : (s.setTile n t).charges = s.charges := rfl
@[simp] theorem State.setTile_mgmt (s : State) (n : Nat) (t : Tile) : (s.setTile n t).mgmt = s.mgmt := rfl
@[simp] theorem State.setTile_groups (s : State) (n : Nat) (t : Tile) : (s.setTile n t).groups = s.groups := rfl
@[simp] theorem State.setTile_reqs (s : State) (n : Nat) (t : Tile) : (s.setTile n t).reqs = s.reqs := rfl
@[simp] theorem State.setTile_fullService (s : State) (n : Nat) (t : Tile) : (s.setTile n t).fullService = s.fullService := rfl
@[simp] theorem State.setTile_powered (s : State) (n : Nat) (t : Tile) : (s.setTile n t).powered = s.powered := rfl
@[simp] theorem State.setTile_idDies (s : State) (n : Nat) (t : Tile) : (s.setTile n t).idDies = s.idDies := rfl
@[simp] theorem State.setTile_idHbm (s : State) (n : Nat) (t : Tile) : (s.setTile n t).idHbm = s.idHbm := rfl
@[simp] theorem State.setTile_idCxl (s : State) (n : Nat) (t : Tile) : (s.setTile n t).idCxl = s.idCxl := rfl
@[simp] theorem State.setTile_idFab (s : State) (n : Nat) (t : Tile) : (s.setTile n t).idFab = s.idFab := rfl
@[simp] theorem State.setTile_idNode (s : State) (n : Nat) (t : Tile) : (s.setTile n t).idNode = s.idNode := rfl
@[simp] theorem State.setTile_hostHeld (s : State) (n : Nat) (t : Tile) : (s.setTile n t).hostHeld = s.hostHeld := rfl
@[simp] theorem State.setTile_linkFails (s : State) (n : Nat) (t : Tile) : (s.setTile n t).linkFails = s.linkFails := rfl
@[simp] theorem State.setTile_linkDown (s : State) (n : Nat) (t : Tile) : (s.setTile n t).linkDown = s.linkDown := rfl
@[simp] theorem State.setTile_rings (s : State) (n : Nat) (t : Tile) : (s.setTile n t).rings = s.rings := rfl
@[simp] theorem State.setTile_errWritten (s : State) (n : Nat) (t : Tile) : (s.setTile n t).errWritten = s.errWritten := rfl
@[simp] theorem State.setTile_errCe (s : State) (n : Nat) (t : Tile) : (s.setTile n t).errCe = s.errCe := rfl
@[simp] theorem State.setTile_ceSeen (s : State) (n : Nat) (t : Tile) : (s.setTile n t).ceSeen = s.ceSeen := rfl
@[simp] theorem State.setTile_agePct (s : State) (n : Nat) (t : Tile) : (s.setTile n t).agePct = s.agePct := rfl
@[simp] theorem State.setTile_eolDays (s : State) (n : Nat) (t : Tile) : (s.setTile n t).eolDays = s.eolDays := rfl
@[simp] theorem State.setTile_wearDue (s : State) (n : Nat) (t : Tile) : (s.setTile n t).wearDue = s.wearDue := rfl
@[simp] theorem State.setTile_fresh (s : State) (n : Nat) (t : Tile) : (s.setTile n t).fresh = s.fresh := rfl
@[simp] theorem State.setTile_rota (s : State) (n : Nat) (t : Tile) : (s.setTile n t).rota = s.rota := rfl
@[simp] theorem State.setTile_faulted (s : State) (n : Nat) (t : Tile) : (s.setTile n t).faulted = s.faulted := rfl
@[simp] theorem State.setTile_framesUsed (s : State) (n : Nat) (t : Tile) : (s.setTile n t).framesUsed = s.framesUsed := rfl
@[simp] theorem State.setTile_strands (s : State) (n : Nat) (t : Tile) : (s.setTile n t).strands = s.strands := rfl
@[simp] theorem State.setTile_nextRec (s : State) (n : Nat) (t : Tile) : (s.setTile n t).nextRec = s.nextRec := rfl
@[simp] theorem State.setTile_dies (s : State) (n : Nat) (t : Tile) : (s.setTile n t).dies = s.dies := rfl
@[simp] theorem State.setTile_signals (s : State) (n : Nat) (t : Tile) : (s.setTile n t).signals = s.signals := rfl
@[simp] theorem State.setTile_cntRetry (s : State) (n : Nat) (t : Tile) : (s.setTile n t).cntRetry = s.cntRetry := rfl
@[simp] theorem State.setTile_fqRetry (s : State) (n : Nat) (t : Tile) : (s.setTile n t).fqRetry = s.fqRetry := rfl

/-! ## One die replaced, one role-map entry replaced -/

@[simp] theorem State.setDie_curTile (s : State) (n : Nat) (d : Die) : (s.setDie n d).curTile = s.curTile := rfl
@[simp] theorem State.setDie_curAgent (s : State) (n : Nat) (d : Die) : (s.setDie n d).curAgent = s.curAgent := rfl
@[simp] theorem State.setDie_turns (s : State) (n : Nat) (d : Die) : (s.setDie n d).turns = s.turns := rfl
@[simp] theorem State.setDie_tiles (s : State) (n : Nat) (d : Die) : (s.setDie n d).tiles = s.tiles := rfl
@[simp] theorem State.setDie_mem (s : State) (n : Nat) (d : Die) : (s.setDie n d).mem = s.mem := rfl
@[simp] theorem State.setDie_mpoison (s : State) (n : Nat) (d : Die) : (s.setDie n d).mpoison = s.mpoison := rfl
@[simp] theorem State.setDie_l2Bad (s : State) (n : Nat) (d : Die) : (s.setDie n d).l2Bad = s.l2Bad := rfl
@[simp] theorem State.setDie_reg (s : State) (n : Nat) (d : Die) : (s.setDie n d).reg = s.reg := rfl
@[simp] theorem State.setDie_regLines (s : State) (n : Nat) (d : Die) : (s.setDie n d).regLines = s.regLines := rfl
@[simp] theorem State.setDie_regOver (s : State) (n : Nat) (d : Die) : (s.setDie n d).regOver = s.regOver := rfl
@[simp] theorem State.setDie_cu (s : State) (n : Nat) (d : Die) : (s.setDie n d).cu = s.cu := rfl
@[simp] theorem State.setDie_l2 (s : State) (n : Nat) (d : Die) : (s.setDie n d).l2 = s.l2 := rfl
@[simp] theorem State.setDie_hot (s : State) (n : Nat) (d : Die) : (s.setDie n d).hot = s.hot := rfl
@[simp] theorem State.setDie_hold (s : State) (n : Nat) (d : Die) : (s.setDie n d).hold = s.hold := rfl
@[simp] theorem State.setDie_bi (s : State) (n : Nat) (d : Die) : (s.setDie n d).bi = s.bi := rfl
@[simp] theorem State.setDie_biOrder (s : State) (n : Nat) (d : Die) : (s.setDie n d).biOrder = s.biOrder := rfl
@[simp] theorem State.setDie_nomem (s : State) (n : Nat) (d : Die) : (s.setDie n d).nomem = s.nomem := rfl
@[simp] theorem State.setDie_flights (s : State) (n : Nat) (d : Die) : (s.setDie n d).flights = s.flights := rfl
@[simp] theorem State.setDie_coppice (s : State) (n : Nat) (d : Die) : (s.setDie n d).coppice = s.coppice := rfl
@[simp] theorem State.setDie_walks (s : State) (n : Nat) (d : Die) : (s.setDie n d).walks = s.walks := rfl
@[simp] theorem State.setDie_walkQ (s : State) (n : Nat) (d : Die) : (s.setDie n d).walkQ = s.walkQ := rfl
@[simp] theorem State.setDie_walkCache (s : State) (n : Nat) (d : Die) : (s.setDie n d).walkCache = s.walkCache := rfl
@[simp] theorem State.setDie_refused (s : State) (n : Nat) (d : Die) : (s.setDie n d).refused = s.refused := rfl
@[simp] theorem State.setDie_tick (s : State) (n : Nat) (d : Die) : (s.setDie n d).tick = s.tick := rfl
@[simp] theorem State.setDie_roles (s : State) (n : Nat) (d : Die) : (s.setDie n d).roles = s.roles := rfl
@[simp] theorem State.setDie_expect (s : State) (n : Nat) (d : Die) : (s.setDie n d).expect = s.expect := rfl
@[simp] theorem State.setDie_notices (s : State) (n : Nat) (d : Die) : (s.setDie n d).notices = s.notices := rfl
@[simp] theorem State.setDie_moves (s : State) (n : Nat) (d : Die) : (s.setDie n d).moves = s.moves := rfl
@[simp] theorem State.setDie_xholds (s : State) (n : Nat) (d : Die) : (s.setDie n d).xholds = s.xholds := rfl
@[simp] theorem State.setDie_charges (s : State) (n : Nat) (d : Die) : (s.setDie n d).charges = s.charges := rfl
@[simp] theorem State.setDie_mgmt (s : State) (n : Nat) (d : Die) : (s.setDie n d).mgmt = s.mgmt := rfl
@[simp] theorem State.setDie_groups (s : State) (n : Nat) (d : Die) : (s.setDie n d).groups = s.groups := rfl
@[simp] theorem State.setDie_reqs (s : State) (n : Nat) (d : Die) : (s.setDie n d).reqs = s.reqs := rfl
@[simp] theorem State.setDie_fullService (s : State) (n : Nat) (d : Die) : (s.setDie n d).fullService = s.fullService := rfl
@[simp] theorem State.setDie_powered (s : State) (n : Nat) (d : Die) : (s.setDie n d).powered = s.powered := rfl
@[simp] theorem State.setDie_idDies (s : State) (n : Nat) (d : Die) : (s.setDie n d).idDies = s.idDies := rfl
@[simp] theorem State.setDie_idHbm (s : State) (n : Nat) (d : Die) : (s.setDie n d).idHbm = s.idHbm := rfl
@[simp] theorem State.setDie_idCxl (s : State) (n : Nat) (d : Die) : (s.setDie n d).idCxl = s.idCxl := rfl
@[simp] theorem State.setDie_idFab (s : State) (n : Nat) (d : Die) : (s.setDie n d).idFab = s.idFab := rfl
@[simp] theorem State.setDie_idNode (s : State) (n : Nat) (d : Die) : (s.setDie n d).idNode = s.idNode := rfl
@[simp] theorem State.setDie_hostHeld (s : State) (n : Nat) (d : Die) : (s.setDie n d).hostHeld = s.hostHeld := rfl
@[simp] theorem State.setDie_linkFails (s : State) (n : Nat) (d : Die) : (s.setDie n d).linkFails = s.linkFails := rfl
@[simp] theorem State.setDie_linkDown (s : State) (n : Nat) (d : Die) : (s.setDie n d).linkDown = s.linkDown := rfl
@[simp] theorem State.setDie_rings (s : State) (n : Nat) (d : Die) : (s.setDie n d).rings = s.rings := rfl
@[simp] theorem State.setDie_errWritten (s : State) (n : Nat) (d : Die) : (s.setDie n d).errWritten = s.errWritten := rfl
@[simp] theorem State.setDie_errCe (s : State) (n : Nat) (d : Die) : (s.setDie n d).errCe = s.errCe := rfl
@[simp] theorem State.setDie_ceSeen (s : State) (n : Nat) (d : Die) : (s.setDie n d).ceSeen = s.ceSeen := rfl
@[simp] theorem State.setDie_agePct (s : State) (n : Nat) (d : Die) : (s.setDie n d).agePct = s.agePct := rfl
@[simp] theorem State.setDie_eolDays (s : State) (n : Nat) (d : Die) : (s.setDie n d).eolDays = s.eolDays := rfl
@[simp] theorem State.setDie_wearDue (s : State) (n : Nat) (d : Die) : (s.setDie n d).wearDue = s.wearDue := rfl
@[simp] theorem State.setDie_fresh (s : State) (n : Nat) (d : Die) : (s.setDie n d).fresh = s.fresh := rfl
@[simp] theorem State.setDie_rota (s : State) (n : Nat) (d : Die) : (s.setDie n d).rota = s.rota := rfl
@[simp] theorem State.setDie_faulted (s : State) (n : Nat) (d : Die) : (s.setDie n d).faulted = s.faulted := rfl
@[simp] theorem State.setDie_framesUsed (s : State) (n : Nat) (d : Die) : (s.setDie n d).framesUsed = s.framesUsed := rfl
@[simp] theorem State.setDie_strands (s : State) (n : Nat) (d : Die) : (s.setDie n d).strands = s.strands := rfl
@[simp] theorem State.setDie_nextRec (s : State) (n : Nat) (d : Die) : (s.setDie n d).nextRec = s.nextRec := rfl
@[simp] theorem State.setDie_signals (s : State) (n : Nat) (d : Die) : (s.setDie n d).signals = s.signals := rfl
@[simp] theorem State.setDie_cntRetry (s : State) (n : Nat) (d : Die) : (s.setDie n d).cntRetry = s.cntRetry := rfl
@[simp] theorem State.setDie_fqRetry (s : State) (n : Nat) (d : Die) : (s.setDie n d).fqRetry = s.fqRetry := rfl
@[simp] theorem State.setRole_curTile (s : State) (n : Nat) (e : RoleEntry) : (s.setRole n e).curTile = s.curTile := rfl
@[simp] theorem State.setRole_curAgent (s : State) (n : Nat) (e : RoleEntry) : (s.setRole n e).curAgent = s.curAgent := rfl
@[simp] theorem State.setRole_turns (s : State) (n : Nat) (e : RoleEntry) : (s.setRole n e).turns = s.turns := rfl
@[simp] theorem State.setRole_tiles (s : State) (n : Nat) (e : RoleEntry) : (s.setRole n e).tiles = s.tiles := rfl
@[simp] theorem State.setRole_mem (s : State) (n : Nat) (e : RoleEntry) : (s.setRole n e).mem = s.mem := rfl
@[simp] theorem State.setRole_mpoison (s : State) (n : Nat) (e : RoleEntry) : (s.setRole n e).mpoison = s.mpoison := rfl
@[simp] theorem State.setRole_l2Bad (s : State) (n : Nat) (e : RoleEntry) : (s.setRole n e).l2Bad = s.l2Bad := rfl
@[simp] theorem State.setRole_reg (s : State) (n : Nat) (e : RoleEntry) : (s.setRole n e).reg = s.reg := rfl
@[simp] theorem State.setRole_regLines (s : State) (n : Nat) (e : RoleEntry) : (s.setRole n e).regLines = s.regLines := rfl
@[simp] theorem State.setRole_regOver (s : State) (n : Nat) (e : RoleEntry) : (s.setRole n e).regOver = s.regOver := rfl
@[simp] theorem State.setRole_cu (s : State) (n : Nat) (e : RoleEntry) : (s.setRole n e).cu = s.cu := rfl
@[simp] theorem State.setRole_l2 (s : State) (n : Nat) (e : RoleEntry) : (s.setRole n e).l2 = s.l2 := rfl
@[simp] theorem State.setRole_hot (s : State) (n : Nat) (e : RoleEntry) : (s.setRole n e).hot = s.hot := rfl
@[simp] theorem State.setRole_hold (s : State) (n : Nat) (e : RoleEntry) : (s.setRole n e).hold = s.hold := rfl
@[simp] theorem State.setRole_bi (s : State) (n : Nat) (e : RoleEntry) : (s.setRole n e).bi = s.bi := rfl
@[simp] theorem State.setRole_biOrder (s : State) (n : Nat) (e : RoleEntry) : (s.setRole n e).biOrder = s.biOrder := rfl
@[simp] theorem State.setRole_nomem (s : State) (n : Nat) (e : RoleEntry) : (s.setRole n e).nomem = s.nomem := rfl
@[simp] theorem State.setRole_flights (s : State) (n : Nat) (e : RoleEntry) : (s.setRole n e).flights = s.flights := rfl
@[simp] theorem State.setRole_coppice (s : State) (n : Nat) (e : RoleEntry) : (s.setRole n e).coppice = s.coppice := rfl
@[simp] theorem State.setRole_walks (s : State) (n : Nat) (e : RoleEntry) : (s.setRole n e).walks = s.walks := rfl
@[simp] theorem State.setRole_walkQ (s : State) (n : Nat) (e : RoleEntry) : (s.setRole n e).walkQ = s.walkQ := rfl
@[simp] theorem State.setRole_walkCache (s : State) (n : Nat) (e : RoleEntry) : (s.setRole n e).walkCache = s.walkCache := rfl
@[simp] theorem State.setRole_refused (s : State) (n : Nat) (e : RoleEntry) : (s.setRole n e).refused = s.refused := rfl
@[simp] theorem State.setRole_tick (s : State) (n : Nat) (e : RoleEntry) : (s.setRole n e).tick = s.tick := rfl
@[simp] theorem State.setRole_expect (s : State) (n : Nat) (e : RoleEntry) : (s.setRole n e).expect = s.expect := rfl
@[simp] theorem State.setRole_notices (s : State) (n : Nat) (e : RoleEntry) : (s.setRole n e).notices = s.notices := rfl
@[simp] theorem State.setRole_moves (s : State) (n : Nat) (e : RoleEntry) : (s.setRole n e).moves = s.moves := rfl
@[simp] theorem State.setRole_xholds (s : State) (n : Nat) (e : RoleEntry) : (s.setRole n e).xholds = s.xholds := rfl
@[simp] theorem State.setRole_charges (s : State) (n : Nat) (e : RoleEntry) : (s.setRole n e).charges = s.charges := rfl
@[simp] theorem State.setRole_mgmt (s : State) (n : Nat) (e : RoleEntry) : (s.setRole n e).mgmt = s.mgmt := rfl
@[simp] theorem State.setRole_groups (s : State) (n : Nat) (e : RoleEntry) : (s.setRole n e).groups = s.groups := rfl
@[simp] theorem State.setRole_reqs (s : State) (n : Nat) (e : RoleEntry) : (s.setRole n e).reqs = s.reqs := rfl
@[simp] theorem State.setRole_fullService (s : State) (n : Nat) (e : RoleEntry) : (s.setRole n e).fullService = s.fullService := rfl
@[simp] theorem State.setRole_powered (s : State) (n : Nat) (e : RoleEntry) : (s.setRole n e).powered = s.powered := rfl
@[simp] theorem State.setRole_idDies (s : State) (n : Nat) (e : RoleEntry) : (s.setRole n e).idDies = s.idDies := rfl
@[simp] theorem State.setRole_idHbm (s : State) (n : Nat) (e : RoleEntry) : (s.setRole n e).idHbm = s.idHbm := rfl
@[simp] theorem State.setRole_idCxl (s : State) (n : Nat) (e : RoleEntry) : (s.setRole n e).idCxl = s.idCxl := rfl
@[simp] theorem State.setRole_idFab (s : State) (n : Nat) (e : RoleEntry) : (s.setRole n e).idFab = s.idFab := rfl
@[simp] theorem State.setRole_idNode (s : State) (n : Nat) (e : RoleEntry) : (s.setRole n e).idNode = s.idNode := rfl
@[simp] theorem State.setRole_hostHeld (s : State) (n : Nat) (e : RoleEntry) : (s.setRole n e).hostHeld = s.hostHeld := rfl
@[simp] theorem State.setRole_linkFails (s : State) (n : Nat) (e : RoleEntry) : (s.setRole n e).linkFails = s.linkFails := rfl
@[simp] theorem State.setRole_linkDown (s : State) (n : Nat) (e : RoleEntry) : (s.setRole n e).linkDown = s.linkDown := rfl
@[simp] theorem State.setRole_rings (s : State) (n : Nat) (e : RoleEntry) : (s.setRole n e).rings = s.rings := rfl
@[simp] theorem State.setRole_errWritten (s : State) (n : Nat) (e : RoleEntry) : (s.setRole n e).errWritten = s.errWritten := rfl
@[simp] theorem State.setRole_errCe (s : State) (n : Nat) (e : RoleEntry) : (s.setRole n e).errCe = s.errCe := rfl
@[simp] theorem State.setRole_ceSeen (s : State) (n : Nat) (e : RoleEntry) : (s.setRole n e).ceSeen = s.ceSeen := rfl
@[simp] theorem State.setRole_agePct (s : State) (n : Nat) (e : RoleEntry) : (s.setRole n e).agePct = s.agePct := rfl
@[simp] theorem State.setRole_eolDays (s : State) (n : Nat) (e : RoleEntry) : (s.setRole n e).eolDays = s.eolDays := rfl
@[simp] theorem State.setRole_wearDue (s : State) (n : Nat) (e : RoleEntry) : (s.setRole n e).wearDue = s.wearDue := rfl
@[simp] theorem State.setRole_fresh (s : State) (n : Nat) (e : RoleEntry) : (s.setRole n e).fresh = s.fresh := rfl
@[simp] theorem State.setRole_rota (s : State) (n : Nat) (e : RoleEntry) : (s.setRole n e).rota = s.rota := rfl
@[simp] theorem State.setRole_faulted (s : State) (n : Nat) (e : RoleEntry) : (s.setRole n e).faulted = s.faulted := rfl
@[simp] theorem State.setRole_framesUsed (s : State) (n : Nat) (e : RoleEntry) : (s.setRole n e).framesUsed = s.framesUsed := rfl
@[simp] theorem State.setRole_strands (s : State) (n : Nat) (e : RoleEntry) : (s.setRole n e).strands = s.strands := rfl
@[simp] theorem State.setRole_nextRec (s : State) (n : Nat) (e : RoleEntry) : (s.setRole n e).nextRec = s.nextRec := rfl
@[simp] theorem State.setRole_dies (s : State) (n : Nat) (e : RoleEntry) : (s.setRole n e).dies = s.dies := rfl
@[simp] theorem State.setRole_signals (s : State) (n : Nat) (e : RoleEntry) : (s.setRole n e).signals = s.signals := rfl
@[simp] theorem State.setRole_cntRetry (s : State) (n : Nat) (e : RoleEntry) : (s.setRole n e).cntRetry = s.cntRetry := rfl
@[simp] theorem State.setRole_fqRetry (s : State) (n : Nat) (e : RoleEntry) : (s.setRole n e).fqRetry = s.fqRetry := rfl

/-! ## Tiles, threads and registers read back -/

@[simp] theorem State.tileAt_setTile_same (s : State) (n : Nat) (t : Tile) : (s.setTile n t).tileAt n = t := by
  simp [State.tileAt, State.setTile]

@[simp] theorem State.tileAt_setTile_ne {n m : Nat} (h : m ≠ n) (s : State) (t : Tile) : (s.setTile n t).tileAt m = s.tileAt m := by
  simp [State.tileAt, State.setTile, sget_sset_ne h]

theorem State.setTile_setTile (s : State) (n : Nat) (t u : Tile) : (s.setTile n t).setTile n u = s.setTile n u := by
  simp [State.setTile, sset_sset]

@[simp] theorem State.tile_putTile (s : State) (t : Tile) : (s.putTile t).tile = t := by simp [State.tile, State.putTile]

theorem State.putTile_putTile (s : State) (t u : Tile) : (s.putTile t).putTile u = s.putTile u := by
  simp [State.putTile, State.setTile_setTile]

@[simp] theorem State.putTile_curTile (s : State) (t : Tile) : (s.putTile t).curTile = s.curTile := rfl
@[simp] theorem State.putTile_curAgent (s : State) (t : Tile) : (s.putTile t).curAgent = s.curAgent := rfl
@[simp] theorem State.putTile_flights (s : State) (t : Tile) : (s.putTile t).flights = s.flights := rfl
@[simp] theorem State.putTile_mem (s : State) (t : Tile) : (s.putTile t).mem = s.mem := rfl
@[simp] theorem State.putTile_tick (s : State) (t : Tile) : (s.putTile t).tick = s.tick := rfl

@[simp] theorem State.tileAt_putTile_ne {n : Nat} (s : State) (h : n ≠ s.curTile) (t : Tile) : (s.putTile t).tileAt n = s.tileAt n := by
  simp [State.putTile, State.tileAt_setTile_ne h]

/-- All of a state but its tiles is left as it was. -/
theorem State.putTile_rest (s : State) (t : Tile) : { s.putTile t with tiles := s.tiles } = s := rfl

@[simp] theorem Tile.thread_setThread_same (t : Tile) (a : Agent) (h : Thread) : (t.setThread a h).thread a = h := by
  cases a <;> simp [Tile.thread, Tile.setThread]

@[simp] theorem State.th_setTh (s : State) (h : Thread) : (s.setTh h).th = h := by simp [State.th, State.setTh]
@[simp] theorem State.pc_setPc (s : State) (p : Word) : (s.setPc p).pc = p := by simp [State.pc, State.setPc]

theorem Thread.readX_writeX (h : Thread) (r q : Reg) (v : Word) :
    (h.writeX r v).readX q = if q = r ∧ r ≠ 0 then v else h.readX q := by
  unfold Thread.writeX Thread.readX
  by_cases hr : r = 0
  · rw [if_pos hr, if_neg (c := q = r ∧ r ≠ 0) (fun hc => hc.2 hr)]
  · rw [if_neg hr]
    by_cases hq : q = 0
    · rw [if_pos hq, if_pos hq, if_neg (c := q = r ∧ r ≠ 0) (fun hc => hr (hc.1 ▸ hq))]
    · rw [if_neg hq, if_neg hq]
      by_cases hqr : q = r
      · subst hqr; rw [if_pos ⟨rfl, hr⟩]; simp
      · have : r.toNat ≠ q.toNat := fun h => hqr (BitVec.eq_of_toNat_eq h.symm)
        rw [if_neg (c := q = r ∧ r ≠ 0) (fun hc => hqr hc.1)]; simp [this]

@[simp] theorem Tile.thread_writeX (t : Tile) (a : Agent) (r : Reg) (v : Word) : (t.writeX a r v).thread a = (t.thread a).writeX r v := by
  cases a <;> simp [Tile.thread, Tile.writeX, Context.writeX]

@[simp] theorem State.th_setX (s : State) (r : Reg) (v : Word) : (s.setX r v).th = s.th.writeX r v := by
  simp [State.th, State.setX]

/-- A register read after a write of a register; x0 reads zero and is never written (01 R14). -/
theorem State.x_setX (s : State) (r q : Reg) (v : Word) : (s.setX r v).x q = if q = r ∧ r ≠ 0 then v else s.x q := by
  simp [State.x, Thread.readX_writeX]

@[simp] theorem State.x_zero (s : State) : s.x 0 = 0 := by simp [State.x, Thread.readX]

@[simp] theorem State.x_setPc (s : State) (p : Word) (r : Reg) : (s.setPc p).x r = s.x r := by simp [State.x, State.setPc, Thread.readX]
@[simp] theorem State.pc_setX (s : State) (r : Reg) (v : Word) : (s.setX r v).pc = s.pc := by
  simp [State.pc, Thread.writeX]; split <;> rfl

end Sys2Proof.Machine
end

