-- ==== Sys2Proof/Laws/Ops.lean ====
section
/-! SUPPORT. What issuing, completing and waiting do, said once: the lemmas that results of single instructions cite. -/

namespace Sys2Proof.Machine

open Sys2Proof.Safety

/-! ## Tiles that differ in their agents alone -/

theorem sameCore_putTile {s : State} {T : Tile} (h : { T with ctx := s.tile.ctx, ldr := s.tile.ldr, str := s.tile.str } = s.tile) :
    sameCore s (s.putTile T) := by simp [sameCore, h]

theorem l1_of_core {s : State} {T : Tile} (h : { T with ctx := s.tile.ctx, ldr := s.tile.ldr, str := s.tile.str } = s.tile) :
    T.l1 = s.tile.l1 := by
  have := congrArg Tile.l1 h
  exact this

theorem holderWord_putTile {s : State} {T : Tile} (h : T.l1 = s.tile.l1) (d : Holder) (w : Nat) :
    (s.putTile T).holderWord d w = s.holderWord d w := by
  cases d with
  | tile n =>
    by_cases hn : n = s.curTile
    · subst hn
      simp only [State.holderWord]
      rw [show (s.putTile T).tileAt s.curTile = T by simp [State.putTile], h]; rfl
    · simp only [State.holderWord, State.tileAt_putTile_ne s hn]
  | cluster c => rfl

theorem latestWord_putTile {s : State} {T : Tile} (h : T.l1 = s.tile.l1) (w : Nat) : (s.putTile T).latestWord w = s.latestWord w := by
  unfold State.latestWord
  rw [show (s.putTile T).reg = s.reg from rfl]
  cases sget w s.reg with
  | none => rfl
  | some r => simp only [holderWord_putTile h]; cases s.holderWord r.holder w <;> rfl

theorem readAt_putTile {s : State} {T : Tile} (h : T.l1 = s.tile.l1) (a n : Nat) : (s.putTile T).readAt a n = s.readAt a n := by
  unfold State.readAt
  rw [List.map_congr_left (fun w _ => latestWord_putTile h w)]

theorem sameBytes_putTile {s : State} {T : Tile} (h : { T with ctx := s.tile.ctx, ldr := s.tile.ldr, str := s.tile.str } = s.tile) :
    sameBytes s (s.putTile T) := by
  refine ⟨fun a => readAt_putTile (l1_of_core h) a 1, fun n off => ?_⟩
  by_cases hn : n = s.curTile
  · subst hn
    have := congrArg Tile.store h
    simp only [Tile.byte]
    rw [show (s.putTile T).tileAt s.curTile = T by simp [State.putTile]]
    simp only at this; rw [this]; rfl
  · rw [State.tileAt_putTile_ne s hn]

theorem sameBeyond_putTile (s : State) (T : Tile) : sameBeyond s (s.putTile T) :=
  ⟨State.putTile_rest s T, fun _ hn => State.tileAt_putTile_ne s hn T⟩

theorem vset_ne {α} {n : Nat} (v : Vector α n) (i j : Fin n) (x : α) (h : i ≠ j) : (v.set i x)[j] = v[j] := by
  have : i.val ≠ j.val := fun e => h (Fin.ext e)
  simp [this]

/-! ## An agent replaced -/

/-- The tile with the acting agent's thread, strand and marks replaced where the agent is a context, its thread and
marks where it is a side core. -/
def agentTile (s : State) (h : Thread) (k : Context → Context) : Tile :=
  match s.curAgent with
  | .ctx c => { s.tile with ctx := s.tile.ctx.set c { k s.tile.ctx[c] with th := h, released := false, expired := false, suspending := false } }
  | .loader => { s.tile with ldr := { s.tile.ldr with th := h, released := false, expired := false } }
  | .storer => { s.tile with str := { s.tile.str with th := h, released := false, expired := false } }

theorem agentTile_core (s : State) (h : Thread) (k : Context → Context) :
    { agentTile s h k with ctx := s.tile.ctx, ldr := s.tile.ldr, str := s.tile.str } = s.tile := by
  unfold agentTile; cases s.curAgent <;> rfl

theorem th_agentTile (s : State) (h : Thread) (k : Context → Context) : (s.putTile (agentTile s h k)).th = h := by
  simp only [State.th, State.tile_putTile, State.putTile_curAgent]
  unfold agentTile
  cases ha : s.curAgent <;> simp [Tile.thread]

theorem ctx_agentTile {s : State} (hs : s.isCtx = true) (h : Thread) (k : Context → Context) :
    (s.putTile (agentTile s h k)).ctx = { k s.ctx with th := h, released := false, expired := false, suspending := false } := by
  simp only [State.ctx, State.tile_putTile, State.putTile_curAgent]
  unfold agentTile
  cases ha : s.curAgent <;> simp_all [State.isCtx]

/-- An agent whose registers, flags, program counter and WRITTEN change leaves everything else as it was. -/
theorem sameButRegs_agentTile (s : State) (h : Thread) (k : Context → Context)
    (hh : { h with x := s.th.x, pc := s.th.pc, fflags := s.th.fflags } = s.th)
    (hk : ∀ c, { k c with v := c.v, k := c.k, written := c.written } = c) :
    sameButRegs s (s.putTile (agentTile s h k)) := by
  refine ⟨sameBeyond_putTile _ _, sameCore_putTile (agentTile_core s h k), ?_, ?_, ?_, ?_, sameBytes_putTile (agentTile_core s h k)⟩
  · unfold sameOthers
    simp only [State.tile_putTile]
    unfold agentTile
    cases ha : s.curAgent with
    | ctx c => exact ⟨fun d hd => vset_ne _ _ _ _ (fun e => hd (by rw [e])), fun _ => rfl, fun _ => rfl⟩
    | loader => exact ⟨fun _ _ => rfl, fun hx => absurd rfl hx, fun _ => rfl⟩
    | storer => exact ⟨fun _ _ => rfl, fun _ => rfl, fun hx => absurd rfl hx⟩
  · unfold sameSides
    simp only [State.tile_putTile]
    unfold agentTile
    cases ha : s.curAgent <;> exact ⟨rfl, rfl⟩
  · unfold sameControl; rw [th_agentTile]; exact hh
  · unfold sameStrand
    simp only [State.ctx, State.tile_putTile, State.putTile_curAgent]
    unfold agentTile
    cases ha : s.curAgent with
    | ctx c =>
      have := hk s.tile.ctx[c]
      simp only [Fin.getElem_fin, Vector.getElem_set_self]
      rw [Context.mk.injEq] at *
      simp_all
    | loader => rfl
    | storer => rfl

/-! ## Issue -/

theorem issues_body {s u : State} {m : SMark} (h : issues s m u) {side : Bool} (hs : side = true ∨ u.isCtx = true)
    (i : Instr) (body : State → Done) : issue i m side body s = State.finish ((body u).afterStreams u) := by
  obtain ⟨s1, h1, rfl⟩ := h
  unfold issue
  rw [h1]
  rcases hs with rfl | hs
  · rfl
  · simp only [hs, Bool.not_true, Bool.and_false]; rfl

theorem finish_ok (u : State) : State.finish (.ok u) = wentOn (u.pc + 4) u := by
  simp only [State.finish, wentOn]
  cases ha : u.curAgent <;>
    simp [State.clearMarks, State.setPc, State.setTh, Tile.setThread, State.ctx, State.setCtx, ha, State.putTile_putTile, State.th, Tile.thread]

theorem finish_jump (u : State) (pc : Word) : State.finish (.jump pc u) = wentOn pc u := by
  simp only [State.finish, wentOn]
  cases ha : u.curAgent <;>
    simp [State.clearMarks, State.setPc, State.setTh, Tile.setThread, State.ctx, State.setCtx, ha, State.putTile_putTile, State.th, Tile.thread]

theorem finish_commit (u : State) : State.finish (.commit u) = committedTo (u.pc + 4) u := by
  simp only [State.finish, committedTo, State.committed]
  cases ha : u.curAgent <;>
    simp [State.clearMarks, State.setPc, State.setTh, Tile.setThread, State.ctx, State.setCtx, ha, State.putTile_putTile, State.th, Tile.thread, wentOn, beganRegion, Context.boundary, State.pc]

theorem waitOn_eq (u : State) (w : Wait) : u.waitOn w = waitsFor w u := by
  cases ha : u.curAgent <;> simp [State.waitOn, waitsFor, ha, Tile.waitCtx]

theorem finish_reply (u : State) (c : Bool) :
    State.finish (.reply c u) = waitsFor .reply (if c then committedTo (u.pc + 4) u else wentOn (u.pc + 4) u) := by
  rw [← waitOn_eq, ← finish_ok, ← finish_commit]
  cases c <;> rfl

theorem finish_wait (u : State) (w : Wait) : State.finish (.wait w u) = waitsFor w u := waitOn_eq u w

theorem afterStreams_ok (u v : State) : (Done.ok v).afterStreams u = .ok v := rfl
theorem afterStreams_jump (u v : State) (pc : Word) : (Done.jump pc v).afterStreams u = .jump pc v := rfl
theorem afterStreams_commit {u : State} (h : u.tile.streams u.src true true = false) (v : State) :
    (Done.commit v).afterStreams u = .commit v := by simp [Done.afterStreams, h]
theorem afterStreams_reply {u : State} (h : u.tile.streams u.src true true = false) (v : State) :
    (Done.reply true v).afterStreams u = .reply true v := by simp [Done.afterStreams, h]

/-! ## Register results -/

theorem Thread.writeX_eq (h : Thread) (rd : Reg) (v : Word) :
    h.writeX rd v = { h with x := if rd = 0 then h.x else h.x.set rd.toNat v rd.isLt } := by
  unfold Thread.writeX; split <;> rfl

/-- The tile after an x register, the flags and the program counter are written. -/
theorem wentOn_setX (u : State) (f : Flags) (rd : Reg) (v pc : Word) :
    wentOn pc ((u.raise f).setX rd v) = u.putTile (agentTile u
      { u.th.writeX rd v with pc := pc, fflags := u.th.fflags ||| f } (fun k => { k with written := k.written.addX rd })) := by
  cases ha : u.curAgent <;>
    simp [wentOn, agentTile, State.setX, Tile.writeX, State.raise, State.setTh, Tile.setThread, ha, State.putTile_putTile,
      State.th, Tile.thread, Context.writeX, Thread.writeX_eq]

theorem wentOn_setX_plain (u : State) (rd : Reg) (v pc : Word) :
    wentOn pc (u.setX rd v) = u.putTile (agentTile u
      { u.th.writeX rd v with pc := pc } (fun k => { k with written := k.written.addX rd })) := by
  cases ha : u.curAgent <;>
    simp [wentOn, agentTile, State.setX, Tile.writeX, ha, State.putTile_putTile, State.th, Tile.thread, Context.writeX, Thread.writeX_eq]

/-- An agent's tile after an x register is written. -/
theorem writesTo_agentTile (u : State) (f : Flags) (rd : Reg) (v pc : Word) :
    writesTo pc f u (u.putTile (agentTile u
      { u.th.writeX rd v with pc := pc, fflags := u.th.fflags ||| f } (fun k => { k with written := k.written.addX rd }))) rd v := by
  refine ⟨?_, ?_, ?_, ?_, ?_, ?_, sameButRegs_agentTile _ _ _ ?_ ?_⟩
  · simp only [State.x, th_agentTile]
    by_cases h0 : rd = 0#5 <;> simp [Thread.readX, Thread.writeX_eq, h0]
  · simp [State.pc, th_agentTile]
  · rw [th_agentTile]
  · intro r hr
    simp only [State.x, th_agentTile]
    have : rd.toNat ≠ r.toNat := fun e => hr (BitVec.eq_of_toNat_eq e.symm)
    by_cases h0 : rd = 0#5 <;> simp [Thread.readX, Thread.writeX_eq, h0, this]
  · intro hs; rw [ctx_agentTile hs]
  · unfold sameVK
    cases hs : u.isCtx with
    | true => rw [ctx_agentTile hs]; exact ⟨rfl, rfl⟩
    | false => cases ha : u.curAgent <;> simp_all [State.isCtx, State.ctx]
  · simp [Thread.writeX_eq]
  · intro c; rfl

theorem pc_raise (u : State) (f : Flags) : (u.raise f).pc = u.pc := by simp [State.raise, State.pc]

/-- The one lemma of a register result. -/
theorem writesOnly_setX (u : State) (rd : Reg) (v : Word) : writesOnly u (State.finish (.ok (u.setX rd v))) rd v := by
  rw [finish_ok, State.pc_setX, wentOn_setX_plain]
  have := writesTo_agentTile u 0 rd v (u.pc + 4)
  simpa [writesOnly, Thread.writeX_eq] using this

theorem writesTo_setX (u : State) (rd : Reg) (v pc : Word) : writesTo pc 0 u (State.finish (.jump pc (u.setX rd v))) rd v := by
  rw [finish_jump, wentOn_setX_plain]
  have := writesTo_agentTile u 0 rd v pc
  simpa [Thread.writeX_eq] using this

/-- The one lemma of a register result with flags. -/
theorem writesTo_raise (u : State) (f : Flags) (rd : Reg) (v : Word) :
    writesTo (u.pc + 4) f u (State.finish (.ok ((u.raise f).setX rd v))) rd v := by
  rw [finish_ok, State.pc_setX, pc_raise, wentOn_setX]
  exact writesTo_agentTile u f rd v (u.pc + 4)

theorem wentOn_eq (u : State) (pc : Word) : wentOn pc u = u.putTile (agentTile u { u.th with pc := pc } id) := by
  cases ha : u.curAgent <;> simp [wentOn, agentTile, ha, State.th, Tile.thread]

/-- An agent that only goes on at `pc`. -/
theorem jumpsTo_wentOn (u : State) (pc : Word) : jumpsTo u (wentOn pc u) pc := by
  rw [wentOn_eq]
  refine ⟨?_, ?_, ?_, ?_, ?_, sameButRegs_agentTile _ _ _ rfl (fun _ => rfl)⟩
  · simp [State.pc, th_agentTile]
  · intro r; simp [State.x, th_agentTile, Thread.readX]
  · rw [th_agentTile]
  · cases hs : u.isCtx with
    | true => rw [ctx_agentTile hs]; rfl
    | false => cases ha : u.curAgent <;> simp_all [State.isCtx, State.ctx]
  · unfold sameVK
    cases hs : u.isCtx with
    | true => rw [ctx_agentTile hs]; exact ⟨rfl, rfl⟩
    | false => cases ha : u.curAgent <;> simp_all [State.isCtx, State.ctx]

theorem alu_writes {s u : State} {m : SMark} (h : issues s m u) (i : Instr) (rd : Reg) (f : State → Word) :
    writesOnly u (alu i m rd f s) rd (f u) := by
  unfold alu
  rw [issues_body h (Or.inl rfl), afterStreams_ok]
  exact writesOnly_setX u rd (f u)

theorem fpu_writes {s u : State} {m : SMark} (h : issues s m u) (i : Instr) (rd : Reg) (f : State → Nat × Flags) :
    writesTo (u.pc + 4) (f u).2 u (fpu i m rd f s) rd (BitVec.ofNat 64 (f u).1) := by
  unfold fpu
  rw [issues_body h (Or.inl rfl), afterStreams_ok]
  exact writesTo_raise u (f u).2 rd _

end Sys2Proof.Machine
end

