-- ==== Sys2Proof/Laws/PerInstr.lean ====
section
/-! SUPPORT. The per-instruction family `Encoding` (02 R29 to R47): for each instruction, the decoder gives back the instruction from its word. -/

namespace Sys2Proof.Laws.Encoding

set_option Elab.async false
set_option linter.unusedSimpArgs false

/-- The word of a well-formed instruction decodes to it. -/
def Statement (i : Instr) : Prop := ∀ w, i.wf = true → encode i = some w → decodeWord w = .ok i.canon

theorem addi (m : SMark) (rd : Reg) (rs1 : Reg) (imm : BitVec 11) : Statement (.addi m rd rs1 imm) := by
  intro w hw he
  cases he
  simp_all [Instr.wf, Instr.wf, decodeWord, decodeOpImm, needZero, -BitVec.extractLsb'_toNat, Instr.canon]

theorem slli (m : SMark) (rd : Reg) (rs1 : Reg) (sh : BitVec 6) : Statement (.slli m rd rs1 sh) := by
  intro w hw he
  cases he
  simp_all [Instr.wf, Instr.wf, decodeWord, decodeShiftImm, decodeOpImm, needZero, -BitVec.extractLsb'_toNat, Instr.canon]

theorem srli (m : SMark) (rd : Reg) (rs1 : Reg) (sh : BitVec 6) : Statement (.srli m rd rs1 sh) := by
  intro w hw he
  cases he
  simp_all [Instr.wf, Instr.wf, decodeWord, decodeShiftImm, decodeOpImm, needZero, -BitVec.extractLsb'_toNat, Instr.canon]

theorem srai (m : SMark) (rd : Reg) (rs1 : Reg) (sh : BitVec 6) : Statement (.srai m rd rs1 sh) := by
  intro w hw he
  cases he
  simp_all [Instr.wf, Instr.wf, decodeWord, decodeShiftImm, decodeOpImm, needZero, -BitVec.extractLsb'_toNat, Instr.canon]

theorem slti (m : SMark) (rd : Reg) (rs1 : Reg) (imm : BitVec 11) : Statement (.slti m rd rs1 imm) := by
  intro w hw he
  cases he
  simp_all [Instr.wf, Instr.wf, decodeWord, decodeOpImm, needZero, -BitVec.extractLsb'_toNat, Instr.canon]

theorem sltiu (m : SMark) (rd : Reg) (rs1 : Reg) (imm : BitVec 11) : Statement (.sltiu m rd rs1 imm) := by
  intro w hw he
  cases he
  simp_all [Instr.wf, Instr.wf, decodeWord, decodeOpImm, needZero, -BitVec.extractLsb'_toNat, Instr.canon]

theorem xori (m : SMark) (rd : Reg) (rs1 : Reg) (imm : BitVec 11) : Statement (.xori m rd rs1 imm) := by
  intro w hw he
  cases he
  simp_all [Instr.wf, Instr.wf, decodeWord, decodeOpImm, needZero, -BitVec.extractLsb'_toNat, Instr.canon]

theorem addiw (m : SMark) (rd : Reg) (rs1 : Reg) (imm : BitVec 11) : Statement (.addiw m rd rs1 imm) := by
  intro w hw he
  cases he
  simp_all [Instr.wf, Instr.wf, decodeWord, decodeOpImm, needZero, -BitVec.extractLsb'_toNat, Instr.canon]

theorem ori (m : SMark) (rd : Reg) (rs1 : Reg) (imm : BitVec 11) : Statement (.ori m rd rs1 imm) := by
  intro w hw he
  cases he
  simp_all [Instr.wf, Instr.wf, decodeWord, decodeOpImm, needZero, -BitVec.extractLsb'_toNat, Instr.canon]

theorem andi (m : SMark) (rd : Reg) (rs1 : Reg) (imm : BitVec 11) : Statement (.andi m rd rs1 imm) := by
  intro w hw he
  cases he
  simp_all [Instr.wf, Instr.wf, decodeWord, decodeOpImm, needZero, -BitVec.extractLsb'_toNat, Instr.canon]

theorem add (m : SMark) (rd : Reg) (rs1 : Reg) (rs2 : Reg) : Statement (.add m rd rs1 rs2) := by
  intro w hw he
  cases he
  simp_all [Instr.wf, Instr.wf, decodeWord, decodeOp, needZero, -BitVec.extractLsb'_toNat, Instr.canon]

theorem sub (m : SMark) (rd : Reg) (rs1 : Reg) (rs2 : Reg) : Statement (.sub m rd rs1 rs2) := by
  intro w hw he
  cases he
  simp_all [Instr.wf, Instr.wf, decodeWord, decodeOp, needZero, -BitVec.extractLsb'_toNat, Instr.canon]

theorem sll (m : SMark) (rd : Reg) (rs1 : Reg) (rs2 : Reg) : Statement (.sll m rd rs1 rs2) := by
  intro w hw he
  cases he
  simp_all [Instr.wf, Instr.wf, decodeWord, decodeOp, needZero, -BitVec.extractLsb'_toNat, Instr.canon]

theorem srl (m : SMark) (rd : Reg) (rs1 : Reg) (rs2 : Reg) : Statement (.srl m rd rs1 rs2) := by
  intro w hw he
  cases he
  simp_all [Instr.wf, Instr.wf, decodeWord, decodeOp, needZero, -BitVec.extractLsb'_toNat, Instr.canon]

theorem sra (m : SMark) (rd : Reg) (rs1 : Reg) (rs2 : Reg) : Statement (.sra m rd rs1 rs2) := by
  intro w hw he
  cases he
  simp_all [Instr.wf, Instr.wf, decodeWord, decodeOp, needZero, -BitVec.extractLsb'_toNat, Instr.canon]

theorem slt (m : SMark) (rd : Reg) (rs1 : Reg) (rs2 : Reg) : Statement (.slt m rd rs1 rs2) := by
  intro w hw he
  cases he
  simp_all [Instr.wf, Instr.wf, decodeWord, decodeOp, needZero, -BitVec.extractLsb'_toNat, Instr.canon]

theorem sltu (m : SMark) (rd : Reg) (rs1 : Reg) (rs2 : Reg) : Statement (.sltu m rd rs1 rs2) := by
  intro w hw he
  cases he
  simp_all [Instr.wf, Instr.wf, decodeWord, decodeOp, needZero, -BitVec.extractLsb'_toNat, Instr.canon]

theorem and (m : SMark) (rd : Reg) (rs1 : Reg) (rs2 : Reg) : Statement (.and m rd rs1 rs2) := by
  intro w hw he
  cases he
  simp_all [Instr.wf, Instr.wf, decodeWord, decodeOp, needZero, -BitVec.extractLsb'_toNat, Instr.canon]

theorem or (m : SMark) (rd : Reg) (rs1 : Reg) (rs2 : Reg) : Statement (.or m rd rs1 rs2) := by
  intro w hw he
  cases he
  simp_all [Instr.wf, Instr.wf, decodeWord, decodeOp, needZero, -BitVec.extractLsb'_toNat, Instr.canon]

theorem xor (m : SMark) (rd : Reg) (rs1 : Reg) (rs2 : Reg) : Statement (.xor m rd rs1 rs2) := by
  intro w hw he
  cases he
  simp_all [Instr.wf, Instr.wf, decodeWord, decodeOp, needZero, -BitVec.extractLsb'_toNat, Instr.canon]

theorem min (m : SMark) (rd : Reg) (rs1 : Reg) (rs2 : Reg) : Statement (.min m rd rs1 rs2) := by
  intro w hw he
  cases he
  simp_all [Instr.wf, Instr.wf, decodeWord, decodeOp, needZero, -BitVec.extractLsb'_toNat, Instr.canon]

theorem max (m : SMark) (rd : Reg) (rs1 : Reg) (rs2 : Reg) : Statement (.max m rd rs1 rs2) := by
  intro w hw he
  cases he
  simp_all [Instr.wf, Instr.wf, decodeWord, decodeOp, needZero, -BitVec.extractLsb'_toNat, Instr.canon]

theorem minu (m : SMark) (rd : Reg) (rs1 : Reg) (rs2 : Reg) : Statement (.minu m rd rs1 rs2) := by
  intro w hw he
  cases he
  simp_all [Instr.wf, Instr.wf, decodeWord, decodeOp, needZero, -BitVec.extractLsb'_toNat, Instr.canon]

theorem maxu (m : SMark) (rd : Reg) (rs1 : Reg) (rs2 : Reg) : Statement (.maxu m rd rs1 rs2) := by
  intro w hw he
  cases he
  simp_all [Instr.wf, Instr.wf, decodeWord, decodeOp, needZero, -BitVec.extractLsb'_toNat, Instr.canon]

theorem addw (m : SMark) (rd : Reg) (rs1 : Reg) (rs2 : Reg) : Statement (.addw m rd rs1 rs2) := by
  intro w hw he
  cases he
  simp_all [Instr.wf, Instr.wf, decodeWord, decodeOp, needZero, -BitVec.extractLsb'_toNat, Instr.canon]

theorem subw (m : SMark) (rd : Reg) (rs1 : Reg) (rs2 : Reg) : Statement (.subw m rd rs1 rs2) := by
  intro w hw he
  cases he
  simp_all [Instr.wf, Instr.wf, decodeWord, decodeOp, needZero, -BitVec.extractLsb'_toNat, Instr.canon]

theorem sllw (m : SMark) (rd : Reg) (rs1 : Reg) (rs2 : Reg) : Statement (.sllw m rd rs1 rs2) := by
  intro w hw he
  cases he
  simp_all [Instr.wf, Instr.wf, decodeWord, decodeOp, needZero, -BitVec.extractLsb'_toNat, Instr.canon]

theorem srlw (m : SMark) (rd : Reg) (rs1 : Reg) (rs2 : Reg) : Statement (.srlw m rd rs1 rs2) := by
  intro w hw he
  cases he
  simp_all [Instr.wf, Instr.wf, decodeWord, decodeOp, needZero, -BitVec.extractLsb'_toNat, Instr.canon]

theorem sraw (m : SMark) (rd : Reg) (rs1 : Reg) (rs2 : Reg) : Statement (.sraw m rd rs1 rs2) := by
  intro w hw he
  cases he
  simp_all [Instr.wf, Instr.wf, decodeWord, decodeOp, needZero, -BitVec.extractLsb'_toNat, Instr.canon]

theorem clz (m : SMark) (rd : Reg) (rs1 : Reg) : Statement (.clz m rd rs1) := by
  intro w hw he
  cases he
  simp_all [Instr.wf, Instr.wf, decodeWord, decodeOp, needZero, -BitVec.extractLsb'_toNat, Instr.canon]

theorem ctz (m : SMark) (rd : Reg) (rs1 : Reg) : Statement (.ctz m rd rs1) := by
  intro w hw he
  cases he
  simp_all [Instr.wf, Instr.wf, decodeWord, decodeOp, needZero, -BitVec.extractLsb'_toNat, Instr.canon]

theorem popc (m : SMark) (rd : Reg) (rs1 : Reg) : Statement (.popc m rd rs1) := by
  intro w hw he
  cases he
  simp_all [Instr.wf, Instr.wf, decodeWord, decodeOp, needZero, -BitVec.extractLsb'_toNat, Instr.canon]

theorem sextB (m : SMark) (rd : Reg) (rs1 : Reg) : Statement (.sextB m rd rs1) := by
  intro w hw he
  cases he
  simp_all [Instr.wf, Instr.wf, decodeWord, decodeOp, needZero, -BitVec.extractLsb'_toNat, Instr.canon]

theorem sextH (m : SMark) (rd : Reg) (rs1 : Reg) : Statement (.sextH m rd rs1) := by
  intro w hw he
  cases he
  simp_all [Instr.wf, Instr.wf, decodeWord, decodeOp, needZero, -BitVec.extractLsb'_toNat, Instr.canon]

theorem sextW (m : SMark) (rd : Reg) (rs1 : Reg) : Statement (.sextW m rd rs1) := by
  intro w hw he
  cases he
  simp_all [Instr.wf, Instr.wf, decodeWord, decodeOp, needZero, -BitVec.extractLsb'_toNat, Instr.canon]

theorem zextW (m : SMark) (rd : Reg) (rs1 : Reg) : Statement (.zextW m rd rs1) := by
  intro w hw he
  cases he
  simp_all [Instr.wf, Instr.wf, decodeWord, decodeOp, needZero, -BitVec.extractLsb'_toNat, Instr.canon]

theorem mul (m : SMark) (rd : Reg) (rs1 : Reg) (rs2 : Reg) : Statement (.mul m rd rs1 rs2) := by
  intro w hw he
  cases he
  simp_all [Instr.wf, Instr.wf, decodeWord, decodeMulDiv, needZero, -BitVec.extractLsb'_toNat, Instr.canon]

theorem mulh (m : SMark) (rd : Reg) (rs1 : Reg) (rs2 : Reg) : Statement (.mulh m rd rs1 rs2) := by
  intro w hw he
  cases he
  simp_all [Instr.wf, Instr.wf, decodeWord, decodeMulDiv, needZero, -BitVec.extractLsb'_toNat, Instr.canon]

theorem mulhu (m : SMark) (rd : Reg) (rs1 : Reg) (rs2 : Reg) : Statement (.mulhu m rd rs1 rs2) := by
  intro w hw he
  cases he
  simp_all [Instr.wf, Instr.wf, decodeWord, decodeMulDiv, needZero, -BitVec.extractLsb'_toNat, Instr.canon]

theorem mulw (m : SMark) (rd : Reg) (rs1 : Reg) (rs2 : Reg) : Statement (.mulw m rd rs1 rs2) := by
  intro w hw he
  cases he
  simp_all [Instr.wf, Instr.wf, decodeWord, decodeMulDiv, needZero, -BitVec.extractLsb'_toNat, Instr.canon]

theorem div (m : SMark) (rd : Reg) (rs1 : Reg) (rs2 : Reg) : Statement (.div m rd rs1 rs2) := by
  intro w hw he
  cases he
  simp_all [Instr.wf, Instr.wf, decodeWord, decodeMulDiv, needZero, -BitVec.extractLsb'_toNat, Instr.canon]

theorem divu (m : SMark) (rd : Reg) (rs1 : Reg) (rs2 : Reg) : Statement (.divu m rd rs1 rs2) := by
  intro w hw he
  cases he
  simp_all [Instr.wf, Instr.wf, decodeWord, decodeMulDiv, needZero, -BitVec.extractLsb'_toNat, Instr.canon]

theorem rem (m : SMark) (rd : Reg) (rs1 : Reg) (rs2 : Reg) : Statement (.rem m rd rs1 rs2) := by
  intro w hw he
  cases he
  simp_all [Instr.wf, Instr.wf, decodeWord, decodeMulDiv, needZero, -BitVec.extractLsb'_toNat, Instr.canon]

theorem remu (m : SMark) (rd : Reg) (rs1 : Reg) (rs2 : Reg) : Statement (.remu m rd rs1 rs2) := by
  intro w hw he
  cases he
  simp_all [Instr.wf, Instr.wf, decodeWord, decodeMulDiv, needZero, -BitVec.extractLsb'_toNat, Instr.canon]

theorem divW (m : SMark) (rd : Reg) (rs1 : Reg) (rs2 : Reg) : Statement (.divW m rd rs1 rs2) := by
  intro w hw he
  cases he
  simp_all [Instr.wf, Instr.wf, decodeWord, decodeMulDiv, needZero, -BitVec.extractLsb'_toNat, Instr.canon]

theorem divuW (m : SMark) (rd : Reg) (rs1 : Reg) (rs2 : Reg) : Statement (.divuW m rd rs1 rs2) := by
  intro w hw he
  cases he
  simp_all [Instr.wf, Instr.wf, decodeWord, decodeMulDiv, needZero, -BitVec.extractLsb'_toNat, Instr.canon]

theorem remW (m : SMark) (rd : Reg) (rs1 : Reg) (rs2 : Reg) : Statement (.remW m rd rs1 rs2) := by
  intro w hw he
  cases he
  simp_all [Instr.wf, Instr.wf, decodeWord, decodeMulDiv, needZero, -BitVec.extractLsb'_toNat, Instr.canon]

theorem remuW (m : SMark) (rd : Reg) (rs1 : Reg) (rs2 : Reg) : Statement (.remuW m rd rs1 rs2) := by
  intro w hw he
  cases he
  simp_all [Instr.wf, Instr.wf, decodeWord, decodeMulDiv, needZero, -BitVec.extractLsb'_toNat, Instr.canon]

theorem lui (m : SMark) (rd : Reg) (imm : BitVec 19) : Statement (.lui m rd imm) := by
  intro w hw he
  cases he
  simp_all [Instr.wf, Instr.wf, decodeWord, decodeLui, Instr.canon]

theorem auipc (m : SMark) (rd : Reg) (imm : BitVec 19) : Statement (.auipc m rd imm) := by
  intro w hw he
  cases he
  simp_all [Instr.wf, Instr.wf, decodeWord, decodeAuipc, Instr.canon]

theorem jal (m : SMark) (rd : Reg) (imm : BitVec 19) : Statement (.jal m rd imm) := by
  intro w hw he
  cases he
  simp_all [Instr.wf, Instr.wf, decodeWord, decodeJal, Instr.canon]

theorem jalr (m : SMark) (rd : Reg) (rs1 : Reg) (imm : BitVec 11) : Statement (.jalr m rd rs1 imm) := by
  intro w hw he
  cases he
  simp_all [Instr.wf, Instr.wf, decodeWord, decodeJalr, needZero, -BitVec.extractLsb'_toNat, Instr.canon]

theorem beq (m : SMark) (rs1 : Reg) (rs2 : Reg) (imm : BitVec 11) : Statement (.beq m rs1 rs2 imm) := by
  intro w hw he
  cases he
  simp_all [Instr.wf, Instr.wf, decodeWord, decodeBranch, packS, needZero, Instr.canon]

theorem bne (m : SMark) (rs1 : Reg) (rs2 : Reg) (imm : BitVec 11) : Statement (.bne m rs1 rs2 imm) := by
  intro w hw he
  cases he
  simp_all [Instr.wf, Instr.wf, decodeWord, decodeBranch, packS, needZero, Instr.canon]

theorem blt (m : SMark) (rs1 : Reg) (rs2 : Reg) (imm : BitVec 11) : Statement (.blt m rs1 rs2 imm) := by
  intro w hw he
  cases he
  simp_all [Instr.wf, Instr.wf, decodeWord, decodeBranch, packS, needZero, Instr.canon]

theorem bge (m : SMark) (rs1 : Reg) (rs2 : Reg) (imm : BitVec 11) : Statement (.bge m rs1 rs2 imm) := by
  intro w hw he
  cases he
  simp_all [Instr.wf, Instr.wf, decodeWord, decodeBranch, packS, needZero, Instr.canon]

theorem bltu (m : SMark) (rs1 : Reg) (rs2 : Reg) (imm : BitVec 11) : Statement (.bltu m rs1 rs2 imm) := by
  intro w hw he
  cases he
  simp_all [Instr.wf, Instr.wf, decodeWord, decodeBranch, packS, needZero, Instr.canon]

theorem bgeu (m : SMark) (rs1 : Reg) (rs2 : Reg) (imm : BitVec 11) : Statement (.bgeu m rs1 rs2 imm) := by
  intro w hw he
  cases he
  simp_all [Instr.wf, Instr.wf, decodeWord, decodeBranch, packS, needZero, Instr.canon]

theorem fadd (m : SMark) (p : Prec) (rd : Reg) (rs1 : Reg) (rs2 : Reg) : Statement (.fadd m p rd rs1 rs2) := by
  intro w hw he
  cases he
  simp_all [Instr.wf, Instr.wf, decodeWord, decodeFpOp, decodeFp, needZero, -BitVec.extractLsb'_toNat, Instr.canon]

theorem fsub (m : SMark) (p : Prec) (rd : Reg) (rs1 : Reg) (rs2 : Reg) : Statement (.fsub m p rd rs1 rs2) := by
  intro w hw he
  cases he
  simp_all [Instr.wf, Instr.wf, decodeWord, decodeFpOp, decodeFp, needZero, -BitVec.extractLsb'_toNat, Instr.canon]

theorem fmul (m : SMark) (p : Prec) (rd : Reg) (rs1 : Reg) (rs2 : Reg) : Statement (.fmul m p rd rs1 rs2) := by
  intro w hw he
  cases he
  simp_all [Instr.wf, Instr.wf, decodeWord, decodeFpOp, decodeFp, needZero, -BitVec.extractLsb'_toNat, Instr.canon]

theorem fmac (m : SMark) (p : Prec) (rd : Reg) (rs1 : Reg) (rs2 : Reg) : Statement (.fmac m p rd rs1 rs2) := by
  intro w hw he
  cases he
  simp_all [Instr.wf, Instr.wf, decodeWord, decodeFpOp, decodeFp, needZero, -BitVec.extractLsb'_toNat, Instr.canon]

theorem fdiv (m : SMark) (p : Prec) (rd : Reg) (rs1 : Reg) (rs2 : Reg) : Statement (.fdiv m p rd rs1 rs2) := by
  intro w hw he
  cases he
  simp_all [Instr.wf, Instr.wf, decodeWord, decodeFpOp, decodeFp, needZero, -BitVec.extractLsb'_toNat, Instr.canon]

theorem fsqrt (m : SMark) (p : Prec) (rd : Reg) (rs1 : Reg) : Statement (.fsqrt m p rd rs1) := by
  intro w hw he
  cases he
  simp_all [Instr.wf, Instr.wf, decodeWord, decodeFpOp, decodeFp, needZero, -BitVec.extractLsb'_toNat, Instr.canon]

theorem fmin (m : SMark) (p : Prec) (rd : Reg) (rs1 : Reg) (rs2 : Reg) : Statement (.fmin m p rd rs1 rs2) := by
  intro w hw he
  cases he
  simp_all [Instr.wf, Instr.wf, decodeWord, decodeFpOp, decodeFp, needZero, -BitVec.extractLsb'_toNat, Instr.canon]

theorem fmax (m : SMark) (p : Prec) (rd : Reg) (rs1 : Reg) (rs2 : Reg) : Statement (.fmax m p rd rs1 rs2) := by
  intro w hw he
  cases he
  simp_all [Instr.wf, Instr.wf, decodeWord, decodeFpOp, decodeFp, needZero, -BitVec.extractLsb'_toNat, Instr.canon]

theorem fcmpEq (m : SMark) (p : Prec) (rd : Reg) (rs1 : Reg) (rs2 : Reg) : Statement (.fcmpEq m p rd rs1 rs2) := by
  intro w hw he
  cases he
  simp_all [Instr.wf, Instr.wf, decodeWord, decodeFpOp, decodeFp, needZero, -BitVec.extractLsb'_toNat, Instr.canon]

theorem fcmpLt (m : SMark) (p : Prec) (rd : Reg) (rs1 : Reg) (rs2 : Reg) : Statement (.fcmpLt m p rd rs1 rs2) := by
  intro w hw he
  cases he
  simp_all [Instr.wf, Instr.wf, decodeWord, decodeFpOp, decodeFp, needZero, -BitVec.extractLsb'_toNat, Instr.canon]

theorem fcmpLe (m : SMark) (p : Prec) (rd : Reg) (rs1 : Reg) (rs2 : Reg) : Statement (.fcmpLe m p rd rs1 rs2) := by
  intro w hw he
  cases he
  simp_all [Instr.wf, Instr.wf, decodeWord, decodeFpOp, decodeFp, needZero, -BitVec.extractLsb'_toNat, Instr.canon]

theorem fclass (m : SMark) (p : Prec) (rd : Reg) (rs1 : Reg) : Statement (.fclass m p rd rs1) := by
  intro w hw he
  cases he
  simp_all [Instr.wf, Instr.wf, decodeWord, decodeFpOp, decodeFp, needZero, -BitVec.extractLsb'_toNat, Instr.canon]

theorem fsgnj (m : SMark) (p : Prec) (rd : Reg) (rs1 : Reg) (rs2 : Reg) : Statement (.fsgnj m p rd rs1 rs2) := by
  intro w hw he
  cases he
  simp_all [Instr.wf, Instr.wf, decodeWord, decodeFpOp, decodeFp, needZero, -BitVec.extractLsb'_toNat, Instr.canon]

theorem fsgnjN (m : SMark) (p : Prec) (rd : Reg) (rs1 : Reg) (rs2 : Reg) : Statement (.fsgnjN m p rd rs1 rs2) := by
  intro w hw he
  cases he
  simp_all [Instr.wf, Instr.wf, decodeWord, decodeFpOp, decodeFp, needZero, -BitVec.extractLsb'_toNat, Instr.canon]

theorem fsgnjX (m : SMark) (p : Prec) (rd : Reg) (rs1 : Reg) (rs2 : Reg) : Statement (.fsgnjX m p rd rs1 rs2) := by
  intro w hw he
  cases he
  simp_all [Instr.wf, Instr.wf, decodeWord, decodeFpOp, decodeFp, needZero, -BitVec.extractLsb'_toNat, Instr.canon]

theorem fcvt (m : SMark) (p : Prec) (op : CvtOp) (rd : Reg) (rs1 : Reg) : Statement (.fcvt m p op rd rs1) := by
  intro w hw he
  cases he
  simp_all [Instr.wf, Instr.wf, decodeWord, decodeFpOp, decodeFp, needZero, -BitVec.extractLsb'_toNat, Instr.canon]

theorem lb (m : SMark) (rd : Reg) (rs1 : Reg) (imm : BitVec 11) : Statement (.lb m rd rs1 imm) := by
  intro w hw he
  cases he
  simp_all [Instr.wf, Instr.wf, decodeWord, decodeLoad, needZero, -BitVec.extractLsb'_toNat, Instr.canon]

theorem lbu (m : SMark) (rd : Reg) (rs1 : Reg) (imm : BitVec 11) : Statement (.lbu m rd rs1 imm) := by
  intro w hw he
  cases he
  simp_all [Instr.wf, Instr.wf, decodeWord, decodeLoad, needZero, -BitVec.extractLsb'_toNat, Instr.canon]

theorem lh (m : SMark) (rd : Reg) (rs1 : Reg) (imm : BitVec 11) : Statement (.lh m rd rs1 imm) := by
  intro w hw he
  cases he
  simp_all [Instr.wf, Instr.wf, decodeWord, decodeLoad, needZero, -BitVec.extractLsb'_toNat, Instr.canon]

theorem lhu (m : SMark) (rd : Reg) (rs1 : Reg) (imm : BitVec 11) : Statement (.lhu m rd rs1 imm) := by
  intro w hw he
  cases he
  simp_all [Instr.wf, Instr.wf, decodeWord, decodeLoad, needZero, -BitVec.extractLsb'_toNat, Instr.canon]

theorem lw (m : SMark) (rd : Reg) (rs1 : Reg) (imm : BitVec 11) : Statement (.lw m rd rs1 imm) := by
  intro w hw he
  cases he
  simp_all [Instr.wf, Instr.wf, decodeWord, decodeLoad, needZero, -BitVec.extractLsb'_toNat, Instr.canon]

theorem lwu (m : SMark) (rd : Reg) (rs1 : Reg) (imm : BitVec 11) : Statement (.lwu m rd rs1 imm) := by
  intro w hw he
  cases he
  simp_all [Instr.wf, Instr.wf, decodeWord, decodeLoad, needZero, -BitVec.extractLsb'_toNat, Instr.canon]

theorem ld (m : SMark) (rd : Reg) (rs1 : Reg) (imm : BitVec 11) : Statement (.ld m rd rs1 imm) := by
  intro w hw he
  cases he
  simp_all [Instr.wf, Instr.wf, decodeWord, decodeLoad, needZero, -BitVec.extractLsb'_toNat, Instr.canon]

theorem lacq (m : SMark) (sc : Scope) (wd : Width) (rd : Reg) (rs1 : Reg) : Statement (.lacq m sc wd rd rs1) := by
  intro w hw he
  cases he
  simp_all [Instr.wf, Instr.wf, decodeWord, decodeLoad, packM, needZero, -BitVec.extractLsb'_toNat, Instr.canon]

theorem sb (m : SMark) (rs1 : Reg) (rs2 : Reg) (imm : BitVec 11) : Statement (.sb m rs1 rs2 imm) := by
  intro w hw he
  cases he
  simp_all [Instr.wf, Instr.wf, decodeWord, decodeStore, packS, needZero, Instr.canon]

theorem sh (m : SMark) (rs1 : Reg) (rs2 : Reg) (imm : BitVec 11) : Statement (.sh m rs1 rs2 imm) := by
  intro w hw he
  cases he
  simp_all [Instr.wf, Instr.wf, decodeWord, decodeStore, packS, needZero, Instr.canon]

theorem sw (m : SMark) (rs1 : Reg) (rs2 : Reg) (imm : BitVec 11) : Statement (.sw m rs1 rs2 imm) := by
  intro w hw he
  cases he
  simp_all [Instr.wf, Instr.wf, decodeWord, decodeStore, packS, needZero, Instr.canon]

theorem sd (m : SMark) (rs1 : Reg) (rs2 : Reg) (imm : BitVec 11) : Statement (.sd m rs1 rs2 imm) := by
  intro w hw he
  cases he
  simp_all [Instr.wf, Instr.wf, decodeWord, decodeStore, packS, needZero, Instr.canon]

theorem srel (m : SMark) (sc : Scope) (wd : Width) (rs1 : Reg) (rs2 : Reg) : Statement (.srel m sc wd rs1 rs2) := by
  intro w hw he
  cases he
  simp_all [Instr.wf, Instr.wf, decodeWord, decodeStore, packM, needZero, -BitVec.extractLsb'_toNat, Instr.canon]

theorem pref (m : SMark) (l2 : Bool) (rs1 : Reg) (imm : BitVec 11) : Statement (.pref m l2 rs1 imm) := by
  intro w hw he
  cases he
  cases l2 <;>
  simp_all [Instr.wf, Instr.wf, decodeWord, decodeStore, packS, needZero, Instr.canon]

theorem csrrd (m : SMark) (rd : Reg) (csr : BitVec 11) : Statement (.csrrd m rd csr) := by
  intro w hw he
  cases he
  simp_all [Instr.wf, Instr.wf, decodeWord, decodeCsr, needZero, csrWriteInstr, CsrForm.f3, Side.ctlCsr, -BitVec.extractLsb'_toNat, Instr.canon]

theorem csrwr (m : SMark) (rd : Reg) (rs1 : Reg) (csr : BitVec 11) : Statement (.csrwr m rd rs1 csr) := by
  intro w hw he
  cases he
  simp_all [Instr.wf, Instr.wf, decodeWord, decodeCsr, needZero, csrWriteInstr, CsrForm.f3, Side.ctlCsr, -BitVec.extractLsb'_toNat, Instr.canon]

theorem csrset (m : SMark) (rd : Reg) (rs1 : Reg) (csr : BitVec 11) : Statement (.csrset m rd rs1 csr) := by
  intro w hw he
  cases he
  simp_all [Instr.wf, Instr.wf, decodeWord, decodeCsr, needZero, csrWriteInstr, CsrForm.f3, Side.ctlCsr, -BitVec.extractLsb'_toNat, Instr.canon]

theorem csrclr (m : SMark) (rd : Reg) (rs1 : Reg) (csr : BitVec 11) : Statement (.csrclr m rd rs1 csr) := by
  intro w hw he
  cases he
  simp_all [Instr.wf, Instr.wf, decodeWord, decodeCsr, needZero, csrWriteInstr, CsrForm.f3, Side.ctlCsr, -BitVec.extractLsb'_toNat, Instr.canon]

theorem ecall (m : SMark) (code : BitVec 11) : Statement (.ecall m code) := by
  intro w hw he
  cases he
  simp_all [Instr.wf, Instr.wf, decodeWord, decodeSystem, needZero, -BitVec.extractLsb'_toNat, Instr.canon]

theorem ebreak (m : SMark) (code : BitVec 11) : Statement (.ebreak m code) := by
  intro w hw he
  cases he
  simp_all [Instr.wf, Instr.wf, decodeWord, decodeSystem, needZero, -BitVec.extractLsb'_toNat, Instr.canon]

theorem eret (m : SMark) : Statement (.eret m) := by
  intro w hw he
  cases he
  simp_all [Instr.wf, Instr.wf, decodeWord, decodeSystem, needZero, -BitVec.extractLsb'_toNat, Instr.canon]

theorem wfi (m : SMark) : Statement (.wfi m) := by
  intro w hw he
  cases he
  simp_all [Instr.wf, Instr.wf, decodeWord, decodeSystem, needZero, -BitVec.extractLsb'_toNat, Instr.canon]

theorem halt (m : SMark) : Statement (.halt m) := by
  intro w hw he
  cases he
  simp_all [Instr.wf, Instr.wf, decodeWord, decodeSystem, needZero, -BitVec.extractLsb'_toNat, Instr.canon]

theorem tlbsync (m : SMark) : Statement (.tlbsync m) := by
  intro w hw he
  cases he
  simp_all [Instr.wf, Instr.wf, decodeWord, decodeSystem, needZero, -BitVec.extractLsb'_toNat, Instr.canon]

theorem rgn (m : SMark) (d : BitVec 23) : Statement (.rgn m d) := by
  intro w _ he
  cases he
  obtain ⟨h1, h2, h3, -, -, h6⟩ := field_region m 0#1 d
  simp only [decodeWord, h1]
  exact (if_pos h2).trans (by rw [h3, h6]; rfl)

theorem rgnv (m : SMark) (count : BitVec 18) : Statement (.rgnv m count) := by
  intro w _ he
  cases he
  exact rgnv_word m count

theorem amoadd (m : SMark) (sc : Scope) (dw : Bool) (rd : Reg) (rs1 : Reg) (rs2 : Reg) : Statement (.amoadd m sc dw rd rs1 rs2) := by
  intro w hw he
  cases he
  cases dw <;>
  simp_all [Instr.wf, Instr.wf, decodeWord, decodeAtomicOp, decodeAtomic, packM, needZero, -BitVec.extractLsb'_toNat, Instr.canon]

theorem amoand (m : SMark) (sc : Scope) (dw : Bool) (rd : Reg) (rs1 : Reg) (rs2 : Reg) : Statement (.amoand m sc dw rd rs1 rs2) := by
  intro w hw he
  cases he
  cases dw <;>
  simp_all [Instr.wf, Instr.wf, decodeWord, decodeAtomicOp, decodeAtomic, packM, needZero, -BitVec.extractLsb'_toNat, Instr.canon]

theorem amoor (m : SMark) (sc : Scope) (dw : Bool) (rd : Reg) (rs1 : Reg) (rs2 : Reg) : Statement (.amoor m sc dw rd rs1 rs2) := by
  intro w hw he
  cases he
  cases dw <;>
  simp_all [Instr.wf, Instr.wf, decodeWord, decodeAtomicOp, decodeAtomic, packM, needZero, -BitVec.extractLsb'_toNat, Instr.canon]

theorem amoxor (m : SMark) (sc : Scope) (dw : Bool) (rd : Reg) (rs1 : Reg) (rs2 : Reg) : Statement (.amoxor m sc dw rd rs1 rs2) := by
  intro w hw he
  cases he
  cases dw <;>
  simp_all [Instr.wf, Instr.wf, decodeWord, decodeAtomicOp, decodeAtomic, packM, needZero, -BitVec.extractLsb'_toNat, Instr.canon]

theorem amomin (m : SMark) (sc : Scope) (dw : Bool) (rd : Reg) (rs1 : Reg) (rs2 : Reg) : Statement (.amomin m sc dw rd rs1 rs2) := by
  intro w hw he
  cases he
  cases dw <;>
  simp_all [Instr.wf, Instr.wf, decodeWord, decodeAtomicOp, decodeAtomic, packM, needZero, -BitVec.extractLsb'_toNat, Instr.canon]

theorem amomax (m : SMark) (sc : Scope) (dw : Bool) (rd : Reg) (rs1 : Reg) (rs2 : Reg) : Statement (.amomax m sc dw rd rs1 rs2) := by
  intro w hw he
  cases he
  cases dw <;>
  simp_all [Instr.wf, Instr.wf, decodeWord, decodeAtomicOp, decodeAtomic, packM, needZero, -BitVec.extractLsb'_toNat, Instr.canon]

theorem amominu (m : SMark) (sc : Scope) (dw : Bool) (rd : Reg) (rs1 : Reg) (rs2 : Reg) : Statement (.amominu m sc dw rd rs1 rs2) := by
  intro w hw he
  cases he
  cases dw <;>
  simp_all [Instr.wf, Instr.wf, decodeWord, decodeAtomicOp, decodeAtomic, packM, needZero, -BitVec.extractLsb'_toNat, Instr.canon]

theorem amomaxu (m : SMark) (sc : Scope) (dw : Bool) (rd : Reg) (rs1 : Reg) (rs2 : Reg) : Statement (.amomaxu m sc dw rd rs1 rs2) := by
  intro w hw he
  cases he
  cases dw <;>
  simp_all [Instr.wf, Instr.wf, decodeWord, decodeAtomicOp, decodeAtomic, packM, needZero, -BitVec.extractLsb'_toNat, Instr.canon]

theorem amoswp (m : SMark) (sc : Scope) (dw : Bool) (rd : Reg) (rs1 : Reg) (rs2 : Reg) : Statement (.amoswp m sc dw rd rs1 rs2) := by
  intro w hw he
  cases he
  cases dw <;>
  simp_all [Instr.wf, Instr.wf, decodeWord, decodeAtomicOp, decodeAtomic, packM, needZero, -BitVec.extractLsb'_toNat, Instr.canon]

theorem amocas (m : SMark) (sc : Scope) (dw : Bool) (rd : Reg) (rs1 : Reg) (rs2 : Reg) : Statement (.amocas m sc dw rd rs1 rs2) := by
  intro w hw he
  cases he
  cases dw <;>
  simp_all [Instr.wf, Instr.wf, decodeWord, decodeAtomicOp, decodeAtomic, packM, needZero, -BitVec.extractLsb'_toNat, Instr.canon]

theorem amofadd (m : SMark) (sc : Scope) (p : Prec) (rd : Reg) (rs1 : Reg) (rs2 : Reg) : Statement (.amofadd m sc p rd rs1 rs2) := by
  intro w hw he
  cases he
  cases p <;>
  simp_all [Instr.wf, Instr.wf, decodeWord, decodeAtomicOp, decodeAtomic, packM, needZero, show (Prec.f32 == Prec.f64) = false from rfl, show (Prec.f64 == Prec.f64) = true from rfl, -BitVec.extractLsb'_toNat, Instr.canon]

theorem bfnld (m : SMark) (slot : BitVec 3) (rs1 : Reg) : Statement (.bfnld m slot rs1) := by
  intro w hw he
  cases he
  simp_all [Instr.wf, Instr.wf, decodeWord, decodeBankfn, packM, needZero, -BitVec.extractLsb'_toNat, Instr.canon]

theorem bupd (m : SMark) (slot : BitVec 3) (rs1 : Reg) (rs2 : Reg) : Statement (.bupd m slot rs1 rs2) := by
  intro w hw he
  cases he
  simp_all [Instr.wf, Instr.wf, decodeWord, decodeBankfn, packM, needZero, -BitVec.extractLsb'_toNat, Instr.canon]

theorem fence (m : SMark) (sc : Scope) (pred : FenceSet) (succ : FenceSet) : Statement (.fence m sc pred succ) := by
  intro w hw he
  cases he
  simp_all [Instr.wf, Instr.wf, decodeWord, decodeFence, packM, needZero, -BitVec.extractLsb'_toNat, Instr.canon]

theorem fenceE (m : SMark) (sc : Scope) : Statement (.fenceE m sc) := by
  intro w hw he
  cases he
  simp_all [Instr.wf, Instr.wf, decodeWord, decodeFence, packM, needZero, -BitVec.extractLsb'_toNat, Instr.canon]

theorem ldf (m : SMark) (rd : Reg) (rs1 : Reg) (imm : BitVec 11) : Statement (.ldf m rd rs1 imm) := by
  intro w hw he
  cases he
  simp_all [Instr.wf, Instr.wf, decodeWord, decodeTagmem, needZero, -BitVec.extractLsb'_toNat, Instr.canon]

theorem ldff (m : SMark) (rd : Reg) (rs1 : Reg) (imm : BitVec 11) : Statement (.ldff m rd rs1 imm) := by
  intro w hw he
  cases he
  simp_all [Instr.wf, Instr.wf, decodeWord, decodeTagmem, needZero, -BitVec.extractLsb'_toNat, Instr.canon]

theorem ste (m : SMark) (rs1 : Reg) (rs2 : Reg) (imm : BitVec 11) : Statement (.ste m rs1 rs2 imm) := by
  intro w hw he
  cases he
  simp_all [Instr.wf, Instr.wf, decodeWord, decodeTagmem, packS, needZero, Instr.canon]

theorem stf (m : SMark) (rs1 : Reg) (rs2 : Reg) (imm : BitVec 11) : Statement (.stf m rs1 rs2 imm) := by
  intro w hw he
  cases he
  simp_all [Instr.wf, Instr.wf, decodeWord, decodeTagmem, packS, needZero, Instr.canon]

theorem tgset (m : SMark) (rs1 : Reg) (imm : BitVec 11) : Statement (.tgset m rs1 imm) := by
  intro w hw he
  cases he
  simp_all [Instr.wf, Instr.wf, decodeWord, decodeTagmem, needZero, -BitVec.extractLsb'_toNat, Instr.canon]

theorem tgclr (m : SMark) (rs1 : Reg) (imm : BitVec 11) : Statement (.tgclr m rs1 imm) := by
  intro w hw he
  cases he
  simp_all [Instr.wf, Instr.wf, decodeWord, decodeTagmem, needZero, -BitVec.extractLsb'_toNat, Instr.canon]

theorem winit (m : SMark) (rs1 : Reg) (rs2 : Reg) : Statement (.winit m rs1 rs2) := by
  intro w hw he
  cases he
  simp_all [Instr.wf, Instr.wf, decodeWord, decodeWeirOp, decodeWeir, packM, needZero, -BitVec.extractLsb'_toNat, Instr.canon]

theorem wjoin (m : SMark) (rs1 : Reg) : Statement (.wjoin m rs1) := by
  intro w hw he
  cases he
  simp_all [Instr.wf, Instr.wf, decodeWord, decodeWeirOp, decodeWeir, packM, needZero, -BitVec.extractLsb'_toNat, Instr.canon]

theorem wleave (m : SMark) (rs1 : Reg) : Statement (.wleave m rs1) := by
  intro w hw he
  cases he
  simp_all [Instr.wf, Instr.wf, decodeWord, decodeWeirOp, decodeWeir, packM, needZero, -BitVec.extractLsb'_toNat, Instr.canon]

theorem warr (m : SMark) (rs1 : Reg) (rs2 : Reg) : Statement (.warr m rs1 rs2) := by
  intro w hw he
  cases he
  simp_all [Instr.wf, Instr.wf, decodeWord, decodeWeirOp, decodeWeir, packM, needZero, -BitVec.extractLsb'_toNat, Instr.canon]

theorem warrd (m : SMark) (rs1 : Reg) : Statement (.warrd m rs1) := by
  intro w hw he
  cases he
  simp_all [Instr.wf, Instr.wf, decodeWord, decodeWeirOp, decodeWeir, packM, needZero, -BitVec.extractLsb'_toNat, Instr.canon]

theorem wexp (m : SMark) (rd : Reg) (rs1 : Reg) (rs2 : Reg) : Statement (.wexp m rd rs1 rs2) := by
  intro w hw he
  cases he
  simp_all [Instr.wf, Instr.wf, decodeWord, decodeWeirOp, decodeWeir, packM, needZero, -BitVec.extractLsb'_toNat, Instr.canon]

theorem wwait (m : SMark) (rs1 : Reg) (rs2 : Reg) : Statement (.wwait m rs1 rs2) := by
  intro w hw he
  cases he
  simp_all [Instr.wf, Instr.wf, decodeWord, decodeWeirOp, decodeWeir, packM, needZero, -BitVec.extractLsb'_toNat, Instr.canon]

theorem wwaitt (m : SMark) (rd : Reg) (rs1 : Reg) (rs2 : Reg) : Statement (.wwaitt m rd rs1 rs2) := by
  intro w hw he
  cases he
  simp_all [Instr.wf, Instr.wf, decodeWord, decodeWeirOp, decodeWeir, packM, needZero, -BitVec.extractLsb'_toNat, Instr.canon]

theorem wtest (m : SMark) (rd : Reg) (rs1 : Reg) : Statement (.wtest m rd rs1) := by
  intro w hw he
  cases he
  simp_all [Instr.wf, Instr.wf, decodeWord, decodeWeirOp, decodeWeir, packM, needZero, -BitVec.extractLsb'_toNat, Instr.canon]

theorem mrecv (m : SMark) (rd : Reg) (rs1 : Reg) : Statement (.mrecv m rd rs1) := by
  intro w hw he
  cases he
  simp_all [Instr.wf, Instr.wf, decodeWord, decodeMailbox, needZero, -BitVec.extractLsb'_toNat, Instr.canon]

theorem mpeek (m : SMark) (rd : Reg) (rs1 : Reg) : Statement (.mpeek m rd rs1) := by
  intro w hw he
  cases he
  simp_all [Instr.wf, Instr.wf, decodeWord, decodeMailbox, needZero, -BitVec.extractLsb'_toNat, Instr.canon]

theorem mwait (m : SMark) : Statement (.mwait m) := by
  intro w hw he
  cases he
  simp_all [Instr.wf, Instr.wf, decodeWord, decodeMailbox, needZero, -BitVec.extractLsb'_toNat, Instr.canon]

theorem put (m : SMark) (wd : Width) (rs1 : Reg) (rs2 : Reg) : Statement (.put m wd rs1 rs2) := by
  intro w hw he
  cases he
  simp_all [Instr.wf, Instr.wf, decodeWord, decodeMsgOp, decodeMsg, packM, needZero, -BitVec.extractLsb'_toNat, Instr.canon]

theorem get (m : SMark) (wd : Width) (rd : Reg) (rs1 : Reg) : Statement (.get m wd rd rs1) := by
  intro w hw he
  cases he
  simp_all [Instr.wf, Instr.wf, decodeWord, decodeMsgOp, decodeMsg, packM, needZero, -BitVec.extractLsb'_toNat, Instr.canon]

theorem notify (m : SMark) (rs1 : Reg) (rs2 : Reg) : Statement (.notify m rs1 rs2) := by
  intro w hw he
  cases he
  simp_all [Instr.wf, Instr.wf, decodeWord, decodeMsgOp, decodeMsg, packM, needZero, -BitVec.extractLsb'_toNat, Instr.canon]

theorem fopen (m : SMark) (rd : Reg) (rs1 : Reg) (rs2 : Reg) : Statement (.fopen m rd rs1 rs2) := by
  intro w hw he
  cases he
  simp_all [Instr.wf, Instr.wf, decodeWord, decodeFurrowOp, decodeFurrow, needZero, -BitVec.extractLsb'_toNat, Instr.canon]

theorem fsend (m : SMark) (rd : Reg) (rs1 : Reg) (rs2 : Reg) : Statement (.fsend m rd rs1 rs2) := by
  intro w hw he
  cases he
  simp_all [Instr.wf, Instr.wf, decodeWord, decodeFurrowOp, decodeFurrow, needZero, -BitVec.extractLsb'_toNat, Instr.canon]

theorem frecv (m : SMark) (rd : Reg) (rs1 : Reg) (rs2 : Reg) : Statement (.frecv m rd rs1 rs2) := by
  intro w hw he
  cases he
  simp_all [Instr.wf, Instr.wf, decodeWord, decodeFurrowOp, decodeFurrow, needZero, -BitVec.extractLsb'_toNat, Instr.canon]

theorem fclose (m : SMark) (rd : Reg) (rs1 : Reg) (rs2 : Reg) : Statement (.fclose m rd rs1 rs2) := by
  intro w hw he
  cases he
  simp_all [Instr.wf, Instr.wf, decodeWord, decodeFurrowOp, decodeFurrow, needZero, -BitVec.extractLsb'_toNat, Instr.canon]

theorem enq (m : SMark) (rd : Reg) (rs1 : Reg) (rs2 : Reg) : Statement (.enq m rd rs1 rs2) := by
  intro w hw he
  cases he
  simp_all [Instr.wf, Instr.wf, decodeWord, decodeSchedOp, decodeSched, needZero, -BitVec.extractLsb'_toNat, Instr.canon]

theorem rclaim (m : SMark) (rd : Reg) (rs1 : Reg) (rs2 : Reg) : Statement (.rclaim m rd rs1 rs2) := by
  intro w hw he
  cases he
  simp_all [Instr.wf, Instr.wf, decodeWord, decodeSchedOp, decodeSched, needZero, -BitVec.extractLsb'_toNat, Instr.canon]

theorem rsplit (m : SMark) (rd : Reg) (rs1 : Reg) (rs2 : Reg) : Statement (.rsplit m rd rs1 rs2) := by
  intro w hw he
  cases he
  simp_all [Instr.wf, Instr.wf, decodeWord, decodeSchedOp, decodeSched, needZero, -BitVec.extractLsb'_toNat, Instr.canon]

theorem depdec (m : SMark) (rd : Reg) (rs1 : Reg) : Statement (.depdec m rd rs1) := by
  intro w hw he
  cases he
  simp_all [Instr.wf, Instr.wf, decodeWord, decodeSchedOp, decodeSched, needZero, -BitVec.extractLsb'_toNat, Instr.canon]

theorem tdone (m : SMark) : Statement (.tdone m) := by
  intro w hw he
  cases he
  simp_all [Instr.wf, Instr.wf, decodeWord, decodeSchedOp, decodeSched, needZero, -BitVec.extractLsb'_toNat, Instr.canon]

theorem susp (m : SMark) (rd : Reg) (rs1 : Reg) : Statement (.susp m rd rs1) := by
  intro w hw he
  cases he
  simp_all [Instr.wf, Instr.wf, decodeWord, decodeSchedOp, decodeSched, needZero, -BitVec.extractLsb'_toNat, Instr.canon]

theorem yield (m : SMark) : Statement (.yield m) := by
  intro w hw he
  cases he
  simp_all [Instr.wf, Instr.wf, decodeWord, decodeSchedOp, decodeSched, needZero, -BitVec.extractLsb'_toNat, Instr.canon]

theorem gbar (m : SMark) (ch : BitVec 3) : Statement (.gbar m ch) := by
  intro w hw he
  cases he
  simp_all [Instr.wf, Instr.wf, decodeWord, decodeDomain, needZero, -BitVec.extractLsb'_toNat, Instr.canon]

theorem gbwait (m : SMark) (rd : Reg) (ch : BitVec 3) : Statement (.gbwait m rd ch) := by
  intro w hw he
  cases he
  simp_all [Instr.wf, Instr.wf, decodeWord, decodeDomain, needZero, -BitVec.extractLsb'_toNat, Instr.canon]

theorem vote (m : SMark) (op : VoteOp) (ch : BitVec 3) (rs1 : Reg) : Statement (.vote m op ch rs1) := by
  intro w hw he
  cases he
  cases op <;>
  simp_all [Instr.wf, Instr.wf, decodeWord, decodeVote, decodeDomain, needZero, voteOf, VoteOp.code, -BitVec.extractLsb'_toNat, Instr.canon]

theorem ssend (m : SMark) (slot : BitVec 6) (rs1 : Reg) : Statement (.ssend m slot rs1) := by
  intro w hw he
  cases he
  simp_all [Instr.wf, Instr.wf, decodeWord, decodeDomain, needZero, -BitVec.extractLsb'_toNat, Instr.canon]

theorem lease (m : SMark) (rd : Reg) (rs1 : Reg) (rs2 : Reg) : Statement (.lease m rd rs1 rs2) := by
  intro w hw he
  cases he
  simp_all [Instr.wf, Instr.wf, decodeWord, decodeRoleOp, decodeRole, needZero, -BitVec.extractLsb'_toNat, Instr.canon]

theorem unlease (m : SMark) (rd : Reg) (rs1 : Reg) (rs2 : Reg) : Statement (.unlease m rd rs1 rs2) := by
  intro w hw he
  cases he
  simp_all [Instr.wf, Instr.wf, decodeWord, decodeRoleOp, decodeRole, needZero, -BitVec.extractLsb'_toNat, Instr.canon]

theorem roleq (m : SMark) (rd : Reg) (rs1 : Reg) (rs2 : Reg) : Statement (.roleq m rd rs1 rs2) := by
  intro w hw he
  cases he
  simp_all [Instr.wf, Instr.wf, decodeWord, decodeRoleOp, decodeRole, needZero, -BitVec.extractLsb'_toNat, Instr.canon]

theorem ntcack (m : SMark) (rd : Reg) (rs1 : Reg) (rs2 : Reg) : Statement (.ntcack m rd rs1 rs2) := by
  intro w hw he
  cases he
  simp_all [Instr.wf, Instr.wf, decodeWord, decodeRoleOp, decodeRole, needZero, -BitVec.extractLsb'_toNat, Instr.canon]

theorem tcopy (m : SMark) (rd : Reg) (rs1 : Reg) (rs2 : Reg) : Statement (.tcopy m rd rs1 rs2) := by
  intro w hw he
  cases he
  simp_all [Instr.wf, Instr.wf, decodeWord, decodeCopyOp, decodeCopy, needZero, -BitVec.extractLsb'_toNat, Instr.canon]

theorem cpcancel (m : SMark) (rd : Reg) (rs1 : Reg) (rs2 : Reg) : Statement (.cpcancel m rd rs1 rs2) := by
  intro w hw he
  cases he
  simp_all [Instr.wf, Instr.wf, decodeWord, decodeCopyOp, decodeCopy, needZero, -BitVec.extractLsb'_toNat, Instr.canon]

theorem cpstat (m : SMark) (rd : Reg) (rs1 : Reg) (rs2 : Reg) : Statement (.cpstat m rd rs1 rs2) := by
  intro w hw he
  cases he
  simp_all [Instr.wf, Instr.wf, decodeWord, decodeCopyOp, decodeCopy, needZero, -BitVec.extractLsb'_toNat, Instr.canon]

theorem qpush (m : SMark) (q : BitVec 2) (rs1 : Reg) : Statement (.qpush m q rs1) := by
  intro w hw he
  cases he
  simp_all [Instr.wf, Instr.wf, decodeWord, decodeQueue, needZero, -BitVec.extractLsb'_toNat, Instr.canon]

theorem qpop (m : SMark) (rd : Reg) (q : BitVec 2) : Statement (.qpop m rd q) := by
  intro w hw he
  cases he
  simp_all [Instr.wf, Instr.wf, decodeWord, decodeQueue, needZero, -BitVec.extractLsb'_toNat, Instr.canon]

theorem vadd (m : SMark) (mk : KReg) (t : ETy) (vd : Reg) (vs1 : Reg) (vs2 : Reg) : Statement (.vadd m mk t vd vs1 vs2) := by
  intro w hw he
  cases he
  simp_all [Instr.wf, Instr.wf, decodeWord, decodeVec20, packV, needZero, Instr.canon]

theorem vsub (m : SMark) (mk : KReg) (t : ETy) (vd : Reg) (vs1 : Reg) (vs2 : Reg) : Statement (.vsub m mk t vd vs1 vs2) := by
  intro w hw he
  cases he
  simp_all [Instr.wf, Instr.wf, decodeWord, decodeVec20, packV, needZero, Instr.canon]

theorem vmul (m : SMark) (mk : KReg) (t : ETy) (vd : Reg) (vs1 : Reg) (vs2 : Reg) : Statement (.vmul m mk t vd vs1 vs2) := by
  intro w hw he
  cases he
  simp_all [Instr.wf, Instr.wf, decodeWord, decodeVec20, packV, needZero, Instr.canon]

theorem vfma (m : SMark) (mk : KReg) (t : ETy) (vd : Reg) (vs1 : Reg) (vs2 : Reg) : Statement (.vfma m mk t vd vs1 vs2) := by
  intro w hw he
  cases he
  simp_all [Instr.wf, Instr.wf, decodeWord, decodeVec20, packV, needZero, Instr.canon]

theorem vmin (m : SMark) (mk : KReg) (t : ETy) (vd : Reg) (vs1 : Reg) (vs2 : Reg) : Statement (.vmin m mk t vd vs1 vs2) := by
  intro w hw he
  cases he
  simp_all [Instr.wf, Instr.wf, decodeWord, decodeVec20, packV, needZero, Instr.canon]

theorem vmax (m : SMark) (mk : KReg) (t : ETy) (vd : Reg) (vs1 : Reg) (vs2 : Reg) : Statement (.vmax m mk t vd vs1 vs2) := by
  intro w hw he
  cases he
  simp_all [Instr.wf, Instr.wf, decodeWord, decodeVec20, packV, needZero, Instr.canon]

theorem vabs (m : SMark) (mk : KReg) (t : ETy) (vd : Reg) (vs1 : Reg) : Statement (.vabs m mk t vd vs1) := by
  intro w hw he
  cases he
  simp_all [Instr.wf, Instr.wf, decodeWord, decodeVec20, packV, needZero, Instr.canon]

theorem vneg (m : SMark) (mk : KReg) (t : ETy) (vd : Reg) (vs1 : Reg) : Statement (.vneg m mk t vd vs1) := by
  intro w hw he
  cases he
  simp_all [Instr.wf, Instr.wf, decodeWord, decodeVec20, packV, needZero, Instr.canon]

theorem vand (m : SMark) (mk : KReg) (t : ETy) (vd : Reg) (vs1 : Reg) (vs2 : Reg) : Statement (.vand m mk t vd vs1 vs2) := by
  intro w hw he
  cases he
  simp_all [Instr.wf, Instr.wf, decodeWord, decodeVec21, packV, needZero, Instr.canon]

theorem vor (m : SMark) (mk : KReg) (t : ETy) (vd : Reg) (vs1 : Reg) (vs2 : Reg) : Statement (.vor m mk t vd vs1 vs2) := by
  intro w hw he
  cases he
  simp_all [Instr.wf, Instr.wf, decodeWord, decodeVec21, packV, needZero, Instr.canon]

theorem vxor (m : SMark) (mk : KReg) (t : ETy) (vd : Reg) (vs1 : Reg) (vs2 : Reg) : Statement (.vxor m mk t vd vs1 vs2) := by
  intro w hw he
  cases he
  simp_all [Instr.wf, Instr.wf, decodeWord, decodeVec21, packV, needZero, Instr.canon]

theorem vshl (m : SMark) (mk : KReg) (t : ETy) (vd : Reg) (vs1 : Reg) (vs2 : Reg) : Statement (.vshl m mk t vd vs1 vs2) := by
  intro w hw he
  cases he
  simp_all [Instr.wf, Instr.wf, decodeWord, decodeVec21, packV, needZero, Instr.canon]

theorem vshr (m : SMark) (mk : KReg) (t : ETy) (vd : Reg) (vs1 : Reg) (vs2 : Reg) : Statement (.vshr m mk t vd vs1 vs2) := by
  intro w hw he
  cases he
  simp_all [Instr.wf, Instr.wf, decodeWord, decodeVec21, packV, needZero, Instr.canon]

theorem vsra (m : SMark) (mk : KReg) (t : ETy) (vd : Reg) (vs1 : Reg) (vs2 : Reg) : Statement (.vsra m mk t vd vs1 vs2) := by
  intro w hw he
  cases he
  simp_all [Instr.wf, Instr.wf, decodeWord, decodeVec21, packV, needZero, Instr.canon]

theorem vsel (m : SMark) (mk : KReg) (t : ETy) (vd : Reg) (vs1 : Reg) (vs2 : Reg) : Statement (.vsel m mk t vd vs1 vs2) := by
  intro w hw he
  cases he
  simp_all [Instr.wf, Instr.wf, decodeWord, decodeVec21, packV, needZero, Instr.canon]

theorem vmv (m : SMark) (mk : KReg) (t : ETy) (vd : Reg) (vs1 : Reg) : Statement (.vmv m mk t vd vs1) := by
  intro w hw he
  cases he
  simp_all [Instr.wf, Instr.wf, decodeWord, decodeVec21, packV, needZero, Instr.canon]

theorem vcmpEq (m : SMark) (mk : KReg) (t : ETy) (kd : KReg) (vs1 : Reg) (vs2 : Reg) : Statement (.vcmpEq m mk t kd vs1 vs2) := by
  intro w hw he
  cases he
  simp_all [Instr.wf, Instr.wf, decodeWord, decodeVec22, packV, needZero, Instr.canon]

theorem vcmpNe (m : SMark) (mk : KReg) (t : ETy) (kd : KReg) (vs1 : Reg) (vs2 : Reg) : Statement (.vcmpNe m mk t kd vs1 vs2) := by
  intro w hw he
  cases he
  simp_all [Instr.wf, Instr.wf, decodeWord, decodeVec22, packV, needZero, Instr.canon]

theorem vcmpLt (m : SMark) (mk : KReg) (t : ETy) (kd : KReg) (vs1 : Reg) (vs2 : Reg) : Statement (.vcmpLt m mk t kd vs1 vs2) := by
  intro w hw he
  cases he
  simp_all [Instr.wf, Instr.wf, decodeWord, decodeVec22, packV, needZero, Instr.canon]

theorem vcmpLe (m : SMark) (mk : KReg) (t : ETy) (kd : KReg) (vs1 : Reg) (vs2 : Reg) : Statement (.vcmpLe m mk t kd vs1 vs2) := by
  intro w hw he
  cases he
  simp_all [Instr.wf, Instr.wf, decodeWord, decodeVec22, packV, needZero, Instr.canon]

theorem vcmpGt (m : SMark) (mk : KReg) (t : ETy) (kd : KReg) (vs1 : Reg) (vs2 : Reg) : Statement (.vcmpGt m mk t kd vs1 vs2) := by
  intro w hw he
  cases he
  simp_all [Instr.wf, Instr.wf, decodeWord, decodeVec22, packV, needZero, Instr.canon]

theorem vcmpGe (m : SMark) (mk : KReg) (t : ETy) (kd : KReg) (vs1 : Reg) (vs2 : Reg) : Statement (.vcmpGe m mk t kd vs1 vs2) := by
  intro w hw he
  cases he
  simp_all [Instr.wf, Instr.wf, decodeWord, decodeVec22, packV, needZero, Instr.canon]

theorem vcmpLtu (m : SMark) (mk : KReg) (t : ETy) (kd : KReg) (vs1 : Reg) (vs2 : Reg) : Statement (.vcmpLtu m mk t kd vs1 vs2) := by
  intro w hw he
  cases he
  simp_all [Instr.wf, Instr.wf, decodeWord, decodeVec22, packV, needZero, Instr.canon]

theorem vcmpGeu (m : SMark) (mk : KReg) (t : ETy) (kd : KReg) (vs1 : Reg) (vs2 : Reg) : Statement (.vcmpGeu m mk t kd vs1 vs2) := by
  intro w hw he
  cases he
  simp_all [Instr.wf, Instr.wf, decodeWord, decodeVec22, packV, needZero, Instr.canon]

theorem vbcast (m : SMark) (mk : KReg) (t : ETy) (vd : Reg) (rs1 : Reg) : Statement (.vbcast m mk t vd rs1) := by
  intro w hw he
  cases he
  simp_all [Instr.wf, Instr.wf, decodeWord, decodeVec23, packV, needZero, Instr.canon]

theorem vextr (m : SMark) (t : ETy) (rd : Reg) (vs1 : Reg) (rs2 : Reg) : Statement (.vextr m t rd vs1 rs2) := by
  intro w hw he
  cases he
  simp_all [Instr.wf, Instr.wf, decodeWord, decodeVec23, packV, needZero, Instr.canon]

theorem vins (m : SMark) (t : ETy) (vd : Reg) (rs1 : Reg) (rs2 : Reg) : Statement (.vins m t vd rs1 rs2) := by
  intro w hw he
  cases he
  simp_all [Instr.wf, Instr.wf, decodeWord, decodeVec23, packV, needZero, Instr.canon]

theorem vperm (m : SMark) (mk : KReg) (t : ETy) (vd : Reg) (vs1 : Reg) (vs2 : Reg) : Statement (.vperm m mk t vd vs1 vs2) := by
  intro w hw he
  cases he
  simp_all [Instr.wf, Instr.wf, decodeWord, decodeVec23, packV, needZero, Instr.canon]

theorem vslide (m : SMark) (mk : KReg) (t : ETy) (vd : Reg) (vs1 : Reg) (rs2 : Reg) : Statement (.vslide m mk t vd vs1 rs2) := by
  intro w hw he
  cases he
  simp_all [Instr.wf, Instr.wf, decodeWord, decodeVec23, packV, needZero, Instr.canon]

theorem viota (m : SMark) (mk : KReg) (t : ETy) (vd : Reg) (ks1 : KReg) : Statement (.viota m mk t vd ks1) := by
  intro w hw he
  cases he
  simp_all [Instr.wf, Instr.wf, decodeWord, decodeVec23, packV, needZero, Instr.canon]

theorem vmpop (m : SMark) (mk : KReg) (rd : Reg) (ks1 : KReg) : Statement (.vmpop m mk rd ks1) := by
  intro w hw he
  cases he
  simp_all [Instr.wf, Instr.wf, decodeWord, decodeVec23, packV, needZero, Instr.canon]

theorem vredsum (m : SMark) (mk : KReg) (t : ETy) (rd : Reg) (vs1 : Reg) (rs2 : Reg) : Statement (.vredsum m mk t rd vs1 rs2) := by
  intro w hw he
  cases he
  simp_all [Instr.wf, Instr.wf, decodeWord, decodeVec24, packV, needZero, Instr.canon]

theorem vredmax (m : SMark) (mk : KReg) (t : ETy) (rd : Reg) (vs1 : Reg) (rs2 : Reg) : Statement (.vredmax m mk t rd vs1 rs2) := by
  intro w hw he
  cases he
  simp_all [Instr.wf, Instr.wf, decodeWord, decodeVec24, packV, needZero, Instr.canon]

theorem vredmin (m : SMark) (mk : KReg) (t : ETy) (rd : Reg) (vs1 : Reg) (rs2 : Reg) : Statement (.vredmin m mk t rd vs1 rs2) := by
  intro w hw he
  cases he
  simp_all [Instr.wf, Instr.wf, decodeWord, decodeVec24, packV, needZero, Instr.canon]

theorem vscan (m : SMark) (mk : KReg) (t : ETy) (vd : Reg) (vs1 : Reg) (rs2 : Reg) : Statement (.vscan m mk t vd vs1 rs2) := by
  intro w hw he
  cases he
  simp_all [Instr.wf, Instr.wf, decodeWord, decodeVec24, packV, needZero, Instr.canon]

theorem vcvt (m : SMark) (mk : KReg) (t : ETy) (dst : ETy) (vd : Reg) (vs1 : Reg) : Statement (.vcvt m mk t dst vd vs1) := by
  intro w hw he
  cases he
  simp_all [Instr.wf, Instr.wf, decodeWord, decodeVec24, packV, needZero, Instr.canon]

theorem vpack (m : SMark) (mk : KReg) (t : ETy) (vd : Reg) (vs1 : Reg) (vs2 : Reg) : Statement (.vpack m mk t vd vs1 vs2) := by
  intro w hw he
  cases he
  simp_all [Instr.wf, Instr.wf, decodeWord, decodeVec24, packV, needZero, Instr.canon]

theorem vunpack (m : SMark) (mk : KReg) (t : ETy) (hi : Bool) (vd : Reg) (vs1 : Reg) : Statement (.vunpack m mk t hi vd vs1) := by
  intro w hw he
  cases he
  cases hi <;>
  simp_all [Instr.wf, Instr.wf, decodeWord, decodeVec24, packV, needZero, Instr.canon]

theorem vdot (m : SMark) (mk : KReg) (t : ETy) (vd : Reg) (vs1 : Reg) (vs2 : Reg) : Statement (.vdot m mk t vd vs1 vs2) := by
  intro w hw he
  cases he
  simp_all [Instr.wf, Instr.wf, decodeWord, decodeVec24, packV, needZero, Instr.canon]

theorem vld (m : SMark) (mk : KReg) (t : ETy) (vd : Reg) (rs1 : Reg) (rs2 : Reg) : Statement (.vld m mk t vd rs1 rs2) := by
  intro w hw he
  cases he
  simp_all [Instr.wf, Instr.wf, decodeWord, decodeVec25, packV, needZero, Instr.canon]

theorem vst (m : SMark) (mk : KReg) (t : ETy) (vd : Reg) (rs1 : Reg) (rs2 : Reg) : Statement (.vst m mk t vd rs1 rs2) := by
  intro w hw he
  cases he
  simp_all [Instr.wf, Instr.wf, decodeWord, decodeVec25, packV, needZero, Instr.canon]

theorem vlds (m : SMark) (mk : KReg) (t : ETy) (vd : Reg) (rs1 : Reg) (rs2 : Reg) : Statement (.vlds m mk t vd rs1 rs2) := by
  intro w hw he
  cases he
  simp_all [Instr.wf, Instr.wf, decodeWord, decodeVec25, packV, needZero, Instr.canon]

theorem vsts (m : SMark) (mk : KReg) (t : ETy) (vd : Reg) (rs1 : Reg) (rs2 : Reg) : Statement (.vsts m mk t vd rs1 rs2) := by
  intro w hw he
  cases he
  simp_all [Instr.wf, Instr.wf, decodeWord, decodeVec25, packV, needZero, Instr.canon]

theorem vgath (m : SMark) (mk : KReg) (t : ETy) (vd : Reg) (rs1 : Reg) (vs2 : Reg) : Statement (.vgath m mk t vd rs1 vs2) := by
  intro w hw he
  cases he
  simp_all [Instr.wf, Instr.wf, decodeWord, decodeVec25, packV, needZero, Instr.canon]

theorem vscat (m : SMark) (mk : KReg) (t : ETy) (vd : Reg) (rs1 : Reg) (vs2 : Reg) : Statement (.vscat m mk t vd rs1 vs2) := by
  intro w hw he
  cases he
  simp_all [Instr.wf, Instr.wf, decodeWord, decodeVec25, packV, needZero, Instr.canon]

theorem vldg (m : SMark) (mk : KReg) (t : ETy) (vd : Reg) (rs1 : Reg) (rs2 : Reg) : Statement (.vldg m mk t vd rs1 rs2) := by
  intro w hw he
  cases he
  simp_all [Instr.wf, Instr.wf, decodeWord, decodeVec25, packV, needZero, Instr.canon]

theorem vstg (m : SMark) (mk : KReg) (t : ETy) (vd : Reg) (rs1 : Reg) (rs2 : Reg) : Statement (.vstg m mk t vd rs1 rs2) := by
  intro w hw he
  cases he
  simp_all [Instr.wf, Instr.wf, decodeWord, decodeVec25, packV, needZero, Instr.canon]

theorem vexp2 (m : SMark) (mk : KReg) (t : ETy) (vd : Reg) (vs1 : Reg) : Statement (.vexp2 m mk t vd vs1) := by
  intro w hw he
  cases he
  simp_all [Instr.wf, Instr.wf, decodeWord, decodeVec26, packV, needZero, Instr.canon]

theorem vlog2 (m : SMark) (mk : KReg) (t : ETy) (vd : Reg) (vs1 : Reg) : Statement (.vlog2 m mk t vd vs1) := by
  intro w hw he
  cases he
  simp_all [Instr.wf, Instr.wf, decodeWord, decodeVec26, packV, needZero, Instr.canon]

theorem vrcp (m : SMark) (mk : KReg) (t : ETy) (vd : Reg) (vs1 : Reg) : Statement (.vrcp m mk t vd vs1) := by
  intro w hw he
  cases he
  simp_all [Instr.wf, Instr.wf, decodeWord, decodeVec26, packV, needZero, Instr.canon]

theorem vrsqrt (m : SMark) (mk : KReg) (t : ETy) (vd : Reg) (vs1 : Reg) : Statement (.vrsqrt m mk t vd vs1) := by
  intro w hw he
  cases he
  simp_all [Instr.wf, Instr.wf, decodeWord, decodeVec26, packV, needZero, Instr.canon]

theorem vquant (m : SMark) (mk : KReg) (t : ETy) (f : TFmt) (vd : Reg) (vs1 : Reg) : Statement (.vquant m mk t f vd vs1) := by
  intro w hw he
  cases he
  simp_all [Instr.wf, Instr.wf, decodeWord, decodeVec26, packV, needZero, Instr.canon]

theorem vdeq (m : SMark) (mk : KReg) (t : ETy) (f : TFmt) (vd : Reg) (vs1 : Reg) : Statement (.vdeq m mk t f vd vs1) := by
  intro w hw he
  cases he
  simp_all [Instr.wf, Instr.wf, decodeWord, decodeVec26, packV, needZero, Instr.canon]

theorem kand (m : SMark) (kd : KReg) (ks1 : KReg) (ks2 : KReg) : Statement (.kand m kd ks1 ks2) := by
  intro w hw he
  cases he
  simp_all [Instr.wf, Instr.wf, decodeWord, decodeVec27, packV, needZero, Instr.canon]

theorem kor (m : SMark) (kd : KReg) (ks1 : KReg) (ks2 : KReg) : Statement (.kor m kd ks1 ks2) := by
  intro w hw he
  cases he
  simp_all [Instr.wf, Instr.wf, decodeWord, decodeVec27, packV, needZero, Instr.canon]

theorem kxor (m : SMark) (kd : KReg) (ks1 : KReg) (ks2 : KReg) : Statement (.kxor m kd ks1 ks2) := by
  intro w hw he
  cases he
  simp_all [Instr.wf, Instr.wf, decodeWord, decodeVec27, packV, needZero, Instr.canon]

theorem knot (m : SMark) (kd : KReg) (ks1 : KReg) : Statement (.knot m kd ks1) := by
  intro w hw he
  cases he
  simp_all [Instr.wf, Instr.wf, decodeWord, decodeVec27, packV, needZero, Instr.canon]

theorem mma (m : SMark) (fb : TFmt) (fa : TFmt) (zb : ZReg) (za : ZReg) (zc : ZReg) (acc : Acc) : Statement (.mma m fb fa zb za zc acc) := by
  intro w hw he
  cases he
  simp_all [Instr.wf, Instr.wf, decodeWord, decodeMma, needZero, Instr.canon]

theorem zld (m : SMark) (z : ZReg) (rs1 : Reg) (rs2 : Reg) : Statement (.zld m z rs1 rs2) := by
  intro w hw he
  cases he
  simp_all [Instr.wf, Instr.wf, decodeWord, decodePanelMem, needZero, -BitVec.extractLsb'_toNat, Instr.canon]

theorem zst (m : SMark) (z : ZReg) (rs1 : Reg) (rs2 : Reg) : Statement (.zst m z rs1 rs2) := by
  intro w hw he
  cases he
  simp_all [Instr.wf, Instr.wf, decodeWord, decodePanelMem, needZero, -BitVec.extractLsb'_toNat, Instr.canon]

theorem zzero (m : SMark) (zc : ZReg) : Statement (.zzero m zc) := by
  intro w hw he
  cases he
  simp_all [Instr.wf, Instr.wf, decodeWord, decodePanelOp, needZero, Instr.canon]

theorem zcvt (m : SMark) (fa : TFmt) (zc : ZReg) (za : ZReg) : Statement (.zcvt m fa zc za) := by
  intro w hw he
  cases he
  simp_all [Instr.wf, Instr.wf, decodeWord, decodePanelOp, needZero, Instr.canon]

theorem zscl (m : SMark) (zc : ZReg) (za : ZReg) : Statement (.zscl m zc za) := by
  intro w hw he
  cases he
  simp_all [Instr.wf, Instr.wf, decodeWord, decodePanelOp, needZero, Instr.canon]

theorem zxp (m : SMark) (zc : ZReg) (za : ZReg) : Statement (.zxp m zc za) := by
  intro w hw he
  cases he
  simp_all [Instr.wf, Instr.wf, decodeWord, decodePanelOp, needZero, Instr.canon]

theorem zmovv (m : SMark) (z : ZReg) (vs1 : Reg) (rs2 : Reg) : Statement (.zmovv m z vs1 rs2) := by
  intro w hw he
  cases he
  simp_all [Instr.wf, Instr.wf, decodeWord, decodePanelMove, needZero, -BitVec.extractLsb'_toNat, Instr.canon]

theorem vmovz (m : SMark) (vd : Reg) (z : ZReg) (rs2 : Reg) : Statement (.vmovz m vd z rs2) := by
  intro w hw he
  cases he
  simp_all [Instr.wf, Instr.wf, decodeWord, decodePanelMove, needZero, -BitVec.extractLsb'_toNat, Instr.canon]

theorem bform (m : SMark) (rd : Reg) (rs1 : Reg) (rs2 : Reg) : Statement (.bform m rd rs1 rs2) := by
  intro w hw he
  cases he
  simp_all [Instr.wf, Instr.wf, decodeWord, decodeServeOp, decodeServe, needZero, -BitVec.extractLsb'_toNat, Instr.canon]

theorem bcommit (m : SMark) (rd : Reg) (rs1 : Reg) (rs2 : Reg) : Statement (.bcommit m rd rs1 rs2) := by
  intro w hw he
  cases he
  simp_all [Instr.wf, Instr.wf, decodeWord, decodeServeOp, decodeServe, needZero, -BitVec.extractLsb'_toNat, Instr.canon]

theorem rqfork (m : SMark) (rd : Reg) (rs1 : Reg) (rs2 : Reg) : Statement (.rqfork m rd rs1 rs2) := by
  intro w hw he
  cases he
  simp_all [Instr.wf, Instr.wf, decodeWord, decodeServeOp, decodeServe, needZero, -BitVec.extractLsb'_toNat, Instr.canon]

theorem rqevict (m : SMark) (rd : Reg) (rs1 : Reg) (rs2 : Reg) : Statement (.rqevict m rd rs1 rs2) := by
  intro w hw he
  cases he
  simp_all [Instr.wf, Instr.wf, decodeWord, decodeServeOp, decodeServe, needZero, -BitVec.extractLsb'_toNat, Instr.canon]

theorem rqstat (m : SMark) (rd : Reg) (rs1 : Reg) (rs2 : Reg) : Statement (.rqstat m rd rs1 rs2) := by
  intro w hw he
  cases he
  simp_all [Instr.wf, Instr.wf, decodeWord, decodeServeOp, decodeServe, needZero, -BitVec.extractLsb'_toNat, Instr.canon]

theorem slotrd (m : SMark) (rd : Reg) (rs1 : Reg) (rs2 : Reg) : Statement (.slotrd m rd rs1 rs2) := by
  intro w hw he
  cases he
  simp_all [Instr.wf, Instr.wf, decodeWord, decodeServeOp, decodeServe, needZero, -BitVec.extractLsb'_toNat, Instr.canon]

theorem kvapp (m : SMark) (rd : Reg) (rs1 : Reg) (rs2 : Reg) : Statement (.kvapp m rd rs1 rs2) := by
  intro w hw he
  cases he
  simp_all [Instr.wf, Instr.wf, decodeWord, decodeKvOp, decodeKv, needZero, -BitVec.extractLsb'_toNat, Instr.canon]

theorem kvlook (m : SMark) (rd : Reg) (rs1 : Reg) (rs2 : Reg) : Statement (.kvlook m rd rs1 rs2) := by
  intro w hw he
  cases he
  simp_all [Instr.wf, Instr.wf, decodeWord, decodeKvOp, decodeKv, needZero, -BitVec.extractLsb'_toNat, Instr.canon]

theorem kvrel (m : SMark) (rd : Reg) (rs1 : Reg) (rs2 : Reg) : Statement (.kvrel m rd rs1 rs2) := by
  intro w hw he
  cases he
  simp_all [Instr.wf, Instr.wf, decodeWord, decodeKvOp, decodeKv, needZero, -BitVec.extractLsb'_toNat, Instr.canon]

theorem dattn (m : SMark) (rd : Reg) (rs1 : Reg) (rs2 : Reg) : Statement (.dattn m rd rs1 rs2) := by
  intro w hw he
  cases he
  simp_all [Instr.wf, Instr.wf, decodeWord, decodeDaeOp, decodeDae, needZero, -BitVec.extractLsb'_toNat, Instr.canon]

theorem cpGo (m : SMark) (rd : Reg) : Statement (.cpGo m rd) := by
  intro w hw he
  cases he
  simp_all [Instr.wf, Instr.wf, decodeWord, decodeCsr, needZero, csrWriteInstr, CsrForm.f3, Side.ctlCsr, -BitVec.extractLsb'_toNat, Instr.canon]

theorem ttinv (m : SMark) (f : CsrForm) (rd : Reg) (rs1 : Reg) : Statement (.ttinv m f rd rs1) := by
  intro w hw he
  cases he
  cases f <;>
  simp_all [Instr.wf, Instr.wf, decodeWord, decodeCsr, needZero, csrWriteInstr, CsrForm.f3, Side.ctlCsr, -BitVec.extractLsb'_toNat, Instr.canon]

theorem zcfgWrite (m : SMark) (f : CsrForm) (z : ZReg) (rd : Reg) (rs1 : Reg) : Statement (.zcfgWrite m f z rd rs1) := by
  intro w hw he
  cases he
  cases f <;>
  simp_all [Instr.wf, Instr.wf, decodeWord, decodeCsr, needZero, csrWriteInstr, CsrForm.f3, Side.ctlCsr, -BitVec.extractLsb'_toNat, Instr.canon]

theorem xsdataWrite (m : SMark) (f : CsrForm) (rd : Reg) (rs1 : Reg) : Statement (.xsdataWrite m f rd rs1) := by
  intro w hw he
  cases he
  cases f <;>
  simp_all [Instr.wf, Instr.wf, decodeWord, decodeCsr, needZero, csrWriteInstr, CsrForm.f3, Side.ctlCsr, -BitVec.extractLsb'_toNat, Instr.canon]

theorem sideCoreGo (m : SMark) (sd : Side) (f : CsrForm) (rd : Reg) (rs1 : Reg) : Statement (.sideCoreGo m sd f rd rs1) := by
  intro w hw he
  cases he
  cases sd <;>
  cases f <;>
  simp_all [Instr.wf, Instr.wf, decodeWord, decodeCsr, needZero, csrWriteInstr, CsrForm.f3, Side.ctlCsr, -BitVec.extractLsb'_toNat, Instr.canon]

theorem sideCoreStop (m : SMark) (sd : Side) (f : CsrForm) (rd : Reg) (rs1 : Reg) : Statement (.sideCoreStop m sd f rd rs1) := by
  intro w hw he
  cases he
  cases sd <;>
  cases f <;>
  simp_all [Instr.wf, Instr.wf, decodeWord, decodeCsr, needZero, csrWriteInstr, CsrForm.f3, Side.ctlCsr, -BitVec.extractLsb'_toNat, Instr.canon]

theorem sideImageLoaded (tile : Nat) (sd : Side) : Statement (.sideImageLoaded tile sd) := by
  intro w _ he; cases he

theorem sideCoreTrap (tile : Nat) (sd : Side) : Statement (.sideCoreTrap tile sd) := by
  intro w _ he; cases he

theorem recordPickup (tile : Nat) (c : Fin 8) : Statement (.recordPickup tile c) := by
  intro w _ he; cases he

theorem preemption (tile : Nat) (c : Fin 8) : Statement (.preemption tile c) := by
  intro w _ he; cases he

theorem trapDelivery (tile : Nat) (c : Fin 8) : Statement (.trapDelivery tile c) := by
  intro w _ he; cases he

theorem suspensionRetry (tile : Nat) (c : Fin 8) : Statement (.suspensionRetry tile c) := by
  intro w _ he; cases he

theorem faultQueueRetry (n : Nat) : Statement (.faultQueueRetry n) := by
  intro w _ he; cases he

theorem remoteResultArrival (n : Nat) (outside : List Byte) : Statement (.remoteResultArrival n outside) := by
  intro w _ he; cases he

theorem contextSwitch (tile : Nat) : Statement (.contextSwitch tile) := by
  intro w _ he; cases he

theorem runlimitExpiry (tile : Nat) : Statement (.runlimitExpiry tile) := by
  intro w _ he; cases he

theorem wfiTimeout (tile : Nat) (c : Fin 8) : Statement (.wfiTimeout tile c) := by
  intro w _ he; cases he

theorem wwaittTimeout (tile : Nat) (a : Fin 10) : Statement (.wwaittTimeout tile a) := by
  intro w _ he; cases he

theorem gbwaitTimeout (tile : Nat) (c : Fin 8) : Statement (.gbwaitTimeout tile c) := by
  intro w _ he; cases he

theorem mailboxDeferredPlace (tile : Nat) : Statement (.mailboxDeferredPlace tile) := by
  intro w _ he; cases he

theorem copyPiece (tile : Nat) (chan : Fin 4) : Statement (.copyPiece tile chan) := by
  intro w _ he; cases he

theorem copyCompletion (tile : Nat) (chan : Fin 4) : Statement (.copyCompletion tile chan) := by
  intro w _ he; cases he

theorem copyCompletionPlaced (tile : Nat) (chan : Fin 4) : Statement (.copyCompletionPlaced tile chan) := by
  intro w _ he; cases he

theorem packetArrival (n : Nat) : Statement (.packetArrival n) := by
  intro w _ he; cases he

theorem nackReceipt (n : Nat) : Statement (.nackReceipt n) := by
  intro w _ he; cases he

theorem replay (tile : Nat) (dst : Nat) : Statement (.replay tile dst) := by
  intro w _ he; cases he

theorem acceptAck (n : Nat) : Statement (.acceptAck n) := by
  intro w _ he; cases he

theorem replayExpiry (tile : Nat) (dst : Nat) : Statement (.replayExpiry tile dst) := by
  intro w _ he; cases he

theorem furrowDatumArrival (n : Nat) : Statement (.furrowDatumArrival n) := by
  intro w _ he; cases he

theorem creditReturn (n : Nat) : Statement (.creditReturn n) := by
  intro w _ he; cases he

theorem tick  : Statement (.tick) := by
  intro w _ he; cases he

theorem epochEnd (die : Fin 4) (pc : Nat) (ps : Nat) (pl : Nat) (rowStall : List Nat) : Statement (.epochEnd die pc ps pl rowStall) := by
  intro w _ he; cases he

theorem leaseExpiry (ltid : BitVec 12) : Statement (.leaseExpiry ltid) := by
  intro w _ he; cases he

theorem noticeDeadline (ltid : BitVec 12) (nid : Byte) : Statement (.noticeDeadline ltid nid) := by
  intro w _ he; cases he

theorem enterMoving (ltid : BitVec 12) : Statement (.enterMoving ltid) := by
  intro w _ he; cases he

theorem moveComplete (ltid : BitVec 12) : Statement (.moveComplete ltid) := by
  intro w _ he; cases he

theorem pageFlip (n : Nat) : Statement (.pageFlip n) := by
  intro w _ he; cases he

theorem roleCacheInvalidation (tile : Nat) (ltid : BitVec 12) : Statement (.roleCacheInvalidation tile ltid) := by
  intro w _ he; cases he

theorem storeRegistration (n : Nat) : Statement (.storeRegistration n) := by
  intro w _ he; cases he

theorem registrationAck (n : Nat) : Statement (.registrationAck n) := by
  intro w _ he; cases he

theorem sliceFill (n : Nat) : Statement (.sliceFill n) := by
  intro w _ he; cases he

theorem forwardedRead (n : Nat) : Statement (.forwardedRead n) := by
  intro w _ he; cases he

theorem writeBack (tile : Nat) (line : Nat) : Statement (.writeBack tile line) := by
  intro w _ he; cases he

theorem leave (n : Nat) : Statement (.leave n) := by
  intro w _ he; cases he

theorem registryErrorRecall (line : Nat) : Statement (.registryErrorRecall line) := by
  intro w _ he; cases he

theorem replicaLapse (line : Nat) (helper : Nat) : Statement (.replicaLapse line helper) := by
  intro w _ he; cases he

theorem tableWalk (n : Nat) : Statement (.tableWalk n) := by
  intro w _ he; cases he

theorem stewardPageService (n : Nat) (a : PageAnswer) : Statement (.stewardPageService n a) := by
  intro w _ he; cases he

theorem icacheFill (n : Nat) : Statement (.icacheFill n) := by
  intro w _ he; cases he

theorem hostReadShared (pa : Nat) : Statement (.hostReadShared pa) := by
  intro w _ he; cases he

theorem hostReadOwn (pa : Nat) : Statement (.hostReadOwn pa) := by
  intro w _ he; cases he

theorem hostWriteback (pa : Nat) (data : List Byte) (keep : Bool) : Statement (.hostWriteback pa data keep) := by
  intro w _ he; cases he

theorem hostUncachedWrite (pa : Nat) (data : List Byte) : Statement (.hostUncachedWrite pa data) := by
  intro w _ he; cases he

theorem backInvalidationResponse (pa : Nat) (data : List Byte) : Statement (.backInvalidationResponse pa data) := by
  intro w _ he; cases he

theorem hostSnoop (pa : Nat) : Statement (.hostSnoop pa) := by
  intro w _ he; cases he

theorem dispatch (die : Fin 4) : Statement (.dispatch die) := by
  intro w _ he; cases he

theorem schedulerSplit (die : Fin 4) : Statement (.schedulerSplit die) := by
  intro w _ he; cases he

theorem headgateAdmission (die : Fin 4) : Statement (.headgateAdmission die) := by
  intro w _ he; cases he

theorem stagingDeadline (die : Fin 4) (n : Nat) : Statement (.stagingDeadline die n) := by
  intro w _ he; cases he

theorem counterSignal (n : Nat) : Statement (.counterSignal n) := by
  intro w _ he; cases he

theorem counterEnqueueRetry (n : Nat) : Statement (.counterEnqueueRetry n) := by
  intro w _ he; cases he

theorem barrierRelease (die : Fin 4) (ch : BitVec 3) : Statement (.barrierRelease die ch) := by
  intro w _ he; cases he

theorem scheduledInjection (tile : Nat) (slot : BitVec 6) (late : Bool) : Statement (.scheduledInjection tile slot late) := by
  intro w _ he; cases he

theorem memberLost (tile : Nat) (c : Fin 8) : Statement (.memberLost tile c) := by
  intro w _ he; cases he

theorem dattnCompletion (die : Fin 4) : Statement (.dattnCompletion die) := by
  intro w _ he; cases he

theorem enqWindowGo (i : Fin 4) : Statement (.enqWindowGo i) := by
  intro w _ he; cases he

theorem wswrite  : Statement (.wswrite) := by
  intro w _ he; cases he

theorem tlbinv  : Statement (.tlbinv) := by
  intro w _ he; cases he

theorem ttflush  : Statement (.ttflush) := by
  intro w _ he; cases he

theorem rgnmake  : Statement (.rgnmake) := by
  intro w _ he; cases he

theorem rgngrant  : Statement (.rgngrant) := by
  intro w _ he; cases he

theorem rgnfree  : Statement (.rgnfree) := by
  intro w _ he; cases he

theorem forcecast  : Statement (.forcecast) := by
  intro w _ he; cases he

theorem taskstop  : Statement (.taskstop) := by
  intro w _ he; cases he

theorem mgmtRegisterWrite (off : BitVec 32) (v : Word) : Statement (.mgmtRegisterWrite off v) := by
  intro w _ he; cases he

theorem attestationRequest (nonce : BitVec 256) : Statement (.attestationRequest nonce) := by
  intro w _ he; cases he

theorem attestationReportReady  : Statement (.attestationReportReady) := by
  intro w _ he; cases he

theorem imageVerify (key : BitVec 3072) (image : List Byte) (sig : BitVec 3072) (version : Word) : Statement (.imageVerify key image sig version) := by
  intro w _ he; cases he

theorem powerOnReset (pass : BitVec 4) : Statement (.powerOnReset pass) := by
  intro w _ he; cases he

theorem fullServiceSwitch (dies : BitVec 4) (hbm : BitVec 8) (cxl : BitVec 4) (fab : BitVec 16) (node : BitVec 6) : Statement (.fullServiceSwitch dies hbm cxl fab node) := by
  intro w _ he; cases he

theorem ue (p : ErrPlace) : Statement (.ue p) := by
  intro w _ he; cases he

theorem ce (die : Fin 5) (unit : BitVec 3) (loc : BitVec 12) : Statement (.ce die unit loc) := by
  intro w _ he; cases he

theorem linkCrcFailure (link : BitVec 12) (again : Bool) : Statement (.linkCrcFailure link again) := by
  intro w _ he; cases he

theorem thermalHold (temp : Byte) : Statement (.thermalHold temp) := by
  intro w _ he; cases he

theorem thermalShutdown (temp : Byte) : Statement (.thermalShutdown temp) := by
  intro w _ he; cases he

theorem clockStep (watts : BitVec 16) : Statement (.clockStep watts) := by
  intro w _ he; cases he

theorem wearUpdate (pct : Byte) (days : BitVec 32) : Statement (.wearUpdate pct days) := by
  intro w _ he; cases he

theorem remoteAccessTimeout (n : Nat) : Statement (.remoteAccessTimeout n) := by
  intro w _ he; cases he

theorem replyArrival (n : Nat) : Statement (.replyArrival n) := by
  intro w _ he; cases he

theorem tensorEngineCompletion (tile : Nat) : Statement (.tensorEngineCompletion tile) := by
  intro w _ he; cases he

theorem thermalHoldEnd : Statement .thermalHoldEnd := by
  intro w _ he; cases he

theorem badcmd (code : Word) : Statement (.badcmd code) := by
  intro w _ he; cases he

end Sys2Proof.Laws.Encoding
end

