-- ==== Sys2Proof/Tests/Slice0.lean ====
section
/-! SUPPORT. Tests: ill-formed terms are refused; words written out from the spec's encodings decode; for every statement with hypotheses,
states and operands that meet them, clause by clause (the theorem `witness_<Statement>`). -/

namespace Sys2Proof.Tests

set_option Elab.async false

open Sys2Proof Sys2Proof.Machine Sys2Proof.Safety

/-! ## Ill-formed terms (02 R32, R40, R45; 00 R1) -/

theorem test_wf_atomic_scope : (Instr.amoadd false .str true 1 2 3).wf = false := by decide
theorem test_wf_integer_type : (Instr.vand false 0 .fp32 1 2 3).wf = false := by decide
theorem test_wf_float_type : (Instr.vexp2 false 0 .int32 1 2).wf = false := by decide
theorem test_wf_dot_type : (Instr.vdot false 0 .fp32 1 2 3).wf = false := by decide
theorem test_wf_tile : (Instr.contextSwitch 1024).wf = false := by decide
theorem test_wf_window : (Instr.replay 0 4096).wf = false := by decide
theorem test_wf_store_place : (Instr.ue (.store 0 [0x30000])).wf = false := by decide
theorem test_wf_panel_place : (Instr.ue (.panel 0 0 [2448])).wf = false := by decide
theorem test_wf_line : (Instr.hostWriteback 0 [] false).wf = false := by decide

/-! ## Words (02 R29 to R47, 23) -/

theorem test_decode_add : decodeWord 0x00730284 = .ok (.add false 5 6 7) := by decide +kernel
theorem test_decode_srai : decodeWord 0x40349483 = .ok (.srai false 9 9 3) := by decide +kernel
theorem test_decode_divuW : decodeWord 0x02C5D505 = .ok (.divuW false 10 11 12) := by decide +kernel
theorem test_decode_lui : decodeWord 0x2468B286 = .ok (.lui false 5 0x2468B) := by decide +kernel
theorem test_decode_jal : decodeWord 0x00040088 = .ok (.jal false 1 0x40) := by decide +kernel
-- BNE x5, x6, +8 words: f3 1, imm[10:5] 0, imm[4:0] 8
theorem test_decode_bne : decodeWord 0x0062940A = .ok (.bne false 5 6 8) := by decide +kernel
theorem test_decode_fmac : decodeWord 0x06C5950B = .ok (.fmac false .f64 10 11 12) := by decide +kernel
theorem test_decode_fcvt : decodeWord 0x1E73028B = .ok (.fcvt false .f32 .toW 5 6) := by decide +kernel
theorem test_decode_ld : decodeWord 0x0102E301 = .ok (.ld false 6 5 16) := by decide +kernel
theorem test_decode_sd : decodeWord 0x00543C02 = .ok (.sd false 8 5 24) := by decide +kernel
theorem test_decode_srel : decodeWord 0x3462C002 = .ok (.srel false .die .w 5 6) := by decide +kernel
theorem test_decode_csrrd : decodeWord 0x0540028C = .ok (.csrrd false 5 0x054) := by decide +kernel
theorem test_decode_ecall : decodeWord 0x0110000D = .ok (.ecall false 17) := by decide +kernel
theorem test_decode_halt : decodeWord 0x0000400D = .ok (.halt false) := by decide +kernel
theorem test_decode_rgn : decodeWord 0x0001080E = .ok (.rgn false 0x210) := by decide +kernel
-- AMOADD.D.TILE x5, [x6], x7: scope 1 in 30:28, f3b 3 in 27:25 (add, doubleword)
theorem test_decode_amoadd : decodeWord 0x16730290 = .ok (.amoadd false .tile true 5 6 7) := by decide +kernel
-- BFNLD slot 2, x5: f3b 2
theorem test_decode_bfnld : decodeWord 0x04028011 = .ok (.bfnld false 2 5) := by decide +kernel
-- FENCE.DIE rw, w: scope 3, f3b 3, rd 2
theorem test_decode_fence : decodeWord 0x36000112 = .ok (.fence false .die ⟨true, true, false⟩ ⟨false, true, false⟩) := by decide +kernel
-- LDF x5, [x6+8]
theorem test_decode_ldf : decodeWord 0x00830293 = .ok (.ldf false 5 6 8) := by decide +kernel
-- WWAITT x5, [x6], x7: f3 6, f3b 1
theorem test_decode_wwaitt : decodeWord 0x02736294 = .ok (.wwaitt false 5 6 7) := by decide +kernel
-- MPEEK x5, [x6]
theorem test_decode_mpeek : decodeWord 0x00031295 = .ok (.mpeek false 5 6) := by decide +kernel
-- PUT.W [x6], x7: f3b 2
theorem test_decode_put : decodeWord 0x04730016 = .ok (.put false .w 6 7) := by decide +kernel
-- FRECV x5, x6, x7: f3 2
theorem test_decode_frecv : decodeWord 0x00732297 = .ok (.frecv false 5 6 7) := by decide +kernel
-- SUSP x5, [x6]: f3 5
theorem test_decode_susp : decodeWord 0x00035298 = .ok (.susp false 5 6) := by decide +kernel
-- VOTE.SUM ch 3, x6: f3 2, imm 0x13
theorem test_decode_vote : decodeWord 0x01332019 = .ok (.vote false .sum 3 6) := by decide +kernel
-- NTCACK x5, x6, x7: f3 3
theorem test_decode_ntcack : decodeWord 0x0073329A = .ok (.ntcack false 5 6 7) := by decide +kernel
-- CPSTAT x5, x6, x7: f3 2
theorem test_decode_cpstat : decodeWord 0x0073229B = .ok (.cpstat false 5 6 7) := by decide +kernel
-- QPUSH q1, x6: rd 1
theorem test_decode_qpush : decodeWord 0x0003009C = .ok (.qpush false 1 6) := by decide +kernel
theorem test_decode_vredsum : decodeWord 0x00B44524 = .ok (.vredsum false 0 .fp32 10 8 11) := by decide +kernel
-- MMA z1 += z2 * z3, acc 1, both formats INT8 (code 6)
theorem test_decode_mma : decodeWord 0x6C642430 = .ok (.mma false .int8 .int8 3 2 1 .i32w) := by decide +kernel
-- ZST z4, x6, x7: f3 1
theorem test_decode_zst : decodeWord 0x00731231 = .ok (.zst false 4 6 7) := by decide +kernel
-- BCOMMIT x5, x6, x7; KVREL; DATTN
theorem test_decode_serving : decodeWord 0x007312B8 = .ok (.bcommit false 5 6 7) ∧ decodeWord 0x007322B9 = .ok (.kvrel false 5 6 7)
    ∧ decodeWord 0x007302BA = .ok (.dattn false 5 6 7) := by decide +kernel
/-- 02 R31, R32: reserved opcodes and nonzero "0" fields are refused by name. -/
theorem test_decode_refuses : decodeWord 0 = .error .reservedOpcode ∧ decodeWord 0x0110008D = .error .nonzeroField := by decide +kernel

/-! ## States for the witnesses -/

/-- Context 0 of tile 0 runs, at address 0, in workspace 0. -/
def run0 : State := State.reset.putTile { State.reset.tile with
  ctx := State.reset.tile.ctx.set 0 { Context.reset with st := .running }, run := some 0 }
/-- With x5 at `v`. -/
def at5 (v : Word) : State := run0.setX 5 v
/-- With sixteen stores of the acting agent outstanding. -/
def storing16 (s : State) : State := { s with flights := (List.range 16).map fun i => .wdata s.src i (0x80_0000_1000 / 8 + i) [(0, 1)] false }
/-- The loader of the tile runs and acts. -/
def byLoader (s : State) : State :=
  { s.putTile { s.tile with ldr := { s.tile.ldr with st := .running } } with curAgent := .loader }
/-- The first address of the tile window, and a tagged word's address for tile 1 of the messages' form. -/
def inTile : Word := 0xFF00_0000_0000_0000
/-- Pages 1 and 2 lie in HBM for workspace 0. -/
def mapped (s : State) : State := s.putTile { s.tile with
  tlb := [(0, { ws := 0, va := 0x1000, size := 4096, pa := 0x80_0000_1000, r := true, w := true, x := true, sealed := false })] }
/-- x5 names a mapped address. -/
def inMem : State := mapped (at5 0x1000)
/-- The loader runs with x5 at `v`. -/
def ldr5 (v : Word) : State := ({ State.reset with curAgent := .loader } : State).setX 5 v

/-- Whether an access answers `x`. -/
def okIs [DecidableEq α] (r : Reach α) (x : α) : Bool :=
  match r with
  | .ok y => y == x
  | _ => false
theorem of_okIs [DecidableEq α] {r : Reach α} {x : α} (h : okIs r x = true) : r = .ok x := by
  unfold okIs at h
  split at h
  · rw [eq_of_beq h]
  · cases h
/-- The one piece of an access of `n` bytes at the start of the mapped page. -/
def piece (n : Nat) : List Piece := [{ pos := 0, len := n, at' := .mem 0x80_0000_1000 false }]
theorem inMem_free : accessFree inMem := by unfold accessFree; decide +kernel
theorem inMem_reaches : reaches inMem needLoad 0x1000 8 (piece 8) :=
  ⟨inMem_free, .inl (by decide +kernel), of_okIs (by decide +kernel), by decide +kernel, .inr (by decide +kernel)⟩

/-- Every statement that has only the issue of an instruction as its hypothesis: IntegerImmediates, IntegerRegisters, BitCountsAndExtensions,
Products, Divisions, UpperImmediatesAndJumps, Branches, the first part of FloatArithmetic, FloatComparisonsAndSigns, FloatConversions; an S-marked
instruction with nothing outstanding ends the claim. -/
theorem witness_issues : issues run0 false run0 ∧ issues run0 true run0.endClaim := ⟨⟨_, rfl, rfl⟩, ⟨_, rfl, rfl⟩⟩

/-- FloatArithmetic, second part: one pair of operands for each clause, at boundary values. -/
theorem witness_FloatArithmetic :
    let f := precFmt .f32
    let zero := fun x => f.magBits x = 0
    let finite := fun x => f.isNan x = false ∧ f.isInf x = false
    (finite 1 ∧ ¬ zero 1 ∧ zero 0x8000_0000) ∧ (zero 0 ∧ zero 0) ∧ (f.isInf 0x7F80_0000 = true ∧ f.isInf 0xFF80_0000 = true)
    ∧ (finite 0x8000_0001 ∧ ¬ zero 0x8000_0001 ∧ f.signBit 0x8000_0001 = true) ∧ (zero 0 ∧ f.isInf 0x7F80_0000 = true) ∧ 0xFF80_0000 < 2 ^ 32 := by
  decide +kernel

/-- TileWindowLoads, the first part of CsrReads and the accesses of the tile window: a doubleword at the start of the store, at its end and
out of range. -/
theorem witness_TileWindowLoads :
    (accessFree (at5 inTile) ∧ accessRegion inTile.toNat 8 = .tile ∧ (at5 inTile).tile.lockHit [(inTile.toNat, 8)] = none)
    ∧ accessRegion (inTile + 0x17_FFFF).toNat 8 = .tile ∧ accessRegion (0xFFFF_FFFF_FFFF_FFF8#64).toNat 8 = .tile
    ∧ (at5 inTile).tile.poison = [] ∧ (at5 inTile).x 5 = inTile := by
  unfold accessFree; decide +kernel

/-- RemoteLoads: the first doubleword of the mapped page, and its last byte. -/
theorem witness_RemoteLoads : reaches inMem needLoad (inMem.x 5) 8 (piece 8)
    ∧ reaches inMem needLoad (inMem.x 5 + 0xFFF) 1 [{ pos := 0, len := 1, at' := .mem 0x80_0000_1FFF false }] :=
  ⟨inMem_reaches, inMem_free, .inl (by decide +kernel), of_okIs (by decide +kernel), by decide +kernel, .inr (by decide +kernel)⟩

/-- A result that has arrived, for register `q`. -/
def arrived (tag : Nat) (q : Reg) (bs : List Byte) : Remote :=
  { tag := tag, dest := .x q false, pc := 0, addr := 0x1000, bytes := bs.map some, poison := false, dropped := none, acquire := none }
/-- ResultsLand: two results for one register outstanding, both arrived. -/
theorem witness_ResultsLand :
    let s := run0.setTh { run0.th with outs := [arrived 0 5 [1], arrived 1 5 [2, 3]] }
    (∀ r ∈ s.th.outs, r.arrived = true ∧ r.poison = false ∧ r.dropped = none)
    ∧ s.th.outs = [arrived 0 5 [1]] ++ arrived 1 5 [2, 3] :: [] ∧ (arrived 1 5 [2, 3]).dest = .x 5 false ∧ (5 : Reg) ≠ 0 := by
  decide +kernel

/-- TileWindowStores: with the release of an aligned word; with sixteen stores outstanding and without. -/
theorem witness_TileWindowStores :
    (storing16 (at5 inTile)).storeFull = true ∧ tileAccess (storing16 (at5 inTile)) inTile 8 ∧ (at5 inTile).storeFull = false
    ∧ accessFree (at5 inTile) ∧ accessRegion inTile.toNat 4 = .tile ∧ (at5 inTile).tile.lockHit [(inTile.toNat, 4)] = none
    ∧ inTile.toNat % widthBytes .w = 0 ∧ (at5 inTile).released (at5 inTile).th.outs (at5 inTile).src .sys = true
    ∧ (let r : State := { at5 inTile with flights := (List.range 16).map fun i => .regist (at5 inTile).src i (0x80_0000_1000 / 8 + i) }
       r.storeFull = true ∧ tileAccess r (r.x 5) (widthBytes .w) ∧ r.released r.th.outs r.src .tile = true) := by
  unfold tileAccess accessFree; decide +kernel

/-- PostedStores: the whole first word of the page; the line in the L1, and not. -/
theorem witness_PostedStores :
    let held := inMem.putTile { inMem.tile with
      l1 := [(0x80_0000_1000 / 8, { st := .valid, bytes := List.replicate 8 0, poison := false, ws := 0, sealed := false, merging := none })] }
    (reaches inMem needStore 0x1000 8 (piece 8) ∧ accessRegion 0x1000 8 = .global ∧ inMem.storeFull = false ∧ 0x80_0000_1000 % 8 + 8 ≤ 8)
    ∧ (reaches held needStore 0x1000 8 (piece 8) ∧ held.tile.linePresent (0x80_0000_1000 / 128) = true)
    ∧ (0x1000 : Word).toNat % widthBytes .d = 0 ∧ inMem.released inMem.th.outs inMem.src .sys = true :=
  ⟨⟨⟨inMem_free, .inl (by decide +kernel), of_okIs (by decide +kernel), by decide +kernel, .inr (by decide +kernel)⟩, by decide +kernel⟩,
   ⟨⟨by unfold accessFree; decide +kernel, .inl (by decide +kernel), of_okIs (by decide +kernel), by decide +kernel, .inr (by decide +kernel)⟩, by decide +kernel⟩, by decide +kernel⟩

/-- AcquiresAndPrefetches: a remote and a local acquire. -/
theorem witness_AcquiresAndPrefetches :
    (reaches inMem needLoad (inMem.x 5) (widthBytes .d) (piece 8) ∧ (inMem.x 5).toNat % widthBytes .d = 0)
    ∧ tileAccess (at5 inTile) inTile (widthBytes .w) ∧ inTile.toNat % widthBytes .w = 0 ∧ (at5 inTile).tile.poisoned 0 4 = false := by
  refine ⟨⟨inMem_reaches, by decide +kernel⟩, ?_⟩
  unfold tileAccess accessFree; decide +kernel

/-- AccessTraps: the first unassigned address, the last one before the store window; a misaligned word; a locked range; a poisoned word. -/
theorem witness_AccessTraps :
    let locked := (at5 inTile).putTile { (at5 inTile).tile with locks := [(3, { lo := inTile.toNat / 64, hi := inTile.toNat / 64 + 1, dst := false, chan := 0, xid := 1 })] }
    accessRegion (0x0100_0000_0000_0000#64).toNat 8 = .unassigned ∧ accessRegion (0xFDFF_FFFF_FFFF_FFFC#64).toNat 8 = .unassigned
    ∧ accessRegion (0x1002 : Word).toNat (widthBytes .w) ≠ .unassigned ∧ (0x1002 : Word).toNat % widthBytes .w ≠ 0
    ∧ (accessFree locked ∧ accessRegion inTile.toNat 8 = .tile ∧ locked.tile.lockHit [(inTile.toNat, 8)] = some 3)
    ∧ ((at5 inTile).putTile { (at5 inTile).tile with poison := [0] }).tile.poisoned (inTile.toNat - tileBase) 8 = true := by
  unfold accessFree; decide +kernel

/-- CsrReads, of a context and of a side core, and the first part of CsrWrites; in the second a read-only number, one that names no CSR, one
that a side core neither reads nor writes. -/
theorem witness_Csr : (byLoader run0).isCtx = false ∧ (byLoader run0).tile.tensorBusy (byLoader run0).src = false
    ∧ sideReads (0x005#11).toNat = false ∧ sideWrites (0x005#11).toNat = false ∧ run0.curAgent = .ctx 0
    ∧ run0.isCtx = true ∧ run0.tile.tensorBusy run0.src = false
    ∧ (0x7D1 : BitVec 11) ∈ ([0x004, 0x7D1] : List (BitVec 11)) ∧ csrExists (0x7FF#11).toNat = false ∧ csrExists 0 = false := by
  decide +kernel

/-- The state with its tile changed. -/
def onTile (s : State) (f : Tile → Tile) : State := s.putTile (f s.tile)
/-- The state with context 0 changed. -/
def onCtx (s : State) (f : Context → Context) : State := s.setCtx (f s.ctx)
/-- A store of the acting agent that is not acknowledged. -/
def storing (s : State) : State := { s with flights := [.wdata s.src 0 (0x80_0000_1000 / 8) [(0, 1)] false] }
/-- What each side core of tile 0 does. -/
def side (st : SideState) (spc : BitVec 16) (s : State) : State := onTile s fun T => { T with ldr := { T.ldr with st := st, spc := spc } }

/-- CsrCommands: every clause. -/
theorem witness_CsrCommands :
    run0.storesOut run0.src = false ∧ (cfgOf 0x1FF).ok = false ∧ (cfgOf 0).ok = true
    ∧ (onTile run0 fun T => { T with xwin := [{ ch := 0, start := 0, sent := [] }] }).tile.xwin ≠ [] ∧ run0.tile.xwin = []
    ∧ (0x8000_0000_0000_0000 : Word) &&& 0x87FF_FF7F_FFFF_FFFF ≠ 0
    ∧ (let v : Word := 0x2_0004
       v.getLsbD 17 = true ∧ v.getLsbD 18 = false ∧ (run0.tile.side .loader).st ≠ .loading ∧ (run0.tile.side .loader).st ≠ .running
       ∧ 4 ≤ (v.setWidth 17 : BitVec 17).toNat)
    ∧ ((0x4_0000 : Word).getLsbD 18 = true ∧ ((side .running 0 run0).tile.side .loader).st = .running) := by
  decide +kernel

/-- CopyLaunch: a copy of 64 bytes within the store; four busy channels. -/
theorem witness_CopyLaunch :
    let s := run0.setTh { run0.th with cp := { run0.th.cp with src := inTile, dst := inTile + 0x1000, len := 64 } }
    accessFree s ∧ s.released s.th.outs s.src .tile = true ∧ opMode s.th.cp.opt = false ∧ s.tile.refuses s.th.cp none = none ∧ s.tile.idleChan = some 0
    ∧ s.th.cp.len.toNat % 2 ^ 32 ≠ 0
    ∧ (onTile run0 fun T => { T with chans := Vector.replicate 4 { Chan.reset with st := .running } }).tile.idleChan = none := by
  unfold accessFree; decide +kernel

/-- A handler that has joined a weir of LTID 5; the window to that tile full. -/
def handler : State := onCtx run0 fun k => { k with trec := 0x12C0, joins := k.joins.set 2 (joinWord 0 5 false 0) }
def fullWindow (s : State) : State :=
  let m : Msg := { src := s.src, pc := 0, addr := 0, seq := 0, first := 0, body := .put 0 [] }
  onTile s fun T => { T with windows := [(5, { next := 32, msgs := List.replicate 32 m, refusals := 0, backoff := false })] }
/-- TrapsAndReturns and StrandEnds: a departure whose window has no room, has room. -/
theorem witness_Departures :
    ((fullWindow handler).storesOut (fullWindow handler).src = false ∧ (fullWindow handler).departWait = some (.window 5)
      ∧ (fullWindow handler).ctx.trec ≠ 0)
    ∧ (handler.storesOut handler.src = false ∧ handler.departWait = none ∧ handler.ctx.trec ≠ 0)
    ∧ (fullWindow handler).tile.streams handler.src true true = false := by
  decide +kernel
/-- TrapsAndReturns: nothing outstanding, and a store outstanding; a handler, and none. -/
theorem witness_TrapsAndReturns :
    run0.curAgent = .ctx 0 ∧ run0.quiet run0.curTile 0 = true ∧ (storing run0).quiet 0 0 = false
    ∧ (storing run0).storesOut (storing run0).src = true ∧ run0.storesOut run0.src = false
    ∧ (onCtx run0 fun k => { k with trec := 0x1000 }).ctx.trec ≠ 0 ∧ run0.ctx.trec = 0
    ∧ (onCtx run0 fun k => { k with trec := 0x1000 }).storesOut run0.src = false := by
  decide +kernel

/-- A line of instructions that holds a descriptor of live-ins at its start. -/
def withLine : State := onTile inMem fun T => { T with icache := [{ ws := 0, line := 0x80_0000_1000 / 128, bytes := List.replicate 128 0 }] }
/-- WaitsSyncsAndRegions: every clause; the descriptor of RGNV stands at the first address of the mapped page. -/
theorem witness_WaitsSyncsAndRegions :
    (onCtx run0 fun k => { k with expired := true }).ctx.expired = true ∧ run0.ctx.released = false ∧ run0.ctx.expired = false
    ∧ run0.storesOut run0.src = false
    ∧ (let s := withLine.setTh { withLine.th with pc := 0x1000 }
       (match s.fetchLine ((s.pc &&& ~~~31) + (0 : BitVec 18).signExtend 64 * 32).toNat with
        | .ok (l, pa) => descOk ((l.bytes.drop (pa % 128)).take 32)
        | _ => false) = true) := by
  decide +kernel

/-- QueueRegisters: a context at q1 with room and without, at q0 with an entry and without; a context that is not q0's pusher. -/
theorem witness_QueueRegisters :
    (∀ a b, run0.tile.streams run0.src a b = false) ∧ run0.isCtx = true ∧ (run0.tile.queue 1).length < 16
    ∧ run0.released run0.th.outs run0.src .tile = true ∧ 16 ≤ ((onTile run0 fun T => { T with queues := T.queues.set 1 (List.replicate 16 0) }).tile.queue 1).length
    ∧ (onTile run0 fun T => { T with queues := T.queues.set 0 [7] }).tile.queue 0 = 7 :: [] ∧ run0.tile.queue 0 = []
    ∧ ¬ ((run0.isCtx = true ∧ (0 : BitVec 2) = 1) ∨ (run0.curAgent = .loader ∧ (0 : BitVec 2) = 0) ∨ (run0.curAgent = .storer ∧ (0 : BitVec 2) = 2))
    ∧ ¬ ((run0.isCtx = true ∧ ((1 : BitVec 2) = 0 ∨ (1 : BitVec 2) = 3)) ∨ (run0.curAgent = .loader ∧ ((1 : BitVec 2) = 2 ∨ (1 : BitVec 2) = 3))
      ∨ (run0.curAgent = .storer ∧ ((1 : BitVec 2) = 1 ∨ (1 : BitVec 2) = 3)))
    ∧ ((ldr5 0).curAgent = .loader ∧ ((ldr5 0).tile.queue 0).length < 16) := by
  decide +kernel

/-- WeirInstructions: a weir at the first and at the last place of the store; its phase 0 and 1; joined and not; the marks of a wait. -/
theorem witness_WeirInstructions :
    let s := at5 inTile
    let j := onCtx s fun k => { k with joins := k.joins.set 0 (joinWord 0 (s.ltidOf s.curTile) false 0) }
    let w1 := onTile s fun T => { T with store := [(4, 1)] }
    (objectAt s (s.x 5) 16 ∧ (s.x 5).toNat - tileBase + 16 ≤ storeSize) ∧ objectAt (at5 (inTile + 0x17_FFF0)) (inTile + 0x17_FFF0) 16
    ∧ (s.tile.weir 0).phase = false ∧ (w1.tile.weir 0).phase = true ∧ s.released s.th.outs s.src .tile = true ∧ s.tile.poisoned 0 16 = false
    ∧ s.joined 0 = none ∧ j.joined 0 = some 0 ∧ (noted s (s.x 5) 16).marked = false
    ∧ (noted (onCtx s fun k => { k with released := true }) (s.x 5) 16).marked = true
    ∧ (onCtx s fun k => { k with joins := Vector.replicate 4 (joinWord 16 9 false 0) }).joined 0 = none
    ∧ (∀ _ : Fin 4, (joinWord 16 9 false 0).getLsbD 63 = true) ∧ (byLoader s).isCtx = false
    ∧ (noted (onCtx s fun k => { k with expired := true }) (s.x 5) 16).limitPassed = true ∧ (noted s (s.x 5) 16).limitPassed = false
    ∧ s.isCtx = true ∧ s.ctx.joins[(0 : Fin 4)].getLsbD 63 = false := by
  unfold objectAt tileAccess accessFree; decide +kernel
/-- Its second part: the last arrival expected, an arrival that does not complete, one too many at ARRA = EXPA. -/
theorem witness_WeirArrivals :
    let w : Weir := Weir.ofWords 2 0
    (({ w with arra := 1 } : Weir).arra < w.expa ∧ ({ w with arra := 1 } : Weir).arra + 1 = w.expa ∧ w.expb ≤ min (w.arrb + 0) (2 ^ 32 - 1))
    ∧ (w.arra < w.expa ∧ ¬ (w.arra + 1 = w.expa ∧ w.expb ≤ min (w.arrb + 0) (2 ^ 32 - 1)))
    ∧ (({ w with arra := 2 } : Weir).arra = w.expa ∧ (({ w with arra := 2 } : Weir).apply (.thread 0)).excess = true) := by
  decide +kernel

/-- TaggedWords: a full and an empty word, at the end of the store. -/
theorem witness_TaggedWords :
    let s := at5 (inTile + 0x17_FFF8)
    objectAt s (s.x 5) 8 ∧ s.tile.poisoned ((s.x 5).toNat - tileBase) 8 = false ∧ (s.x 5).toNat - tileBase < storeSize
    ∧ nsMem (0x17_FFF8 / 8) s.tile.full = false ∧ nsMem (0x17_FFF8 / 8) (nsAdd (0x17_FFF8 / 8) s.tile.full) = true
    ∧ s.released s.th.outs s.src .tile = true := by
  unfold objectAt tileAccess accessFree; decide +kernel

/-- Mailbox: a message for another agent before one for context 0; no message. -/
theorem witness_Mailbox :
    let mine := fun (x : BitVec 128) => x.toNat / 2 ^ 8 % 2 ^ 8 == agentCode run0.curAgent || x.toNat / 2 ^ 8 % 2 ^ 8 == 0xFF
    let s := onTile (at5 inTile) fun T => { T with mail := [0x0302, 0x0002] }
    s.tile.mail = [0x0302] ++ 0x0002 :: [] ∧ ([0x0302#128].all fun y => !mine y) = true ∧ mine 0x0002 = true ∧ (0x0002#128).toNat % 2 ^ 8 ≠ 1
    ∧ tileAccess s (s.x 5) 16 ∧ (s.x 5).toNat % 8 = 0 ∧ (run0.tile.mail.all fun y => !mine y) = true
    ∧ ∀ a b, s.tile.streams s.src a b = false := by
  unfold tileAccess accessFree; decide +kernel

/-- TileAtomics: a doubleword and a word at the start of the store. -/
theorem witness_TileAtomics :
    objectAt (at5 inTile) ((at5 inTile).x 5) 8 ∧ objectAt (at5 (inTile + 4)) ((at5 (inTile + 4)).x 5) 4
    ∧ (at5 inTile).tile.poisoned (((at5 inTile).x 5).toNat - tileBase) 8 = false := by
  unfold objectAt tileAccess accessFree; decide +kernel

/-- TileAtomics: an addition of context 1 in flight at the same word; the step that ends it, and one that AMOCAS finds other than expected. -/
theorem witness_BankAtom :
    let o : AtomOp := { kind := .add, n := 8, b := 1, cmp := 0, sc := .tile, va := inTile.toNat, tag := 9, keep := true }
    let s : State := { at5 inTile with flights := [.bankAtom { run0.src with agent := .ctx 1 } o 0 0 false] }
    objectAt s (s.x 5) 8 ∧ s.bankBusy s.curTile 0 8 = true ∧ (at5 inTile).bankBusy 0 0 8 = false
    ∧ s.flights[0]? = some (.bankAtom { run0.src with agent := .ctx 1 } o 0 0 false) ∧ o.keep = true ∧ (5 : Nat) ≠ o.cmp := by
  unfold objectAt tileAccess accessFree; decide +kernel

/-- BankFunctions: an empty, a good and a malformed descriptor; an update to this tile; a slot of each type, with the first and the last
operation. -/
theorem witness_BankFunctions :
    (0 : Word).getLsbD 3 = false ∧ (0x109 : Word).getLsbD 3 = true ∧ bfMalformed 0x109 = false ∧ (0x00F : Word).getLsbD 3 = true ∧ bfMalformed 0x00F = true
    ∧ (accessFree (at5 0x40) ∧ taBad ((at5 0x40).x 5) = false ∧ taOff ((at5 0x40).x 5) < storeSize ∧ (at5 0x40).tile.hasRoom (taLtid ((at5 0x40).x 5)) = true)
    ∧ ({ Tile.reset with bfn := Tile.reset.bfn.set 0 (some (BitVec.ofNat 64 (1 + 8 + 7 * 2 ^ 8))) } : Tile).bfn[(0 : BitVec 3).toNat] =
        some (BitVec.ofNat 64 (1 + 8 + 7 * 2 ^ 8))
    ∧ ({ Tile.reset with bfn := Tile.reset.bfn.set 7 (some (BitVec.ofNat 64 (0 + 8 + 3 * 2 ^ 8))) } : Tile).bfn[(7 : BitVec 3).toNat] =
        some (BitVec.ofNat 64 (0 + 8 + 3 * 2 ^ 8))
    ∧ (3 ∈ [1, 2, 3, 4, 5, 6, 7] ∧ 0 ≤ 1 ∧ (storeSize - 4) % 4 = 0 ∧ storeSize - 4 + 4 ≤ storeSize) := by
  unfold accessFree; decide +kernel

/-- Fences: a store outstanding, none. -/
theorem witness_Fences :
    (storing run0).fenced run0.th.outs run0.src .pkg ⟨false, true, false⟩ = false ∧ run0.fenced run0.th.outs run0.src .pkg ⟨true, true, true⟩ = true
    ∧ (wideScope .tile && (⟨true, true, true⟩ : FenceSet).r) = false ∧ (wideScope .clu && (⟨true, false, false⟩ : FenceSet).r) = true := by
  decide +kernel

/-- SendingMessages: offset 64 of LTID 1, the last doubleword; the loader's NOTIFY code; a full window. -/
theorem witness_SendingMessages :
    let s := at5 0x100_0040
    let m : Msg := { src := s.src, pc := 0, addr := 0, seq := 0, first := 0, body := .put 0 [] }
    let full := onTile s fun T => { T with windows := [(1, { next := 32, msgs := List.replicate 32 m, refusals := 0, backoff := false })] }
    s.isCtx = true ∧ accessFree s ∧ taBad (s.x 5) = false ∧ (s.x 5).toNat % 2 ^ 21 % 8 = 0 ∧ (s.x 5).toNat % 2 ^ 21 < storeSize ∧ s.tile.hasRoom 1 = true
    ∧ full.tile.hasRoom 1 = false ∧ (notifyCtx 0x100_0000).isSome = true ∧ s.notifyReady s.th.outs s.src 1 = true
    ∧ taBad 0x20_0000 = true ∧ (taBad 0x100_0046 = false ∧ (0x100_0046 : Word).toNat % 2 ^ 21 % 4 ≠ 0)
    ∧ (taBad 0x118_0000 = false ∧ storeSize ≤ (0x118_0000 : Word).toNat % 2 ^ 21) ∧ notifyCtx 0x100_0046 = none
    ∧ (storing s).notifyReady (storing s).th.outs s.src 1 = false := by
  unfold accessFree; decide +kernel

/-- An open source endpoint of furrow 7 at tile 0, its sink at tile 1. -/
def source (credit : Nat) : FSource :=
  { fid := 7, ws := 0, sinkTile := 1, sinkLtid := 1, sinkEp := 0, credit := credit, accepted := 0, severed := false, closed := false }
def sink (buf : List (Word × Bool)) : FSink :=
  { fid := 7, ws := 0, srcTile := 0, srcEp := 0, depth := 4, buf := buf, severed := false, drained := false, closed := false }
/-- Furrows: every clause. -/
theorem witness_Furrows :
    let s := (at5 1).setX 6 256
    let o := onTile (at5 0) fun T => { T with fsrc := T.fsrc.set 0 (some (source 1)) }
    let k := onTile ((at5 0).setX 6 inTile) fun T => { T with fsink := T.fsink.set 0 (some (sink [(9, false)])) }
    (s.isCtx = true ∧ accessFree s ∧ (s.x 5).toNat / 2 ^ 14 = 0 ∧ s.x 6 ≠ 0 ∧ (s.x 6).toNat ≤ 256 ∧ (s.role 1).v = true ∧ (s.role 1).role = 0
      ∧ s.heldFurrow s.ws 1 0 = none ∧ (s.tileAt 1).fsink[(0 : Fin 4)] = none ∧ s.tile.fsrc[(0 : Fin 4)] = none ∧ s.routersOn 0 1 = [])
    ∧ (at5 0).x 6 = 0
    ∧ (o.tile.fsrc[(0 : Fin 4)] = some (source 1) ∧ 0 < (source 1).credit ∧ o.released o.th.outs o.src (tileScope 0 1) = true ∧ (source 1).ws = o.ws)
    ∧ (k.tile.fsink[(0 : Fin 4)] = some (sink [(9, false)]) ∧ (sink [(9, false)]).ws = k.ws ∧ objectAt k (k.x 6) 8 ∧ (k.x 6).toNat - tileBase < storeSize)
    ∧ run0.tile.fsrc[(0 : Fin 4)] = none ∧ run0.tile.fsink[(0 : Fin 4)] = none ∧ (0x100 : Word).getLsbD 8 = true := by
  unfold objectAt tileAccess accessFree; decide +kernel
/-- Furrows: the refusals of FOPEN; ends without credit, without a datum, severed and closed. -/
theorem witness_FurrowEnds :
    let s := (at5 1).setX 6 256
    let four := onTile s fun T => { T with fsrc := Vector.replicate 4 (some { source 1 with sinkLtid := 9 }) }
    ((onTile s fun T => { T with fsrc := T.fsrc.set 2 (some (source 1)) }).heldFurrow s.ws 1 0 = some 2)
    ∧ (({ s with roles := [(1, { s.role 1 with role := 2 })] } : State).role 1).role ≠ 0
    ∧ ((s.setTile 1 { s.tileAt 1 with fsink := (s.tileAt 1).fsink.set 0 (some (sink [])) }).tileAt 1).fsink[(0 : Fin 4)] ≠ none
    ∧ (four.heldFurrow s.ws 1 0 = none ∧ ∀ e : Fin 4, four.tile.fsrc[e] ≠ none)
    ∧ ((source 0).severed = false ∧ (source 0).closed = false ∧ (source 0).credit = 0)
    ∧ ({ source 1 with severed := true }).severed = true ∧ (({ source 1 with closed := true }).closed = true ∧ (source 1).severed = false)
    ∧ ({ sink [(9, false)] with severed := true }).severed = true
    ∧ ((sink []).buf = [] ∧ (sink []).severed = false ∧ ({ sink [] with closed := true }).closed = true ∧ (sink []).closed = false ∧ (sink []).drained = false)
    ∧ (({ sink [] with drained := true }).drained = true ∧ ({ sink [] with drained := true }).buf = []
      ∧ ({ sink [] with drained := true, severed := true }).severed = true) := by
  decide +kernel

/-- Bytes of words of workspace 0's entry: the word's number, the byte's place in it, the byte. -/
def wsCells (cs : List (Nat × Nat × Byte)) : Mem := cs.map fun c => (State.reset.wsAddr 0 c.1 + c.2.1, c.2.2)
/-- Workspace 0 is bound and owns the first frame of the steward's reserve, which its tables need not map; x10 names it. -/
def owned (s : State) : State :=
  { s with framesUsed := [(0, 0)], mem := wsCells [(wWSCTL, 0, 1)] }
def inFrame : State := owned (run0.setX 10 (BitVec.ofNat 64 devBase))
/-- With bytes at places of the frame. -/
def holding (s : State) (cells : List (Nat × Byte)) : State := { s with mem := (s.mem.filter fun c => c.1 < devBase) ++ cells.map fun c => (devBase + c.1, c.2) }

/-- Whether an engine's access succeeds and leaves the package nowhere. -/
def hereB (s : State) (e : EngId) (need : Need) (a n : Nat) : Bool :=
  match s.engRun e need a n with
  | .ok ps => ps.all fun p => match p.1 with
    | .node _ _ _ => false
    | _ => true
  | _ => false
theorem of_hereB {s : State} {e : EngId} {need : Need} {a n : Nat} (h : hereB s e need a n = true) :
    ∃ ps, s.engRun e need a n = .ok ps ∧ ∀ p ∈ ps, ∀ a k pa, p.1 ≠ EPlace.node a k pa := by
  unfold hereB at h
  split at h
  · rename_i ps hps
    refine ⟨ps, hps, fun p hp a k pa hk => ?_⟩
    have := List.all_eq_true.mp h p hp
    rw [hk] at this
    cases this
  · cases h

/-- SchedulerRequests, the requests: a packet in the store; a counter, a range array and a record in the workspace's frame. -/
theorem witness_SchedulerRequests :
    let e := (at5 0).setX 6 inTile
    let r := holding inFrame [(4, 2)]
    (accessFree e ∧ tileBase ≤ (e.x 6).toNat ∧ (e.x 6).toNat - tileBase + 256 ≤ storeSize ∧ e.tile.locks = [] ∧ e.tile.poison = []
      ∧ e.released e.th.outs e.src .pkg = true)
    ∧ (accessFree inFrame ∧ accessRegion (inFrame.x 10).toNat 32 = .global ∧ hereB inFrame inFrame.agentEng needAtomic (inFrame.x 10).toNat 32 = true
      ∧ (inFrame.x 10).toNat % 32 = 0 ∧ hereB inFrame inFrame.agentEng needStore (inFrame.x 10 + 16).toNat 64 = true)
    ∧ (inFrame.vnat 0 devBase 8).getD 0 / 2 ^ 33 % 2 = 0
    ∧ ((r.vnat 0 devBase 8).getD 0 / 2 ^ 33 % 2 = 1 ∧ (r.vnat 0 devBase 8).getD 0 / 2 ^ 34 % 2 = 0 ∧ r.storesOut r.src = false
      ∧ r.tile.tensorBusy r.src = false ∧ hereB r r.agentEng needAtomic (r.x 10).toNat 16 = true ∧ ((r.setX 11 0).ctx.suspSave 3).needsFrame = false) := by
  unfold accessFree; decide +kernel
/-- The queue at x5 lies on another node: its page of the fabric map names node 5. -/
def farQ : State := holding { (inFrame.setX 5 (BitVec.ofNat 64 devBase)).setX 6 inTile with
  mem := wsCells [(wWSCTL, 0, 1), (wFMBASE, 1, 1), (wFMBASE, 6, 0xF0)] } [(0x178, 0x85)]
/-- A strand that could not be saved without a frame: it has live registers. -/
def wantsFrame (s : State) : State := onCtx s fun k => { k with rgnpc := 5, live := { RegSet.empty with x := 0xFF0 } }
/-- The outcome of a save is a frame that is not there. -/
def lacks (r : State × Saved) : Bool := match r.2 with
  | .lack _ => true
  | _ => false
/-- A read at issue passes its checks where the engine's does. -/
theorem reads_now {u : State} {va n : Nat} {ps : List (EPlace × Nat)} (h : u.engRun u.agentEng needLoad va n = .ok ps) :
    readsNow u va n (if accessRegion va n = .tile then (u.engTouchAll u.agentEng ps).noteOut (outByte [(va, n)]) else u.engTouchAll u.agentEng ps)
      (u.engBytes u.agentEng ps) := fun k => by
  unfold State.readNow State.engFail
  rw [h]
/-- SchedulerRequests: the reads of a packet in the store, each of which the engine may do; a queue on another node; a suspension that finds no
frame. -/
theorem witness_PacketReads :
    let e := (inFrame.setX 5 (BitVec.ofNat 64 devBase)).setX 6 inTile
    let v := holding inFrame [(4, 2)]
    let w := wantsFrame v
    (hereB e e.agentEng needLoad (e.x 6).toNat 32 = true ∧ e.fabPlace 0 (e.x 5).toNat = .here ∧ accessRegion (e.x 6).toNat 32 = .tile)
    ∧ (accessRegion (farQ.x 5).toNat 64 = .global ∧ (match farQ.fabPlace 0 (farQ.x 5).toNat with | .node n => n | _ => 0) = 5)
    ∧ lacks (((w.setX 11 0).setCtx { (w.setX 11 0).ctx with recAddr := w.x 10 + 16 }).saveStrand w.curTile 0 ((w.setX 11 0).ctx.suspSave 3) .suspend) = true := by
  decide +kernel
/-- A split: an array whose words are all in use, and one whose index 0 holds eight elements in grains of one (15 R287). -/
theorem witness_SchedulerSplits :
    let r := holding inFrame [(2, 4), (4, 1), (8, 1), (18, 1), (22, 0xF0), (36, 8)]
    ((holding r [(0, 4)]).rangeSplit r.ws (r.x 10) 0 (r.returnQueue r.ws r.ctx.recAddr)).isNone = true
    ∧ (r.rangeSplit r.ws (r.x 10) 0 (r.returnQueue r.ws r.ctx.recAddr)).map (·.2) = some 0 := by decide +kernel

/-- Its second part: an open queue with room, full, closed; a good packet. -/
theorem witness_QueueStatus :
    let p : List Byte := List.replicate 32 0
    let q : Word := BitVec.ofNat 64 devBase
    let full := holding inFrame [(4, 1)]
    let shut := holding inFrame [(8, 0x20)]
    ((inFrame.qHead 0 q.toNat).map (fun h => (h.bad, h.state)) = some (false, 0) ∧ (inFrame.qHead 0 q.toNat).all (fun h => decide (qCount h < 2 ^ h.log2n)) = true
      ∧ inFrame.pktBad p 0 = false ∧ inFrame.wsValid (pkWsid (pktHead p)) = true
      ∧ (inFrame.vwrite 0 (devBase + 64) (p.take (pkBytes (pktHead p)))).toOption.isSome = true)
    ∧ ((full.qHead 0 q.toNat).map (fun h => (h.bad, h.state)) = some (false, 0) ∧ (full.qHead 0 q.toNat).all (fun h => decide (2 ^ h.log2n ≤ qCount h)) = true)
    ∧ (shut.qHead 0 q.toNat).map (fun h => (h.bad, h.state)) = some (false, 1) := by
  decide +kernel

/-- StrandEnds: a plain strand without a reservation; a strand whose save needs no frame. -/
theorem witness_StrandEnds :
    let s : State := { run0 with strands := [(0, { queue := 0, ws := 0, succ := [5], work := .plain, tile := 0, disp := 0, die := 0, reserve := 0 })] }
    (storing run0).storesOut (storing run0).src = true
    ∧ (s.storesOut s.src = false ∧ s.ctx.trec = 0 ∧ s.ctx.joins = Vector.replicate 4 0 ∧ (s.strand s.ws s.ctx.recAddr).isSome = true)
    ∧ (run0.tile.tensorBusy run0.src = false ∧ (run0.ctx.suspSave 4).needsFrame = false) := by
  decide +kernel

/-- StrandEnds: a stream of the strand; a save that finds no frame. -/
theorem witness_StrandHeld :
    (let z : TensorOp := { src := run0.src, instr := .zld false 0 5 6, pc := 0, a := 0, b := 0, nanov := false, cfg := [], entry := [], fenceE := 0 }
     let u := onTile run0 fun T => { T with tq := [z] }
     u.tile.streams run0.src true true = true ∧ u.streamWalks u.curTile = false
     ∧ ({ u with walks := [{ unit := 0, ws := 0, page := 1, steward := true, joined := [{ who := 10, r := true, w := false, x := false, pref := none }] }] } : State).streamWalks
         u.curTile = true)
    ∧ (let w := wantsFrame inFrame
       w.storesOut w.src = false ∧ w.tile.tensorBusy w.src = false ∧ lacks (w.saveStrand w.curTile 0 (w.ctx.suspSave 4) .suspend) = true)
    ∧ (match (inFrame.saveStrand inFrame.curTile 0 (inFrame.ctx.suspSave 4) .suspend).2 with | .done => true | _ => false) = true := by
  decide +kernel

/-- A member of a gang of the die's domain. -/
def member : State := onTile (onCtx run0 fun k => { k with gang := true }) fun T => { T with dommem := 0xFF }
/-- GridBarriers: no member; a member that has not arrived, with a release and without; one that has, its limit passed and not. -/
theorem witness_GridBarriers :
    let a := onTile member fun T => { T with arrived := 0xFF }
    let r := onTile member fun T => { T with release := T.release.set 7 (some 9) }
    ¬ (run0.tile.dommem.getLsbD 0 = true ∧ run0.ctx.gang = true)
    ∧ (member.tile.dommem.getLsbD 7 = true ∧ member.ctx.gang = true ∧ member.tile.arrived.getLsbD 7 = false ∧ member.gathered member.src 7 = true)
    ∧ (a.tile.dommem.getLsbD 7 = true ∧ a.ctx.gang = true ∧ a.tile.arrived.getLsbD 7 = true ∧ a.ctx.released = false ∧ a.ctx.expired = false)
    ∧ (r.tile.arrived.getLsbD 7 = false ∧ r.tile.release[7] = some 9)
    ∧ (storing member).gathered (storing member).src 7 = false
    ∧ ((onCtx a fun k => { k with expired := true }).ctx.expired = true ∧ (onCtx a fun k => { k with expired := true }).ctx.released = false) := by
  decide +kernel

/-- ScheduledSends: every reason and the send: slot 0 at channel 0, one piece of 32 bytes. -/
theorem witness_ScheduledSends :
    let entry : Word := 0x8000_0000_0000_0001
    let s := onTile (at5 0x100_0020) fun T => { T with xsched := [(0, entry)] }
    let w := onTile s fun T => { T with xwin := [{ ch := 0, start := 0, sent := [] }] }
    let x := onTile s fun T => { T with xwin := [{ ch := 0, start := 0, sent := [0] }] }
    accessFree w ∧ ¬ ((0x1 : Word).toNat / 2 ^ 21 % 2 ^ 3 = 0 ∧ (0x1 : Word).toNat / 2 ^ 32 = 0 ∧ (0x1 : Word).toNat % 2 ^ 21 % 32 = 0)
    ∧ (let a := (w.x 5).toNat
       (a / 2 ^ 21 % 2 ^ 3 = 0 ∧ a / 2 ^ 32 = 0 ∧ a % 2 ^ 21 % 32 = 0) ∧ a / 2 ^ 24 % 2 ^ 8 = entry.toNat / 2 ^ 33 % 2 ^ 6 + 1 ∧ a % 2 ^ 21 + 32 ≤ storeSize)
    ∧ ((sget 0 (at5 0x100_0020).tile.xsched).getD 0).getLsbD 63 = false ∧ entry.getLsbD 63 = true
    ∧ (s.tile.xwin.all fun w => w.ch != entry.extractLsb' 56 3) = true
    ∧ ((x.tile.xwin.find? fun w => w.ch == entry.extractLsb' 56 3).map (fun w => nsMem 0 w.sent) = some true)
    ∧ ((w.tile.xwin.find? fun w => w.ch == entry.extractLsb' 56 3).map (fun w => nsMem 0 w.sent) = some false)
    ∧ w.tile.locks = [] ∧ w.tile.poison = [] := by
  unfold accessFree; decide +kernel

/-- A tensor table entry that is `bs` and then zeros. -/
def entryBytes (bs : List Byte) : List Byte := bs ++ List.replicate (128 - bs.length) 0
/-- A BF16 tensor of rank 1, and the tables of tile 0 that hold it as entries 0 and 1. -/
def bf16Entry : List Byte := entryBytes [0x10, 0, 0, 0x80]
def twoEntries : State := onTile (at5 0x1_0000) fun T => { T with tt := [{ ws := 0, tid := 0, bytes := bf16Entry }, { ws := 0, tid := 1, bytes := bf16Entry }] }
/-- The entries that a tensor copy of entries 0 and 1 finds. -/
def copies (s : State) : Option (Option (List Byte × List Byte)) := match s.copyEntries 0 0 1 with
  | .ok r => some r.2
  | _ => none
/-- The entry that a read of the tensor table finds. -/
def entryAt (s : State) (tid : BitVec 10) : Option (List Byte) := match s.ttRead s.who s.curTile s.ws tid with
  | .ok r => r.2
  | _ => none
/-- What a read of CP_GO finds: the reason of its refusal, the channel, how much there is to copy, whether there are entries. -/
def plan (s : State) (src dst len opt : Word) : Option (Option Nat × Option (Fin 4) × Nat × Bool) :=
  let u := s.setTh { s.th with cp := { s.th.cp with src := src, dst := dst, len := len, opt := opt } }
  match (if opMode opt then u.copyEntries u.ws (src.setWidth 10) (dst.setWidth 10) else .ok (u, none)) with
  | .ok (w, es) => some (w.tile.refuses w.th.cp es, w.tile.idleChan, copyCount w.th.cp es, es.isSome)
  | _ => none
/-- CopyLaunch: a linear copy of 64 bytes, of none; a tensor copy of nothing and of sixteen elements; an update outside the tile store refused; an
entry that cannot be read. -/
theorem witness_CopyPlans :
    (plan run0 inTile (inTile + 0x1000) 64 0 == some (none, some 0, 64, false)) = true
    ∧ (plan run0 inTile (inTile + 0x1000) 0 0 == some (none, some 0, 0, false)) = true
    ∧ (plan twoEntries 0 1 64 1 == some (none, some 0, 0, true)) = true
    ∧ (let b := entryBytes ([0x10, 0, 0, 0x80] ++ List.replicate 20 0 ++ [16])
       let s := onTile twoEntries fun T => { T with tt := [{ ws := 0, tid := 0, bytes := b }, { ws := 0, tid := 1, bytes := b }] }
       plan s 0 1 64 1 == some (none, some 0, 16, true)) = true
    ∧ (plan run0 inTile 0x1000 64 4 == some (some 3, some 0, 64, false)) = true
    ∧ (plan twoEntries 0 2 64 1 == some (some 4, some 0, 64, false)) = true := by
  decide +kernel
/-- CopyControl: a running copy of the workspace on channel 3, none; both words of CPSTAT; the entries of a TCOPY. -/
theorem witness_CopyControl :
    let s := onTile (at5 0x7) fun T => { T with chans := T.chans.set 3 { Chan.reset with st := .running, xid := 7 } }
    (s.tile.chans[(3 : Fin 4)].xid = (s.x 5).setWidth 16 ∧ s.tile.chans[(3 : Fin 4)].owner.ws = s.ws ∧ s.tile.chans[(3 : Fin 4)].st = .running
      ∧ ∀ d : Fin 4, d < 3 → ¬ (s.tile.chans[d].xid = (s.x 5).setWidth 16 ∧ s.tile.chans[d].owner.ws = s.ws ∧ s.tile.chans[d].st = .running))
    ∧ (∀ c : Fin 4, ¬ ((at5 7).tile.chans[c].xid = ((at5 7).x 5).setWidth 16 ∧ (at5 7).tile.chans[c].owner.ws = 0 ∧ (at5 7).tile.chans[c].st = .running))
    ∧ (s.x 5).getLsbD 8 = false ∧ (s.x 5).toNat % 4 = (3 : Fin 4).val ∧ (0x11F : Word).getLsbD 8 = true
    ∧ (0x1_0000 : Word).toNat / 2 ^ 10 % 2 ^ 6 = 0 ∧ (0x1_0000 : Word).toNat / 2 ^ 26 = 0
    ∧ copies twoEntries = some (some (bf16Entry, bf16Entry)) ∧ (entOf bf16Entry).malformed = false
    ∧ tensorPair (entOf bf16Entry) (entOf bf16Entry) = none := by
  decide +kernel

/-- The vector statements: a context, and a well-formed instruction for each set of types. -/
theorem witness_Vectors : run0.isCtx = true ∧ (Instr.vadd false 0 .bf16 1 2 3).wf = true ∧ (Instr.vand false 0 .int8 1 2 3).wf = true
    ∧ (Instr.vcmpLtu false 0 .int32 1 2 3).wf = true ∧ (Instr.viota false 0 .int16 1 2).wf = true ∧ (Instr.vexp2 false 0 .fp32 1 2).wf = true
    ∧ (Instr.vdot false 0 .int8 1 2 3).wf = true ∧ ETy.isInt .int8 = true ∧ (Instr.vscan false 0 .int8 1 2 3).wf = true := by
  decide +kernel

/-- VectorMemory: the 128 bytes at the end of the store; a stride of 4; lanes by offsets; a global run in the mapped page. -/
theorem witness_VectorMemory :
    let s := at5 (inTile + 0x17_FF80)
    let g := inMem
    (accessFree s ∧ s.isCtx = true ∧ s.tile.locks = [] ∧ s.tile.poison = []
      ∧ (List.range 32).all (fun j => decide (tileBase ≤ (s.x 5 + s.x 0 + BitVec.ofNat 64 (j * 4)).toNat
          ∧ (s.x 5 + s.x 0 + BitVec.ofNat 64 (j * 4)).toNat - tileBase + 4 ≤ storeSize)) = true)
    ∧ ((List.range 32).all (fun j => decide (tileBase ≤ (s.x 5 + BitVec.ofNat 64 j * 4).toNat ∧ (s.x 5 + BitVec.ofNat 64 j * 4).toNat - tileBase + 4 ≤ storeSize)) = true)
    ∧ ((List.range 32).all (fun j => decide (tileBase ≤ (s.x 5 + BitVec.ofNat 64 (elem 32 (s.v 2) j)).toNat
          ∧ (s.x 5 + BitVec.ofNat 64 (elem 32 (s.v 2) j)).toNat - tileBase + 4 ≤ storeSize)) = true)
    ∧ (g.tile.locks = [] ∧ (List.range 32).all (fun j => decide (accessRegion (g.x 5 + g.x 0 + BitVec.ofNat 64 (j * 4)).toNat 4 = .global)) = true
      ∧ okIs (g.reachPieces needLoad ((vSpans (g.vElems 0 .fp32 (g.x 5 + g.x 0) 4)).flatMap fun sp => lineChunks sp.1 sp.2.1 sp.2.2)) (piece 128) = true
      ∧ okIs (g.reachPieces needStore ((vSpans (g.vElems 0 .fp32 (g.x 5 + g.x 0) 4)).flatMap fun sp => lineChunks sp.1 sp.2.1 sp.2.2)) (piece 128) = true
      ∧ g.atomAhead (piece 128) = false ∧ g.storeFull = false) ∧ (storing16 s).storeFull = true ∧ s.storeFull = false := by
  unfold accessFree; decide +kernel

/-- Panel `z` of tile 0 configured. -/
def panelAs (s : State) (z : ZReg) (c : PCfg) : State := onTile s fun T => { T with panels := T.panels.set z.toNat (Panel.reset.setCfg c) }
/-- PanelInstructions: every clause. -/
theorem witness_PanelInstructions :
    let f32 : PFmt := { fmt := 0, w32 := true }
    let i32 : PFmt := { fmt := 6, w32 := true }
    let i8 : PFmt := { fmt := 6, w32 := false }
    let m := panelAs (panelAs (panelAs run0 1 { f := i32, rows := 96, cols := 48 }) 2 { f := i8, rows := 96, cols := 192 }) 3 { f := i8, rows := 48, cols := 192 }
    let z := panelAs run0 2 { f := f32, rows := 1, cols := 48 }
    run0.tile.tq.length < 8 ∧ (run0.zcfg 0).cols ≤ ({ fmt := 0, w32 := false } : PFmt).capacity
    ∧ ({ fmt := 0, w32 := false } : PFmt).capacity < (m.zcfg 2).cols
    ∧ ((z.zcfg 2).f = f32 ∧ (z.zcfg 2).rows ≠ 0 ∧ (z.zcfg 2).cols ≠ 0 ∧ (m.zcfg 1).f = i32) ∧ (run0.zcfg 0).f ≠ f32
    ∧ ((m.zcfg 1).cols ≤ 96 ∧ (z.zcfg 2).rows ≤ (z.zcfg 2).f.capacity)
    ∧ (m.acquiring = false ∧ m.tile.streams m.src true true = false ∧ (mmaK .int8 .int8 .i32w).isSome = true ∧ (m.zcfg 2).f = i8 ∧ (m.zcfg 3).f = i8
      ∧ (m.zcfg 1).f = i32 ∧ (m.zcfg 1).rows = (m.zcfg 2).rows ∧ (m.zcfg 1).cols = 48 ∧ (m.zcfg 3).rows ≤ 48 ∧ (1 : ZReg) ≠ 2 ∧ (1 : ZReg) ≠ 3)
    ∧ mmaK .bf16 .int8 .f32 = none
    ∧ ((run0.zcfg 0).f = (entOf bf16Entry).f ∧ entryAt twoEntries 0 = some bf16Entry ∧ twoEntries.acquiring = false
      ∧ (entOf bf16Entry).f.block = none ∧ (entOf bf16Entry).f.grain = 1)
    ∧ (1024 : Word).toNat / 1024 ≠ 0 ∧ ((panelAs twoEntries 2 { f := i8, rows := 1, cols := 1 }).zcfg 2).f ≠ (entOf bf16Entry).f
    ∧ 8 ≤ (onTile run0 fun T => { T with tq := List.replicate 8 { src := run0.src, instr := .zzero false 0, pc := 0, a := 0, b := 0, nanov := false, cfg := [], entry := [], fenceE := 0 } }).tile.tq.length := by
  decide +kernel
/-- An instruction at the head of tile 0's tensor queue, with the words of its panels' configurations. -/
def queuedOp (i : Instr) (cfg : List PCfg) : TensorOp :=
  { src := run0.src, instr := i, pc := 0, a := 0, b := 0, nanov := false, cfg := cfg.map fun c => (Panel.reset.setCfg c).cfg, entry := [], fenceE := 0 }
/-- PanelMoves: room and none; at the head of the queue a ZMOVV with its bytes and a VMOVZ of a resident strand, each part of row 95 and a position
that names none. -/
theorem witness_PanelMoves :
    let mv : TensorOp := { queuedOp (.zmovv false 0 1 2) [] with entry := List.replicate 128 7, a := 95 }
    let vm := queuedOp (.vmovz false 1 0 2) []
    let s := onTile run0 fun T => { T with tq := [mv, vm] }
    run0.tile.tq.length < 8 ∧ 8 ≤ (onTile run0 fun T => { T with tq := List.replicate 8 vm }).tile.tq.length
    ∧ (s.tileAt 0).tq = mv :: [vm] ∧ mv.entry.length = 128 ∧ s.resident vm.src = some 0 ∧ (s.tile.panel 0).poison = []
    ∧ (95 : Word).toNat % 128 < 96 ∧ (95 : Word).toNat / 256 % 4 = 0 ∧ (0x15F : Word).toNat / 256 % 4 = 1
    ∧ (0x25F : Word).toNat / 256 % 4 = 2 ∧ 96 ≤ (0x60 : Word).toNat % 128 ∧ (0x300 : Word).toNat / 256 % 4 = 3 := by
  decide +kernel

/-- TensorResults: one queued instruction for each clause. -/
theorem witness_TensorResults :
    let f32 : PFmt := { fmt := 0, w32 := true }
    let i32 : PFmt := { fmt := 6, w32 := true }
    let i8 : PFmt := { fmt := 6, w32 := false }
    let legal (c : PCfg) : Bool := decide (c.rows ≤ 96) && decide (c.cols ≤ c.f.capacity)
    let mma := queuedOp (.mma false .int8 .int8 3 2 1 .i32w) [{ f := i32, rows := 96, cols := 48 }, { f := i8, rows := 96, cols := 192 }, { f := i8, rows := 48, cols := 192 }]
    let scl := queuedOp (.zscl false 1 2) [{ f := i32, rows := 96, cols := 48 }, { f := f32, rows := 1, cols := 48 }]
    let s := onTile run0 fun T => { T with tq := [mma] }
    ((s.tileAt 0).tq = mma :: [] ∧ s.fenceHolds 0 mma.src mma.fenceE = false ∧ (s.tile.panel 1).poison = [])
    ∧ (mmaK .int8 .int8 .i32w = some 192 ∧ legal (mma.pcfg 1) = true ∧ legal (mma.pcfg 2) = true ∧ (mma.pcfg 2).rows ≤ 48)
    ∧ (legal (scl.pcfg 0) = true ∧ (scl.pcfg 0).f.bits = 32 ∧ legal (scl.pcfg 1) = true ∧ 0 < (scl.pcfg 1).rows ∧ 0 < (scl.pcfg 1).cols)
    ∧ (scl.pcfg 0).cols ≤ 96 ∧ (scl.pcfg 1).rows ≤ (scl.pcfg 1).f.capacity
    ∧ (mma.pcfg 1).cols ≤ ({ fmt := TFmt.int8.code, w32 := false } : PFmt).capacity := by
  decide +kernel

/-- RoleInstructions: every clause, at the entry of LTID 1. -/
theorem witness_RoleInstructions :
    let e : RoleEntry := { run0.role 1 with owner := 0 }
    let with' (f : RoleEntry) : State := { run0 with roles := [(1, f)] }
    let noticed : State := { with' { e with cstate := 2, nid := 5 } with notices := [(1, { nid := 5, why := 0, count := 2, wss := [0], cleared := false })] }
    let last : State := { with' { e with cstate := 2, nid := 5 } with notices := [(1, { nid := 5, why := 0, count := 1, wss := [0], cleared := false })] }
    run0.tile.streams run0.src true true = false
    ∧ ((1 : Word).toNat / 4096 = 0 ∧ e.v = true ∧ (with' e).role 1 = e ∧ e.owner = run0.ws ∧ e.cstate.toNat < 2 ∧ e.lse = false)
    ∧ (run0.role 0xFFF).v = false ∧ ((with' { e with owner := 9 }).role 1).owner ≠ run0.ws ∧ 2 ≤ ((with' { e with cstate := 3 }).role 1).cstate.toNat
    ∧ (((with' { e with lse := true }).role 1).lse = true ∧ ((with' { e with lse := true }).role 1).cstate ≠ 1)
    ∧ (((with' { e with lse := true, cstate := 1 }).role 1).xwin = false ∧ (run0.die (e.ptile.toNat / 256)).ctl.getLsbD 12 = true
      ∧ (run0.die (e.ptile.toNat / 256)).posted < min ((run0.die (e.ptile.toNat / 256)).ctl.toNat / 2 ^ 8 % 2 ^ 4) 8)
    ∧ ((noticed.role 1).cstate = 2 ∧ (sget 1 noticed.notices).map (fun x => (x.nid, x.count)) = some ((noticed.role 1).nid, 2) ∧ BitVec.ofNat 8 (0x5001 / 4096) = (noticed.role 1).nid)
    ∧ (last.furrowHeld (last.role 1) = false ∧ (sget 1 last.notices).map (fun x => x.count) = some 1)
    ∧ (({ last with roles := [(1, { e with cstate := 3, nid := 5 })] } : State).role 1).cstate ≠ 2
    ∧ sget 1 run0.notices = none
    ∧ sget 1 (onTile run0 fun T => { T with roleCache := [(1, 0)] }).tile.roleCache = some 0 ∧ 0x1001 / 8192 = 0 ∧ 0x1001 / 4096 % 2 = 1 ∧ 0x2000 / 8192 ≠ 0 := by
  decide +kernel

/-! ## Serving -/

/-- An MGD of one block, one slot, one layer at the start of the frame, with control words at 0x1000 and a prefix table at 0x2000. -/
def mgdCells : List (Nat × Byte) := [(33, 1), (35, 1), (48, 1), (51, 1), (52, 1), (54, 4), (57, 0x10), (62, 0xF0), (65, 0x20), (70, 0xF0)]
/-- A decode-attention descriptor at 0x100 of the frame: one slot, list at 0x200, entries 0 and 1. -/
def dattnCells : List (Nat × Byte) := [(0x106, 0xF0), (0x109, 2), (0x10E, 0xF0), (0x110, 1), (0x114, 1), (0x11A, 1)]
/-- The record of a child of request 1 at 0x400. -/
def childCells : List (Nat × Byte) := [(0x400, 2), (0x413, 1), (0x416, 1), (0x431, 6), (0x436, 0xF0), (0x449, 7), (0x44E, 0xF0), (0x45C, 1)]
/-- A bound group, full service; the slot of its MGD is the frame's first. -/
def grp : Group :=
  { pa := devBase, ws := 0, mgd := BitVec.ofNat 64 devBase, cfg := ((List.range 128).map fun i => ((mgdCells.find? fun c => c.1 == i).map (·.2)).getD 0),
    step := 0, opn := false, sdrop := 0, last := 0, ihead := 0, free := [], reclaim := [], slots := [], quar := [], leaving := [], faulted := false }
def rec (state slot : Nat) : Req :=
  { gid := devBase, w := [BitVec.ofNat 64 (1 + state * 2 ^ 32 + slot * 2 ^ 38), 0, BitVec.ofNat 64 (2 ^ 24 + 2 ^ 48), 0, 0, 0, BitVec.ofNat 64 (devBase + 0x500),
      BitVec.ofNat 64 (2 ^ 39), 0, BitVec.ofNat 64 (devBase + 0x580), 1, 0, 0, 0, 0, 0], mark := 0, evict := none, reserve := none, new := false, smp := false }
def serving : State :=
  { holding (inFrame.setX 11 (BitVec.ofNat 64 (devBase + 0x100))) (mgdCells ++ dattnCells ++ childCells ++ [(0x1010, 2), (0x201C, 0xC0)]) with
    fullService := true, groups := [grp], reqs := [rec 2 0x3FF] }
/-- Queries and outputs: BF16 in 128 columns. -/
def qoEntry : List Byte := entryBytes ([0x10, 0, 0, 0x80] ++ List.replicate 20 0 ++ [128])
def serving2 : State := onTile serving fun T => { T with tt := [{ ws := 0, tid := 0, bytes := qoEntry }, { ws := 0, tid := 1, bytes := qoEntry }] }

/-- Whether an instruction finds its group. -/
def finds (s : State) (mgd : Word) : Bool := match s.findGroup s.ws mgd with
  | .ok _ => true
  | .error _ => false
/-- ServingInstructions: the conditions of issue; a bound group; none; reduced service; operands. -/
theorem witness_ServingInstructions :
    let s := serving
    let gone : State := { s with groups := [] }
    accessFree s ∧ s.launchHeld = false ∧ s.storesOut s.src = false ∧ accessRegion (s.x 10).toNat 128 = .global
    ∧ hereB s s.agentEng needLoad (s.x 10).toNat 128 = true ∧ (s.x 10).toNat % 128 = 0 ∧ s.fabPlace s.ws.toNat 0 = .here
    ∧ s.fullService = true ∧ finds s (s.x 10) = true ∧ finds gone (s.x 10) = false ∧ run0.fullService = false
    ∧ (devBase + 0x20) % 16 = 0 ∧ devBase + 0x20 < globalEnd ∧ (match s.vread 0 (devBase + 0x20) 16 with | .ok (_, p) => !p | .error _ => false) = true
    ∧ (tileBase ≤ (inTile : Word).toNat ∧ inTile.toNat - tileBase + 512 ≤ storeSize ∧ inTile.toNat % 64 = 0 ∧ s.tile.locks = [] ∧ s.tile.poison = []) := by
  unfold accessFree; decide +kernel
/-- Its last clause: the descriptor of a DATTN. -/
theorem witness_Dattn :
    let s := serving2
    let desc := s.engBytes s.agentEng (match s.engRun s.agentEng needLoad (s.x 11).toNat 64 with | .ok ps => ps | _ => [])
    let d := leNat desc
    s.released s.th.outs s.src .pkg = true ∧ hereB s s.agentEng needLoad (s.x 11).toNat 64 = true ∧ finds s (daMGD d) = true
    ∧ entryAt s (daQTID d) = some qoEntry ∧ entryAt s (daOTID d) = some qoEntry ∧ daBad d grp.nlayer = false
    ∧ daTensorBad qoEntry = false ∧ daNSL d = 1 ∧ (match s.vread 0 (daSLIST d) 2 with | .ok (_, p) => !p | .error _ => false) = true
    ∧ (s.die 0).dattn.length < 16 := by
  decide +kernel

/-- ServingEffects: the group closed and open, requests in each state, blocks held and not, a fork that succeeds. -/
theorem witness_ServingEffects :
    let v : Srv := { s := serving, g := grp, bad := none }
    let o : Srv := { v with g := { grp with opn := true } }
    let w : Srv := { v with s := { serving with reqs := [rec 1 0x3FF] } }
    let r : Srv := { v with s := { serving with reqs := [rec 3 0x3FF] } }
    let b : Srv := { w with s := { w.s with reqs := [{ rec 1 0x3FF with w := lset (rec 1 0x3FF).w 6 0 }] } }
    let a := devBase + 0x400
    v.g.opn = false ∧ o.g.opn = true ∧ (devBase % 64 = 0 ∧ devBase < globalEnd ∧ (List.range 512).all (fun sl => !(o.slotHeld sl).isSome || (o.rdIn 0 (devBase + 8 * sl) 8).isSome) = true)
    ∧ (devBase + 1) % 64 ≠ 0
    ∧ (v.find 1 = some 0 ∧ (v.req 0).w.length = 16 ∧ (v.req 0).f rqSTATE = 2) ∧ (w.find 1 = some 0 ∧ (w.req 0).waiting = true ∧ (2 ^ 32 + 1) / 2 ^ 33 = 0)
    ∧ ((w.req 0).f rqNBLK = 1 ∧ (w.blockAt (w.req 0) 0).isSome = true ∧ b.find 1 = some 0 ∧ (b.req 0).waiting = true ∧ (b.req 0).f rqNBLK = 1
      ∧ b.blockAt (b.req 0) 0 = none)
    ∧ (r.find 1 = some 0 ∧ (r.req 0).f rqSTATE = 3 ∧ (r.req 0).f rqSLOT = 0x3FF) ∧ v.find 7 = none
    ∧ (v.look 1).1 = none ∧ (v.look 0).1.isSome = true ∧ v.g.nblks ≤ 1 ∧ 0 < v.g.nblks ∧ (v.ctl? 0).map (fun n => n / 2 ^ 128 % 2 ^ 16) = some 2
    ∧ (v.fork 0 a).2 = 0 := by
  decide +kernel


/-! ## Events -/

/-- Something in flight; a context that waits. -/
def flying (s : State) (fs : List Flight) : State := { s with flights := fs }
def waits (w : Wait) : State := onCtx run0 fun k => { k with st := .waiting w }
/-- A plain trap. -/
def trap4 : Trap := { code := 4, tpc := 0, taddr := 0, tinfo := 0, resume := .at 0 }
/-- Two Ready contexts and none that runs; the same with context 0 running under a limit. -/
def readyPair : State := onTile State.reset fun T => { T with ctx := (T.ctx.set 0 { Context.reset with st := .ready }).set 1 { Context.reset with st := .ready } }
def limited : State := onTile run0 fun T => { T with ctx := (T.ctx.set 0 { T.ctx[0] with runlimit := 5 }).set 1 { Context.reset with st := .ready } }
/-- A record on the resume list of die 0. -/
def resumed : State := { inFrame with
  dies := State.reset.dies.set 0 { State.reset.dies[0] with resume := [{ record := BitVec.ofNat 64 devBase, queue := 0, ws := 0, prio := 0 }] } }

/-- AgentEvents: every clause, at context 0 of tile 0; the pickup of a record that the workspace's frame holds. -/
theorem witness_AgentEvents :
    let q : Retry := { queue := BitVec.ofNat 64 devBase, ws := 0, packet := List.replicate 32 0, since := 0, addr := 0x1000, ltid := 1 }
    let later (s : State) : State := { s with tick := 1 }
    ((flying (waits .reply) [.reply run0.src 5 7]).flights[0]? = some (.reply run0.src 5 7) ∧ run0.src.tile = 0 ∧ run0.src.agent = .ctx 0
      ∧ (waits .reply).ctx.inc = run0.src.inc ∧ (waits .reply).ctx.st = .waiting .reply
      ∧ (waits .reply).ctx.evict = none ∧ (onCtx (waits .reply) fun k => { k with evict := some 1 }).ctx.evict ≠ none ∧ (waits .reply).ctx.pending = none)
    ∧ (waits (.wfi [])).ctx.st = .waiting (.wfi [])
    ∧ (onCtx (waits (.barrier 7)) fun k => { k with gbtimeout := 1 }).ctx.gbtimeout ≠ 0
    ∧ (waits (.phase 0 false true)).ctx.st = .waiting (.phase 0 false true)
    ∧ (waits .frame).ctx.retryTick < (later (waits .frame)).tick
    ∧ (let s := onCtx (waits .trap) fun k => { k with pending := some trap4 }
       s.ctx.st = .waiting .trap ∧ s.ctx.pending = some trap4 ∧ s.quiet 0 0 = true)
    ∧ (let k := readyPair.tile.ctx[(0 : Fin 8)]
       k.st = .ready ∧ k.pending = none ∧ k.evict = none ∧ (k.preemptNeed 1 (readyPair.tile.mayFlag (readyPair.srcOf 0 0))).needsFrame = false)
    ∧ (let s := onTile readyPair fun T => T.stopIssue 0 1
       let k := s.tile.ctx[(0 : Fin 8)]
       k.st = .ready ∧ k.pending = none ∧ k.evict = some 1 ∧ s.tile.tensorBusy (s.srcOf 0 0) = false ∧ s.storesOut (s.srcOf 0 0) = false
       ∧ (k.preemptSave 1).needsFrame = false)
    ∧ (readyPair.tile.run = none ∧ (0 : Nat) = (readyPair.tile.last.val + 1 + 0) % 8 ∧ readyPair.tile.ctx[(0 : Fin 8)].st = .ready
      ∧ readyPair.tile.ctx[(0 : Fin 8)].evict = none)
    ∧ (limited.tile.run = some 0 ∧ limited.tile.ctx[(0 : Fin 8)].runlimit ≠ 0 ∧ limited.tile.ctx[(1 : Fin 8)].st = .ready)
    ∧ (let T := (onTile run0 fun T => { T with mail := List.replicate 63 0, mailWait := [1, 2] }).tile
       T.mailWait = 1 :: [2] ∧ T.mail.length < 64)
    ∧ (let s := onTile inFrame fun T => { T with ldr := { T.ldr with st := .loading, goImg := BitVec.ofNat 64 devBase, goLen := 64 } }
       (s.tile.side .loader).st = .loading
       ∧ (match s.engAll { tile := 0, who := whoOf 0 8, ws := 0, locks := false } needLoad (chunksOf devBase (loadLen 64)) [] with
          | .done ps none _ => !ps.isEmpty
          | _ => false) = true)
    ∧ (let s := onTile run0 fun T => { T with ldr := { T.ldr with st := .running, pending := some trap4 } }
       (s.tile.side .loader).st = .running ∧ (s.tile.side .loader).pending = some trap4)
    ∧ (let s : State := later { inFrame with fqRetry := [q] }
       s.fqRetry[0]? = some q ∧ q.since < s.tick ∧ (s.enqueue q.ws q.queue q.packet).2 = 0
       ∧ ((holding s [(4, 1)]).enqueue q.ws q.queue q.packet).2 = 1)
    ∧ (let r : Resumable := { record := BitVec.ofNat 64 devBase, queue := 0, ws := 0, prio := 0 }
       resumed.powered = true ∧ resumed.dies[(0 : Fin 4)].queues = [] ∧ resumed.dies[(0 : Fin 4)].heads = [] ∧ resumed.dies[(0 : Fin 4)].resume = [r]
       ∧ resumed.wsValid 0 = true ∧ resumed.pickTile 0 0 = some 1 ∧ (resumed.tileAt 1).freeCtxs.head? = some 0
       ∧ ((resumed.setDie 0 { resumed.die 0 with resume := [] }).readRecord 0 0 r.record).any (fun x => x.arg == [] && x.argBad == [] && x.frame == 0) = true
       ∧ resumed.ofFailedGang r = false) := by
  decide +kernel

/-- Tile 0's window to LTID 1, with the messages in it. -/
def sent (b : List MsgBody) : State := onTile run0 fun T => { T with
  windows := [(1, { next := b.length, msgs := b.mapIdx fun j x => { src := run0.src, pc := 0, addr := 0, seq := j, first := j, body := x }, refusals := 0, backoff := false })] }
/-- Message `seq` at its destination, tile 1. -/
def here1 : Worm := { path := [1], hop := 1, view := [], drains := false, bad := [] }
def pkt1 (seq : Nat) : Flight := .pkt 0 1 0 1 seq here1
/-- A copy within tile 0's store on channel 2. -/
def copying (c : Chan) : State := onTile run0 fun T => { T with chans := T.chans.set 2 c }
def copyOf (len : Nat) : Chan := { Chan.reset with st := .running, srcA := inTile, dstA := inTile + 0x17_FFC0, len := len }

/-- TrafficEvents: an expected message in a good binding, an old binding, one out of order, a full mailbox; a refusal, an acceptance, a replay, a limit; a
datum, a credit; a piece at the end of the store, the ends of copies; a committed slot. -/
theorem witness_TrafficEvents :
    let s := flying (sent [.put 0 [1], .notify 0 0 0 0]) [pkt1 0]
    let e := s.role 1
    let moved : State := { s with roles := [(1, { e with gen := 1 })] }
    let k : State := { onTile run0 fun T => { T with fsink := T.fsink.set 3 (some (sink [(9, false)])), fsrc := T.fsrc.set 3 (some (source 0)) } with
      flights := [.fdatum run0.src 7 0 3 (some 5) here1, .fcredit 7 0 3] }
    let back := onTile s fun T => { T with windows := T.windows.map fun w => (w.1, { w.2 with backoff := true }) }
    let x : ExSend := { src := run0.src, pc := 0, slot := 5, entry := 1, bytes := List.replicate 32 0 }
    (s.flights[0]? = some (pkt1 0) ∧ (s.tile.window 1).msgs.find? (·.seq == 0) = some { src := run0.src, pc := 0, addr := 0, seq := 0, first := 0, body := .put 0 [1] }
      ∧ (e.v = true ∧ e.ptile.toNat = 1 ∧ e.gen = 0 ∧ e.cstate ≠ 3 ∧ e.role = 0) ∧ s.expected 0 1 = 0)
    ∧ ((moved.role 1).gen ≠ 0 ∧ moved.expected 0 1 ≤ 0)
    ∧ ((flying s [pkt1 1]).flights[0]? = some (pkt1 1) ∧ (s.tile.window 1).msgs.any (·.seq == 1) = true ∧ s.expected 0 1 < 1)
    ∧ (let f : State := { flying (s.setTile 1 { s.tileAt 1 with mail := List.replicate 60 0 }) [pkt1 1] with expect := [(1, 1)] }
       f.expected 0 1 = 1 ∧ ((f.tile.window 1).msgs.find? (·.seq == 1)).map (·.body) = some (.notify 0 0 0 0) ∧ 60 ≤ (f.tileAt 1).mail.length)
    ∧ (back.tile.window 1).backoff = true ∧ back.windowExpired 0 1 = false
    ∧ ({ back with tick := 1000 } : State).windowExpired 0 1 = true ∧ ({ back with tick := 999 } : State).windowExpired 0 1 = false
    ∧ (flying s [.nack 0 1 0 .moved, .accept 0 1 0]).flights[1]? = some (.accept 0 1 0)
    ∧ ((k.flights.take 0).any (Flight.ofFurrow 7) = false ∧ k.tile.fsink[(3 : Fin 4)] = some (sink [(9, false)]) ∧ (sink [(9, false)]).fid = 7
      ∧ k.tile.fsrc[(3 : Fin 4)] = some (source 0) ∧ (source 0).fid = 7)
    ∧ (let s := copying (copyOf 64)
       let c := s.tile.chans[(2 : Fin 4)]
       (c.st = .running ∧ c.over = false ∧ c.stage = none ∧ c.srcE = [] ∧ c.half = [] ∧ c.opt = 0 ∧ s.fenceHoldsCopy 0 c = false ∧ s.tile.poison = [])
       ∧ tileBase ≤ c.srcA.toNat + c.next ∧ c.srcA.toNat - tileBase + 64 ≤ storeSize ∧ tileBase ≤ c.dstA.toNat ∧ c.dstA.toNat - tileBase + min 64 (c.len - c.next) ≤ storeSize)
    ∧ (let c : Chan := { copyOf 64 with next := 64 }
       c.st = .running ∧ c.over = true ∧ c.inAir = 0 ∧ c.stage = none ∧ c.recast = false ∧ c.stop = 0)
    ∧ (let c : Chan := { copyOf 64 with st := .posting, postCmb := false, postQ3 := false }
       let d : Chan := { c with postCmb := true }
       c.st = .posting ∧ c.postCmb = false ∧ c.postQ3 = false ∧ d.postCmb = true ∧ (copying d).tile.mail.length < 60)
    ∧ (let T := (onTile run0 fun T => { T with xsend := [x] }).tile
       T.xsend.find? (·.slot == 5) = some x ∧ T.hasRoom (x.entry.toNat % 2 ^ 12) = true) := by
  decide +kernel

/-- TrafficEvents: a message on a hop of its way, and one whose tail drains. -/
theorem witness_Hops :
    (run0.advance { here1 with path := [0, 1] }).isSome = true ∧ (run0.advance { here1 with path := [5, 4, 3] }).isSome = true
    ∧ run0.advance here1 = none ∧ here1.path.length ≤ 1 ∧ here1.bad = [] := by
  decide +kernel

/-- The first address of HBM. -/
def hbm0 : Nat := 0x80_0000_0000
def src0 : Src := { tile := 0, agent := .ctx 0, inc := 0, ws := 0 }
/-- A table of workspace 0 in HBM with one leaf of 1 GiB. -/
def tabled : State := { run0 with
  mem := [(hbm0 + 0x2000, 1), (hbm0 + 0x2001, 0x30), (hbm0 + 0x2004, 0x80), (hbm0 + 0x3000, 0x1F), (hbm0 + 0x3004, 0x80)]
    ++ wsCells [(wPTROOT, 1, 0x20), (wPTROOT, 4, 0x80)] }
def walking (steward : Bool) (j : List Joiner) (s : State) : State := { s with walks := [{ unit := 0, ws := 0, page := 1, steward := steward, joined := j }] }
/-- MemoryEvents: every clause, at the first sector of HBM. -/
theorem witness_MemoryEvents :
    let j : Joiner := { who := 9, r := true, w := false, x := false, pref := none }
    let fs : List Flight := [.regist src0 0 (hbm0 / 8), .ack src0 none, .fill src0 0 0 hbm0 128 (some []) false, .fwd src0 0 0 hbm0 8 (some []) false [] [hbm0 / 8],
      .answer src0 0 [1] false, .leave 0, .ifill src0 hbm0 false, .fabWrite src0 0 1 hbm0 [1] 0 0]
    let l : L1Word := { st := .registered, bytes := List.replicate 8 0, poison := false, ws := 0, sealed := false, merging := none }
    let r := onTile (flying run0 fs) fun T => { T with l1 := [(hbm0 / 8, l)] }
    let own : State := { run0 with hold := [(hbm0 / 64, .ho)] }
    let ask : State := { run0 with hold := [(hbm0 / 64, .hs)], bi := nsAdd (2 * (hbm0 / 64)) [] }
    (r.flights[0]? = some (.regist src0 0 (hbm0 / 8)) ∧ r.flights.take 0 = [] ∧ sget (8 * (hbm0 / 8) / 64) r.hold = none ∧ r.biOn (hbm0 / 64) = false
      ∧ sget (hbm0 / 8) (r.tileAt src0.tile).l1 = some l ∧ l.st = .registered)
    ∧ (fs.drop 2).head? = some (.fill src0 0 0 hbm0 128 (some []) false) ∧ run0.reg = [] ∧ run0.biOn ((hbm0 + 127) / 64) = false
    ∧ fs[1]? = some (.ack src0 none) ∧ fs[3]? = some (.fwd src0 0 0 hbm0 8 (some []) false [] [hbm0 / 8]) ∧ fs[4]? = some (.answer src0 0 [1] false) ∧ fs[5]? = some (.leave 0)
    ∧ (fs[6]? = some (.ifill src0 hbm0 false) ∧ hbm0 % 128 = 0) ∧ fs[7]? = some (.fabWrite src0 0 1 hbm0 [1] 0 0)
    ∧ (((walking false [j] run0).walkPage 0 0 (1 * 4096)).2 = none ∧ (run0.stewardRoom { unit := 0, ws := 0, page := 1, steward := false, joined := [j] }) = true ∧ (walking false [j] run0).walks[0]? = some { unit := 0, ws := 0, page := 1, steward := false, joined := [j] })
    ∧ (let s := walking false [j] tabled
       (s.walkPage 0 0 (1 * 4096)).2 = some { base := 0, size := 2 ^ 30, pa := hbm0, r := true, w := true, x := true, sealed := false }
       ∧ j.met { base := 0, size := 2 ^ 30, pa := hbm0, r := true, w := true, x := true, sealed := false } = true ∧ j.who % 16 ≤ 9)
    ∧ (walking true [j] tabled).walks[0]? = some { unit := 0, ws := 0, page := 1, steward := true, joined := [j] }
    ∧ (isHbm (hbm0 + 64 * 0x20_0000) = true ∧ backed run0 (hbm0 + 64 * 0x20_0000) = false)
    ∧ run0.hostMay hbm0 = true ∧ (own.hostMay hbm0 = true ∧ sget (hbm0 / 64) own.hold = some .ho)
    ∧ (ask.biOn (hbm0 / 64) = true ∧ sget (hbm0 / 64) ask.hold = some .hs)
    ∧ regionOf 0x8_0000_0000_0000 = .host 0 := by
  decide +kernel

/-- WideAtomics, issue: a doubleword of HBM, a word of the last place of the page. -/
theorem witness_WideAtomics :
    reaches inMem needAtomic (inMem.x 5) 8 (piece 8) ∧ (inMem.x 5).toNat % 8 = 0 ∧ Scope.die ≠ .tile
    ∧ reaches (mapped (at5 0x1FFC)) needAtomic 0x1FFC 4 [{ pos := 0, len := 4, at' := .mem 0x80_0000_1FFC false }] :=
  ⟨⟨inMem_free, .inl (by decide +kernel), of_okIs (by decide +kernel), by decide +kernel, .inl rfl⟩, by decide +kernel, by decide,
   ⟨by unfold accessFree; decide +kernel, .inl (by decide +kernel), of_okIs (by decide +kernel), by decide +kernel, .inl rfl⟩⟩

/-- WideAtomics, effect: the read of an addition at the first word of HBM, with nothing else open and with another atomic open there; its
write; a comparison that does not find its value. -/
theorem witness_AtomicEffect :
    let o : AtomOp := { kind := .add, n := 8, b := 1, cmp := 0, sc := .die, va := 0x1000, tag := 9, keep := true }
    let s (fs : List Flight) : State := { run0 with flights := fs }
    let reads := s [.atom src0 o hbm0 none]
    let held := s [.atom src0 o hbm0 none, .atom { src0 with tile := 1 } { o with tag := 8 } hbm0 (some (0, false))]
    let writes := s [.atom src0 o hbm0 (some (5, false))]
    let ok (u : State) : Prop := Mem.wf u.mem = true ∧ u.fullService = false ∧ sget (hbm0 / 8) u.reg = none ∧ u.sealedTrace (hbm0 / 128) = false
      ∧ u.inOrder 0 src0 [hbm0 / 8] = true ∧ u.hostGate [2, o.tag] (sectorsOf hbm0 8) true = none
      ∧ ∀ b, b < 8 → isHbm (8 * (hbm0 / 8) + b) = true ∧ backed u (8 * (hbm0 / 8) + b) = true
    (ok reads ∧ reads.flights[0]? = some (.atom src0 o hbm0 none) ∧ reads.spotBusy (.slice hbm0) 8 = false)
    ∧ (ok held ∧ held.flights[0]? = some (.atom src0 o hbm0 none) ∧ held.spotBusy (.slice hbm0) 8 = true)
    ∧ (ok writes ∧ writes.flights[0]? = some (.atom src0 o hbm0 (some (5, false)))) ∧ hbm0 % 8 = 0 ∧ o.keep = true ∧ 5 ≠ o.cmp := by
  decide +kernel

/-- MemoryEvents: nothing is on its way for a sector; a word that tile 0 does not hold; an entry of the upper level that the steward may install;
the host's filter full. -/
theorem witness_MemoryWays :
    let full : State := { run0 with hold := (List.range 16384).map fun i => (hbm0 / 64 + i + 1, Hold.hs) }
    let r : State := { run0 with reg := [(hbm0 / 8, { holder := .tile 0, ws := 0 }), (hbm0 / 8 + 1, { holder := .cluster 0, ws := 0 })] }
    (run0.biOrder = [] ∧ run0.walkQ = [] ∧ sget (hbm0 / 64) run0.hold = none ∧ sget (hbm0 / 64 + 1) run0.hold = none ∧ run0.biOn (hbm0 / 64 + 1) = false)
    ∧ (keysRise r.reg = true ∧ (sget (hbm0 / 8 + 1) r.reg).map (fun x => x.holder != .tile 0) = some true)
    ∧ ((walking true [] tabled).pteAddr 0 4096 3).isSome = true ∧ ((walking true [] tabled).pteAddr 0 4096 2).isSome = true
    ∧ ((1 : BitVec 12).toNat = 1 ∧ (run0.role 1).v = true)
    ∧ ((full.hostMay hbm0 = true ∧ (full.filterVictim hbm0).isSome = true) ∧ run0.filterVictim hbm0 = none)
    ∧ ((run0.nodeUp 1 = false) ∧ 0 + 100 ≤ ({ run0 with tick := 100 } : State).tick)
    ∧ (({ run0 with hold := [(hbm0 / 64, Hold.hs)], bi := nsAdd (2 * (hbm0 / 64) + 1) [] } : State).biOn (hbm0 / 64) = true) := by
  decide +kernel

/-! ## The census, the schedulers, the steward, reliability -/

/-- The entry of LTID 1 changed. -/
def entry1 (f : RoleEntry → RoleEntry) : State := { run0 with roles := [(1, f (run0.role 1))] }
/-- The census has done its work for LTID 1. -/
def done1 (s : State) : State := { s with notices := [(1, { nid := 1, why := 0, count := 0, wss := [], cleared := true })] }
/-- CensusEvents: every clause, at LTID 1 on tile 1 of die 0. -/
theorem witness_CensusEvents :
    let past := fun (s : State) (x : BitVec 32) => (x - BitVec.ofNat 32 s.tick).toInt ≤ 0
    let e := run0.role 1
    let moving (r : BitVec 2) := entry1 fun e => { e with cstate := 3, role := r }
    let page : State := { tabled with
      moves := [{ ows := 0, rid := 0, page := 0, dst := some (1, 0) }],
      mem := [(hbm0 + 0x4000, 1), (hbm0 + 0x4002, 1)] ++ wsCells [(0, 0, 1), (wSWBASE, 1, 0x40), (wSWBASE, 4, 0x80)] }
    (50 * ({ run0 with tick := 50 } : State).dies[(0 : Fin 4)].epoch ≤ 50 ∧ run0.censusBusy 0 = false)
    ∧ (e.v = true ∧ (entry1 fun e => { e with lse := true }).role 1 = { e with lse := true } ∧ past run0 0 ∧ past run0 0x80000000 ∧ ¬ past run0 1 ∧ e.cstate ≠ 1)
    ∧ ((entry1 fun e => { e with cstate := 2 }).role 1).cstate = 2 ∧ (moving 2).draining 1 = false
    ∧ (State.reset.powered = true ∧ ({ State.reset with powered := false } : State).tiles.all (fun x => x.2.residents == []) = true)
    ∧ (let t : State := { State.reset with tick := State.reset.tick + 1 }
       (List.range 4096).all (fun k => !t.leaseDue k && !t.deadlineDue k) = true)
    ∧ (((moving 2).role 1).cstate = 3 ∧ ((moving 2).role 1).role = 2 ∧ sget 1 (moving 2).notices = none ∧ (moving 2).furrowsThrough 1 = [])
    ∧ (((moving 1).role 1).role = 1 ∧ (moving 1).pageMoving 1 = false ∧ ((moving 1).tileAt 1).slots = [])
    ∧ (((moving 0).role 1).role = 0 ∧ ((moving 0).tileAt 1).residents = [] ∧ (∀ c : Fin 4, ((moving 0).tileAt 1).chans[c].st = .idle)
      ∧ ∀ d : Fin 4, (moving 0).dies[d].heads = [])
    ∧ (let s := done1 (entry1 fun e => { e with cstate := 3, role := 2, trole := 1 })
       (s.role 1).cstate = 3 ∧ (sget 1 s.notices).any (·.cleared) = true ∧ (s.role 1).role ≠ 0 ∧ (s.role 1).trole ≠ 0)
    ∧ (page.moves[0]? = some { ows := 0, rid := 0, page := 0, dst := some (1, 0) } ∧ (page.rgnOf 0 0).isSome = true ∧ page.mgmt.scmd ≠ 6) := by
  decide +kernel

def onDie0 (s : State) (f : Die → Die) : State := { s with dies := s.dies.set 0 (f s.dies[0]) }
def headPkt : HeadPkt :=
  { id := 0, queue := BitVec.ofNat 64 devBase, ws := 0, arr := 0, bytes := List.replicate 24 0 ++ [1] ++ List.replicate 39 0, ents := [], since := 0, total := 2 ^ 40, refused := false, admitted := false,
    released := false, unstaged := false, tile := none, todo := [], running := 0 }
/-- A range strand runs in context 0 over the array at the frame's start. -/
def ranging : State := { holding inFrame [(2, 4), (4, 1), (8, 1), (18, 1), (22, 0xF0), (36, 8)] with
  strands := [(0, { queue := 0, ws := 0, succ := [], work := .range (BitVec.ofNat 64 devBase) 0, tile := 0, disp := 0, die := 0, reserve := 0 })] }
/-- SchedulerEvents: every clause, on die 0. -/
theorem witness_SchedulerEvents :
    let r := ranging
    let h := onDie0 inFrame fun d => { d with heads := [headPkt] }
    let q : Retry := { queue := BitVec.ofNat 64 devBase, ws := 0, packet := List.replicate 32 0, since := 0, addr := 0x1000, ltid := 1 }
    let t : State := { inFrame with cntRetry := [q], tick := 1 }
    let b := onDie0 (onTile member fun T => { T with arrived := 0x80 }) fun d => { d with chans := d.chans.set 7 { arrived := nsAdd 0 [], votes := [], lost := false } }
    let o : DattnOp := { src := run0.src, addr := 0, gid := 0, desc := List.replicate 64 0, slist := [], qe := [], oe := [], fenceE := 0 }
    let a := onDie0 run0 fun d => { d with dattn := [o] }
    ((r.choices 0).2 = [] ∧ (r.dieTiles 0).any (fun p => (r.role p.1).takesWork && r.openCtx p.2 != 0) = true
      ∧ ((r.splitCandidate 0).map (fun e => e.2.work) = some (.range (BitVec.ofNat 64 devBase) 0)) ∧ (r.rangeSplit 0 (BitVec.ofNat 64 devBase) 0 0).isSome = true)
    ∧ (h.powered = true ∧ h.dies[(0 : Fin 4)].queues = [] ∧ h.dies[(0 : Fin 4)].heads = [headPkt] ∧ h.queueOpen headPkt.ws headPkt.queue = true ∧ h.budget 0 < headPkt.total)
    ∧ ({ run0 with signals := [⟨0, 0, 1⟩, ⟨1, 0, 1⟩] } : State).signals[1]? = some ⟨1, 0, 1⟩
    ∧ ((holding t [(8, 0x20)]).enqueue q.ws q.queue q.packet).2 = 2
    ∧ (t.cntRetry[0]? = some q ∧ q.since < t.tick ∧ (t.enqueue q.ws q.queue q.packet).2 = 0 ∧ ((holding t [(4, 1)]).enqueue q.ws q.queue q.packet).2 = 1)
    ∧ b.barrierReady 0 7 = true
    ∧ (let k : Context := { Context.reset with st := .ready, gang := true }
       let s : State := { onTile run0 (fun T => { T with ctx := T.ctx.set 7 k }) with
         strands := [(0, { queue := 0, ws := 0, succ := [], work := .gang 0 3, tile := 0, disp := 0, die := 0, reserve := 0 })] }
       s.cx 0 7 = k ∧ (s.strand k.wsid k.recAddr).map (·.work) = some (.gang 0 3))
    ∧ (a.dies[(0 : Fin 4)].dattn = o :: [] ∧ a.fenceHolds o.src.tile o.src o.fenceE = false ∧ (a.tileAt o.src.tile).tq = []) := by
  decide +kernel
/-- A staging deadline that has passed: SDL 1 at tick 1. -/
theorem witness_StagingDeadline :
    let p : HeadPkt := { headPkt with bytes := List.replicate 64 0xFF, admitted := true }
    let u : HeadPkt := { p with todo := [{ tgt := 1, tile := 2, entry := 0, cluster := 0 }] }
    ([headPkt, p][1]? = some p ∧ p.released = false ∧ p.staged = true ∧ u.staged = false) ∧ pkSdl (pktHead p.bytes) ≠ 0 ∧ p.since + pkSdl (pktHead p.bytes) ≤ ({ run0 with tick := p.since + pkSdl (pktHead p.bytes) } : State).tick := by
  decide +kernel

/-- The steward's arguments; workspace 0 is bound and has a table of two store-window regions, the second made. -/
def commands (v : List Word) : State := { tabled with
  mem := [(hbm0 + 0x4040, 9), (hbm0 + 0x4044, 0), (hbm0 + 0x4045, 0x10)]
    ++ wsCells [(wSWBASE, 1, 0x40), (wSWBASE, 4, 0x80), (wSWCTL, 0, 2), (wWSCTL, 0, 1)],
  mgmt := { State.reset.mgmt with sarg := (Vector.range 7).map fun i => v.getD i 0 } }
/-- PostedStores, the store window: a doubleword at the start of the workspace's region. -/
theorem witness_StoreWindow :
    let s := ((commands [0, 1]).setX 5 (BitVec.ofNat 64 (winBase + 2 ^ 32))).setX 6 7
    reaches s needStore (s.x 5) 8 [{ pos := 0, len := 8, at' := .win 0 1 0 }] ∧ accessRegion (s.x 5).toNat 8 = .window ∧ s.storeFull = false :=
  ⟨⟨by unfold accessFree; decide +kernel, .inr (by decide +kernel), of_okIs (by decide +kernel), by decide +kernel, .inr (by decide +kernel)⟩,
   by decide +kernel, by decide +kernel⟩

/-- StewardCommands: the arguments of every command, at the ends of their ranges. -/
theorem witness_StewardCommands :
    let a := fun (s : State) (j : Fin 7) => (s.mgmt.sarg[j]).toNat
    let busy : State := { run0 with mgmt := { run0.mgmt with sstat := 0x80 } }
    let w := commands [4095, 0x70, 7]
    let t := commands [0, 1023, 1]
    let m := commands [0, 2, 1, 3, 4095]
    let g := commands [0, 1, 5, 3]
    let f := commands [1, 2]
    busy.mgmt.sstat = 0x80 ∧ w.mgmt.sstat ≠ 0x80
    ∧ (w.mgmt.wstBase.toNat % 2 ^ 20 = 0 ∧ (match regionOf w.mgmt.wstBase.toNat with | .hbm _ _ => true | _ => false) = true
      ∧ backed w (w.wsAddr (a w 0) (a w 1 / 8)) = true ∧ w.hold = [] ∧ w.sealedTrace (w.wsAddr (a w 0) (a w 1 / 8) / 128) = false)
    ∧ a (commands [0, 56, 0]) 1 = 56
    ∧ (run0.mgmt.enq[(0 : Fin 4)].busy = false ∧ ({ run0.mgmt.enq[(0 : Fin 4)] with busy := true }).busy = true)
    ∧ (a w 0 < 4096 ∧ a w 1 % 8 = 0 ∧ a w 1 < 120) ∧ t.wsValid (a t 0) = true ∧ (a t 1 < 1024 ∧ 0 < a t 2 ∧ a t 2 ≤ 1024)
    ∧ (m.wsWord (a m 0) wSWBASE ≠ 0 ∧ a m 1 < 2 ^ min ((m.wsWord (a m 0) wSWCTL).toNat % 32) 16 ∧ 0 < a m 2 ∧ a m 2 ≤ 65535 ∧ a m 3 < 4 ∧ a m 4 < 4096
      ∧ m.rgnOf (a m 0) (a m 1) = none)
    ∧ ((g.rgnOf (a g 0) (a g 1)).map (·.grants) = some 0 ∧ a g 2 < 4096 ∧ a g 3 = 3)
    ∧ ((g.rgnOf (a g 0) (a g 1)).isSome = true ∧ a g 1 ≠ 0 ∧ g.regionMoving 0 1 = false
      ∧ ({ g with moves := [{ ows := 0, rid := 1, page := 0, dst := none }] } : State).regionMoving 0 1 = true)
    ∧ (a f 0 < 4096 ∧ a f 1 ≤ 2 ∧ (f.role (a f 0)).v = true ∧ (f.role (a f 0)).cstate.toNat < 2)
    ∧ (let s := commands [1, 0]
       a s 1 < 4096 ∧ s.wsValid (a s 1) = true ∧ ∀ d : Fin 4, s.dies[d].heads = [])
    ∧ 8 < (9 : Word).toNat := by
  decide +kernel

/-- ReliabilityEvents: places in the store and in HBM at the ends of their ranges; links up, at fifteen and at sixteen replays; services; temperatures. -/
theorem witness_ReliabilityEvents :
    let l (k : Nat) : State := { run0 with linkFails := [(20, k)] }
    (1023 < 1024 ∧ ∃ w ∈ [storeSize / 8 - 1, storeSize / 8], 8 * w < storeSize) ∧ (regionOf (8 * (hbm0 / 8)) = .hbm 0 0 ∧ backed run0 (8 * (hbm0 / 8)) = true)
    ∧ (2447 < 2448 ∧ (sget 5 (onTile run0 fun T => { T with l1 := [(5, { st := .valid, bytes := [], poison := false, ws := 0, sealed := false, merging := none })] }).tile.l1).isSome = true)
    ∧ (run0.tick < run0.wearDue ∧ run0.wearDue ≤ ({ run0 with tick := 60_000_000 } : State).tick)
    ∧ (run0.mgmt.booted = false ∧ ({ run0.mgmt with booted := true }).booted = true)
    ∧ (run0.mgmt.pwrcap.toNat < 2901 ∧ 100 * 2755 ≤ 95 * run0.mgmt.pwrcap.toNat ∧ ¬ (run0.mgmt.pwrcap.toNat < 2900 ∨ 100 * 2900 ≤ 95 * run0.mgmt.pwrcap.toNat))
    ∧ ((20 : BitVec 12).toNat ≤ 20 ∧ nsMem 20 run0.linkDown = false) ∧ (sget 20 (l 15).linkFails).getD 0 < 16 ∧ 16 ≤ (sget 20 (l 16).linkFails).getD 0
    ∧ ((2#4).getLsbD 1 = true ∧ (2#4).getLsbD 0 = false)
    ∧ (run0.fullService = false ∧ run0.powered = true ∧ ({ run0 with fullService := true } : State).fullService = true)
    ∧ ({ run0 with mgmt := { run0.mgmt with attReq := 1 } } : State).mgmt.attReq ≠ 0
    ∧ (run0.mgmt.held = false ∧ 105 ≤ (105 : Byte).toNat ∧ 115 ≤ (115 : Byte).toNat)
    ∧ (run0.tile.ctx[(0 : Fin 8)].st ≠ .free ∧ run0.tile.ctx[(0 : Fin 8)].st ≠ .waiting .trap ∧ run0.tile.ctx[(0 : Fin 8)].pending = none
      ∧ run0.tile.ctx[(0 : Fin 8)].evict = none) := by
  decide +kernel

/-! ## Steps -/

/-- StepRunsTheDecodedInstruction: the first step that runs a placed word; a word that is none; a fetch that does not succeed; an agent that may not
issue; an event. -/
theorem witness_StepRunsTheDecodedInstruction :
    let s := State.reset.withFetchWord 32 0x00730284
    let bad := State.reset.withFetchWord 32 0
    let fetched (u : State) : Option IWord := match u.fetchWord with
      | .ok w => some w
      | .error _ => none
    let none' : State := { run0 with turns := [.issue 0 (.ctx 0)] }
    (s.turns = .issue 0 (.ctx 0) :: [] ∧ ({ s with turns := [] } : State).mayIssue = true ∧ fetched s = some 0x00730284 ∧ decodeWord 0x00730284 = .ok (.add false 5 6 7))
    ∧ (fetched bad = some 0 ∧ decodeWord 0 = .error .reservedOpcode)
    ∧ (fetched none' = none ∧ none'.mayIssue = true) ∧ State.reset.mayIssue = false
    ∧ (s.ctx.pending = none ∧ s.pc.toNat < globalEnd ∧ s.fabPlace s.ws.toNat s.pc.toNat = .here
      ∧ (s.tile.tlb.find? (fun e => e.2.ws == s.ws && decide (e.2.va ≤ s.pc.toNat) && decide (s.pc.toNat < e.2.va + e.2.size))).map (·.2.x) = some true
      ∧ (s.tile.icache.find? (fun l => l.ws == s.ws && l.line == (hbm0 + s.pc.toNat) / 128)).isSome = true)
    ∧ (s.interlocked 0x00730284 = false ∧ (onTile s fun T => { T with tq := [{ queuedOp (.vmovz false 5 0 2) [] with src := s.src }] }).interlocked 0x00730284 = true)
    ∧ (encode .tick = none ∧ Instr.tick.wf = true) := by
  decide +kernel
/-- DecodeEncode: a well-formed instruction with its word. -/
theorem witness_DecodeEncode : (Instr.add false 5 6 7).wf = true ∧ encode (.add false 5 6 7) = some 0x00730284 := by decide +kernel
/-- NobodyWaitsForWhatHolds: at reset nobody waits, and the step after reset answers a next state. -/
theorem witness_NobodyWaitsForWhatHolds : noWaitHolds State.reset ∧ ∃ t, step { State.reset with turns := [.event .tick] } = .next t := by
  refine ⟨⟨fun n c w h => ?_, fun n sd w h => ?_⟩, ⟨_, rfl⟩⟩
  · have e : (State.reset.tileAt n).ctx[c].st = .free := by
      have : ∀ c : Fin 8, (Tile.reset).ctx[c].st = .free := by decide +kernel
      exact this c
    rw [e] at h
    cases h
  · have e : ((State.reset.tileAt n).side sd).stall = none := by cases sd <;> rfl
    rw [e] at h
    cases h

end Sys2Proof.Tests
end

section
/-! SUPPORT. What reset leaves (O57): a word of memory as the device reads it, the workspace table that nothing has written, the tiles and
the role map at reset. -/

namespace Sys2Proof.Machine

open Sys2Proof.Safety

/-! ## One whole word read -/

theorem wordsOf_word (w : Nat) : wordsOf (8 * w) 8 = [w] := by
  have one : (8 * w + 8 - 1) / 8 - 8 * w / 8 + 1 = 1 := by omega
  have first : 8 * w / 8 = w := by omega
  rw [wordsOf, if_neg (by decide), one, first]
  rfl

/-- A number of eight bytes on a word's boundary is that word's latest value. -/
theorem State.natAt_word (s : State) (w : Nat) : s.natAt (8 * w) 8 = leNat ((s.latestWord w).bytes.take 8) := by
  simp [State.natAt, State.readAt, wordsOf_word]

/-- A word that no cache registers and no host keeps reads as memory holds it. -/
theorem State.latestWord_bytes_of_mem {s : State} {w : Nat} (hreg : sget w s.reg = none) (hkeep : s.hostKeeps (8 * w) = false) :
    (s.latestWord w).bytes = mread s.mem (8 * w) 8 := by
  simp [State.latestWord, State.sliceWord, hreg, hkeep]

/-! ## The workspace table that nothing has written (05 R111, R112, 11 R227) -/

/-- Of HBM, where the workspace table lies, the host owns nothing at reset. -/
theorem reset_hostKeeps_hbm {pa : Nat} (hlo : 0x80_0000_0000 ≤ pa) (hhi : pa < 0x100_0000_0000) : State.reset.hostKeeps pa = false := by
  have hbm : regionOf pa = .hbm ((pa - 0x80_0000_0000) / 2 ^ 37) ((pa - 0x80_0000_0000) % 2 ^ 37) := by
    unfold regionOf
    rw [if_neg (by omega), if_neg (by omega), if_pos hhi]
  unfold State.hostKeeps
  rw [hbm]
  rfl

/-- Every byte of an entry has its reset value, whichever the entry. -/
theorem memDefault_wst {k j : Nat} (hk : k < 4096) (hj : j < 256) : memDefault (0x80_07F0_0000 + 256 * k + j) = wstDefault j := by
  have inHbm : (0x80_07F0_0000 + 256 * k + j) / 2 ^ 39 = 1 := by omega
  have inTable : (0x80_07F0_0000 + 256 * k + j) % 2 ^ 37 / 2 ^ 20 = wstOff / 2 ^ 20 := by
    unfold wstOff
    omega
  have inEntry : (0x80_07F0_0000 + 256 * k + j) % 256 = j := by omega
  rw [memDefault, inHbm, inTable, inEntry]
  rfl

theorem mread_nil_wst {k j : Nat} (hk : k < 4096) (n : Nat) (hj : j + n ≤ 256) :
    mread [] (0x80_07F0_0000 + 256 * k + j) n = (List.range' j n).map wstDefault := by
  induction n generalizing j with
  | zero => rfl
  | succ n ih =>
    have byte : mget [] (0x80_07F0_0000 + 256 * k + j) = wstDefault j := memDefault_wst hk (by omega)
    have rest := ih (j := j + 1) (by omega)
    rw [← Nat.add_assoc] at rest
    rw [mread, byte, rest]
    rfl

/-- A word of a workspace's entry at reset, from the reset values of its bytes. -/
theorem reset_wsWord (ws : Nat) {i : Nat} (hi : i < 32) :
    State.reset.wsWord ws i = BitVec.ofNat 64 (leNat ((List.range' (8 * i) 8).map wstDefault)) := by
  have hk : ws % 4096 < 4096 := Nat.mod_lt _ (by decide)
  obtain ⟨w, hw⟩ : ∃ w, 0x80_07F0_0000 + 256 * (ws % 4096) + 8 * i = 8 * w :=
    ⟨0x80_07F0_0000 / 8 + 32 * (ws % 4096) + i, by omega⟩
  have addr : State.reset.wsAddr ws i = 8 * w := hw
  have keep : State.reset.hostKeeps (8 * w) = false := reset_hostKeeps_hbm (by omega) (by omega)
  have bytes : (State.reset.latestWord w).bytes = (List.range' (8 * i) 8).map wstDefault := by
    rw [State.latestWord_bytes_of_mem rfl keep, ← hw]
    exact mread_nil_wst hk 8 (by omega)
  rw [State.wsWord, addr, State.natAt_word, bytes, List.take_of_length_le (by simp)]

theorem reset_wsWord_fq (ws : Nat) : State.reset.wsWord ws wFQ = 0 := reset_wsWord ws (by decide)

/-- HPRIO 7 in the low three bits, SPSZ 16 above them. -/
theorem reset_wsWord_hprio (ws : Nat) : State.reset.wsWord ws wHPRIO = BitVec.ofNat 64 (7 + 8 * 16) := reset_wsWord ws (by decide)

/-- No workspace exists. -/
theorem reset_wsValid (ws : Nat) : State.reset.wsValid ws = false :=
  congrArg (BitVec.getLsbD · 0) (reset_wsWord ws (i := wWSCTL) (by decide))

/-! ## Tiles and the role map -/

theorem reset_tileAt (n : Nat) : State.reset.tileAt n = .reset := rfl

theorem reset_ctx (n : Nat) (c : Fin 8) : (State.reset.tileAt n).ctx[c] = .reset := by
  rw [reset_tileAt]
  exact Vector.getElem_replicate c.isLt

theorem reset_side (n : Nat) (sd : Side) : (State.reset.tileAt n).side sd = .reset := by
  cases sd <;> rfl

/-- The tile store's offsets lie below the workspace table, so that each byte reads as zero (log 2). -/
theorem reset_byte (n off : Nat) : (State.reset.tileAt n).byte off = 0 := by
  rw [reset_tileAt]
  unfold Tile.byte
  split
  next inStore =>
    have belowHbm : off / 2 ^ 39 = 0 := by
      unfold storeSize at inStore
      omega
    change memDefault off = 0
    rw [memDefault, belowHbm]
    rfl
  next => rfl

/-- Die 0 runs reduced service (21 R354): its 256 LTIDs are bound, each to the tile of its number. -/
theorem reset_role {l : Nat} (hl : l < 256) : State.reset.role l = .reset true l := by
  have die : l / 256 = 0 := by omega
  have bound : State.reset.boundAtStart l = true := by
    simp [State.boundAtStart, State.reset, die]
    omega
  rw [← bound]
  rfl

/-- No agent waits at reset: every context is Free and every side core without a stall. -/
theorem reset_noWaitHolds : noWaitHolds State.reset := by
  refine ⟨fun n c w hst => ?_, fun n sd w hstall => ?_⟩
  · rw [reset_ctx] at hst
    cases hst
  · rw [reset_side] at hstall
    cases hstall

/-- Settles O57, field by field from the state after reset; of a workspace's entry, from the bytes of the table that nothing has written. -/
theorem resetValues : Obligations.ResetValues := by
  unfold Obligations.ResetValues
  intro s
  have contexts (n : Nat) (c : Fin 8) :
      (s.tileAt n).ctx[c].st = .free ∧ (s.tileAt n).ctx[c].th.fflags = 0 ∧ (s.tileAt n).ctx[c].th.rm = 0 := by
    rw [reset_ctx]
    exact ⟨rfl, rfl, rfl⟩
  have errors (d : Fin 5) : s.errWritten[d] = 0 ∧ s.errCe[d] = 0 :=
    ⟨Vector.getElem_replicate d.isLt, Vector.getElem_replicate d.isLt⟩
  have dies (d : Fin 4) : s.dies[d].ctl = 20 + 8 * 2 ^ 8 + 2 ^ 12 ∧ s.dies[d].l2res = 32 := by
    rw [show s.dies[d] = Die.reset from Vector.getElem_replicate d.isLt]
    exact ⟨rfl, rfl⟩
  have entries (w : Nat) :
      s.wsWord w 0 = 0 ∧ (s.wsWord w 2).toNat % 8 = 7 ∧ (s.wsWord w 2).toNat / 8 = 16 ∧ s.wsValid w = false := by
    rw [show s.wsWord w 2 = _ from reset_wsWord_hprio w]
    exact ⟨reset_wsWord_fq w, rfl, rfl, reset_wsValid w⟩
  have roles (l : Nat) (hl : l < 256) :
      (s.role l).v = true ∧ (s.role l).ptile = BitVec.ofNat 10 l ∧ (s.role l).role = 0 ∧ (s.role l).gen = 0 ∧ (s.role l).cstate = 0 := by
    rw [reset_role hl]
    exact ⟨rfl, rfl, rfl, rfl, rfl⟩
  have tiles (n : Nat) : (s.tileAt n).nextXid = 1 ∧ (s.tileAt n).bfnDrop = 0 ∧ ∀ off, (s.tileAt n).byte off = 0 :=
    ⟨rfl, rfl, reset_byte n⟩
  exact ⟨rfl, rfl, rfl, rfl, rfl, reset_wf.1, contexts, errors, dies, entries, roles, tiles, reset_noWaitHolds⟩

end Sys2Proof.Machine
end

section
/-! SUPPORT. The S point where every result has arrived (O11): what landing leaves in the registers of a thread. -/

namespace Sys2Proof.Machine

open Sys2Proof.Safety

/-! ## One result landed (01 R17) -/

/-- A result for a v register changes nothing of the thread. -/
theorem Context.th_land (k : Context) (r : Remote) : (k.land r).th = k.th.land r := by
  unfold Context.land Thread.land
  cases r.dest with
  | x d sx => rfl
  | v d active => rfl

theorem Thread.readX_land_other {h : Thread} {r : Remote} {q : Reg} (hne : ∀ sx, r.dest ≠ .x q sx) : (h.land r).readX q = h.readX q := by
  unfold Thread.land
  cases hd : r.dest with
  | x d sx =>
    have hqd : q ≠ d := fun e => hne sx (by rw [hd, e])
    simp [Thread.readX_writeX, hqd]
  | v d active => rfl

theorem Thread.readX_land_same {h : Thread} {r : Remote} {q : Reg} {sx : Bool} (hd : r.dest = .x q sx) (hq : q ≠ 0) :
    (h.land r).readX q = extendBytes r.value r.bytes.length sx := by
  unfold Thread.land
  rw [hd, Thread.readX_writeX, if_pos ⟨rfl, hq⟩]

/-! ## Results landed in order of issue -/

theorem Thread.readX_landed_other {rs : List Remote} {q : Reg} (hne : ∀ r ∈ rs, ∀ sx, r.dest ≠ .x q sx) (h : Thread) :
    (rs.foldl Thread.land h).readX q = h.readX q := by
  induction rs generalizing h with
  | nil => rfl
  | cons r rs ih =>
    rw [List.foldl_cons, ih fun p hp => hne p (List.mem_cons_of_mem _ hp), Thread.readX_land_other (hne r List.mem_cons_self)]

/-- The last result for a register is what the register holds. -/
theorem Thread.readX_landed_last {pre post : List Remote} {r : Remote} {q : Reg} {sx : Bool} (hd : r.dest = .x q sx) (hq : q ≠ 0)
    (hlast : ∀ p ∈ post, ∀ sx', p.dest ≠ .x q sx') (h : Thread) :
    ((pre ++ r :: post).foldl Thread.land h).readX q = extendBytes r.value r.bytes.length sx := by
  rw [List.foldl_append, List.foldl_cons, Thread.readX_landed_other hlast, Thread.readX_land_same hd hq]

/-- Whichever agent it is: the results that land do so one after another, and none is outstanding. -/
theorem Tile.thread_landAll (t : Tile) (a : Agent) :
    (t.landAll a).thread a = { ((t.thread a).outs.filter (·.lands)).foldl Thread.land (t.thread a) with outs := [] } := by
  cases a with
  | ctx c =>
    have folded : ∀ (rs : List Remote) (k : Context), (rs.foldl Context.land k).th = rs.foldl Thread.land k.th :=
      fun rs k => (List.foldl_hom Context.th fun k r => (Context.th_land k r).symm).symm
    simp [Tile.landAll, Tile.thread, folded]
  | loader => rfl
  | storer => rfl

/-! ## The S point -/

/-- A result that is neither poisoned nor dropped lands, and keeps no instruction from executing. -/
theorem Remote.lands_of_good {r : Remote} (hp : r.poison = false) (hd : r.dropped = none) : r.lands = true ∧ r.bad = false := by
  simp [Remote.lands, Remote.bad, hp, hd]

/-- Where every result has arrived and is good, the S point is passed with all of them landed. -/
theorem State.sPoint_lands {s : State} (h : ∀ r ∈ s.th.outs, r.arrived = true ∧ r.poison = false ∧ r.dropped = none) :
    ∃ s1, s.sPoint true = .ok s1 ∧ s1.th = { s.th.outs.foldl Thread.land s.th with outs := [] } := by
  by_cases hnil : s.th.outs = []
  · refine ⟨s, by simp [State.sPoint, hnil], ?_⟩
    rw [hnil]
    exact congrArg (fun o => { s.th with outs := o }) hnil
  · have good : ∀ r ∈ s.th.outs, r.lands = true ∧ r.bad = false := fun r hr =>
      Remote.lands_of_good (h r hr).2.1 (h r hr).2.2
    have arrived : s.th.outs.all (·.arrived) = true := List.all_eq_true.mpr fun r hr => (h r hr).1
    have noneBad : s.th.outs.find? (·.bad) = none := List.find?_eq_none.mpr fun r hr => by simp [(good r hr).2]
    have allLand : s.th.outs.filter (·.lands) = s.th.outs := List.filter_eq_self.mpr fun r hr => (good r hr).1
    refine ⟨s.putTile (s.tile.landAll s.curAgent), by simp [State.sPoint, hnil, arrived, noneBad], ?_⟩
    rw [State.th, State.tile_putTile, State.putTile_curAgent, Tile.thread_landAll]
    change { (s.th.outs.filter (·.lands)).foldl Thread.land s.th with outs := [] } = _
    rw [allLand]

/-- The end of the argument-area claim changes no thread. -/
theorem State.th_endClaim (s : State) : s.endClaim.th = s.th := by
  unfold State.endClaim State.setCtx
  split
  next c hc => simp [State.th, State.ctx, hc, Tile.thread]
  next => rfl

/-- Settles O11, from what the S point leaves in the thread: a register not named by a result is not written, and of the results for one
register the last is written last. -/
theorem resultsLand : Obligations.ResultsLand := by
  unfold Obligations.ResultsLand
  intro s h
  obtain ⟨s1, passed, landed⟩ := State.sPoint_lands h
  have th : s1.endClaim.th = { s.th.outs.foldl Thread.land s.th with outs := [] } := (State.th_endClaim s1).trans landed
  refine ⟨s1.endClaim, ⟨s1, passed, rfl⟩, by rw [th], fun q hq => ?_, fun pre post r q sx houts hd hq hlast => ?_⟩
  · rw [State.x, th]
    exact Thread.readX_landed_other hq s.th
  · rw [State.x, th, houts]
    exact Thread.readX_landed_last hd hq hlast s.th

end Sys2Proof.Machine
end

section
/-! SUPPORT. What an engine's access to memory leaves as it was: the contexts of the tiles and the resume lists of the dies. -/

namespace Sys2Proof.Machine

/-- What no access to memory changes, and no bookkeeping of gangs: the contexts of the tiles, and the records that wait on the dies'
resume lists. -/
structure sameStrands (s t : State) : Prop where
  ctx : ∀ n, (t.tileAt n).ctx = (s.tileAt n).ctx
  resume : ∀ d : Fin 4, t.dies[d].resume = s.dies[d].resume

namespace sameStrands

theorem of_fields {s t : State} (tiles : t.tiles = s.tiles) (dies : t.dies = s.dies) : sameStrands s t :=
  ⟨fun n => by rw [State.tileAt, tiles, State.tileAt], fun d => by rw [dies]⟩

theorem refl (s : State) : sameStrands s s := of_fields rfl rfl

theorem trans {s t u : State} (h : sameStrands s t) (k : sameStrands t u) : sameStrands s u :=
  ⟨fun n => (k.ctx n).trans (h.ctx n), fun d => (k.resume d).trans (h.resume d)⟩

theorem withFlights {s t : State} (h : sameStrands s t) (f : List Flight) : sameStrands s { t with flights := f } :=
  h.trans (of_fields rfl rfl)

theorem foldl {β : Type} {f : State → β → State} (h : ∀ s b, sameStrands s (f s b)) (l : List β) (s : State) : sameStrands s (l.foldl f s) :=
  foldl_keeps (P := sameStrands s) (fun t b ht => ht.trans (h t b)) l (refl s)

/-- A tile replaced by one with the same contexts. -/
theorem setTile {s : State} {n : Nat} {T : Tile} (h : T.ctx = (s.tileAt n).ctx) : sameStrands s (s.setTile n T) := by
  refine ⟨fun m => ?_, fun _ => rfl⟩
  by_cases hm : m = n
  · rw [hm, State.tileAt_setTile_same, h]
  · rw [State.tileAt_setTile_ne hm]

theorem setTile_unless {s : State} {n : Nat} {T : Tile} (p : Prop) [Decidable p] (h : T.ctx = (s.tileAt n).ctx) :
    sameStrands s (if p then s else s.setTile n T) := by
  split
  · exact refl s
  · exact setTile h

/-- A die replaced by one with the same resume list. -/
theorem setDie {s : State} {n : Nat} {D : Die} (h : D.resume = (s.die n).resume) : sameStrands s (s.setDie n D) := by
  refine ⟨fun _ => rfl, fun d => ?_⟩
  by_cases hd : n = d.val
  · subst hd
    simp [State.setDie, h, State.die, Vector.getD]
  · simp [State.setDie, hd]

theorem cx {s t : State} (h : sameStrands s t) (n : Nat) (c : Fin 8) : t.cx n c = s.cx n c := by
  rw [State.cx, h.ctx n, State.cx]

end sameStrands

/-! ## Reads at the slices (13 R253, 18 R313, R315) -/

theorem logError_strands (s : State) (d cls unit loc ws pa info : Nat) : sameStrands s (s.logError d cls unit loc ws pa info) :=
  .of_fields rfl rfl

theorem chargeEvict_strands (s : State) (unit loc tile : Nat) (ws : Wsid) (pa : Nat) : sameStrands s (s.chargeEvict unit loc tile ws pa) :=
  .of_fields rfl rfl

theorem dropL2_strands (s : State) (e : L2Line) : sameStrands s (s.dropL2 e) := by
  unfold State.dropL2
  dsimp only
  split
  · exact .of_fields rfl rfl
  · split
    · split <;> exact .of_fields rfl rfl
    · exact .of_fields rfl rfl

theorem allocL2_strands (s : State) (e : L2Line) : sameStrands s (s.allocL2 e) := by
  unfold State.allocL2
  dsimp only
  split
  · exact .of_fields rfl rfl
  · split
    next v _ _ => exact (dropL2_strands s v).trans (.of_fields rfl rfl)
    next => exact .of_fields rfl rfl

theorem touchLine_strands (s : State) (pa : Nat) : sameStrands s (s.touchLine pa) := by
  unfold State.touchLine
  split
  · exact .refl s
  · exact allocL2_strands ..

theorem takeSector_strands (s : State) (pa : Nat) (write : Bool) : sameStrands s (s.takeSector pa write) := by
  unfold State.takeSector
  split
  · split
    · exact .of_fields rfl rfl
    · split <;> exact .of_fields rfl rfl
    · exact .refl s
  · dsimp only
    split <;> split <;> exact .of_fields rfl rfl
  · exact .refl s

theorem noteNomem_strands (s : State) (pa len ws : Nat) : sameStrands s (s.noteNomem pa len ws) := by
  unfold State.noteNomem
  split
  · exact logError_strands ..
  · exact .refl s

theorem nomemRuns_strands (s : State) (l : List (Nat × Nat)) (ws : Nat) : sameStrands s (s.nomemRuns l ws) := by
  unfold State.nomemRuns
  split
  · exact noteNomem_strands ..
  · exact .refl s

theorem walkNomem_strands (s : State) (ws va : Nat) : sameStrands s (s.walkNomem ws va) := by
  unfold State.walkNomem
  split
  · exact noteNomem_strands ..
  · exact .refl s

theorem seeRuns_strands (s : State) (l : List (Nat × Nat)) (ws : Nat) : sameStrands s (s.seeRuns l ws) :=
  (sameStrands.foldl (f := fun s a => (s.touchLine a).takeSector a false)
    (fun s a => (touchLine_strands s a).trans (takeSector_strands _ a false)) _ s).trans (nomemRuns_strands ..)

theorem vsee_strands (s : State) (ws va n : Nat) : sameStrands s (s.vsee ws va n) := by
  unfold State.vsee
  split
  · exact walkNomem_strands ..
  · exact seeRuns_strands ..

/-! ## Writes at the slices (13 R255, R261, R263) -/

theorem setPoison_strands (s : State) (w : Nat) (p : Bool) : sameStrands s (s.setPoison w p) := .of_fields rfl rfl

theorem markDirty_strands (s : State) (line : Nat) (ws : Wsid) : sameStrands s (s.markDirty line ws) := .of_fields rfl rfl

theorem putWord_strands (s : State) (w : Nat) (cells : List (Nat × Byte)) (ws : Wsid) : sameStrands s (s.putWord w cells ws) := by
  unfold State.putWord
  split
  · refine .trans (.trans ?_ (touchLine_strands ..)) (markDirty_strands ..)
    exact .of_fields rfl rfl
  · exact .refl s

theorem writeBackWord_strands (s : State) (w : Nat) (l : L1Word) (h : Holder) : sameStrands s (s.writeBackWord w l h) := by
  unfold State.writeBackWord
  dsimp only
  split
  · refine .trans (.trans ?_ (setPoison_strands ..)) (chargeEvict_strands ..)
    exact putWord_strands ..
  · exact putWord_strands ..

theorem dropHeld_strands (s : State) (h : Holder) (w : Nat) : sameStrands s (s.dropHeld h w) := by
  unfold State.dropHeld
  cases h with
  | tile t =>
    refine .withFlights ?_ _
    exact .setTile rfl
  | cluster c => exact .of_fields rfl rfl

theorem unregister_strands (s : State) (w : Nat) : sameStrands s (s.unregister w) := .of_fields rfl rfl

theorem revoke_strands (s : State) (w : Nat) : sameStrands s (s.revoke w) := by
  unfold State.revoke
  split
  · exact .refl s
  · dsimp only
    refine sameStrands.trans ?_ (unregister_strands _ w)
    split
    · exact (writeBackWord_strands ..).trans (dropHeld_strands ..)
    · exact .refl s

theorem evictWords_strands (s : State) (tile : Nat) (p : Nat → Bool) : sameStrands s (s.evictWords tile p) := by
  unfold State.evictWords
  refine (sameStrands.foldl (fun s e => ?_) _ s).trans (sameStrands.setTile rfl)
  split
  · split
    · exact .withFlights ((writeBackWord_strands ..).trans (unregister_strands _ e.1)) _
    · exact .of_fields rfl rfl
  · exact .refl s

theorem unseal_strands (s : State) (w : Nat) (keep : Option Nat) : sameStrands s (s.unseal w keep) := by
  unfold State.unseal
  dsimp only
  split
  · exact .refl s
  · refine .trans ?_ (.foldl (fun s t => evictWords_strands s t _) _ _)
    exact .of_fields rfl rfl

theorem sliceWrite_strands (s : State) (w : Nat) (cells : List (Nat × Byte)) (ws : Wsid) : sameStrands s (s.sliceWrite w cells ws) :=
  ((revoke_strands s w).trans (unseal_strands _ w none)).trans (putWord_strands ..)

theorem putRun_strands (s : State) (pa : Nat) (bytes : List Byte) (ws : Wsid) : sameStrands s (s.putRun pa bytes ws) :=
  (sameStrands.foldl (fun s a => takeSector_strands s a true) _ s).trans
    (sameStrands.foldl (fun s w => sliceWrite_strands s w (cellsIn pa bytes w) ws) _ _)

theorem writeAt_strands (s : State) (pa : Nat) (bytes : List Byte) (ws : Wsid) : sameStrands s (s.writeAt pa bytes ws) :=
  (putRun_strands s pa bytes ws).trans (noteNomem_strands ..)

theorem writePieces_strands (ws : Wsid) (l : List (Nat × Nat)) (bs : List Byte) (s : State) : sameStrands s (s.writePieces ws l bs) := by
  induction l generalizing s bs with
  | nil => exact .refl s
  | cons c r ih => exact (putRun_strands ..).trans (ih ..)

theorem vwrite_strands {s t : State} {ws va : Nat} {bs : List Byte} (h : s.vwrite ws va bs = .ok t) : sameStrands s t := by
  unfold State.vwrite at h
  split at h
  · cases h
  · cases h
    exact (writePieces_strands ..).trans (nomemRuns_strands ..)

theorem vput_strands (s : State) (ws va n v : Nat) : sameStrands s (s.vput ws va n v) := by
  unfold State.vput
  split
  next t hw => exact vwrite_strands hw
  next => exact .refl s

/-! ## The fault record and the pool (21 R352, 05 R111) -/

theorem faultRecord_strands (s : State) (ws code ltid info addr : Nat) : sameStrands s (s.faultRecord ws code ltid info addr) := by
  have miss : ∀ v, sameStrands s (s.setWsWord ws wEVCOUNT v) := fun v => writeAt_strands ..
  unfold State.faultRecord
  dsimp only
  split
  · exact miss _
  · split
    · exact miss _
    · split
      next => exact miss _
      next t hw => exact ((vsee_strands ..).trans (vwrite_strands hw)).trans (vput_strands ..)

theorem freeFrame_strands (s : State) (ltid ws f : Nat) : sameStrands s (s.freeFrame ltid ws f) := by
  unfold State.freeFrame
  split
  · exact .refl s
  · split
    · exact .of_fields rfl rfl
    · dsimp only
      split
      next => exact faultRecord_strands ..
      next h _ =>
        split
        next => exact faultRecord_strands ..
        next t hw => exact ((vsee_strands ..).trans (vwrite_strands hw)).trans (vput_strands ..)

end Sys2Proof.Machine
end

section
/-! SUPPORT. The steps of a tile's agents (O48): each event's operation, in the case that a clause of the statement names. -/

namespace Sys2Proof.Machine

open Sys2Proof.Safety

theorem Thread.readX_writeX_self (h : Thread) (r : Reg) (v : Word) : (h.writeX r v).readX r = if r = 0 then 0 else v := by
  rw [Thread.readX_writeX]
  by_cases hr : r = 0
  · simp [hr, Thread.readX]
  · rw [if_pos ⟨rfl, hr⟩, if_neg hr]

theorem completes_next {i : Instr} {s t : State} {P : State → Prop} (h : exec i s = .next t) (hP : P t) : completes i s P := ⟨t, h, hP⟩

/-! ## Contexts read back -/

@[simp] theorem State.cx_setTile (s : State) (n : Nat) (T : Tile) (c : Fin 8) : (s.setTile n T).cx n c = T.ctx[c] := by
  rw [State.cx, State.tileAt_setTile_same]

@[simp] theorem State.cx_setCx (s : State) (n : Nat) (c : Fin 8) (k : Context) : (s.setCx n c k).cx n c = k := by
  simp [State.setCx]

theorem State.cx_withFaulted (s : State) (f : List (Nat × Word)) (n : Nat) (c : Fin 8) : ({ s with faulted := f } : State).cx n c = s.cx n c := rfl

@[simp] theorem Tile.side_setSide (T : Tile) (sd : Side) (x : SideCore) : (T.setSide sd x).side sd = x := by
  cases sd <;> rfl

/-! ## Replies (02 R28, 05 R105) -/

theorem Context.discards_iff (k : Context) : k.discards = true ↔ k.evict ≠ none ∧ k.pending = none := by
  simp [Context.discards, Option.isSome_iff_ne_none]

section
variable {s : State} {i : Nat} {src : Src} {rd : Reg} {v : Word} {c : Fin 8} (flies : s.flights[i]? = some (.reply src rd v))
  (agent : src.agent = .ctx c) (inc : (s.tileAt src.tile).ctx[c].inc = src.inc) (waits : (s.tileAt src.tile).ctx[c].st = .waiting .reply)
include flies agent inc waits

/-- The reply finds the context that waits for it: it is lost where a pre-emption has discarded the request, and else it brings rd. -/
theorem State.doReply_waiting : s.doReply i =
    if (s.tileAt src.tile).ctx[c].discards then s
    else ({ s with flights := s.flights.eraseIdx i } : State).setCx src.tile c
      { (s.tileAt src.tile).ctx[c] with th := (s.tileAt src.tile).ctx[c].th.writeX rd v, st := .ready } := by
  have same : ({ s with flights := s.flights.eraseIdx i } : State).tileAt src.tile = s.tileAt src.tile := rfl
  unfold State.doReply
  rw [flies]
  dsimp only
  rw [agent]
  dsimp only
  rw [same, if_pos (by rw [inc, waits]; simp)]
  rfl
end

/-! ## The end of a strand (06 R120) -/

theorem State.cx_freeCx (s : State) (n : Nat) (c : Fin 8) : (s.freeCx n c).cx n c = { Context.reset with inc := (s.cx n c).inc + 1 } := by
  simp [State.freeCx, State.cx]

theorem State.freeCx_free (s : State) (n : Nat) (c : Fin 8) : ((s.freeCx n c).cx n c).st = .free := by rw [State.cx_freeCx]; rfl

theorem State.endStrandAs_free (s : State) (n : Nat) (c : Fin 8) (how : EndKind) (nested : Nat × Nat) :
    ((s.endStrandAs n c how nested).cx n c).st = .free := State.freeCx_free ..

theorem State.endStrand_free (s : State) (n : Nat) (c : Fin 8) (how : EndKind) : ((s.endStrand n c how).cx n c).st = .free :=
  State.endStrandAs_free ..

/-- However a trap is delivered, its strand has left the context (05 R108 to R111, R114). -/
theorem State.deliverTrap_free (s : State) (n : Nat) (c : Fin 8) (tr : Trap) : ((s.deliverTrap n c tr).cx n c).st = .free := by
  unfold State.deliverTrap
  dsimp only
  generalize (if tr.code == trPOISON then _ else _ : State) = landed
  split
  · exact State.endStrandAs_free ..
  · split
    · exact State.endStrand_free ..
    · split
      · exact State.endStrand_free ..
      · exact State.endStrand_free ..
      · split
        · rw [State.cx_withFaulted]
          exact State.freeCx_free ..
        · rw [(freeFrame_strands ..).cx]
          exact State.endStrand_free ..

theorem State.doTrapDelivery_free {s : State} {n : Nat} {c : Fin 8} {tr : Trap} (waits : (s.cx n c).st = .waiting .trap)
    (pending : (s.cx n c).pending = some tr) (quiet : s.quiet n c = true) : ((s.doTrapDelivery n c).cx n c).st = .free := by
  unfold State.doTrapDelivery
  dsimp only
  rw [waits, pending]
  dsimp only
  rw [if_pos quiet]
  exact State.deliverTrap_free ..

/-! ## Pre-emption (05 R105, R106) -/

theorem State.preempt_begins {s : State} {n : Nat} {c : Fin 8} {cause : Nat} {m : SaveMode} (ready : (s.cx n c).st = .ready)
    (noTrap : (s.cx n c).pending = none) (new : (s.cx n c).evict = none)
    (small : ((s.cx n c).preemptNeed cause ((s.tileAt n).mayFlag (s.srcOf n c))).needsFrame = false) :
    s.preempt n c cause m = s.stopWith n c cause none := by
  unfold State.preempt
  dsimp only
  rw [ready, noTrap]
  dsimp only
  rw [new]
  simp [State.beginPreempt, small]

theorem State.stopWith_noFrame (s : State) (n : Nat) (c : Fin 8) (cause : Nat) : s.stopWith n c cause none =
    (s.setTile n ((s.tileAt n).stopIssue c (BitVec.ofNat 8 cause))).setCx n c
      { ((s.tileAt n).stopIssue c (BitVec.ofNat 8 cause)).ctx[c] with frame := none } := by
  unfold State.stopWith
  dsimp only
  rw [State.cx_setTile]

theorem State.drainTensor_idle {s : State} {n : Nat} {src : Src} (idle : (s.tileAt n).tensorBusy src = false) (fuel : Nat) :
    s.drainTensor n src fuel = s := by
  cases fuel with
  | zero => rfl
  | succ k => simp [State.drainTensor, idle]

/-- A pre-emption under way comes to the save once nothing of the strand is outstanding. -/
theorem State.preempt_saves {s : State} {n : Nat} {c : Fin 8} {cause : Nat} {m : SaveMode} {why : Byte}
    (still : (s.cx n c).st = .ready ∨ (s.cx n c).st = .waiting .reply) (noTrap : (s.cx n c).pending = none)
    (underWay : (s.cx n c).evict = some why) (idle : (s.tileAt n).tensorBusy (s.srcOf n c) = false)
    (stored : s.storesOut (s.srcOf n c) = false) : s.preempt n c cause m = s.evictStrand n c cause m := by
  unfold State.preempt
  dsimp only
  rw [State.drainTensor_idle idle]
  rcases still with h | h <;> (rw [h, noTrap]; simp [underWay, idle, stored])

/-- A save that needs no frame is done. -/
theorem State.saveStrand_noFrame {sv : Save} (h : sv.needsFrame = false) (s : State) (n : Nat) (c : Fin 8) (m : SaveMode) :
    ∃ s1, s.saveStrand n c sv m = (s1, .done) := by
  unfold State.saveStrand
  dsimp only
  rw [h]
  exact ⟨_, rfl⟩

theorem State.qDies_headD_lt (s : State) (ws q : Nat) (h : QHead) : (s.qDies ws q h).headD 0 < 4 := by
  have inRange : ∀ p : Nat → Bool, ((List.range 4).filter p).headD 0 < 4 := fun p => by
    cases hl : (List.range 4).filter p with
    | nil => decide
    | cons d ds =>
      have kept : d ∈ (List.range 4).filter p := hl ▸ List.mem_cons_self
      exact List.mem_range.mp (List.mem_of_mem_filter kept)
  unfold State.qDies
  split
  · split
    · split
      · assumption
      · decide
    · decide
  · exact inRange _

theorem State.setDie_get (s : State) (d : Fin 4) (D : Die) : (s.setDie d.val D).dies[d] = D := by
  simp [State.setDie]

/-- A record put on a resume list stands on that of some die (15 R281). -/
theorem State.pushResume_mem (s : State) (q : Word) (ws : Wsid) (rec : Word) (prio : BitVec 3) :
    ∃ d : Fin 4, { record := rec, queue := q, ws := ws, prio := prio } ∈ (s.pushResume q ws rec prio).dies[d].resume := by
  have at' : ∀ d, d < 4 → ∃ d' : Fin 4, { record := rec, queue := q, ws := ws, prio := prio } ∈
      (s.setDie d { s.die d with resume := (s.die d).resume ++ [{ record := rec, queue := q, ws := ws, prio := prio }] }).dies[d'].resume :=
    fun d hd => ⟨⟨d, hd⟩, by rw [State.setDie_get s ⟨d, hd⟩]; simp⟩
  unfold State.pushResume
  dsimp only
  split
  · exact at' _ (State.qDies_headD_lt ..)
  · exact at' 0 (by decide)

theorem State.releaseOf_tiles (s : State) (ws : Wsid) (rec : Word) : (s.releaseOf ws rec).tiles = s.tiles := by
  unfold State.releaseOf State.release
  split
  · rfl
  · dsimp only
    split <;> rfl

/-- A strand whose save needs no frame leaves its context, and its record waits on a resume list. -/
theorem State.evictStrand_resumes {s : State} {n : Nat} {c : Fin 8} {cause : Nat} (m : SaveMode)
    (small : ((s.cx n c).preemptSave cause).needsFrame = false) :
    ((s.evictStrand n c cause m).cx n c).st = .free ∧ ∃ d : Fin 4, ∃ r ∈ (s.evictStrand n c cause m).dies[d].resume,
      r.record = (s.cx n c).recAddr ∧ r.ws = (s.cx n c).wsid ∧ r.prio = (s.cx n c).prio := by
  obtain ⟨s1, saved⟩ := State.saveStrand_noFrame small s n c m
  unfold State.evictStrand
  dsimp only
  rw [saved]
  dsimp only
  constructor
  · rw [State.cx, State.tileAt]
    change ((sget n (State.releaseOf _ _ _).tiles).getD .reset).ctx[c].st = .free
    rw [State.releaseOf_tiles]
    exact State.freeCx_free ..
  · obtain ⟨d, hd⟩ := State.pushResume_mem (((s1.recordDrops n (s.cx n c).wsid (s.cx n c).th.outs).freeCx n c).releaseOf (s.cx n c).wsid (s.cx n c).recAddr)
      (s.returnQueue (s.cx n c).wsid (s.cx n c).recAddr) (s.cx n c).wsid (s.cx n c).recAddr (s.cx n c).prio
    exact ⟨d, _, hd, rfl, rfl, rfl⟩

/-! ## Switching (06 R121, R122) -/

theorem Context.canRun_iff (k : Context) : k.canRun = true ↔ k.st = .ready ∧ k.evict = none := by
  simp [Context.canRun]

/-- The first context after `last` that satisfies `p`, `j` places on. -/
theorem ctxOrder_find {p : Fin 8 → Bool} {last c : Fin 8} {j : Nat} (hj : j < 8) (hc : c.val = (last.val + 1 + j) % 8) (hp : p c = true)
    (before : ∀ j', j' < j → ∀ d : Fin 8, d.val = (last.val + 1 + j') % 8 → p d = false) : (ctxOrder last).find? p = some c := by
  rw [List.find?_eq_some_iff_getElem]
  refine ⟨hp, j, by simpa [ctxOrder] using hj, Fin.ext (by simp [ctxOrder, hc]), fun k hk => ?_⟩
  rw [before k hk _ (by simp [ctxOrder])]
  rfl

theorem State.doSwitch_first {s : State} {n : Nat} {c : Fin 8} {j : Nat} (hj : j < 8) (hc : c.val = ((s.tileAt n).last.val + 1 + j) % 8)
    (runs : (s.tileAt n).ctx[c].canRun = true)
    (before : ∀ j', j' < j → ∀ d : Fin 8, d.val = ((s.tileAt n).last.val + 1 + j') % 8 → (s.tileAt n).ctx[d].canRun = false)
    (idle : (s.tileAt n).run = none) :
    s.doSwitch n = s.setTile n { s.tileAt n with ctx := (s.tileAt n).ctx.set c { (s.tileAt n).ctx[c] with st := .running }, run := some c } := by
  have found := ctxOrder_find (p := fun c => (s.tileAt n).ctx[c].canRun) hj hc runs before
  unfold State.doSwitch
  dsimp only
  rw [if_neg (by simp [idle]), found]

theorem State.doRunlimit_switches {s : State} {n : Nat} {c d : Fin 8} (on : (s.tileAt n).run = some c) (limit : (s.tileAt n).ctx[c].runlimit ≠ 0)
    (other : (s.tileAt n).ctx[d].canRun = true) :
    s.doRunlimit n = s.setTile n
      { s.tileAt n with ctx := (s.tileAt n).ctx.set c { (s.tileAt n).ctx[c] with st := .ready, claim := false }, run := none, last := c } := by
  have someRuns : (s.tileAt n).ctx.any Context.canRun = true := Vector.any_eq_true.mpr ⟨d.val, d.isLt, other⟩
  unfold State.doRunlimit
  dsimp only
  rw [on]
  dsimp only
  rw [if_neg (by simpa [someRuns] using limit)]

/-! ## Side cores (06 R125, R126) -/

/-- A side core whose image has been read begins, with the image in its instruction store. -/
theorem State.side_doImage {s u : State} {n : Nat} {sd : Side} {ps : List (List (EPlace × Nat))} {id : EngId}
    (hid : id = { tile := n, who := whoOf n (if sd = .loader then 8 else 9), ws := ((s.tileAt n).side sd).wsid, locks := false })
    (loading : ((s.tileAt n).side sd).st = .loading)
    (read : s.engAll id needLoad (chunksOf ((s.tileAt n).side sd).goImg.toNat (loadLen ((s.tileAt n).side sd).goLen)) [] = .done ps none u) :
    ((s.doImage n sd).tileAt n).side sd = SideCore.begin { (s.tileAt n).side sd with
      imem := mwrite ((s.tileAt n).side sd).imem 0 (ps.flatMap ((ps.foldl (fun w r => (w.engTouchAll id r).engNomem id r) u).engBytes id))
      loaded := loadLen ((s.tileAt n).side sd).goLen } := by
  subst hid
  unfold State.doImage
  dsimp only
  rw [if_neg (by simp [loading]), read]
  dsimp only
  rw [State.tileAt_setTile_same, Tile.side_setSide]

theorem Tile.side_deviceMail (T : Tile) (m : BitVec 128) (sd : Side) : (T.deviceMail m).side sd = T.side sd := by
  unfold Tile.deviceMail
  split <;> cases sd <;> rfl

theorem State.sideTrap_trapped (s : State) (n : Nat) (sd : Side) (code : Byte) (payload : Word) :
    (((s.sideTrap n sd code payload).tileAt n).side sd).st = .trapped ∧ (((s.sideTrap n sd code payload).tileAt n).side sd).tcode = code := by
  unfold State.sideTrap
  dsimp only
  rw [State.tileAt_setTile_same, Tile.side_deviceMail, Tile.side_setSide]
  exact ⟨rfl, rfl⟩

theorem State.doSideTrap_running {s : State} {n : Nat} {sd : Side} {tr : Trap} (running : ((s.tileAt n).side sd).st = .running)
    (pending : ((s.tileAt n).side sd).pending = some tr) : s.doSideTrap n sd = s.sideTrap n sd tr.code tr.taddr := by
  unfold State.doSideTrap
  dsimp only
  rw [running, pending]

/-! ## Records picked up (15 R281, 01 R11, R12, R19) -/

theorem State.die_get (s : State) (d : Fin 4) : s.die d.val = s.dies[d] := by
  simp [State.die, Vector.getD]

/-- Where no queue has a packet and no die keeps one, a record alone is all there is to choose. -/
theorem State.choices_record {s : State} {d : Fin 4} {r : Resumable} (powered : s.powered = true) (noQueue : ∀ q : Fin 4, s.dies[q].queues = [])
    (noHead : s.dies[d].heads = []) (one : s.dies[d].resume = [r]) (valid : s.wsValid r.ws.toNat = true) (whole : s.ofFailedGang r = false) :
    s.choices d.val = (s, [{ prio := r.prio.toNat, packet := false, arr := 0, work := .record 0 }]) := by
  have empty : s.dies.toList.flatMap (·.queues) = [] := List.flatMap_eq_nil_iff.mpr fun D hD => by
    obtain ⟨j, hj, rfl⟩ := List.mem_iff_getElem.mp hD
    simpa using noQueue ⟨j, by simpa using hj⟩
  have heads : s.headsOf d.val = (s, []) := by simp [State.headsOf, State.served, empty]
  unfold State.choices
  rw [heads]
  dsimp only
  rw [State.die_get, one, noHead]
  simp [powered, valid, whole]

theorem selfInvalidate_strands (s : State) (n : Nat) : sameStrands s (s.selfInvalidate n) := by
  unfold State.selfInvalidate
  dsimp only
  refine .withFlights ?_ _
  exact .setTile rfl

theorem seeRecord_strands (s : State) (ws : Wsid) (rec : Word) : sameStrands s (s.seeRecord ws rec) := by
  unfold State.seeRecord
  dsimp only
  split
  · exact vsee_strands ..
  · split
    · exact vsee_strands ..
    · split
      · exact vsee_strands ..
      · exact (vsee_strands ..).trans (vsee_strands ..)

theorem moveMember_strands (s : State) (n old die id : Nat) : sameStrands s (s.moveMember n old die id) := by
  unfold State.moveMember
  split
  · exact .refl s
  · dsimp only
    refine .trans (.trans (.setTile_unless _ ?_) (.setTile_unless _ ?_)) (.setDie ?_) <;> rfl

theorem placedAt_strands (s : State) (n : Nat) (ws now : Wsid) (rec : Word) : sameStrands s (s.placedAt n ws now rec) := by
  unfold State.placedAt
  split
  · exact .refl s
  · dsimp only
    split
    · split
      · exact .of_fields rfl rfl
      · refine .trans ?_ (moveMember_strands ..)
        exact .of_fields rfl rfl
    · exact .of_fields rfl rfl

/-- A record that names no frame brings its context, and nothing else of the strands changes. -/
theorem State.pickup_frameless {s : State} {n : Nat} {c : Fin 8} {r : Resumable} {x : Context} {panels : List (Nat × Panel)}
    (read : s.readRecord r.ws (s.cx n c).inc r.record = some { k := x, arg := [], argBad := [], panels := panels, frame := 0 }) :
    ∃ t, s.pickup n c r = some t ∧ t.cx n c = { x with claim := false } ∧ ∀ d : Fin 4, t.dies[d].resume = s.dies[d].resume := by
  change s.readRecord r.ws (s.tileAt n).ctx[c].inc r.record = _ at read
  let T1 := (s.tileAt n).restorePanels panels
  let placed := (s.seeRecord r.ws r.record).setTile n { T1 with ctx := T1.ctx.set c { x with claim := false } }
  have up : s.pickup n c r = some ((placed.placedAt n r.ws x.wsid r.record).selfInvalidate n) := by
    unfold State.pickup
    dsimp only
    rw [read]
    rfl
  have kept := (placedAt_strands placed n r.ws x.wsid r.record).trans (selfInvalidate_strands _ n)
  refine ⟨_, up, ?_, fun d => ?_⟩
  · rw [kept.cx, State.cx_setTile]
    simp
  · rw [kept.resume]
    exact (seeRecord_strands s r.ws r.record).resume d

/-- DISPATCH and RECORD_PICKUP of the one record that there is to choose. -/
theorem State.dispatch_record {s : State} {d : Fin 4} {r : Resumable} {n : Nat} {c : Fin 8} (one : s.dies[d].resume = [r])
    (choices : s.choices d.val = (s, [{ prio := r.prio.toNat, packet := false, arr := 0, work := .record 0 }]))
    (die : n / 256 = d.val) (tile : s.pickTile d.val r.ws = some n) (ctx : (s.tileAt n).freeCtxs.head? = some c) :
    let p := (s.setDie d.val { s.die d.val with resume := [] }).pickup n c r
    s.doDispatch d.val = p.getD s ∧ s.doPickup n c = p.getD s := by
  have record : (s.die d.val).resume = [r] := by rw [State.die_get, one]
  constructor
  · obtain ⟨rest, free⟩ : ∃ rest, (s.tileAt n).freeCtxs = c :: rest := List.head?_eq_some_iff.mp ctx
    simp [State.doDispatch, choices, State.tryPlace, record, tile, free]
  · simp [State.doPickup, die, choices, record, tile, ctx]

/-! ## Limits of waits, retries, messages (09 R187, 05 R107, R111, R117, 15 R293, 06 R134) -/

/-- A packet tried again where its queue has room, or is still full. -/
theorem State.doFaultQueueRetry_tried {s s1 : State} {i st : Nat} {r : Retry} (at' : s.fqRetry[i]? = some r) (later : r.since < s.tick)
    (tried : s.enqueue r.ws r.queue r.packet = (s1, st)) :
    (st = stOK → s.doFaultQueueRetry i = { s1 with fqRetry := s1.fqRetry.eraseIdx i })
    ∧ (st = stFULL → s.doFaultQueueRetry i = { s1 with fqRetry := s1.fqRetry.set i { r with since := s1.tick } }) := by
  unfold State.doFaultQueueRetry
  rw [at']
  dsimp only
  rw [if_neg (by omega), tried]
  exact ⟨fun h => by subst h; rfl, fun h => by subst h; rfl⟩

section
variable {s : State} {n : Nat} {c : Fin 8}

theorem execWfiTimeout_waiting {ph : NatSet} (waits : (s.cx n c).st = .waiting (.wfi ph)) :
    execWfiTimeout n c s = .next (s.setCx n c { s.cx n c with st := .ready, expired := true }) := by
  unfold execWfiTimeout
  rw [waits]

theorem execGbwaitTimeout_waiting {ch : BitVec 3} (waits : (s.cx n c).st = .waiting (.barrier ch)) (limit : (s.cx n c).gbtimeout ≠ 0) :
    execGbwaitTimeout n c s = .next (s.setCx n c { s.cx n c with st := .ready, expired := true }) := by
  unfold execGbwaitTimeout
  rw [waits]
  dsimp only
  rw [if_neg limit]

theorem execWwaittTimeout_waiting {a : Fin 10} {off : Nat} {p : Bool} (ha : a.val = c.val) (waits : (s.cx n c).st = .waiting (.phase off p true)) :
    execWwaittTimeout n a s = .next (s.setCx n c { s.cx n c with st := .ready, expired := true }) := by
  have hlt : a.val < 8 := ha ▸ c.isLt
  have hc : (⟨a.val, hlt⟩ : Fin 8) = c := Fin.ext ha
  unfold execWwaittTimeout
  rw [dif_pos hlt]
  dsimp only
  rw [hc, waits]

theorem execSuspensionRetry_waiting (waits : (s.cx n c).st = .waiting .frame) (later : (s.cx n c).retryTick < s.tick) :
    execSuspensionRetry n c s = .next (s.setCx n c { s.cx n c with st := .ready, retryTick := s.tick }) := by
  unfold execSuspensionRetry
  rw [waits]
  dsimp only
  rw [if_pos later]

theorem execMailboxDeferredPlace_room {m : BitVec 128} {rest : List (BitVec 128)} (wait : (s.tileAt n).mailWait = m :: rest)
    (room : (s.tileAt n).mail.length < 64) : execMailboxDeferredPlace n s =
      .next (s.setTile n { (s.tileAt n).wakeWfi with mail := (s.tileAt n).mail ++ [m], mailWait := rest }) := by
  unfold execMailboxDeferredPlace
  dsimp only
  rw [wait]
  dsimp only
  rw [if_pos room]

/-- A new pre-emption is the scheduler's, or one of a thermal shutdown. -/
theorem execPreemption_new (new : (s.cx n c).evict = none) : ∃ m, execPreemption n c s = .next (s.preempt n c 1 m) := by
  unfold execPreemption
  rw [new]
  exact ⟨_, rfl⟩

/-- One under way keeps the cause of a deadline. -/
theorem execPreemption_underWay {why : Byte} (underWay : (s.cx n c).evict = some why) :
    ∃ m, execPreemption n c s = .next (s.preempt n c (if why = 2 then 2 else 1) m) := by
  unfold execPreemption
  rw [underWay]
  by_cases deadline : why = 2
  · subst deadline
    exact ⟨_, rfl⟩
  · rw [if_neg deadline, if_neg (by simpa using deadline)]
    exact ⟨_, rfl⟩

end

/-! ## The statement -/

/-- Settles O48, clause by clause from what each event's operation does. -/
theorem agentEvents : Obligations.AgentEvents := by
  unfold Obligations.AgentEvents
  intro s n i c T k put canRun
  refine ⟨fun src rd v flies tile agent inc waits => ?reply, fun ph waits => ?wfi, fun ch waits limit => ?gbwait,
    fun a off p ha waits => ?wwaitt, fun waits later => ?frame, fun tr waits pending quiet => ?trap, fun ready noTrap new small => ?begins,
    fun why still noTrap underWay idle stored small => ?saves, fun j hj hc runs before idle => ?switch, fun d on limit other => ?runlimit,
    fun x rest wait room => ?mail, fun sd ps u loading => ?image, fun sd tr running pending => ?sideTrap,
    fun r s1 st at' later tried => ?retry,
    fun d r x panels die powered noQueue noHead one valid tile ctx read whole => ?record⟩
  case reply =>
    subst tile
    have doReply := State.doReply_waiting flies agent inc waits
    refine ⟨fun evicted noTrap => completes_next rfl ?_, fun stays => completes_next rfl ?_⟩
    · rw [doReply, if_pos ((Context.discards_iff k).mpr ⟨evicted, noTrap⟩)]
    · have here : ¬ k.discards = true := fun h =>
        have ⟨evicted, noTrap⟩ := (Context.discards_iff k).mp h
        stays.elim evicted fun trap => trap noTrap
      rw [doReply, if_neg here]
      have context := State.cx_setCx ({ s with flights := s.flights.eraseIdx i } : State) src.tile c { k with th := k.th.writeX rd v, st := .ready }
      unfold State.cx at context
      refine ⟨congrArg Context.st context, ?_, fun q hq => ?_, rfl⟩
      · rw [context, Thread.readX_writeX_self]
      · rw [context, Thread.readX_writeX, if_neg fun h => hq h.1]
  case wfi => exact completes_next (execWfiTimeout_waiting waits) rfl
  case gbwait => exact completes_next (execGbwaitTimeout_waiting waits limit) rfl
  case wwaitt => exact completes_next (execWwaittTimeout_waiting ha waits) rfl
  case frame => exact completes_next (execSuspensionRetry_waiting waits later) rfl
  case trap => exact completes_next rfl (State.doTrapDelivery_free waits pending quiet)
  case begins =>
    obtain ⟨m, step⟩ := execPreemption_new new
    rw [State.preempt_begins ready noTrap new small] at step
    exact completes_next step (State.stopWith_noFrame s n c 1)
  case saves =>
    obtain ⟨m, step⟩ := execPreemption_underWay underWay
    rw [State.preempt_saves still noTrap underWay idle stored] at step
    exact completes_next step (State.evictStrand_resumes m small)
  case switch =>
    exact completes_next rfl (State.doSwitch_first hj hc ((Context.canRun_iff _).mpr runs)
      (fun j' hj' d hd => Bool.eq_false_iff.mpr fun h => before j' hj' d hd ((Context.canRun_iff _).mp h)) idle)
  case runlimit => exact completes_next rfl (State.doRunlimit_switches on limit ((Context.canRun_iff _).mpr other))
  case mail =>
    refine completes_next (execMailboxDeferredPlace_room wait room) ?_
    rw [State.tileAt_setTile_same]
    exact ⟨rfl, rfl⟩
  case image =>
    intro id read b
    have side := State.side_doImage rfl loading read
    refine completes_next rfl ⟨congrArg SideCore.st side, congrArg (·.th.pc) side, fun j hj => ?_⟩
    have byte := mget_mwrite_inside (T.side sd).imem 0 j b hj
    rw [Nat.zero_add] at byte
    exact (congrArg (fun x => mget x.imem j) side).trans byte
  case sideTrap =>
    exact completes_next (congrArg Host.Outcome.next (State.doSideTrap_running running pending)) (State.sideTrap_trapped ..)
  case retry =>
    obtain ⟨ok, full⟩ := State.doFaultQueueRetry_tried at' later tried
    exact ⟨fun h => completes_next rfl (ok h), fun h => completes_next rfl (full h)⟩
  case record =>
    have choices := State.choices_record powered noQueue noHead one valid whole
    obtain ⟨t, up, context, resume⟩ := State.pickup_frameless read
    obtain ⟨dispatched, picked⟩ := State.dispatch_record one choices die tile ctx
    have after : (t.tileAt n).ctx[c] = { x with claim := false } ∧ t.dies[d].resume = [] :=
      ⟨context, by rw [resume, State.setDie_get]⟩
    rw [up, Option.getD_some] at dispatched picked
    exact ⟨completes_next (congrArg Host.Outcome.next dispatched) after, completes_next (congrArg Host.Outcome.next picked) after⟩

end Sys2Proof.Machine
end

section
/-! SUPPORT. The decoder against the encoder (O58, O56): the instructions one by one, put together. -/

namespace Sys2Proof.Laws.Encoding

/-- Every instruction that has a word decodes from it by its own law; a step of an engine or of the outside world has no word. -/
theorem decodes_encoded (i : Instr) : Statement i := by
  cases i with
  -- OP-IMM (02 R34)
  | addi => apply addi | slli => apply slli | srli => apply srli | srai => apply srai | slti => apply slti | sltiu => apply sltiu
  | xori => apply xori | addiw => apply addiw | ori => apply ori | andi => apply andi
  -- OP (02 R34)
  | add => apply add | sub => apply sub | sll => apply sll | srl => apply srl | sra => apply sra | slt => apply slt
  | sltu => apply sltu | and => apply and | or => apply or | xor => apply xor | min => apply min | max => apply max
  | minu => apply minu | maxu => apply maxu | addw => apply addw | subw => apply subw | sllw => apply sllw | srlw => apply srlw
  | sraw => apply sraw | clz => apply clz | ctz => apply ctz | popc => apply popc | sextB => apply sextB | sextH => apply sextH
  | sextW => apply sextW | zextW => apply zextW
  -- MULDIV (02 R34)
  | mul => apply mul | mulh => apply mulh | mulhu => apply mulhu | mulw => apply mulw | div => apply div | divu => apply divu
  | rem => apply rem | remu => apply remu | divW => apply divW | divuW => apply divuW | remW => apply remW | remuW => apply remuW
  -- upper immediates, jumps, branches (02 R35)
  | lui => apply lui | auipc => apply auipc | jal => apply jal | jalr => apply jalr | beq => apply beq | bne => apply bne
  | blt => apply blt | bge => apply bge | bltu => apply bltu | bgeu => apply bgeu
  -- FP (02 R36)
  | fadd => apply fadd | fsub => apply fsub | fmul => apply fmul | fmac => apply fmac | fdiv => apply fdiv | fsqrt => apply fsqrt
  | fmin => apply fmin | fmax => apply fmax | fcmpEq => apply fcmpEq | fcmpLt => apply fcmpLt | fcmpLe => apply fcmpLe
  | fclass => apply fclass | fsgnj => apply fsgnj | fsgnjN => apply fsgnjN | fsgnjX => apply fsgnjX | fcvt => apply fcvt
  -- LOAD, STORE (02 R37)
  | lb => apply lb | lbu => apply lbu | lh => apply lh | lhu => apply lhu | lw => apply lw | lwu => apply lwu | ld => apply ld
  | lacq => apply lacq | sb => apply sb | sh => apply sh | sw => apply sw | sd => apply sd | srel => apply srel
  | pref => apply pref
  -- CSR, SYSTEM, REGION (02 R38, R39)
  | csrrd => apply csrrd | csrwr => apply csrwr | csrset => apply csrset | csrclr => apply csrclr | ecall => apply ecall
  | ebreak => apply ebreak | eret => apply eret | wfi => apply wfi | halt => apply halt | tlbsync => apply tlbsync
  | rgn => apply rgn | rgnv => apply rgnv
  -- ATOMIC, BANKFN, FENCE (02 R40)
  | amoadd => apply amoadd | amoand => apply amoand | amoor => apply amoor | amoxor => apply amoxor | amomin => apply amomin
  | amomax => apply amomax | amominu => apply amominu | amomaxu => apply amomaxu | amoswp => apply amoswp | amocas => apply amocas
  | amofadd => apply amofadd | bfnld => apply bfnld | bupd => apply bupd | fence => apply fence | fenceE => apply fenceE
  -- TAGMEM (02 R41)
  | ldf => apply ldf | ldff => apply ldff | ste => apply ste | stf => apply stf | tgset => apply tgset | tgclr => apply tgclr
  -- WEIR (02 R42)
  | winit => apply winit | wjoin => apply wjoin | wleave => apply wleave | warr => apply warr | warrd => apply warrd
  | wexp => apply wexp | wwait => apply wwait | wwaitt => apply wwaitt | wtest => apply wtest
  -- MAILBOX, MSG, FURROW (02 R43)
  | mrecv => apply mrecv | mpeek => apply mpeek | mwait => apply mwait | put => apply put | get => apply get
  | notify => apply notify | fopen => apply fopen | fsend => apply fsend | frecv => apply frecv | fclose => apply fclose
  -- SCHED, DOMAIN, ROLE, COPY, QUEUE (02 R44)
  | enq => apply enq | rclaim => apply rclaim | rsplit => apply rsplit | depdec => apply depdec | tdone => apply tdone
  | susp => apply susp | yield => apply yield | gbar => apply gbar | gbwait => apply gbwait | vote => apply vote
  | ssend => apply ssend | lease => apply lease | unlease => apply unlease | roleq => apply roleq | ntcack => apply ntcack
  | tcopy => apply tcopy | cpcancel => apply cpcancel | cpstat => apply cpstat | qpush => apply qpush | qpop => apply qpop
  -- VECTOR (02 R45)
  | vadd => apply vadd | vsub => apply vsub | vmul => apply vmul | vfma => apply vfma | vmin => apply vmin | vmax => apply vmax
  | vabs => apply vabs | vneg => apply vneg | vand => apply vand | vor => apply vor | vxor => apply vxor | vshl => apply vshl
  | vshr => apply vshr | vsra => apply vsra | vsel => apply vsel | vmv => apply vmv | vcmpEq => apply vcmpEq
  | vcmpNe => apply vcmpNe | vcmpLt => apply vcmpLt | vcmpLe => apply vcmpLe | vcmpGt => apply vcmpGt | vcmpGe => apply vcmpGe
  | vcmpLtu => apply vcmpLtu | vcmpGeu => apply vcmpGeu | vbcast => apply vbcast | vextr => apply vextr | vins => apply vins
  | vperm => apply vperm | vslide => apply vslide | viota => apply viota | vmpop => apply vmpop | vredsum => apply vredsum
  | vredmax => apply vredmax | vredmin => apply vredmin | vscan => apply vscan | vcvt => apply vcvt | vpack => apply vpack
  | vunpack => apply vunpack | vdot => apply vdot | vld => apply vld | vst => apply vst | vlds => apply vlds | vsts => apply vsts
  | vgath => apply vgath | vscat => apply vscat | vldg => apply vldg | vstg => apply vstg | vexp2 => apply vexp2
  | vlog2 => apply vlog2 | vrcp => apply vrcp | vrsqrt => apply vrsqrt | vquant => apply vquant | vdeq => apply vdeq
  | kand => apply kand | kor => apply kor | kxor => apply kxor | knot => apply knot
  -- PANEL and TENSOR (02 R46)
  | mma => apply mma | zld => apply zld | zst => apply zst | zzero => apply zzero | zcvt => apply zcvt | zscl => apply zscl
  | zxp => apply zxp | zmovv => apply zmovv | vmovz => apply vmovz
  -- SERVE, KV, DAE (02 R47)
  | bform => apply bform | bcommit => apply bcommit | rqfork => apply rqfork | rqevict => apply rqevict | rqstat => apply rqstat
  | slotrd => apply slotrd | kvapp => apply kvapp | kvlook => apply kvlook | kvrel => apply kvrel | dattn => apply dattn
  -- CSR accesses with a step of their own (09 R195, 08 R163, R165, 15 R294, 06 R125)
  | cpGo => apply cpGo | ttinv => apply ttinv | zcfgWrite => apply zcfgWrite | xsdataWrite => apply xsdataWrite
  | sideCoreGo => apply sideCoreGo | sideCoreStop => apply sideCoreStop
  -- the steps, which have no word
  | _ => exact fun _ _ noWord => nomatch noWord

/-- Settles O58, from the law of each instruction's word. -/
theorem decodeEncode : Obligations.DecodeEncode := by
  unfold Obligations.DecodeEncode
  exact decodes_encoded

/-- Settles O56: each of the words is the one that the encoder makes of its instruction, which the law of the instruction gives back. -/
theorem wordsDecode : Obligations.WordsDecode := by
  unfold Obligations.WordsDecode
  exact ⟨add false 5 6 7 _ rfl rfl, sub false 5 6 7 _ rfl rfl, srai false 9 9 3 _ rfl rfl, divuW false 10 11 12 _ rfl rfl,
    lui false 5 0x2468B _ rfl rfl, addi false 5 5 (-392) _ rfl rfl, fmac false .f64 10 11 12 _ rfl rfl, ld false 6 5 16 _ rfl rfl,
    sd false 8 5 24 _ rfl rfl, ecall false 17 _ rfl rfl, eret false _ rfl rfl, csrrd false 5 0x054 _ rfl rfl,
    vredsum false 0 .fp32 10 8 11 _ rfl rfl, rgn false 0x210 _ rfl rfl⟩

end Sys2Proof.Laws.Encoding
end

section
/-! SUPPORT. One step of the package (O55): the turn taken, and what the acting agent does with the word that it fetches. -/

namespace Sys2Proof.Machine

/-- The instruction of a fetched word is executed, but where the word names a v register that a queued VMOVZ has still to write (08 R164). -/
theorem runWord_decoded {u : State} {w : IWord} {i : Instr} (fetched : u.fetchWord = .ok w) (decoded : decodeWord w = .ok i) :
    runWord u = if u.interlocked w then .next u else exec i u := by
  simp only [runWord, fetched, decoded]

theorem runWord_illegal {u : State} {w : IWord} {e : DecodeError} (fetched : u.fetchWord = .ok w) (refused : decodeWord w = .error e) :
    runWord u = .next (u.illegalWord w) := by
  simp only [runWord, fetched, refused]

theorem runWord_unfetched {u t : State} (failed : u.fetchWord = .error t) : runWord u = .next t := by
  simp only [runWord, failed]

/-- An agent of a tile that exists runs a word where it may issue, and nothing where it may not. -/
theorem runAgent_tile {n : Nat} (tile : n < 1024) (a : Agent) (s : State) : runAgent n a s =
    if ({ s with curTile := n, curAgent := a } : State).mayIssue then runWord { s with curTile := n, curAgent := a }
    else .next { s with curTile := n, curAgent := a } := by
  rw [runAgent, if_pos tile]

/-- A step takes the first of the turns that are given (log 4). -/
theorem step_turn {s : State} {t : Turn} {rest : List Turn} (turns : s.turns = t :: rest) :
    step s = settled (runTurn t { s with turns := rest }) := by
  simp only [step, State.nextTurn, turns]

theorem runTurn_event {i : Instr} (noWord : encode i = none) (wf : i.wf = true) (s : State) : runTurn (.event i) s = exec i s := by
  simp [runTurn, isEvent, noWord, wf]

/-- A strand whose page the TLB maps for execution, and whose line the instruction cache holds, fetches its word (02 R48, 06 R374). -/
theorem State.fetchWord_cached {u : State} {c : Fin 8} {k : Nat} {e : TlbEntry} {l : ICLine} (strand : u.curAgent = .ctx c)
    (noTrap : u.ctx.pending = none) (below : u.pc.toNat < globalEnd) (here : u.fabPlace u.ws.toNat u.pc.toNat = .here)
    (mapped : u.tile.tlbFind u.ws u.pc.toNat = some (k, e)) (executable : e.x = true)
    (cached : u.tile.icLine u.ws (e.pa + (u.pc.toNat - e.va)) = some l) :
    u.fetchWord = .ok (l.word (e.pa + (u.pc.toNat - e.va))) := by
  have line : u.fetchLine u.pc.toNat = .ok (l, e.pa + (u.pc.toNat - e.va)) := by
    unfold State.fetchLine
    rw [if_neg (by omega), here]
    dsimp only
    rw [mapped]
    dsimp only
    rw [executable, cached]
    rfl
  unfold State.fetchWord
  rw [strand]
  dsimp only
  rw [noTrap]
  dsimp only
  rw [line]

/-- Settles O55: of an agent's turn, by whether it may issue and by what it fetches; of an operation that has no word, by its turn. -/
theorem stepRunsTheDecodedInstruction : Obligations.StepRunsTheDecodedInstruction := by
  unfold Obligations.StepRunsTheDecodedInstruction
  intro s n a rest tile turns u
  have taken : step s = settled (if u.mayIssue then runWord u else .next u) :=
    (step_turn turns).trans (congrArg settled (runAgent_tile tile a _))
  refine ⟨fun may => ?issues, fun mayNot => ?idle, fun c k e l strand noTrap below here mapped x cached => ?fetch,
    fun i r noWord wf => (step_turn rfl).trans (congrArg settled (runTurn_event noWord wf _))⟩
  case idle =>
    rw [taken, mayNot]
    rfl
  case fetch =>
    exact State.fetchWord_cached strand noTrap below here mapped x cached
  case issues =>
    rw [if_pos may] at taken
    refine ⟨fun w i fetched decoded free => ?_, fun w i fetched decoded waits => ?_, fun w e fetched refused => ?_, fun t failed => ?_⟩
    · rw [runWord_decoded fetched decoded, free] at taken
      exact ⟨taken, fun t next => taken.trans (congrArg settled next)⟩
    · rw [runWord_decoded fetched decoded, waits] at taken
      exact taken
    · rw [runWord_illegal fetched refused] at taken
      exact taken
    · rw [runWord_unfetched failed] at taken
      exact taken

end Sys2Proof.Machine
end

section
/-! SUPPORT. Integer instructions, upper immediates, jumps and branches (O1 to O5): the model's functions said as the spec says them. -/

namespace Sys2Proof.Machine

open Sys2Proof.Safety

/-! ## Shifts, orders, low words (04 R79) -/

theorem lo32_eq (a : Word) : lo32 a = a.extractLsb' 0 32 := BitVec.setWidth_eq_extractLsb' (by decide)

theorem extractLsb'_six (b : Word) : (b.extractLsb' 0 6).toNat = b.toNat % 64 := by simp
theorem extractLsb'_five (b : Word) : (b.extractLsb' 0 5).toNat = b.toNat % 32 := by simp

theorem shamt_toNat (sh : BitVec 6) : (sh.setWidth 64).toNat % 64 = sh.toNat := by
  have := sh.isLt
  rw [BitVec.toNat_setWidth]
  omega

theorem slt64_eq (a b : Word) : slt64 a b = if a.toInt < b.toInt then 1 else 0 := by simp [slt64, BitVec.slt]
theorem sltu64_eq (a b : Word) : sltu64 a b = if a.toNat < b.toNat then 1 else 0 := by simp [sltu64, BitVec.ult]

theorem toInt_immI (imm : BitVec 11) : (immI imm).toInt = imm.toInt := BitVec.toInt_signExtend_of_le (by decide)

theorem toInt_minS (a b : Word) : (minS a b).toInt = min a.toInt b.toInt := by
  simp only [minS, BitVec.slt, decide_eq_true_eq]
  split <;> omega

theorem toInt_maxS (a b : Word) : (maxS a b).toInt = max a.toInt b.toInt := by
  simp only [maxS, BitVec.slt, decide_eq_true_eq]
  split <;> omega

theorem toNat_minU (a b : Word) : (minU a b).toNat = min a.toNat b.toNat := by
  simp only [minU, BitVec.ult, decide_eq_true_eq]
  split <;> omega

theorem toNat_maxU (a b : Word) : (maxU a b).toNat = max a.toNat b.toNat := by
  simp only [maxU, BitVec.ult, decide_eq_true_eq]
  split <;> omega

/-! ## Bit counts (04 R80) -/

theorem bitLen_spec (n : Nat) : n < 2 ^ bitLen n ∧ (bitLen n ≠ 0 → n.testBit (bitLen n - 1) = true) := by
  unfold bitLen
  split
  next zero => simp [zero]
  next pos => exact ⟨Nat.lt_log2_self, fun _ => by simpa using Nat.testBit_log2 pos⟩

theorem bitLen_le {n k : Nat} (h : n < 2 ^ k) : bitLen n ≤ k := by
  unfold bitLen
  split
  · exact Nat.zero_le k
  next pos => exact (Nat.log2_lt pos).mpr h

/-- The leading zeros: every bit above position 63 − n is zero, and this one is one. -/
theorem clz64_spec (a : Word) : clz64 a ≤ 64 ∧ a.toNat < 2 ^ (64 - clz64 a) ∧ (clz64 a < 64 → a.getLsbD (63 - clz64 a) = true) := by
  have width : bitLen a.toNat ≤ 64 := bitLen_le a.isLt
  obtain ⟨below, top⟩ := bitLen_spec a.toNat
  have len : 64 - clz64 a = bitLen a.toNat := by unfold clz64; omega
  refine ⟨Nat.sub_le .., by rwa [len], fun some => ?_⟩
  have pos : 63 - clz64 a = bitLen a.toNat - 1 := by omega
  rw [pos]
  exact top (by omega)

/-- The trailing zeros: every bit below position n is zero, and this one is one. -/
theorem ctz64_spec (a : Word) : ctz64 a ≤ 64 ∧ a.toNat % 2 ^ ctz64 a = 0 ∧ (ctz64 a < 64 → a.getLsbD (ctz64 a) = true) := by
  have zeros : ∀ n, (∀ j < n, a.getLsbD j = false) → a.toNat % 2 ^ n = 0 := fun n h => by
    refine Nat.eq_of_testBit_eq fun j => ?_
    rw [Nat.testBit_mod_two_pow, Nat.zero_testBit, Bool.and_eq_false_imp]
    exact fun hj => h j (by simpa using hj)
  unfold ctz64
  cases found : (List.range 64).find? a.getLsbD with
  | none =>
    have none : ∀ j < 64, a.getLsbD j = false := by simpa using found
    exact ⟨le_refl 64, zeros 64 none, fun h => absurd h (lt_irrefl 64)⟩
  | some n =>
    rw [List.find?_range_eq_some] at found
    obtain ⟨one, small, before⟩ := found
    exact ⟨(List.mem_range.mp small).le, zeros n fun j hj => by simpa using before j hj, fun _ => one⟩

theorem popc_eq_countP (a : Word) : popc 64 a = (List.range 64).countP fun i => a.getLsbD i := by
  rw [popc, List.countP_eq_length_filter]

/-! ## Products and quotients (04 R81, R82) -/

theorem mulhS_eq (a b : Word) : mulhS a b = (BitVec.ofInt 128 (a.toInt * b.toInt)).extractLsb' 64 64 := by
  unfold mulhS
  generalize a.toInt * b.toInt = x
  apply BitVec.eq_of_toNat_eq
  simp only [BitVec.extractLsb'_toNat, BitVec.toNat_ofInt, Nat.shiftRight_eq_div_pow]
  omega

theorem mulhU_eq (a b : Word) : mulhU a b = (BitVec.ofNat 128 (a.toNat * b.toNat)).extractLsb' 64 64 := by
  unfold mulhU
  generalize a.toNat * b.toNat = x
  apply BitVec.eq_of_toNat_eq
  simp only [BitVec.extractLsb'_toNat, BitVec.toNat_ofNat, Nat.shiftRight_eq_div_pow]
  omega

theorem lo32_mul (a b : Word) : lo32 (a * b) = BitVec.ofNat 32 (a.toNat * b.toNat) := by
  apply BitVec.eq_of_toNat_eq
  simp [lo32]

theorem divS_eq (a b : BitVec w) : divS a b = quotS a b := by
  unfold divS quotS
  split
  · exact by rw [BitVec.ofInt_neg, ← BitVec.neg_one_eq_allOnes]; rfl
  · apply BitVec.eq_of_toInt_eq
    rw [BitVec.toInt_sdiv, BitVec.toInt_ofInt]

theorem divU_eq (a b : BitVec w) : divU a b = quotU a b := by
  unfold divU quotU
  split
  · apply BitVec.eq_of_toNat_eq
    simp
  · exact BitVec.udiv_def

theorem remS_eq (a b : BitVec w) : remS a b = restS a b := by
  unfold remS restS
  split
  · rfl
  · rw [← BitVec.toInt_srem, BitVec.ofInt_toInt]

theorem remU_eq (a b : BitVec w) : remU a b = restU a b := by
  unfold remU restU
  split
  · rfl
  · exact BitVec.umod_def

/-! ## The shapes -/

section
variable {s u : State} {m : SMark} (issued : issues s m u)
include issued

/-- A register result: what the instruction computes in the state of issue is what the rule says. -/
theorem completes_alu {i j : Instr} {rd : Reg} {f : State → Word} {v : Word} (meaning : exec i s = .next (alu j m rd f s)) (value : f u = v) :
    completes i s (fun t => writesOnly u t rd v) :=
  completes_next meaning (value ▸ alu_writes issued j rd f)

/-- A jump with its link. -/
theorem completes_link {i j : Instr} {rd : Reg} (to' : State → Word)
    (meaning : exec i s = .next (issue j m true (fun s => .jump (to' s) (s.setX rd (s.pc + 4))) s)) :
    completes i s (fun t => writesTo (to' u) 0 u t rd (u.pc + 4)) := by
  refine completes_next meaning ?_
  rw [issues_body issued (.inl rfl), afterStreams_jump]
  exact writesTo_setX u rd _ _

/-- A branch goes where its condition says. -/
theorem completes_branch {i j : Instr} {imm : BitVec 11} {cond : State → Bool} {c : Prop} [Decidable c]
    (meaning : exec i s = .next (branch j m imm cond s)) (holds : cond u = true ↔ c) :
    completes i s (fun t => jumpsTo u t (if c then u.pc + imm.signExtend 64 * 4 else u.pc + 4)) := by
  refine completes_next meaning ?_
  rw [branch, issues_body issued (.inl rfl)]
  by_cases hc : c
  · rw [if_pos hc, if_pos (holds.mpr hc), afterStreams_jump, finish_jump]
    exact jumpsTo_wentOn ..
  · rw [if_neg hc, if_neg fun h => hc (holds.mp h), afterStreams_ok, finish_ok]
    exact jumpsTo_wentOn ..

end

/-! ## The statements -/

/-- Settles O1: each form is a register result, whose value is the rule's. -/
theorem integerArithmetic : Obligations.IntegerArithmetic := by
  unfold Obligations.IntegerArithmetic
  refine ⟨fun s u m issued rd rs1 imm sh => ?immediate, fun s u m issued rd rs1 rs2 => ?register⟩
  case immediate =>
    have low := lo32_eq (u.x rs1 + immI imm)
    have amount := shamt_toNat sh
    refine ⟨completes_alu issued rfl rfl, completes_alu issued rfl ?slti, completes_alu issued rfl (sltu64_eq ..), completes_alu issued rfl rfl,
      completes_alu issued rfl rfl, completes_alu issued rfl rfl, completes_alu issued rfl (congrArg sx32 low),
      completes_alu issued rfl (congrArg (u.x rs1 <<< ·) amount), completes_alu issued rfl (congrArg (u.x rs1 >>> ·) amount),
      completes_alu issued rfl (congrArg (u.x rs1).sshiftRight amount)⟩
    case slti => rw [slt64_eq, toInt_immI]
  case register =>
    have six := (extractLsb'_six (u.x rs2)).symm
    have five := (extractLsb'_five (u.x rs2)).symm
    have low := lo32_eq (u.x rs1)
    refine ⟨completes_alu issued rfl rfl, completes_alu issued rfl rfl, completes_alu issued rfl rfl, completes_alu issued rfl rfl,
      completes_alu issued rfl rfl, completes_alu issued rfl (congrArg (u.x rs1 <<< ·) six), completes_alu issued rfl (congrArg (u.x rs1 >>> ·) six),
      completes_alu issued rfl (congrArg (u.x rs1).sshiftRight six), completes_alu issued rfl (slt64_eq ..),
      completes_alu issued rfl (sltu64_eq ..), completes_next rfl ⟨_, alu_writes issued _ rd _, toInt_minS ..⟩,
      completes_next rfl ⟨_, alu_writes issued _ rd _, toInt_maxS ..⟩, completes_next rfl ⟨_, alu_writes issued _ rd _, toNat_minU ..⟩,
      completes_next rfl ⟨_, alu_writes issued _ rd _, toNat_maxU ..⟩, completes_alu issued rfl (congrArg sx32 (lo32_eq _)),
      completes_alu issued rfl (congrArg sx32 (lo32_eq _)), completes_alu issued rfl ?sllw, completes_alu issued rfl ?srlw,
      completes_alu issued rfl ?sraw⟩
    case sllw => rw [sllw32, sx32, low, five]
    case srlw => rw [srlw32, sx32, low, five]
    case sraw => rw [sraw32, sx32, low, five]

/-- Settles O2: the counts by the bits that they leave above or below, the extensions by the bits that they keep. -/
theorem bitCountsAndExtensions : Obligations.BitCountsAndExtensions := by
  unfold Obligations.BitCountsAndExtensions
  intro s u m issued rd rs1
  obtain ⟨clzLe, clzBelow, clzTop⟩ := clz64_spec (u.x rs1)
  obtain ⟨ctzLe, ctzBelow, ctzFirst⟩ := ctz64_spec (u.x rs1)
  have low := lo32_eq (u.x rs1)
  refine ⟨completes_next rfl ⟨_, clzLe, alu_writes issued _ rd _, clzBelow, clzTop⟩,
    completes_next rfl ⟨_, ctzLe, alu_writes issued _ rd _, ctzBelow, ctzFirst⟩,
    completes_alu issued rfl (congrArg (BitVec.ofNat 64) (popc_eq_countP _)), completes_alu issued rfl ?byte, completes_alu issued rfl ?half,
    completes_alu issued rfl (congrArg sx32 low), completes_alu issued rfl (congrArg (BitVec.setWidth 64) low)⟩
  case byte => rw [BitVec.setWidth_eq_extractLsb' (by decide)]
  case half => rw [BitVec.setWidth_eq_extractLsb' (by decide)]

/-- Settles O3: the products by their low and high halves, the quotients and remainders by the value of each width. -/
theorem productsAndQuotients : Obligations.ProductsAndQuotients := by
  unfold Obligations.ProductsAndQuotients
  refine ⟨fun s u m issued rd rs1 rs2 => ?products, ?quotients⟩
  case products =>
    exact ⟨completes_alu issued rfl (BitVec.mul_def ..), completes_alu issued rfl (mulhS_eq ..), completes_alu issued rfl (mulhU_eq ..),
      completes_alu issued rfl (congrArg sx32 (lo32_mul ..))⟩
  case quotients =>
    intro s u m issued rd rs1 rs2 a b aw bw
    have low : lo32 a = aw ∧ lo32 b = bw := ⟨lo32_eq a, lo32_eq b⟩
    rw [← low.1, ← low.2]
    exact ⟨completes_alu issued rfl (divS_eq ..), completes_alu issued rfl (divU_eq ..), completes_alu issued rfl (remS_eq ..),
      completes_alu issued rfl (remU_eq ..), completes_alu issued rfl (congrArg sx32 (divS_eq ..)),
      completes_alu issued rfl (congrArg sx32 (divU_eq ..)), completes_alu issued rfl (congrArg sx32 (remS_eq ..)),
      completes_alu issued rfl (congrArg sx32 (remU_eq ..))⟩

/-- Settles O4: the upper immediates are register results, the jumps jump with their link. -/
theorem upperImmediatesAndJumps : Obligations.UpperImmediatesAndJumps := by
  unfold Obligations.UpperImmediatesAndJumps
  intro s u m issued rd rs1 imm up
  exact ⟨completes_alu issued rfl rfl, completes_alu issued rfl rfl, 
    completes_link issued (fun s => s.pc + immJ up) rfl, completes_link issued (fun s => (s.x rs1 + immI imm) &&& ~~~3) rfl⟩

/-- Settles O5: each branch goes where its relation says. -/
theorem branches : Obligations.Branches := by
  unfold Obligations.Branches
  intro s u m issued rs1 rs2 imm a b to'
  refine ⟨completes_branch issued rfl ?eq, completes_branch issued rfl ?ne, completes_branch issued rfl ?lt, completes_branch issued rfl ?ge,
    completes_branch issued rfl ?ltu, completes_branch issued rfl ?geu⟩
  case eq => exact beq_iff_eq
  case ne => exact bne_iff_ne
  case lt => exact decide_eq_true_iff
  case ge => simp [BitVec.slt, a, b]
  case ltu => exact decide_eq_true_iff
  case geu => simp [BitVec.ult, a, b]

end Sys2Proof.Machine
end

section
/-! SUPPORT. Scalar floating point (O6 to O8): what a code of an IEEE format decodes to, what rounding delivers of a value that needs no
rounding, the order of exact values, the classes. -/

namespace Sys2Proof.Machine

open Sys2Proof.Safety

/-! ## The two scalar formats (02 R36) -/

theorem precFmt_sp (p : Prec) : (precFmt p).sp = .ieee := by cases p <;> rfl

theorem precFmt_infCode (p : Prec) : 2 ^ (precFmt p).mb ≤ (precFmt p).infCode := by cases p <;> decide

theorem precFmt_infCode_pos (p : Prec) : 0 < (precFmt p).infCode := lt_of_lt_of_le (Nat.two_pow_pos _) (precFmt_infCode p)

/-! ## Codes (03 R56, R57) -/

section
variable {f : FFmt} {x : Nat}

theorem FFmt.isNan_decode (f : FFmt) (x : Nat) : (f.decode x).isNan = f.isNan x := by
  unfold FFmt.decode
  split
  next nan => rw [nan]; rfl
  next notNan =>
    rw [Bool.eq_false_iff.mpr notNan]
    split <;> rfl

theorem FFmt.decode_of_nan (nan : f.isNan x = true) : f.decode x = .nan := by simp [FFmt.decode, nan]

theorem FFmt.isSnan_of_not_nan (nan : f.isNan x = false) : f.isSnan x = false := by rw [FFmt.isSnan, nan, Bool.false_and]

theorem FFmt.decode_of_finite (nan : f.isNan x = false) (inf : f.isInf x = false) :
    f.decode x = .fin (f.signBit x) (f.magnitude (f.magBits x)).1 (f.magnitude (f.magBits x)).2 false := by
  simp [FFmt.decode, nan, inf]

theorem FFmt.decode_of_inf (nan : f.isNan x = false) (inf : f.isInf x = true) : f.decode x = .inf (f.signBit x) := by
  simp [FFmt.decode, nan, inf]

/-- Whether a NaN is signalling does not depend on its sign. -/
theorem FFmt.isSnan_congr {y : Nat} (small : 0 < f.eb) (h : f.magBits x = f.magBits y) : f.isSnan x = f.isSnan y := by
  have bit : ∀ z : Nat, z.testBit (f.mb - 1) = (f.magBits z).testBit (f.mb - 1) := fun z => by
    rw [FFmt.magBits, Nat.testBit_mod_two_pow, decide_eq_true (by omega), Bool.true_and]
  have top : (x / 2 ^ (f.mb - 1) % 2 == 0) = (y / 2 ^ (f.mb - 1) % 2 == 0) := by
    have same := (bit x).trans ((congrArg (Nat.testBit · (f.mb - 1)) h).trans (bit y).symm)
    rw [Nat.testBit_eq_decide_div_mod_eq, Nat.testBit_eq_decide_div_mod_eq, decide_eq_decide] at same
    rw [Bool.eq_iff_iff, beq_iff_eq, beq_iff_eq]
    omega
  rw [FFmt.isSnan, FFmt.isSnan, top, FFmt.isNan, FFmt.isNan, h]

theorem FFmt.magBits_flipSign (f : FFmt) (x : Nat) : f.magBits (f.flipSign x) = f.magBits x := by
  unfold FFmt.flipSign FFmt.withSign FFmt.magBits
  split
  · rw [Nat.add_mod_right, Nat.mod_mod]
  · rw [Nat.mod_mod]

theorem precFmt_isSnan_flipSign (p : Prec) (x : Nat) : (precFmt p).isSnan ((precFmt p).flipSign x) = (precFmt p).isSnan x :=
  FFmt.isSnan_congr (by cases p <;> decide) (FFmt.magBits_flipSign _ x)

/-- A magnitude code that is not zero has a value that is not zero. -/
theorem FFmt.magnitude_pos (f : FFmt) {mag : Nat} (h : mag ≠ 0) : (f.magnitude mag).1 ≠ 0 := by
  have whole : 2 ^ f.mb * (mag / 2 ^ f.mb) + mag % 2 ^ f.mb = mag := Nat.div_add_mod ..
  have unit : 0 < 2 ^ f.mb := Nat.two_pow_pos _
  unfold FFmt.magnitude
  dsimp only
  split
  next sub => rw [sub] at whole; omega
  next => omega

theorem FFmt.magnitude_zero (f : FFmt) : (f.magnitude 0).1 = 0 := by simp [FFmt.magnitude]

variable (ieee : f.sp = .ieee)
include ieee

theorem FFmt.isNan_iff : f.isNan x = true ↔ f.infCode < f.magBits x := by simp [FFmt.isNan, ieee]

theorem FFmt.isInf_iff : f.isInf x = true ↔ f.magBits x = f.infCode := by simp [FFmt.isInf, ieee]

theorem FFmt.not_nan_of_inf (inf : f.isInf x = true) : f.isNan x = false := by
  rw [Bool.eq_false_iff, ne_eq, FFmt.isNan_iff ieee, (FFmt.isInf_iff ieee).mp inf]
  exact lt_irrefl _

theorem FFmt.finite_of_zero (pos : 0 < f.infCode) (zero : f.magBits x = 0) : f.isNan x = false ∧ f.isInf x = false := by
  rw [Bool.eq_false_iff, Bool.eq_false_iff, ne_eq, ne_eq, FFmt.isNan_iff ieee, FFmt.isInf_iff ieee, zero]
  omega

theorem FFmt.decode_of_zero (pos : 0 < f.infCode) (zero : f.magBits x = 0) : ∃ e, f.decode x = .fin (f.signBit x) 0 e false := by
  obtain ⟨nan, inf⟩ := FFmt.finite_of_zero ieee pos zero
  refine ⟨(f.magnitude 0).2, ?_⟩
  rw [FFmt.decode_of_finite nan inf, zero, FFmt.magnitude_zero]

/-! ## Values that need no rounding (03 R57, R70) -/

theorem FFmt.round_nan (nanov : Bool) (rm : RM) : f.round nanov rm .nan = (f.nanCode, 0) := by
  simp [FFmt.round, ieee, flagIf]

theorem FFmt.round_inf (nanov : Bool) (rm : RM) (neg : Bool) : f.round nanov rm (.inf neg) = (f.withSign neg f.infCode, 0) := by
  simp [FFmt.round, ieee]

omit ieee in
theorem FFmt.round_zero (nanov : Bool) (rm : RM) (neg : Bool) (e : Int) : f.round nanov rm (.fin neg 0 e false) = (f.withSign neg 0, 0) := by
  simp [FFmt.round]

end

/-! ## Results from the exact result (04 R86) -/

theorem FFmt.div_eq (f : FFmt) (rm : RM) (a b : Nat) : f.div rm a b =
    ((f.round false rm (Exact.div (f.decode a) (f.decode b)).1).1,
      snanFlag f [a, b] ||| (Exact.div (f.decode a) (f.decode b)).2 ||| (f.round false rm (Exact.div (f.decode a) (f.decode b)).1).2) := rfl

theorem FFmt.sqrt_eq (f : FFmt) (rm : RM) (a : Nat) : f.sqrt rm a =
    ((f.round false rm (Exact.sqrt (f.decode a)).1).1,
      snanFlag f [a] ||| (Exact.sqrt (f.decode a)).2 ||| (f.round false rm (Exact.sqrt (f.decode a)).1).2) := rfl

theorem FFmt.add_eq (f : FFmt) (rm : RM) (a b : Nat) : f.add rm a b =
    ((f.round false rm (Exact.add rm (f.decode a) (f.decode b)).1).1,
      snanFlag f [a, b] ||| (Exact.add rm (f.decode a) (f.decode b)).2 ||| (f.round false rm (Exact.add rm (f.decode a) (f.decode b)).1).2) := rfl

theorem snanFlag_pair (f : FFmt) (a b : Nat) : snanFlag f [a, b] = if f.isSnan a || f.isSnan b then flNV else 0 := by
  simp [snanFlag, flagIf]

/-- A difference is the sum with the sign of b turned; b itself is what signals. -/
theorem precFmt_sub_eq (p : Prec) (rm : RM) (a b : Nat) :
    let f := precFmt p
    let sum := Exact.add rm (f.decode a) (f.decode (f.flipSign b))
    f.sub rm a b = ((f.round false rm sum.1).1, snanFlag f [a, b] ||| sum.2 ||| (f.round false rm sum.1).2) := by
  intro f sum
  have flags : snanFlag f [a, f.flipSign b] = snanFlag f [a, b] := by rw [snanFlag_pair, snanFlag_pair, precFmt_isSnan_flipSign]
  rw [FFmt.sub, FFmt.add_eq, flags]

/-- The flags of a sum are those of the product and of the addition together. -/
theorem FFmt.fma_eq (f : FFmt) (rm : RM) (c a b : Nat) :
    let pr := Exact.mul (f.decode a) (f.decode b)
    let sum := Exact.add rm (f.decode c) pr.1
    f.fma rm c a b = ((f.round false rm sum.1).1, snanFlag f [a, b, c] ||| (pr.2 ||| sum.2) ||| (f.round false rm sum.1).2) := by
  intro pr sum
  rw [← BitVec.or_assoc]
  rfl

theorem snanFlag_eq_zero {f : FFmt} {xs : List Nat} (h : ∀ x ∈ xs, f.isNan x = false) : snanFlag f xs = 0 := by
  have : xs.any f.isSnan = false := List.any_eq_false.mpr fun x hx => by simp [FFmt.isSnan_of_not_nan (h x hx)]
  rw [snanFlag, this]
  rfl

theorem or_and_flag (fl x : Flags) : (fl ||| x) &&& x = x := by
  ext i
  simp +contextual

theorem Exact.add_nan (rm : RM) (a : Exact) : Exact.add rm a .nan = (.nan, 0) := by cases a <;> rfl

section
variable {f : FFmt} (ieee : f.sp = .ieee) (pos : 0 < f.infCode) (rm : RM) {a b : Nat}
include ieee pos

/-- A finite value that is not zero divided by zero: an infinity, and DZ. -/
theorem FFmt.div_by_zero (finite : f.isNan a = false ∧ f.isInf a = false) (some : f.magBits a ≠ 0) (zero : f.magBits b = 0) :
    f.div rm a b = (f.withSign (f.signBit a != f.signBit b) f.infCode, flDZ) := by
  obtain ⟨e, hb⟩ := FFmt.decode_of_zero ieee pos zero
  have quiet : snanFlag f [a, b] = 0 := snanFlag_eq_zero (by simp [finite.1, (FFmt.finite_of_zero ieee pos zero).1])
  have exact' : Exact.div (f.decode a) (f.decode b) = (.inf (f.signBit a != f.signBit b), flDZ) := by
    rw [FFmt.decode_of_finite finite.1 finite.2, hb]
    simp [Exact.div, FFmt.magnitude_pos f some]
  rw [FFmt.div_eq, exact', FFmt.round_inf ieee, quiet]
  simp

/-- 0/0 and ∞/∞ are invalid. -/
theorem FFmt.div_invalid (h : (f.magBits a = 0 ∧ f.magBits b = 0) ∨ (f.isInf a = true ∧ f.isInf b = true)) :
    f.div rm a b = (f.nanCode, flNV) := by
  obtain ⟨na, nb, exact'⟩ : f.isNan a = false ∧ f.isNan b = false ∧ Exact.div (f.decode a) (f.decode b) = (.nan, flNV) := by
    rcases h with ⟨za, zb⟩ | ⟨ia, ib⟩
    · obtain ⟨ea, ha⟩ := FFmt.decode_of_zero ieee pos za
      obtain ⟨eb, hb⟩ := FFmt.decode_of_zero ieee pos zb
      refine ⟨(FFmt.finite_of_zero ieee pos za).1, (FFmt.finite_of_zero ieee pos zb).1, ?_⟩
      rw [ha, hb]
      rfl
    · have na := FFmt.not_nan_of_inf ieee ia
      have nb := FFmt.not_nan_of_inf ieee ib
      refine ⟨na, nb, ?_⟩
      rw [FFmt.decode_of_inf na ia, FFmt.decode_of_inf nb ib]
      rfl
  rw [FFmt.div_eq, exact', FFmt.round_nan ieee, snanFlag_eq_zero (by simp [na, nb])]
  simp

theorem FFmt.sqrt_of_zero (zero : f.magBits a = 0) : f.sqrt rm a = (f.withSign (f.signBit a) 0, 0) := by
  obtain ⟨e, ha⟩ := FFmt.decode_of_zero ieee pos zero
  have exact' : Exact.sqrt (f.decode a) = (.fin (f.signBit a) 0 0 false, 0) := by rw [ha]; rfl
  rw [FFmt.sqrt_eq, exact', FFmt.round_zero, snanFlag_eq_zero (by simp [(FFmt.finite_of_zero ieee pos zero).1])]
  simp

omit pos in
theorem FFmt.sqrt_of_negative (finite : f.isNan a = false ∧ f.isInf a = false) (some : f.magBits a ≠ 0) (neg : f.signBit a = true) :
    f.sqrt rm a = (f.nanCode, flNV) := by
  have exact' : Exact.sqrt (f.decode a) = (.nan, flNV) := by
    rw [FFmt.decode_of_finite finite.1 finite.2]
    simp [Exact.sqrt, FFmt.magnitude_pos f some, neg]
  rw [FFmt.sqrt_eq, exact', FFmt.round_nan ieee, snanFlag_eq_zero (by simp [finite.1])]
  simp

/-- Zero times an infinity is invalid, whatever is added. -/
theorem FFmt.fma_invalid (c : Nat) (zero : f.magBits a = 0) (inf : f.isInf b = true) :
    (f.fma rm c a b).1 = f.nanCode ∧ (f.fma rm c a b).2 &&& flNV = flNV := by
  obtain ⟨e, ha⟩ := FFmt.decode_of_zero ieee pos zero
  have exact' : Exact.mul (f.decode a) (f.decode b) = (.nan, flNV) := by
    rw [ha, FFmt.decode_of_inf (FFmt.not_nan_of_inf ieee inf) inf]
    rfl
  rw [FFmt.fma_eq, exact', Exact.add_nan, FFmt.round_nan ieee]
  exact ⟨rfl, by simp [or_and_flag]⟩

end

/-! ## The order of exact values (04 R87, R88) -/

theorem magLt_iff (m1 : Nat) (e1 : Int) (m2 : Nat) (e2 : Int) : magLt m1 e1 m2 e2 = true ↔ 
    m1 * 2 ^ (e1 - min e1 e2).toNat < m2 * 2 ^ (e2 - min e1 e2).toNat := by
  unfold magLt
  split
  next h => simp [min_eq_left h]
  next h => simp [min_eq_right (not_le.mp h).le]

theorem magLt_asymm {m1 m2 : Nat} {e1 e2 : Int} (h : magLt m1 e1 m2 e2 = true) : magLt m2 e2 m1 e1 = false := by
  rw [magLt_iff] at h
  rw [Bool.eq_false_iff, ne_eq, magLt_iff, min_comm]
  exact h.asymm

theorem Exact.lt_nan_left (a : Exact) : Exact.lt .nan a = false := rfl
theorem Exact.lt_nan_right (a : Exact) : Exact.lt a .nan = false := by cases a <;> rfl

/-- A value below another is not above it. -/
theorem Exact.lt_asymm {a b : Exact} (h : a.lt b = true) : b.lt a = false := by
  cases a with
  | nan => cases h
  | inf x =>
    cases b with
    | nan => cases h
    | inf y => cases x <;> cases y <;> simp_all [Exact.lt]
    | fin n m e st => simp_all [Exact.lt]
  | fin n1 m1 e1 st1 =>
    cases b with
    | nan => cases h
    | inf y => simp_all [Exact.lt]
    | fin n2 m2 e2 st2 =>
      simp only [Exact.lt] at h ⊢
      by_cases z1 : m1 = 0
      · simp_all
      · by_cases z2 : m2 = 0
        · simp_all
        · cases n1 <;> cases n2 <;> simp [z1, z2] at h ⊢ <;> exact magLt_asymm h

/-- Of two values that are no NaN, the first is not above the second where it is below or equal. -/
theorem Exact.le_iff {a b : Exact} (na : a.isNan = false) (nb : b.isNan = false) : (a.lt b || a.eq b) = !b.lt a := by
  cases lt : a.lt b with
  | true => simp [Exact.lt_asymm lt]
  | false => simp [Exact.eq, na, nb, lt]

/-! ## Minimum, maximum, comparisons (04 R87, R88) -/

section
variable (f : FFmt) (a b : Nat)

theorem FFmt.cmp_eq : f.cmp .eq a b =
    (!(f.isNan a || f.isNan b) && !(f.decode a).lt (f.decode b) && !(f.decode b).lt (f.decode a), snanFlag f [a, b]) := by
  simp [FFmt.cmp, Exact.eq, FFmt.isNan_decode]

/-- Where an operand is a NaN, no order holds. -/
theorem FFmt.lt_of_nan (nan : (f.isNan a || f.isNan b) = true) : (f.decode a).lt (f.decode b) = false ∧ (f.decode b).lt (f.decode a) = false := by
  rcases Bool.or_eq_true_iff.mp nan with na | nb
  · rw [FFmt.decode_of_nan na]
    exact ⟨Exact.lt_nan_left _, Exact.lt_nan_right _⟩
  · rw [FFmt.decode_of_nan nb]
    exact ⟨Exact.lt_nan_right _, Exact.lt_nan_left _⟩

theorem FFmt.cmp_lt : f.cmp .lt a b =
    (!(f.isNan a || f.isNan b) && (f.decode a).lt (f.decode b), if f.isNan a || f.isNan b then flNV else 0) := by
  refine Prod.ext ?_ rfl
  change (f.decode a).lt (f.decode b) = _
  cases nan : f.isNan a || f.isNan b with
  | true => exact (FFmt.lt_of_nan f a b nan).1
  | false => rfl

theorem FFmt.cmp_le : f.cmp .le a b =
    (!(f.isNan a || f.isNan b) && !(f.decode b).lt (f.decode a), if f.isNan a || f.isNan b then flNV else 0) := by
  refine Prod.ext ?_ rfl
  change ((f.decode a).lt (f.decode b) || (f.decode a).eq (f.decode b)) = _
  cases nan : f.isNan a || f.isNan b with
  | true =>
    rw [Exact.eq, FFmt.isNan_decode, FFmt.isNan_decode, (FFmt.lt_of_nan f a b nan).1]
    rcases Bool.or_eq_true_iff.mp nan with na | nb
    · simp [na]
    · simp [nb]
  | false =>
    obtain ⟨na, nb⟩ := Bool.or_eq_false_iff.mp nan
    exact Exact.le_iff ((FFmt.isNan_decode f a).trans na) ((FFmt.isNan_decode f b).trans nb)

/-- A comparison in a register: 1 where it holds (04 R88). -/
theorem boolRes_fst {r : Bool × Flags} {c : Bool} {fl : Flags} (h : r = (c, fl)) : (boolRes r).1 = if c then 1 else 0 := by
  subst h
  cases c <;> rfl

/-- The NaN rules of FMIN and FMAX, and their order. -/
theorem FFmt.minmax_eq (wantMax : Bool) : f.minmax wantMax a b =
    (if f.isNan a && f.isNan b then f.nanCode else if f.isNan a then b else if f.isNan b then a
      else if wantMax then (if f.ltZero a b then b else a) else (if f.ltZero b a then b else a),
     if f.isSnan a || f.isSnan b then flNV else 0) := by
  refine Prod.ext ?_ (snanFlag_pair f a b)
  unfold FFmt.minmax
  cases f.isNan a <;> cases f.isNan b <;> rfl

end

/-! ## Classes (04 R89) -/

/-- What the number of a code's class says of the code. -/
structure FFmt.InClass (f : FFmt) (a n : Nat) : Prop where
  small : n < 10
  negInf : n = 0 ↔ f.isInf a = true ∧ f.signBit a = true
  posInf : n = 7 ↔ f.isInf a = true ∧ f.signBit a = false
  signalling : n = 8 ↔ f.isSnan a = true
  quiet : n = 9 ↔ f.isNan a = true ∧ f.isSnan a = false
  negZero : n = 3 ↔ f.magBits a = 0 ∧ f.signBit a = true
  posZero : n = 4 ↔ f.magBits a = 0 ∧ f.signBit a = false
  subnormal : n = 2 ∨ n = 5 ↔ 0 < f.magBits a ∧ f.magBits a < 2 ^ f.mb
  negative : n = 1 ∨ n = 2 → f.signBit a = true
  positive : n = 5 ∨ n = 6 → f.signBit a = false

theorem FFmt.classify_inClass {f : FFmt} (ieee : f.sp = .ieee) (top : 2 ^ f.mb ≤ f.infCode) (a : Nat) : f.InClass a (f.classify a) := by
  have unit : 0 < 2 ^ f.mb := Nat.two_pow_pos _
  have nanIff := FFmt.isNan_iff ieee (x := a)
  have infIff := FFmt.isInf_iff ieee (x := a)
  unfold FFmt.classify
  dsimp only
  cases nan : f.isNan a with
  | true =>
    have above := nanIff.mp nan
    have inf : f.isInf a = false := Bool.eq_false_iff.mpr fun h => by have := infIff.mp h; omega
    cases snan : f.isSnan a <;> constructor <;> simp [nan, inf, snan] <;> omega
  | false =>
    have snan := FFmt.isSnan_of_not_nan nan
    cases inf : f.isInf a with
    | true =>
      have at' := infIff.mp inf
      cases sign : f.signBit a <;> constructor <;> simp [nan, inf, snan, sign] <;> omega
    | false =>
      by_cases zero : f.magBits a = 0
      · cases sign : f.signBit a <;> constructor <;> simp [nan, inf, snan, sign, zero]
      · by_cases sub : f.magBits a < 2 ^ f.mb <;>
          cases sign : f.signBit a <;> constructor <;> simp [nan, inf, snan, sign, zero, sub] <;> omega

/-! ## Conversions (04 R91) -/

theorem ofNat_fToInt (rm : RM) (lo hi : Int) (x : Exact) :
    BitVec.ofNat 64 (fToInt rm lo hi x).1 = BitVec.ofInt 64 (toInt rm lo hi x).1 := by
  change BitVec.ofNat 64 (BitVec.ofInt 64 (toInt rm lo hi x).1).toNat = _
  rw [BitVec.ofNat_toNat, BitVec.setWidth_eq]

/-! ## The shape -/

section
variable {s u : State} {m : SMark} (issued : issues s m u)
include issued

/-- A floating-point result: what the instruction computes in the state of issue, with its flags. -/
theorem completes_fpu {i j : Instr} {rd : Reg} {f : State → Nat × Flags} {fl : Flags} {v : Word}
    (meaning : exec i s = .next (fpu j m rd f s)) (flags : (f u).2 = fl) (value : BitVec.ofNat 64 (f u).1 = v) :
    completes i s (fun t => writesTo (u.pc + 4) fl u t rd v) :=
  completes_next meaning (flags ▸ value ▸ fpu_writes issued j rd f)

end

/-! ## The statements -/

/-- Settles O6: the results by the exact result that each rounds, the special cases by what their operands decode to. -/
theorem floatArithmetic : Obligations.FloatArithmetic := by
  unfold Obligations.FloatArithmetic
  refine ⟨?results, ?special⟩
  case results =>
    intro s u m issued p rd rs1 rs2 f rm a b c put
    have sub := precFmt_sub_eq p rm a b
    exact ⟨completes_fpu issued rfl rfl rfl, completes_fpu issued rfl (congrArg Prod.snd sub) rfl, completes_fpu issued rfl rfl rfl,
      completes_fpu issued rfl rfl rfl, completes_fpu issued rfl rfl rfl,
      completes_fpu issued rfl (congrArg Prod.snd (FFmt.fma_eq f rm c a b)) rfl⟩
  case special =>
    intro p rm a b c _ _ f zero finite
    have ieee := precFmt_sp p
    have pos := precFmt_infCode_pos p
    exact ⟨fun ⟨fin, nonzero, za⟩ => FFmt.div_by_zero ieee pos rm fin nonzero za, FFmt.div_invalid ieee pos rm,
      FFmt.sqrt_of_zero ieee pos rm, fun ⟨fin, nonzero, neg⟩ => FFmt.sqrt_of_negative ieee rm fin nonzero neg,
      fun ⟨za, inf⟩ => FFmt.fma_invalid ieee pos rm c za inf⟩

/-- Settles O7: minimum and maximum by their NaN rules, comparisons by the order of exact values, the class by what its number says. -/
theorem floatComparisonsAndSigns : Obligations.FloatComparisonsAndSigns := by
  unfold Obligations.FloatComparisonsAndSigns
  intro s u m issued p rd rs1 rs2 f a b isNan quiet put less pick
  have min := FFmt.minmax_eq f a b false
  have max := FFmt.minmax_eq f a b true
  have eq := FFmt.cmp_eq f a b
  have lt := FFmt.cmp_lt f a b
  have le := FFmt.cmp_le f a b
  have is := FFmt.classify_inClass (precFmt_sp p) (precFmt_infCode p) a
  refine ⟨completes_fpu issued rfl (congrArg Prod.snd min) (congrArg (BitVec.ofNat 64 ·.1) min),
    completes_fpu issued rfl (congrArg Prod.snd max) (congrArg (BitVec.ofNat 64 ·.1) max),
    completes_fpu issued rfl ?eqFlags ?eqValue, completes_fpu issued rfl (congrArg Prod.snd lt) ?ltValue,
    completes_fpu issued rfl (congrArg Prod.snd le) ?leValue,
    completes_next rfl ⟨_, is.small, fpu_writes issued _ rd _, is.negInf, is.posInf, is.signalling, is.quiet, is.negZero,
      is.posZero, is.subnormal, is.negative, is.positive⟩,
    completes_fpu issued rfl rfl rfl, completes_fpu issued rfl rfl rfl, completes_fpu issued rfl rfl rfl⟩
  case eqFlags => exact snanFlag_pair f a b
  case eqValue => exact congrArg (BitVec.ofNat 64) (boolRes_fst eq)
  case ltValue => exact congrArg (BitVec.ofNat 64) (boolRes_fst lt)
  case leValue => exact congrArg (BitVec.ofNat 64) (boolRes_fst le)

/-- Settles O8: each code rounds the value that it takes from the source; to an integer, the register holds the integer. -/
theorem floatConversions : Obligations.FloatConversions := by
  unfold Obligations.FloatConversions
  intro s u m issued p rd rs1 f g rm a put int src
  have low : a.setWidth 32 = a.extractLsb' 0 32 := BitVec.setWidth_eq_extractLsb' (by decide)
  have fromW : fcvtOf p .fromW rm u.th.nanov a = f.round false rm (Exact.ofInt (a.extractLsb' 0 32).toInt) :=
    congrArg (fun x => f.round false rm (Exact.ofInt (BitVec.toInt x))) low
  have fromWU : fcvtOf p .fromWU rm u.th.nanov a = f.round false rm (Exact.ofInt (a.extractLsb' 0 32).toNat) :=
    congrArg (fun x => f.round false rm (Exact.ofInt (BitVec.toNat x))) low
  exact ⟨completes_fpu issued rfl rfl rfl, completes_fpu issued rfl rfl rfl, completes_fpu issued rfl rfl rfl,
    completes_fpu issued rfl (congrArg Prod.snd fromW) (congrArg (BitVec.ofNat 64 ·.1) fromW),
    completes_fpu issued rfl (congrArg Prod.snd fromWU) (congrArg (BitVec.ofNat 64 ·.1) fromWU),
    completes_fpu issued rfl rfl (ofNat_fToInt ..), completes_fpu issued rfl rfl (ofNat_fToInt ..),
    completes_fpu issued rfl rfl (ofNat_fToInt ..), completes_fpu issued rfl rfl (ofNat_fToInt ..)⟩

end Sys2Proof.Machine
end

section
/-! SUPPORT. Accesses to the tile window (O9, O12, O15): the checks of 04 R93 passed or not, the range rule of 01 R25, the bytes that a
write leaves in the tile store. -/

namespace Sys2Proof.Machine

open Sys2Proof.Safety

/-! ## What `exec` answers, from how the body of an instruction ends -/

section
variable {s u : State} {m : SMark} {i j : Instr} {body : State → Done} (issued : issues s m u)
include issued

theorem exec_scalar (meaning : exec i s = .next (issue j m true body s)) : exec i s = .next (State.finish ((body u).afterStreams u)) := by
  rw [meaning, issues_body issued (.inl rfl)]

theorem exec_vector (isCtx : u.isCtx = true) (wf : j.wf = true) (meaning : exec i s = vec j m body s) :
    exec i s = .next (State.finish ((body u).afterStreams u)) := by
  rw [meaning, vec, issues_body issued (.inr isCtx)]
  simp only [wf, if_true]

end

section
variable {s u : State} {i : Instr} {d : Done} (runs : exec i s = .next (State.finish (d.afterStreams u)))
include runs

theorem exec_of_ok {v : State} (ends : d = .ok v) : exec i s = .next (State.finish (.ok v)) := by
  rw [runs, ends, afterStreams_ok]

theorem exec_of_hold (ends : d = .hold u) : exec i s = .next u := by
  rw [runs, ends]
  rfl

theorem exec_of_trap {t : Trap} (ends : d = .trap t u) : exec i s = .next (u.takeTrap t) := by
  rw [runs, ends]
  rfl

theorem exec_of_commit {v : State} (noStream : u.tile.streams u.src true true = false) (ends : d = .commit v) :
    exec i s = .next (committedTo (v.pc + 4) v) := by
  rw [runs, ends, afterStreams_commit noStream, finish_commit]

end

/-! ## The checks (04 R93) -/

/-- An operation of the tensor engine that is no stream bars nothing. -/
theorem TensorOp.bars_of_not_stream {o : TensorOp} (h : o.isStream = false) (src : Src) (store : Bool) (spans : List (Nat × Nat)) :
    o.bars src store spans = false := by
  have hull : o.hull = none := by rw [TensorOp.hull, h]; rfl
  rw [TensorOp.bars, hull, Bool.and_false]

/-- Where no stream of an agent is queued, none of its accesses is barred. -/
theorem Tile.not_barred {t : Tile} {src : Src} (none : t.streams src true true = false) (store : Bool) (spans : List (Nat × Nat)) :
    t.tq.any (fun o => o.bars src store spans) = false := by
  refine List.any_eq_false.mpr fun o ho => ?_
  have idle := List.any_eq_false.mp none o ho
  rw [Bool.not_eq_true]
  by_cases own : o.src = src
  · refine TensorOp.bars_of_not_stream ?_ ..
    rw [TensorOp.isStream]
    cases hi : o.instr <;> simp_all
  · rw [TensorOp.bars, beq_false_of_ne own]
    rfl

section
variable {u : State}

theorem accessWait_of_free (free : accessFree u) (store : Bool) (spans : List (Nat × Nat)) : u.accessWait store spans = none := by
  obtain ⟨acquired, idle, banked⟩ := free
  rw [State.accessWait, acquired, Tile.not_barred (idle true true), banked]
  rfl

theorem lockTrap_of_free {sp : List (Nat × Nat)} (free : u.tile.lockHit sp = none) (va : Nat) : u.lockTrap va sp = none := by
  rw [State.lockTrap, free]
  rfl

end

/-! ## Bytes out of range (01 R25) -/

theorem firstOut_concat (l : List Nat) (o : Nat) :
    firstOut (l ++ [o]) = if o < storeSize then firstOut l else some (((firstOut l).map (min · o)).getD o) := by
  unfold firstOut
  rw [List.foldl_append, List.foldl_cons, List.foldl_nil]
  split
  · rfl
  · split
    next h => rw [h]; rfl
    next h => rw [h]; rfl

/-- The lowest byte out of range of a run. -/
theorem firstOut_run (off n : Nat) :
    firstOut ((List.range n).map (off + ·)) = if off + n ≤ storeSize ∨ n = 0 then none else some (max off storeSize) := by
  induction n with
  | zero => rw [if_pos (.inr rfl)]; rfl
  | succ n ih =>
    rw [List.range_succ, List.map_append, List.map_singleton, firstOut_concat, ih]
    by_cases inside : off + n < storeSize
    · rw [if_pos inside, if_pos (.inl inside.le), if_pos (.inl inside)]
    · rw [if_neg inside, if_neg (c := off + (n + 1) ≤ storeSize ∨ n + 1 = 0) (by omega)]
      split
      · have : off + n = max off storeSize := by omega
        rw [this]
        rfl
      · have : min (max off storeSize) (off + n) = max off storeSize := by omega
        exact congrArg some this

/-- Noting the bytes out of range of an access is what the statements call it. -/
theorem noteOut_run (u : State) (va n : Nat) : u.noteOut (outByte [(va, n)]) = u.setTh (rangeNoted u.th (va - tileBase) n) := by
  have byte : outByte [(va, n)] = (firstOut ((List.range n).map (va - tileBase + ·))).map fun o => BitVec.ofNat 64 (tileBase + o) := by
    rw [outByte, List.flatMap_singleton]
    rfl
  rw [State.noteOut, byte, firstOut_run, rangeNoted]
  by_cases inside : va - tileBase + n ≤ storeSize ∨ n = 0
  · rw [if_pos inside, if_pos (by tauto)]
    rfl
  · rw [if_neg inside]
    cases flag : u.th.oorf <;> simp [Thread.noteOut, flag, not_or.mp inside]

theorem pc_rangeNoted (h : Thread) (off n : Nat) : (rangeNoted h off n).pc = h.pc := by
  unfold rangeNoted
  split <;> rfl

theorem State.pc_setTh (u : State) (h : Thread) : (u.setTh h).pc = h.pc := by rw [State.pc, State.th_setTh]

theorem pc_noted (u : State) (off n : Nat) : (u.setTh (rangeNoted u.th off n)).pc = u.pc := by
  rw [State.pc_setTh, pc_rangeNoted, State.pc]

/-! ## Words that a run touches (04 R94) -/

theorem mem_wordsOf {off n w : Nat} (h : w ∈ wordsOf off n) : off / 8 ≤ w ∧ w ≤ (off + n - 1) / 8 := by
  unfold wordsOf at h
  split at h
  · cases h
  · obtain ⟨k, hk, rfl⟩ := List.mem_map.mp h
    rw [List.mem_range] at hk
    omega

theorem Tile.clean_of_words {t : Tile} {off n : Nat} (h : ∀ w, off / 8 ≤ w → w ≤ (off + n - 1) / 8 → nsMem w t.poison = false) :
    t.poisoned off n = false := by
  refine List.any_eq_false.mpr fun w hw => ?_
  obtain ⟨low, high⟩ := mem_wordsOf hw
  rw [h w low high]
  exact Bool.false_ne_true

/-! ## Bytes as a register value (04 R92) -/

theorem leNat_lt (bs : List Byte) : leNat bs < 2 ^ (8 * bs.length) := by
  induction bs with
  | nil => exact Nat.one_pos
  | cons b r ih =>
    have byte : b.toNat < 256 := b.isLt
    have room : 2 ^ (8 * (r.length + 1)) = 256 * 2 ^ (8 * r.length) := by rw [Nat.mul_succ, Nat.pow_add, Nat.mul_comm]
    rw [leNat, List.length_cons, room]
    omega

theorem extendBytes_unsigned (v n : Nat) : extendBytes v n false = BitVec.ofNat 64 v := rfl

theorem extendBytes_signed {v n : Nat} (pos : 0 < n) (narrow : n ≤ 8) (small : v < 2 ^ (8 * n)) :
    extendBytes v n true = (BitVec.ofNat (8 * n) v).signExtend 64 := by
  have fits : 2 ^ (8 * n) ≤ 2 ^ 64 := Nat.pow_le_pow_right (by decide) (by omega)
  have own : (BitVec.ofNat (8 * n) v).toNat = v := by rw [BitVec.toNat_ofNat, Nat.mod_eq_of_lt small]
  apply BitVec.eq_of_toNat_eq
  rw [BitVec.toNat_signExtend, BitVec.msb_eq_decide, BitVec.toNat_setWidth, own, extendBytes]
  by_cases top : 2 ^ (8 * n - 1) ≤ v
  · rw [if_pos (by simpa using top), if_pos (by simpa using top), BitVec.toNat_ofNat]
    omega
  · rw [if_neg (by simpa using top), if_neg (by simpa using top), BitVec.toNat_ofNat]
    omega

/-! ## Loads from the tile window (04 R92, R94) -/

section
variable {u : State} {a : Word} {n : Nat}

theorem State.tileRead_clean (free : u.tile.lockHit [(a.toNat, n)] = none) (clean : u.tile.poisoned (a.toNat - tileBase) n = false)
    (k : State → List Byte → Done) :
    u.tileRead a.toNat n k = k (u.setTh (rangeNoted u.th (a.toNat - tileBase) n)) (u.tile.bytes (a.toNat - tileBase) n) := by
  unfold State.tileRead
  rw [lockTrap_of_free free]
  dsimp only
  rw [show tileOff a.toNat = a.toNat - tileBase from rfl, clean, noteOut_run]
  rfl

theorem State.load_tile (access : tileAccess u a n) (clean : u.tile.poisoned (a.toNat - tileBase) n = false) (rd : Reg) (sx : Bool) :
    u.load rd a n sx = .ok ((u.setTh (rangeNoted u.th (a.toNat - tileBase) n)).setX rd
      (extendBytes (leNat (u.tile.bytes (a.toNat - tileBase) n)) n sx)) := by
  obtain ⟨free, region, unlocked⟩ := access
  unfold State.load
  dsimp only
  rw [accessWait_of_free free, region]
  dsimp only
  rw [State.tileRead_clean unlocked clean]

end

theorem Tile.length_bytes (t : Tile) (off n : Nat) : (t.bytes off n).length = n := by simp [Tile.bytes]

section
variable {s u : State} {m : SMark} {i j : Instr} {rd : Reg} {a : State → Word} {n : Nat} {sx : Bool} (issued : issues s m u)
include issued

/-- A load from the tile window completes with its value in rd. -/
theorem completes_tileLoad {v : Word} (meaning : exec i s = .next (issue j m true (fun s => s.load rd (a s) n sx) s))
    (access : tileAccess u (a u) n)
    (clean : ∀ w, ((a u).toNat - tileBase) / 8 ≤ w → w ≤ ((a u).toNat - tileBase + n - 1) / 8 → nsMem w u.tile.poison = false)
    (value : extendBytes (leNat (u.tile.bytes ((a u).toNat - tileBase) n)) n sx = v) :
    completes i s (fun t => writesTo (u.pc + 4) 0 (u.setTh (rangeNoted u.th ((a u).toNat - tileBase) n)) t rd v) := by
  have ends := State.load_tile access (Tile.clean_of_words clean) rd sx
  refine completes_next (exec_of_ok (exec_scalar issued meaning) ends) ?_
  rw [value, ← pc_noted u ((a u).toNat - tileBase) n]
  exact writesOnly_setX _ rd v

end

/-- The address of a load or a store with an immediate (04 R92). -/
def addressI (rs1 : Reg) (imm : BitVec 11) (s : State) : Word := s.x rs1 + immI imm

/-- Settles O9: the load's value is that of the bytes of the tile store, extended. -/
theorem tileWindowLoads : Obligations.TileWindowLoads := by
  unfold Obligations.TileWindowLoads
  intro s u m issued rd rs1 imm a off ok put val
  have signed (n : Nat) (pos : 0 < n) (narrow : n ≤ 8) :
      extendBytes (leNat (u.tile.bytes off n)) n true = (BitVec.ofNat (8 * n) (val n)).signExtend 64 :=
    extendBytes_signed pos narrow (by simpa only [Tile.length_bytes] using leNat_lt (u.tile.bytes off n))
  exact ⟨fun ⟨access, clean⟩ => ⟨completes_tileLoad (a := addressI rs1 imm) issued rfl access clean (signed 1 (by decide) (by decide)),
      completes_tileLoad (a := addressI rs1 imm) issued rfl access clean rfl⟩,
    fun ⟨access, clean⟩ => ⟨completes_tileLoad (a := addressI rs1 imm) issued rfl access clean (signed 2 (by decide) (by decide)),
      completes_tileLoad (a := addressI rs1 imm) issued rfl access clean rfl⟩,
    fun ⟨access, clean⟩ => ⟨completes_tileLoad (a := addressI rs1 imm) issued rfl access clean (signed 4 (by decide) (by decide)),
      completes_tileLoad (a := addressI rs1 imm) issued rfl access clean rfl⟩,
    fun ⟨access, clean⟩ => completes_tileLoad (a := addressI rs1 imm) issued rfl access clean rfl⟩

/-! ## Cells written (06 R131) -/

/-- What a byte holds after a run of cells is written, one after another: the last cell of its address. -/
def lastCell (a : Nat) (cs : List (Nat × Byte)) (b : Byte) : Byte := cs.foldl (fun b c => if c.1 = a then c.2 else b) b

theorem lastCell_append (a : Nat) (cs ds : List (Nat × Byte)) (b : Byte) : lastCell a (cs ++ ds) b = lastCell a ds (lastCell a cs b) :=
  List.foldl_append

theorem lastCell_outside {a : Nat} {cs : List (Nat × Byte)} (h : ∀ c ∈ cs, c.1 ≠ a) (b : Byte) : lastCell a cs b = b := by
  induction cs generalizing b with
  | nil => rfl
  | cons c r ih =>
    have rest := ih (fun d hd => h d (List.mem_cons_of_mem _ hd)) b
    rwa [lastCell, List.foldl_cons, if_neg (h c List.mem_cons_self)]

theorem lastCell_filter {a : Nat} {p : Nat → Bool} (h : p a = true) (cs : List (Nat × Byte)) (b : Byte) :
    lastCell a (cs.filter fun c => p c.1) b = lastCell a cs b := by
  unfold lastCell
  rw [List.foldl_filter]
  congr
  funext b c
  by_cases hc : c.1 = a
  · simp [hc, h]
  · simp [hc]

theorem mget_cells (a : Nat) (cs : List (Nat × Byte)) (m : Mem) :
    mget (cs.foldl (fun m c => mset m c.1 c.2) m) a = lastCell a cs (mget m a) := by
  refine (List.foldl_hom (mget · a) fun m c => ?_).symm
  by_cases hc : c.1 = a
  · rw [if_pos hc, hc, mget_mset_same]
  · rw [if_neg hc, mget_mset_ne (Ne.symm hc)]

theorem Tile.byte_writeCells (t : Tile) (cs : List (Nat × Byte)) (a : Nat) :
    (t.writeCells cs).byte a = if a < storeSize then lastCell a cs (t.byte a) else 0 := by
  unfold Tile.byte
  split
  next inside =>
    exact (mget_cells ..).trans (lastCell_filter (p := (decide <| · < storeSize)) (decide_eq_true inside) cs _)
  next => rfl

/-- The cells of bytes from an offset up. -/
def runCells (off : Nat) (bs : List Byte) : List (Nat × Byte) := (List.range bs.length).zip bs |>.map fun c => (off + c.1, c.2)

theorem runCells_cons (off : Nat) (b : Byte) (bs : List Byte) : runCells off (b :: bs) = (off, b) :: runCells (off + 1) bs := by
  unfold runCells
  rw [List.length_cons, List.range_succ_eq_map, List.zip_cons_cons, List.map_cons, List.zip_map_left, List.map_map]
  refine congrArg _ (List.map_congr_left fun c _ => Prod.ext ?_ rfl)
  exact (Nat.add_right_comm off 1 c.1).symm ▸ rfl

theorem mem_runCells {off : Nat} {bs : List Byte} {a : Nat} : (∃ c ∈ runCells off bs, c.1 = a) ↔ off ≤ a ∧ a < off + bs.length := by
  induction bs generalizing off with
  | nil => simp [runCells]
  | cons b r ih =>
    simp only [runCells_cons, List.exists_mem_cons_iff, ih, List.length_cons]
    omega

/-- A byte of a run holds what was written, every other one what it held. -/
theorem lastCell_runCells (off a : Nat) (bs : List Byte) (b : Byte) :
    lastCell a (runCells off bs) b = if off ≤ a ∧ a < off + bs.length then bs.getD (a - off) 0 else b := by
  induction bs generalizing off b with
  | nil => simp [runCells, lastCell]
  | cons x r ih =>
    rw [runCells_cons, lastCell, List.foldl_cons]
    refine (ih (off + 1) _).trans ?_
    rw [List.length_cons]
    by_cases first : off = a
    · subst first
      rw [if_neg (by omega), if_pos rfl, if_pos (by omega), Nat.sub_self, List.getD_cons_zero]
    · by_cases inside : off + 1 ≤ a ∧ a < off + 1 + r.length
      · rw [if_pos inside, if_pos (by omega), show a - off = a - (off + 1) + 1 by omega, List.getD_cons_succ]
      · rw [if_neg inside, if_neg first, if_neg (by omega)]

theorem nsMem_filter (w : Nat) (p : Nat → Bool) (l : NatSet) : nsMem w (l.filter p) = (nsMem w l && p w) := by
  rw [nsMem, nsMem, List.any_filter, Bool.eq_iff_iff]
  simp only [List.any_eq_true, Bool.and_eq_true, beq_iff_eq]
  constructor
  · rintro ⟨x, hx, hp, rfl⟩
    exact ⟨⟨x, hx, rfl⟩, hp⟩
  · rintro ⟨⟨x, hx, rfl⟩, hp⟩
    exact ⟨x, hx, hp, rfl⟩

/-- The whole words of the store that a run of cells covers. -/
theorem wholeWord_runCells (off w : Nat) (bs : List Byte) :
    ((List.range 8).all fun i => ((runCells off bs).filter fun c => c.1 < storeSize).any fun c => c.1 == 8 * w + i)
      = decide (off ≤ 8 * w ∧ 8 * w + 8 ≤ off + bs.length ∧ 8 * w < storeSize) := by
  have cell (i : Nat) : (((runCells off bs).filter fun c => c.1 < storeSize).any fun c => c.1 == 8 * w + i) = true
      ↔ (off ≤ 8 * w + i ∧ 8 * w + i < off + bs.length) ∧ 8 * w + i < storeSize := by
    rw [← mem_runCells]
    simp only [List.any_filter, List.any_eq_true, Bool.and_eq_true, beq_iff_eq, decide_eq_true_eq]
    constructor
    · rintro ⟨c, hc, inside, at'⟩
      exact ⟨⟨c, hc, at'⟩, at' ▸ inside⟩
    · rintro ⟨⟨c, hc, at'⟩, inside⟩
      exact ⟨c, hc, at' ▸ inside, at'⟩
  rw [Bool.eq_iff_iff, List.all_eq_true, decide_eq_true_iff]
  simp only [cell, List.mem_range]
  unfold storeSize
  constructor
  · intro all
    have first := all 0 (by decide)
    have last := all 7 (by decide)
    omega
  · intro covered i hi
    omega

/-- Bytes written to the tile store, as the statements say it. -/
theorem storedAt_writeBytes (t : Tile) (off : Nat) (bs : List Byte) : storedAt t (t.writeBytes off bs) off bs := by
  refine ⟨rfl, fun a => ?_, fun w => ?_⟩
  · rw [Tile.writeBytes, Tile.byte_writeCells]
    change (if a < storeSize then lastCell a (runCells off bs) (t.byte a) else 0) = _
    rw [lastCell_runCells]
    by_cases inside : a < storeSize
    · simp [inside]
    · have out : t.byte a = 0 := if_neg inside
      simp [inside, out]
  · rw [← wholeWord_runCells]
    exact nsMem_filter ..

/-! ## Stores to the tile window (04 R92, R95, R97) -/

theorem length_leBytes (v n : Nat) : (leBytes v n).length = n := by
  induction n generalizing v with
  | zero => rfl
  | succ n ih => exact congrArg (· + 1) (ih _)

theorem length_lowBytes (v : Word) (n : Nat) : (lowBytes v n).length = n := length_leBytes ..

/-- An agent that goes on changes no byte of memory and none of a tile's store. -/
theorem sameBytes_wentOn (pc : Word) (u : State) : sameBytes u (wentOn pc u) := by
  rw [wentOn_eq]
  exact sameBytes_putTile (agentTile_core ..)

theorem l1_setThread (t : Tile) (a : Agent) (h : Thread) : (t.setThread a h).l1 = t.l1 := by cases a <;> rfl

theorem store_setThread (t : Tile) (a : Agent) (h : Thread) : (t.setThread a h).store = t.store := by cases a <;> rfl

theorem State.tile_setTh (u : State) (h : Thread) : (u.setTh h).tile = u.tile.setThread u.curAgent h := State.tile_putTile ..

theorem State.th_putTile (u : State) (T : Tile) : (u.putTile T).th = T.thread u.curAgent := by
  rw [State.th, State.tile_putTile, State.putTile_curAgent]

theorem thread_writeCells (t : Tile) (a : Agent) (cs : List (Nat × Byte)) : (t.writeCells cs).thread a = t.thread a := by
  unfold Tile.writeCells
  cases a with
  | ctx c => simp only [Tile.thread]
  | loader => rfl
  | storer => rfl

theorem l1_writeCells (t : Tile) (cs : List (Nat × Byte)) : (t.writeCells cs).l1 = t.l1 := rfl

/-- The state after a store of bytes to the tile window. -/
def State.tileStore (u : State) (off : Nat) (bs : List Byte) : State :=
  (u.setTh (rangeNoted u.th off bs.length)).putTile ((u.setTh (rangeNoted u.th off bs.length)).tile.writeBytes off bs)

theorem State.tileStore_eq (u : State) (off : Nat) (bs : List Byte) :
    u.tileStore off bs = u.putTile ((u.setTh (rangeNoted u.th off bs.length)).tile.writeBytes off bs) := State.putTile_putTile ..

theorem State.pc_tileStore (u : State) (off : Nat) (bs : List Byte) : (u.tileStore off bs).pc = u.pc := by
  rw [State.pc, State.tileStore_eq, State.th_putTile, Tile.writeBytes, thread_writeCells, State.tile_setTh, Tile.thread_setThread_same,
    pc_rangeNoted, State.pc]

/-- A store to the tile window changes no byte of memory and none of another tile's store. -/
theorem State.readAt_tileStore (u : State) (off : Nat) (bs : List Byte) (b n : Nat) : (u.tileStore off bs).readAt b n = u.readAt b n := by
  rw [State.tileStore_eq]
  refine readAt_putTile ?_ b n
  rw [Tile.writeBytes, l1_writeCells, State.tile_setTh, l1_setThread]

theorem State.tileAt_tileStore (u : State) (off : Nat) (bs : List Byte) {k : Nat} (other : k ≠ u.curTile) :
    (u.tileStore off bs).tileAt k = u.tileAt k := by
  rw [State.tileStore_eq]
  exact State.tileAt_putTile_ne u other _

section
variable {u : State} {a : Word} {bs : List Byte}

theorem State.store_tile (access : tileAccess u a bs.length) (room : u.storeFull = false) :
    u.store a bs = .ok (u.tileStore (a.toNat - tileBase) bs) := by
  obtain ⟨free, region, unlocked⟩ := access
  unfold State.store
  dsimp only
  rw [accessWait_of_free free, region]
  dsimp only
  rw [lockTrap_of_free unlocked, room, noteOut_run]
  rfl

theorem State.store_tile_held (access : tileAccess u a bs.length) (full : u.storeFull = true) : u.store a bs = .hold u := by
  obtain ⟨free, region, unlocked⟩ := access
  unfold State.store
  dsimp only
  rw [accessWait_of_free free, region]
  dsimp only
  rw [lockTrap_of_free unlocked, full]
  rfl

/-- A releasing store of an aligned address whose agent's earlier accesses have performed is a store. -/
theorem State.storeRelease_released {sc : Scope} (free : accessFree u) (region : accessRegion a.toNat bs.length ≠ .unassigned)
    (aligned : a.toNat % bs.length = 0) (released : u.released u.th.outs u.src sc = true) : u.storeRelease sc a bs = u.store a bs := by
  unfold State.storeRelease
  dsimp only
  rw [accessWait_of_free free]
  dsimp only
  rw [aligned, released]
  split
  next h => exact absurd h region
  next => rfl

end

section
variable {s u : State} {i : Instr} {a : Word} {n : Nat} {src : Reg}
  (runs : exec i s = .next (State.finish ((u.store a (lowBytes (u.x src) n)).afterStreams u)))
include runs

/-- A store to the tile window completes with its bytes written and nothing else changed. -/
theorem completes_tileStore (access : tileAccess u a n) (room : u.storeFull = false) : completes i s (fun t =>
    ∃ T, storedAt (u.setTh (rangeNoted u.th (a.toNat - tileBase) n)).tile T (a.toNat - tileBase) (leBytes (u.x src).toNat n)
      ∧ t = wentOn (u.pc + 4) ((u.setTh (rangeNoted u.th (a.toNat - tileBase) n)).putTile T)
      ∧ (∀ b, t.readAt b 1 = u.readAt b 1) ∧ ∀ k off, k ≠ u.curTile → (t.tileAt k).byte off = (u.tileAt k).byte off) := by
  rw [← length_lowBytes (u.x src) n] at access
  have done := exec_of_ok runs (State.store_tile access room)
  rw [finish_ok, State.pc_tileStore] at done
  obtain ⟨memory, stores⟩ := sameBytes_wentOn (u.pc + 4) (u.tileStore (a.toNat - tileBase) (lowBytes (u.x src) n))
  refine completes_next done ⟨_, storedAt_writeBytes .., ?_, fun b => (memory b).trans (State.readAt_tileStore ..), fun k off other => ?_⟩
  · rw [State.tileStore, length_lowBytes]
    rfl
  · rw [stores, State.tileAt_tileStore u _ _ other]

theorem exec_tileStore_held (access : tileAccess u a n) (full : u.storeFull = true) : exec i s = .next u := by
  rw [← length_lowBytes (u.x src) n] at access
  exact exec_of_hold runs (State.store_tile_held access full)

end

/-- A releasing store of an aligned address runs as a store, once what its agent did before has performed. -/
theorem exec_srel_released {s u : State} {m : SMark} (issued : issues s m u) {sc : Scope} {wd : Width} {rs1 rs2 : Reg} (free : accessFree u)
    (region : accessRegion (u.x rs1).toNat (widthBytes wd) ≠ .unassigned) (aligned : (u.x rs1).toNat % widthBytes wd = 0)
    (released : u.released u.th.outs u.src sc = true) :
    exec (.srel m sc wd rs1 rs2) s = .next (State.finish ((u.store (u.x rs1) (lowBytes (u.x rs2) (widthBytes wd))).afterStreams u)) := by
  rw [← length_lowBytes (u.x rs2) (widthBytes wd)] at region aligned
  rw [← State.storeRelease_released free region aligned released]
  have runs := exec_scalar (i := .srel m sc wd rs1 rs2) issued rfl
  exact runs

/-- Settles O12: each width runs as a store of its low bytes, and so does an aligned SREL whose agent's earlier accesses have performed. -/
theorem tileWindowStores : Obligations.TileWindowStores := by
  unfold Obligations.TileWindowStores
  intro s u m issued rs1 rs2 imm sc wd a low put ok
  have sb := exec_scalar (i := .sb m rs1 rs2 imm) issued rfl
  have sh := exec_scalar (i := .sh m rs1 rs2 imm) issued rfl
  have sw := exec_scalar (i := .sw m rs1 rs2 imm) issued rfl
  have sd := exec_scalar (i := .sd m rs1 rs2 imm) issued rfl
  have srel (access : tileAccess u (u.x rs1) (widthBytes wd)) :=
    exec_srel_released (sc := sc) (rs2 := rs2) issued access.1 (by rw [access.2.1]; decide)
  exact ⟨fun ⟨access, room⟩ => completes_tileStore sb access room, fun ⟨access, room⟩ => completes_tileStore sh access room,
    fun ⟨access, room⟩ => completes_tileStore sw access room, fun ⟨access, room⟩ => completes_tileStore sd access room,
    fun full => ⟨fun access => exec_tileStore_held sb access full, fun access => exec_tileStore_held sh access full,
      fun access => exec_tileStore_held sw access full, fun access => exec_tileStore_held sd access full,
      fun access aligned released => exec_tileStore_held (srel access aligned released) access full⟩,
    fun ⟨access, room⟩ aligned released => completes_tileStore (srel access aligned released) access room⟩

/-! ## Traps of an access (04 R93, R99) -/

section
variable {u : State} {a : Word} {n : Nat}

theorem State.load_unassigned (free : accessFree u) (region : accessRegion a.toNat n = .unassigned) (rd : Reg) (sx : Bool) :
    u.load rd a n sx = Done.trapAt u trACCESS_FAULT a 0 := by
  unfold State.load
  dsimp only
  rw [accessWait_of_free free, region]

theorem State.store_unassigned {bs : List Byte} (free : accessFree u) (region : accessRegion a.toNat bs.length = .unassigned) :
    u.store a bs = Done.trapAt u trACCESS_FAULT a 0 := by
  unfold State.store
  dsimp only
  rw [accessWait_of_free free, region]

theorem State.loadAcquire_misaligned (free : accessFree u) (region : accessRegion a.toNat n ≠ .unassigned) (odd : a.toNat % n ≠ 0)
    (sc : Scope) (rd : Reg) : u.loadAcquire sc rd a n = Done.trapAt u trMISALIGNED a 0 := by
  unfold State.loadAcquire
  dsimp only
  rw [accessWait_of_free free]
  dsimp only
  split
  next h => exact absurd h region
  next => rw [if_pos (bne_iff_ne.mpr odd)]

theorem State.storeRelease_misaligned {bs : List Byte} (free : accessFree u) (region : accessRegion a.toNat bs.length ≠ .unassigned)
    (odd : a.toNat % bs.length ≠ 0) (sc : Scope) : u.storeRelease sc a bs = Done.trapAt u trMISALIGNED a 0 := by
  unfold State.storeRelease
  dsimp only
  rw [accessWait_of_free free]
  dsimp only
  split
  next h => exact absurd h region
  next => rw [if_pos (bne_iff_ne.mpr odd)]

theorem lockTrap_of_locked {sp : List (Nat × Nat)} {e : Nat} (locked : u.tile.lockHit sp = some e) (a : Word) :
    u.lockTrap a.toNat sp = some (Done.trapAt u trRANGE_LOCKED a (BitVec.ofNat 64 e)) := by
  rw [State.lockTrap, locked, Option.map_some, BitVec.ofNat_toNat, BitVec.setWidth_eq]

theorem State.load_locked {e : Nat} (free : accessFree u) (region : accessRegion a.toNat n = .tile) (locked : u.tile.lockHit [(a.toNat, n)] = some e)
    (rd : Reg) (sx : Bool) : u.load rd a n sx = Done.trapAt u trRANGE_LOCKED a (BitVec.ofNat 64 e) := by
  unfold State.load
  dsimp only
  rw [accessWait_of_free free, region]
  dsimp only
  rw [State.tileRead, lockTrap_of_locked locked]

theorem State.store_locked {bs : List Byte} {e : Nat} (free : accessFree u) (region : accessRegion a.toNat bs.length = .tile)
    (locked : u.tile.lockHit [(a.toNat, bs.length)] = some e) : u.store a bs = Done.trapAt u trRANGE_LOCKED a (BitVec.ofNat 64 e) := by
  unfold State.store
  dsimp only
  rw [accessWait_of_free free, region]
  dsimp only
  rw [lockTrap_of_locked locked]

theorem State.load_poisoned (access : tileAccess u a n) (poisoned : u.tile.poisoned (a.toNat - tileBase) n = true) (rd : Reg) (sx : Bool) :
    u.load rd a n sx = .trap { code := trPOISON, tpc := u.pc, taddr := a, tinfo := u.pc, resume := .region } u := by
  obtain ⟨free, region, unlocked⟩ := access
  unfold State.load
  dsimp only
  rw [accessWait_of_free free, region]
  dsimp only
  rw [State.tileRead, lockTrap_of_free unlocked]
  dsimp only
  rw [show tileOff a.toNat = a.toNat - tileBase from rfl, poisoned, BitVec.ofNat_toNat, BitVec.setWidth_eq]
  rfl

end

/-- Settles O15: each check that fails ends the body in its trap, with the state of issue. -/
theorem accessTraps : Obligations.AccessTraps := by
  unfold Obligations.AccessTraps
  intro s u m issued free rd rs1 rs2 imm sc wd e a n trap
  have ld := exec_scalar (i := .ld m rd rs1 imm) issued rfl
  have sd := exec_scalar (i := .sd m rs1 rs2 imm) issued rfl
  have lacq := exec_scalar (i := .lacq m sc wd rd rs1) issued rfl
  have srel := exec_scalar (i := .srel m sc wd rs1 rs2) issued rfl
  have width : (lowBytes (u.x rs2) (widthBytes wd)).length = n := length_lowBytes ..
  refine ⟨fun region => ⟨exec_of_trap ld (State.load_unassigned free region rd false), exec_of_trap sd (State.store_unassigned free region)⟩,
    fun region odd => ⟨exec_of_trap lacq (State.loadAcquire_misaligned free region odd sc rd), ?srel⟩,
    fun region locked => ⟨exec_of_trap ld (State.load_locked free region locked rd false), exec_of_trap sd (State.store_locked free region locked)⟩,
    fun access poisoned => exec_of_trap ld (State.load_poisoned access poisoned rd false)⟩
  case srel =>
    rw [← width] at region odd
    exact exec_of_trap srel (State.storeRelease_misaligned free region odd sc)

end Sys2Proof.Machine
end

section
/-! SUPPORT. Accesses that travel (O10, O13, O14): what they change of the machine, and what the acting agent has left when it goes on. -/

namespace Sys2Proof.Machine

open Sys2Proof.Safety

/-! ## States that differ in their traffic -/

/-- Of the machine only what is in flight and the next number are others, of the acting tile the L1 and the bits of the replacement, of the
acting agent its outstanding results. -/
structure Traffic (u v : State) : Prop where
  rest : v = { u with tiles := v.tiles, flights := v.flights, fresh := v.fresh }
  elsewhere : ∀ n, n ≠ u.curTile → v.tileAt n = u.tileAt n
  here : v.tile = { u.tile.setThread u.curAgent { u.th with outs := v.th.outs } with l1 := v.tile.l1, plru := v.tile.plru }

theorem Tile.setThread_self (t : Tile) (a : Agent) : t.setThread a (t.thread a) = t := by
  cases a with
  | ctx c => exact congrArg (fun x => { t with ctx := x }) (Vector.set_getElem_self c.isLt)
  | loader => rfl
  | storer => rfl

namespace Traffic

section
variable {u v : State} (h : Traffic u v)
include h

theorem curTile : v.curTile = u.curTile := (congrArg State.curTile h.rest :)
theorem curAgent : v.curAgent = u.curAgent := (congrArg State.curAgent h.rest :)
theorem mem : v.mem = u.mem := (congrArg State.mem h.rest :)

theorem th : v.th = { u.th with outs := v.th.outs } := by
  have own : v.th = v.tile.thread u.curAgent := by rw [State.th, h.curAgent]
  refine own.trans ((congrArg (Tile.thread · u.curAgent) h.here).trans ?_)
  cases ha : u.curAgent <;> simp [Tile.thread, Tile.setThread]

theorem pc : v.pc = u.pc := (congrArg Thread.pc h.th :)
theorem readX (r : Reg) : v.x r = u.x r := (congrArg (Thread.readX · r) h.th :)

theorem src : v.src = u.src := by
  have tile := h.here
  unfold State.src State.ws
  rw [h.curTile, h.curAgent, tile]
  cases ha : u.curAgent <;> simp [Tile.setThread]

theorem store : v.tile.store = u.tile.store := by
  rw [h.here]
  exact store_setThread ..

theorem isCtx : v.isCtx = u.isCtx := by rw [State.isCtx, h.curAgent, State.isCtx]

theorem ctx : v.ctx = { u.ctx with th := v.ctx.th } := by
  have tile := h.here
  unfold State.ctx
  rw [h.curAgent]
  cases ha : u.curAgent with
  | ctx c => rw [tile, ha]; simp [Tile.setThread]
  | loader => rfl
  | storer => rfl

end

theorem refl (u : State) : Traffic u u where
  rest := rfl
  elsewhere _ _ := rfl
  here := by rw [show ({ u.th with outs := u.th.outs } : Thread) = u.tile.thread u.curAgent from rfl, Tile.setThread_self]

theorem trans {u v w : State} (h : Traffic u v) (k : Traffic v w) : Traffic u w where
  rest := k.rest.trans (by rw [h.rest])
  elsewhere n hn := by rw [k.elsewhere n (h.curTile ▸ hn), h.elsewhere n hn]
  here := by
    refine k.here.trans ?_
    rw [h.curAgent, h.th, h.here]
    cases ha : u.curAgent <;> simp [Tile.setThread]

/-- The acting tile replaced by one with other results, another L1 and other bits of the replacement. -/
theorem putTile (u : State) (outs : List Remote) (l1 : List (Nat × L1Word)) (plru : BitVec 128) :
    Traffic u (u.putTile { u.tile.setThread u.curAgent { u.th with outs := outs } with l1 := l1, plru := plru }) where
  rest := rfl
  elsewhere n hn := State.tileAt_putTile_ne u hn _
  here := by
    have own : ({ u.tile.setThread u.curAgent { u.th with outs := outs } with l1 := l1, plru := plru } : Tile).thread u.curAgent
        = { u.th with outs := outs } := by
      cases ha : u.curAgent <;> simp [Tile.thread, Tile.setThread]
    rw [State.th_putTile, own, State.tile_putTile]

theorem withFlights {u v : State} (h : Traffic u v) (fl : List Flight) : Traffic u { v with flights := fl } where
  rest := by rw [h.rest]
  elsewhere := h.elsewhere
  here := h.here

theorem withFresh {u v : State} (h : Traffic u v) (n : Nat) : Traffic u { v with fresh := n } where
  rest := by rw [h.rest]
  elsewhere := h.elsewhere
  here := h.here

/-- The acting tile replaced by one with another L1 and other bits of the replacement. -/
theorem putTile_caches (u : State) (l1 : List (Nat × L1Word)) (plru : BitVec 128) :
    Traffic u (u.putTile { u.tile with l1 := l1, plru := plru }) := by
  have h := putTile u u.th.outs l1 plru
  rwa [show ({ u.th with outs := u.th.outs } : Thread) = u.tile.thread u.curAgent from rfl, Tile.setThread_self] at h

theorem setOuts (u : State) (outs : List Remote) : Traffic u (u.setTh { u.th with outs := outs }) := by
  have h := putTile u outs u.tile.l1 u.tile.plru
  have same : ({ u.tile.setThread u.curAgent { u.th with outs := outs } with l1 := u.tile.l1, plru := u.tile.plru } : Tile)
      = u.tile.setThread u.curAgent { u.th with outs := outs } := by
    cases ha : u.curAgent <;> rfl
  rwa [same] at h

/-! ### The agent that goes on after it -/

section
variable {u v : State} (h : Traffic u v) (pc : Word)
include h

theorem th_wentOn : (wentOn pc v).th = { u.th with pc := pc, outs := v.th.outs } := by
  rw [wentOn_eq, th_agentTile, h.th]

theorem pc_wentOn : (wentOn pc v).pc = pc := (congrArg Thread.pc (h.th_wentOn pc) :)

theorem x_wentOn (r : Reg) : (wentOn pc v).x r = u.x r := (congrArg (Thread.readX · r) (h.th_wentOn pc) :)

theorem sameStrand_wentOn : sameStrand u (wentOn pc v) ∧ sameVK u (wentOn pc v) ∧ (wentOn pc v).ctx.written = u.ctx.written := by
  unfold sameStrand sameVK
  cases isCtx : u.isCtx with
  | true =>
    rw [wentOn_eq, ctx_agentTile (h.isCtx.trans isCtx), h.ctx]
    exact ⟨rfl, ⟨rfl, rfl⟩, rfl⟩
  | false =>
    have reset : (wentOn pc v).ctx = u.ctx := by
      rw [wentOn_eq]
      unfold State.ctx
      rw [State.putTile_curAgent, h.curAgent]
      cases ha : u.curAgent <;> simp_all [State.isCtx]
    rw [reset]
    exact ⟨rfl, ⟨rfl, rfl⟩, rfl⟩

theorem sameButTraffic_wentOn : sameButTraffic u (wentOn pc v) := by
  rw [wentOn_eq]
  have tile : (v.putTile (agentTile v { v.th with pc := pc } id)).tile = agentTile v { v.th with pc := pc } id := State.tile_putTile ..
  refine ⟨?_, fun n hn => ?_, ?_, ?_⟩
  · rw [h.rest]
    rfl
  · rw [State.tileAt_putTile_ne v (by rwa [h.curTile]), h.elsewhere n hn]
  · rw [tile, agentTile, h.curAgent]
    cases ha : u.curAgent <;> rw [h.here, ha] <;> rfl
  · unfold sameOthers
    rw [tile, agentTile, h.curAgent]
    cases ha : u.curAgent with
    | ctx c =>
      rw [h.here, ha]
      refine ⟨fun d hd => ?_, fun _ => rfl, fun _ => rfl⟩
      have other : c.val ≠ d.val := fun e => hd (congrArg Agent.ctx (Fin.ext e))
      simp [Tile.setThread, other]
    | loader =>
      rw [h.here, ha]
      exact ⟨fun _ _ => rfl, fun hx => absurd rfl hx, fun _ => rfl⟩
    | storer =>
      rw [h.here, ha]
      exact ⟨fun _ _ => rfl, fun _ => rfl, fun hx => absurd rfl hx⟩

end

end Traffic

theorem l1_wentOn (pc : Word) (v : State) : (wentOn pc v).tile.l1 = v.tile.l1 := by
  rw [wentOn_eq, State.tile_putTile]
  exact l1_of_core (agentTile_core ..)

theorem flights_wentOn (pc : Word) (v : State) : (wentOn pc v).flights = v.flights := by
  rw [wentOn_eq]
  rfl

/-! ## The uses of translations noted (13 R269) -/

/-- Only the bits of the replacement are others. -/
structure Touched (u v : State) : Prop extends Traffic u v where
  flights : v.flights = u.flights
  fresh : v.fresh = u.fresh
  l1 : v.tile.l1 = u.tile.l1
  outs : v.th.outs = u.th.outs

namespace Touched

theorem refl (u : State) : Touched u u := ⟨.refl u, rfl, rfl, rfl, rfl⟩

theorem trans {u v w : State} (h : Touched u v) (k : Touched v w) : Touched u w :=
  ⟨h.toTraffic.trans k.toTraffic, k.flights.trans h.flights, k.fresh.trans h.fresh, k.l1.trans h.l1, k.outs.trans h.outs⟩

theorem touchTlb (u : State) (ws : Wsid) (va : Nat) : Touched u (u.touchTlb u.curTile ws va) := by
  unfold State.touchTlb
  split
  next e _ =>
    refine ⟨Traffic.putTile_caches u u.tile.l1 (plruTouch u.tile.plru e.1), rfl, rfl, ?_, ?_⟩
    · exact (congrArg Tile.l1 (State.tile_putTile ..) :)
    · exact (congrArg Thread.outs (State.th_putTile ..) :)
  next => exact .refl u

theorem touchPages (u : State) (spans : List (Nat × Nat × Nat)) : Touched u (u.touchPages spans) :=
  foldl_keeps (P := Touched u) (f := fun s va => s.touchTlb s.curTile s.ws va) (fun s va h => h.trans (touchTlb s s.ws va)) _ (refl u)

end Touched

/-! ## Reads of the remote class (01 R17, 13 R257) -/

theorem Remote.resultKey_fill (r : Remote) (pos : Nat) (bytes : List Byte) (poison : Bool) : resultKey (r.fill pos bytes poison) = resultKey r := by
  simp [resultKey, Remote.fill]

/-- The acquires among outstanding results are told by what names the results. -/
theorem acquires_of_keys {rs qs : List Remote} (h : qs.map resultKey = rs.map resultKey) : qs.map (·.acquire) = rs.map (·.acquire) := by
  have keys := congrArg (List.map fun k : Nat × RDest × Word × Word × Nat × Option Scope => k.2.2.2.2.2) h
  simpa [Function.comp_def, resultKey] using keys

/-- A read under way: no result is named otherwise, and where none of them acquires, the L1 stays as it is and more is in flight. -/
structure Reading (u v : State) : Prop extends Traffic u v where
  keys : v.th.outs.map resultKey = u.th.outs.map resultKey
  quiet : (∀ r ∈ u.th.outs, r.acquire = none) → v.tile.l1 = u.tile.l1 ∧ ∃ fl, v.flights = u.flights ++ fl

namespace Reading

theorem refl (u : State) : Reading u u := ⟨.refl u, rfl, fun _ => ⟨rfl, [], (List.append_nil _).symm⟩⟩

theorem noAcquire {u v : State} (h : Reading u v) (idle : ∀ r ∈ u.th.outs, r.acquire = none) : ∀ r ∈ v.th.outs, r.acquire = none := by
  have all : ∀ a ∈ u.th.outs.map (·.acquire), a = none := by simpa using idle
  rw [← acquires_of_keys h.keys] at all
  simpa using all

theorem trans {u v w : State} (h : Reading u v) (k : Reading v w) : Reading u w where
  toTraffic := h.toTraffic.trans k.toTraffic
  keys := k.keys.trans h.keys
  quiet idle := by
    obtain ⟨l1, fl, flights⟩ := h.quiet idle
    obtain ⟨l1', fl', flights'⟩ := k.quiet (h.noAcquire idle)
    exact ⟨l1'.trans l1, fl ++ fl', by rw [flights', flights, List.append_assoc]⟩

theorem addFlight (u : State) (f : Flight) : Reading u { u with flights := u.flights ++ [f] } :=
  ⟨(Traffic.refl u).withFlights _, rfl, fun _ => ⟨rfl, [f], rfl⟩⟩

end Reading

theorem Traffic.selfInvalidate (u : State) : Traffic u (u.selfInvalidate u.curTile) :=
  (Traffic.putTile_caches u _ u.tile.plru).withFlights _

theorem State.th_selfInvalidate (u : State) : (u.selfInvalidate u.curTile).th = u.th := by
  refine (State.th_putTile u { u.tile with l1 := _ }).trans ?_
  unfold State.th
  cases u.curAgent <;> rfl

theorem State.l1_selfInvalidate (u : State) :
    (u.selfInvalidate u.curTile).tile.l1 = u.tile.l1.filter fun e => e.2.st == .registered || e.2.sealed :=
  (congrArg Tile.l1 (State.tile_putTile u { u.tile with l1 := _ }) :)

theorem State.l1_setTh (u : State) (h : Thread) : (u.setTh h).tile.l1 = u.tile.l1 := by rw [State.tile_setTh, l1_setThread]

/-- Bytes that a read brings fill the result; an acquire that is complete drops what is not the tile's own. -/
theorem Reading.deliver (u : State) (tag pos : Nat) (bytes : List Byte) (poison : Bool) : Reading u (u.deliver u.src tag pos bytes poison) := by
  have filled : Reading u (u.setTh { u.th with outs := u.th.outs.map fun r => if r.tag = tag then r.fill pos bytes poison else r }) := by
    refine ⟨.setOuts .., ?_, fun _ => ⟨State.l1_setTh .., [], (List.append_nil _).symm⟩⟩
    rw [State.th_setTh, List.map_map]
    refine List.map_congr_left fun r _ => ?_
    dsimp only [Function.comp]
    split
    · exact Remote.resultKey_fill ..
    · rfl
  unfold State.deliver
  dsimp only
  split
  next r found =>
    split
    next completes =>
      refine ⟨filled.toTraffic.trans (.selfInvalidate _), (congrArg (·.outs.map resultKey) (State.th_selfInvalidate _)).trans filled.keys,
        fun idle => ?_⟩
      obtain ⟨q, outstanding, rfl⟩ := List.mem_map.mp (List.mem_of_find?_eq_some found)
      have plain : (if q.tag = tag then q.fill pos bytes poison else q).acquire = none := by
        rw [← idle q outstanding]
        split <;> rfl
      simp [plain] at completes
    next => exact filled
  next => exact filled

theorem Reading.readPiece (u : State) (tag : Nat) (p : Piece) : Reading u (u.readPiece u.src tag p) := by
  unfold State.readPiece
  split
  · split
    · exact .deliver ..
    · exact .addFlight ..
  · exact .addFlight ..
  · exact .addFlight ..

theorem Reading.readPieces (u : State) (tag : Nat) (ps : List Piece) : Reading u (ps.foldl (fun s p => s.readPiece s.src tag p) u) :=
  foldl_keeps (P := Reading u) (f := fun s p => s.readPiece s.src tag p) (fun s p h => h.trans (.readPiece s tag p)) ps (.refl u)

/-- The result that a read leaves outstanding. -/
def newResult (u : State) (dest : RDest) (va : Nat) (bytes : List (Option Byte)) (acq : Option Scope) : Remote :=
  { tag := u.fresh, dest := dest, pc := u.pc, addr := BitVec.ofNat 64 va, bytes := bytes, poison := false, dropped := none, acquire := acq }

/-- A read begun, before any of its pieces is read. -/
def State.openRead (u : State) (dest : RDest) (va : Nat) (bytes : List (Option Byte)) (acq : Option Scope) (keep : Bool) : State :=
  let v : State := { u with fresh := u.fresh + 1 }
  if keep then v.setTh { v.th with outs := v.th.outs ++ [newResult u dest va bytes acq] } else v

theorem State.beginRead_eq (u : State) (dest : RDest) (va : Nat) (bytes : List (Option Byte)) (acq : Option Scope) (keep : Bool) (ps : List Piece) :
    u.beginRead dest va bytes acq keep ps
      = ps.foldl (fun s p => s.readPiece s.src u.fresh p) (u.openRead dest va bytes acq keep) := rfl

section
variable (u : State) (dest : RDest) (va : Nat) (bytes : List (Option Byte)) (acq : Option Scope) (keep : Bool)

theorem State.outs_openRead :
    (u.openRead dest va bytes acq keep).th.outs = u.th.outs ++ if keep then [newResult u dest va bytes acq] else [] := by
  unfold State.openRead
  cases keep with
  | true => exact (congrArg Thread.outs (State.th_setTh ..) :)
  | false => exact (List.append_nil _).symm

theorem State.openRead_traffic : Traffic u (u.openRead dest va bytes acq keep)
    ∧ (u.openRead dest va bytes acq keep).tile.l1 = u.tile.l1 ∧ (u.openRead dest va bytes acq keep).flights = u.flights := by
  have fresh : Traffic u { u with fresh := u.fresh + 1 } := (Traffic.refl u).withFresh _
  unfold State.openRead
  cases keep with
  | true => exact ⟨fresh.trans (.setOuts ..), State.l1_setTh .., rfl⟩
  | false => exact ⟨fresh, rfl, rfl⟩

/-- What the read of an access has begun, once its agent goes on (01 R17). -/
theorem beganRead_wentOn {u w v : State} (touched : Touched u w) (read : Reading (w.openRead dest va bytes acq keep) v) :
    beganRead u (wentOn (u.pc + 4) v) keep dest (BitVec.ofNat 64 va) bytes.length acq := by
  obtain ⟨opened, l1, flights⟩ := State.openRead_traffic w dest va bytes acq keep
  have outs := State.outs_openRead w dest va bytes acq keep
  have traffic : Traffic u v := (touched.toTraffic.trans opened).trans read.toTraffic
  have th := traffic.th_wentOn (u.pc + 4)
  obtain ⟨-, ⟨v', -⟩, written⟩ := traffic.sameStrand_wentOn (u.pc + 4)
  have key : resultKey (newResult w dest va bytes acq) = (u.fresh, dest, u.pc, BitVec.ofNat 64 va, bytes.length, acq) := by
    simp [resultKey, newResult, touched.fresh, touched.pc]
  refine ⟨traffic.pc_wentOn _, traffic.x_wentOn _, by rw [th], by rw [th], ?_, v', written, traffic.sameButTraffic_wentOn _, ?_⟩
  · rw [th]
    change v.th.outs.map resultKey = _
    rw [read.keys, outs, touched.outs, List.map_append]
    cases keep with
    | true => exact congrArg (_ ++ [·]) key
    | false => rfl
  · rintro ⟨idle, plain⟩
    have quiet : ∀ r ∈ (w.openRead dest va bytes acq keep).th.outs, r.acquire = none := by
      rw [outs, touched.outs]
      intro r hr
      rcases List.mem_append.mp hr with old | new
      · exact idle r old
      · cases keep with
        | true => rw [List.mem_singleton.mp new]; exact plain
        | false => cases new
    obtain ⟨l1', fl, flights'⟩ := read.quiet quiet
    rw [l1_wentOn, flights_wentOn]
    exact ⟨l1'.trans (l1.trans touched.l1), fl, by rw [flights', flights, touched.flights]⟩

end

/-! ## The checks of an access outside the tile window (04 R93) -/

/-- An access whose pieces are translated, without a lock in its way or an atomic of its own agent ahead, goes on. -/
theorem State.reachThen_ok {u : State} {need : Need} {spans : List (Nat × Nat × Nat)} {ps : List Piece}
    (reached : u.reachPieces need (spans.flatMap fun sp => lineChunks sp.1 sp.2.1 sp.2.2) = .ok ps)
    (order : (need.r && need.w) = true ∨ u.atomAhead ps = false) (k : State → List Piece → Done) :
    u.reachThen need spans none k = k (u.touchPages spans) ps := by
  have goesOn : (!(need.r && need.w) && u.atomAhead ps) = false := by
    rcases order with both | none
    · rw [both]; rfl
    · rw [none, Bool.and_false]
  unfold State.reachThen
  rw [reached]
  dsimp only
  rw [goesOn]
  rfl

theorem State.reach_ok {u : State} {need : Need} {a n : Nat} {ps : List Piece} (reached : u.reachPieces need (lineChunks 0 a n) = .ok ps)
    (unlocked : u.tile.lockHit [(a, n)] = none) (order : (need.r && need.w) = true ∨ u.atomAhead ps = false) (k : State → List Piece → Done) :
    u.reach need a [(0, a, n)] k = k (u.touchPages [(0, a, n)]) ps := by
  rw [State.reach, List.map_singleton, lockTrap_of_free unlocked]
  exact State.reachThen_ok (by rw [List.flatMap_singleton]; exact reached) order k

section
variable {u : State} {a : Word} {n : Nat} {ps : List Piece} (access : reaches u needLoad a n ps)
include access

theorem State.load_remote (rd : Reg) (sx : Bool) : u.load rd a n sx =
    .ok ((u.touchPages [(0, a.toNat, n)]).beginRead (.x rd sx) a.toNat (List.replicate n none) none (rd != 0) ps) := by
  obtain ⟨free, region, reached, unlocked, order⟩ := access
  have reach := State.reach_ok reached unlocked order
  unfold State.load
  dsimp only
  rw [accessWait_of_free free]
  dsimp only
  rcases region with h | h <;> rw [h] <;> dsimp only <;> rw [reach]

theorem State.loadAcquire_remote (aligned : a.toNat % n = 0) (sc : Scope) (rd : Reg) : u.loadAcquire sc rd a n =
    .ok ((u.touchPages [(0, a.toNat, n)]).beginRead (.x rd true) a.toNat (List.replicate n none) (some sc) true ps) := by
  obtain ⟨free, region, reached, unlocked, order⟩ := access
  have reach := State.reach_ok reached unlocked order
  unfold State.loadAcquire
  dsimp only
  rw [accessWait_of_free free, aligned]
  dsimp only
  rcases region with h | h <;> rw [h] <;> dsimp only <;> rw [reach] <;> rfl

end

section
variable {s u : State} {i : Instr} {d : Done} {a : Word} {n : Nat} {ps : List Piece}
  (runs : exec i s = .next (State.finish (d.afterStreams u)))
include runs

/-- An access of the remote class completes with its read begun. -/
theorem completes_read {w : State} {dest : RDest} {va : Nat} {bytes : List (Option Byte)} {acq : Option Scope} {keep : Bool} (touched : Touched u w)
    (ends : d = .ok (w.beginRead dest va bytes acq keep ps)) :
    completes i s (fun t => beganRead u t keep dest (BitVec.ofNat 64 va) bytes.length acq) := by
  have read := Reading.readPieces (w.openRead dest va bytes acq keep) w.fresh ps
  have pc : (w.beginRead dest va bytes acq keep ps).pc = u.pc :=
    ((touched.toTraffic.trans (State.openRead_traffic w dest va bytes acq keep).1).trans read.toTraffic).pc
  have done := exec_of_ok runs ends
  rw [finish_ok, pc] at done
  exact completes_next done (beganRead_wentOn dest va bytes acq keep touched read)

end

section
variable {s u : State} {m : SMark} {i j : Instr} {rd : Reg} {a : State → Word} {n : Nat} {sx : Bool} {ps : List Piece} (issued : issues s m u)
include issued

theorem completes_remoteLoad (meaning : exec i s = .next (issue j m true (fun s => s.load rd (a s) n sx) s)) (access : reaches u needLoad (a u) n ps) :
    completes i s (fun t => beganRead u t (rd != 0) (.x rd sx) (a u) n none) := by
  have began := completes_read (exec_scalar issued meaning) (.touchPages u _) (State.load_remote access rd sx)
  rwa [List.length_replicate, BitVec.ofNat_toNat, BitVec.setWidth_eq] at began

end

/-- Settles O10: outside the tile window each load begins a read of its bytes. -/
theorem remoteLoads : Obligations.RemoteLoads := by
  unfold Obligations.RemoteLoads
  intro s u m issued rd rs1 imm ps a put
  exact ⟨fun access => ⟨completes_remoteLoad (a := addressI rs1 imm) issued rfl access, completes_remoteLoad (a := addressI rs1 imm) issued rfl access⟩,
    fun access => ⟨completes_remoteLoad (a := addressI rs1 imm) issued rfl access, completes_remoteLoad (a := addressI rs1 imm) issued rfl access⟩,
    fun access => ⟨completes_remoteLoad (a := addressI rs1 imm) issued rfl access, completes_remoteLoad (a := addressI rs1 imm) issued rfl access⟩,
    fun access => completes_remoteLoad (a := addressI rs1 imm) issued rfl access⟩

/-! ## Acquires from the tile window (04 R96, 13 R258) -/

/-- The state in which an acquire from the tile window leaves its agent: its result stands there complete, and at a wide scope the L1 keeps
only what is the tile's own. -/
def State.tileAcquire (w : State) (sc : Scope) (rd : Reg) (va : Nat) (bs : List Byte) : State :=
  let v := w.openRead (.x rd true) va (bs.map some) (some sc) true
  if wideScope sc then v.selfInvalidate v.curTile else v

section
variable (w : State) (sc : Scope) (rd : Reg) (va : Nat) (bs : List Byte)

theorem State.th_tileAcquire : (w.tileAcquire sc rd va bs).th = (w.openRead (.x rd true) va (bs.map some) (some sc) true).th := by
  unfold State.tileAcquire
  dsimp only
  split
  · exact State.th_selfInvalidate _
  · rfl

theorem State.l1_tileAcquire : (w.tileAcquire sc rd va bs).tile.l1
    = if wideScope sc then w.tile.l1.filter (fun e => e.2.st == .registered || e.2.sealed) else w.tile.l1 := by
  have opened := (State.openRead_traffic w (.x rd true) va (bs.map some) (some sc) true).2.1
  unfold State.tileAcquire
  dsimp only
  rw [← opened]
  split
  · exact State.l1_selfInvalidate _
  · rfl

theorem State.last_tileAcquire :
    ((w.tileAcquire sc rd va bs).th.outs.getLast?.map fun r => (r.bytes, r.poison)) = some (bs.map some, false) := by
  rw [State.th_tileAcquire, State.outs_openRead, if_pos rfl, List.getLast?_concat]
  rfl

/-- No read of the acquire is on its way; its own result tells that what the L1 held may be gone. -/
theorem Reading.tileAcquire : Reading (w.openRead (.x rd true) va (bs.map some) (some sc) true) (w.tileAcquire sc rd va bs) where
  toTraffic := by
    unfold State.tileAcquire
    dsimp only
    split
    · exact .selfInvalidate _
    · exact .refl _
  keys := by rw [State.th_tileAcquire]
  quiet idle := by
    have acquires := idle (newResult w (.x rd true) va (bs.map some) (some sc)) (by rw [State.outs_openRead, if_pos rfl]; simp)
    cases acquires

end

theorem State.loadAcquire_tile {u : State} {a : Word} {n : Nat} (access : tileAccess u a n) (aligned : a.toNat % n = 0)
    (clean : u.tile.poisoned (a.toNat - tileBase) n = false) (sc : Scope) (rd : Reg) : u.loadAcquire sc rd a n =
      .ok ((u.setTh (rangeNoted u.th (a.toNat - tileBase) n)).tileAcquire sc rd a.toNat (u.tile.bytes (a.toNat - tileBase) n)) := by
  obtain ⟨free, region, unlocked⟩ := access
  unfold State.loadAcquire
  dsimp only
  rw [accessWait_of_free free, region, aligned]
  dsimp only
  rw [State.tileRead_clean unlocked clean]
  rfl

/-! ## Prefetches (04 R98) -/

/-- What a prefetch may change, and that it sends at most one fill. -/
structure Prefetched (u v : State) : Prop where
  frame : v = { u with flights := v.flights, fresh := v.fresh, walks := v.walks, walkQ := v.walkQ }
  flights : v.flights = u.flights ∨ ∃ f, v.flights = u.flights ++ [f]

namespace Prefetched

theorem prefLine (u : State) (n : Nat) (src : Src) (l2 : Bool) (pa : Nat) (sealed : Bool) :
    Prefetched u (({ u with fresh := n } : State).prefLine src l2 pa sealed) := by
  unfold State.prefLine
  split
  · exact ⟨rfl, .inl rfl⟩
  · exact ⟨rfl, .inr ⟨_, rfl⟩⟩

theorem joinWalk (u : State) (n : Nat) (ws : Wsid) (page : Nat) (j : Joiner) :
    Prefetched u (({ u with fresh := n } : State).joinWalk ws page j) := by
  unfold State.joinWalk
  dsimp only
  split
  · unfold State.enterWalk
    split <;> exact ⟨rfl, .inl rfl⟩
  · split <;> exact ⟨rfl, .inl rfl⟩

theorem prefetch (u : State) (l2 : Bool) (va : Nat) : Prefetched u (u.prefetch l2 va) := by
  unfold State.prefetch
  dsimp only
  split
  · exact ⟨rfl, .inl rfl⟩
  · split
    · split
      · exact prefLine ..
      · exact ⟨rfl, .inl rfl⟩
    · exact joinWalk ..

theorem pc {u v : State} (h : Prefetched u v) : v.pc = u.pc := by rw [h.frame]; rfl

/-- The agent that goes on after a prefetch. -/
theorem jumpsTo_wentOn {u v : State} (h : Prefetched u v) (pc : Word) : let t := wentOn pc v
    jumpsTo { u with flights := t.flights, fresh := t.fresh, walks := t.walks, walkQ := t.walkQ } t pc
      ∧ (t.flights = u.flights ∨ ∃ f, t.flights = u.flights ++ [f]) := by
  intro t
  have same : ({ u with flights := t.flights, fresh := t.fresh, walks := t.walks, walkQ := t.walkQ } : State) = v := by
    have put : t = v.putTile _ := wentOn_eq v pc
    rw [put]
    exact h.frame.symm
  rw [same]
  exact ⟨Sys2Proof.Machine.jumpsTo_wentOn v pc, by rw [flights_wentOn]; exact h.flights⟩

end Prefetched

/-- Settles O14: outside the tile window an acquire begins a read; inside, its result stands there complete; a prefetch sends at most a fill
or asks for a walk. -/
theorem acquiresAndPrefetches : Obligations.AcquiresAndPrefetches := by
  unfold Obligations.AcquiresAndPrefetches
  intro s u m issued rd rs1 imm sc wd l2 ps a n off
  have lacq := exec_scalar (i := .lacq m sc wd rd rs1) issued rfl
  have pref := exec_scalar (i := .pref m l2 rs1 imm) issued rfl
  refine ⟨fun access aligned => ?remote, fun access aligned clean => ?tile, ?pref⟩
  case remote =>
    have began := completes_read lacq (.touchPages u _) (State.loadAcquire_remote access aligned sc rd)
    rwa [List.length_replicate, BitVec.ofNat_toNat, BitVec.setWidth_eq] at began
  case tile =>
    have began := beganRead_wentOn _ _ _ _ _ (.refl _)
      (Reading.tileAcquire (u.setTh (rangeNoted u.th off n)) sc rd a.toNat (u.tile.bytes off n))
    have pc : ((u.setTh (rangeNoted u.th off n)).tileAcquire sc rd a.toNat (u.tile.bytes off n)).pc = (u.setTh (rangeNoted u.th off n)).pc :=
      ((State.openRead_traffic ..).1.trans (Reading.tileAcquire ..).toTraffic).pc
    have done := exec_of_ok lacq (State.loadAcquire_tile access aligned clean sc rd)
    rw [finish_ok, pc] at done
    rw [List.length_map, Tile.length_bytes, BitVec.ofNat_toNat, BitVec.setWidth_eq] at began
    refine completes_next done ⟨began, ?_, ?_⟩
    · rw [← State.last_tileAcquire (u.setTh (rangeNoted u.th off n)) sc rd a.toNat (u.tile.bytes off n), wentOn_eq, th_agentTile]
    · rw [l1_wentOn, State.l1_tileAcquire, State.l1_setTh]
  case pref =>
    have prefetched := Prefetched.prefetch u l2 (u.x rs1 + immI imm).toNat
    have done := exec_of_ok pref rfl
    rw [finish_ok, prefetched.pc] at done
    exact completes_next done (prefetched.jumpsTo_wentOn (u.pc + 4))

/-! ## The cells of a store in one word (13 R255) -/

/-- Of the first bytes of the word in which a run begins, those of the run. -/
theorem cells_prefix (pa : Nat) (bs : List Byte) (n : Nat) :
    ((List.range n).filterMap fun i =>
      let a := 8 * (pa / 8) + i
      if pa ≤ a && a < pa + bs.length then (bs[a - pa]?).map fun b => (i, b) else none)
      = (List.range (min bs.length (n - pa % 8))).map fun i => (pa % 8 + i, bs.getD i 0) := by
  induction n with
  | zero => simp
  | succ n ih =>
    rw [List.range_succ, List.filterMap_append, ih]
    by_cases inside : pa ≤ 8 * (pa / 8) + n ∧ 8 * (pa / 8) + n < pa + bs.length
    · have last : 8 * (pa / 8) + n - pa = n - pa % 8 := by omega
      have fits : n - pa % 8 < bs.length := by omega
      have here : pa % 8 + (n - pa % 8) = n := by omega
      rw [show min bs.length (n + 1 - pa % 8) = n - pa % 8 + 1 by omega, show min bs.length (n - pa % 8) = n - pa % 8 by omega,
        List.range_succ, List.map_append, List.map_singleton, here, List.getD_eq_getElem _ _ fits]
      refine congrArg _ (List.filterMap_cons_some ?_)
      rw [if_pos (by simpa using inside), last, List.getElem?_eq_getElem fits]
      rfl
    · rw [show min bs.length (n + 1 - pa % 8) = min bs.length (n - pa % 8) by omega]
      refine (congrArg _ (List.filterMap_cons_none ?_)).trans (List.append_nil _)
      exact if_neg (by simpa using inside)

/-- The cells of a run that lies in one word. -/
theorem cellsIn_word {pa : Nat} {bs : List Byte} (inside : pa % 8 + bs.length ≤ 8) :
    cellsIn pa bs (pa / 8) = (List.range bs.length).map fun i => (pa % 8 + i, bs.getD i 0) := by
  rw [cellsIn, cells_prefix, show min bs.length (8 - pa % 8) = bs.length by omega]

theorem mem_cellsIn {pa w : Nat} {bs : List Byte} {c : Nat × Byte} : c ∈ cellsIn pa bs w ↔
    c.1 < 8 ∧ (pa ≤ 8 * w + c.1 ∧ 8 * w + c.1 < pa + bs.length) ∧ c.2 = bs.getD (8 * w + c.1 - pa) 0 := by
  unfold cellsIn
  rw [List.mem_filterMap]
  simp only [List.mem_range]
  constructor
  · rintro ⟨i, small, cell⟩
    split at cell
    next inside =>
      have inside : pa ≤ 8 * w + i ∧ 8 * w + i < pa + bs.length := by simpa using inside
      rw [List.getElem?_eq_getElem (by omega), Option.map_some, Option.some_inj] at cell
      subst cell
      exact ⟨small, inside, (List.getD_eq_getElem _ _ (by omega)).symm⟩
    next => cases cell
  · rintro ⟨small, inside, value⟩
    refine ⟨c.1, small, ?_⟩
    rw [if_pos (by simpa using inside), List.getElem?_eq_getElem (by omega), Option.map_some, Option.some_inj]
    exact Prod.ext rfl (value.trans (List.getD_eq_getElem _ _ (by omega))).symm

/-- A byte of a word into which a run writes: the run's where the run covers it, else what the word held. -/
theorem getD_patchWord (old : List Byte) (pa w j : Nat) (bs : List Byte) (small : j < 8) : (patchWord old (cellsIn pa bs w)).getD j 0 =
    if pa ≤ 8 * w + j ∧ 8 * w + j < pa + bs.length then bs.getD (8 * w + j - pa) 0 else old.getD j 0 := by
  have byte : (patchWord old (cellsIn pa bs w)).getD j 0
      = (((cellsIn pa bs w).find? fun c => c.1 == j).map (·.2)).getD (old.getD j 0) := by
    rw [patchWord, List.getD_eq_getElem _ _ (by simpa using small), List.getElem_map, List.getElem_range]
    cases (cellsIn pa bs w).find? fun c => c.1 == j <;> rfl
  rw [byte]
  cases found : (cellsIn pa bs w).find? fun c => c.1 == j with
  | some c =>
    obtain ⟨-, inside, value⟩ := mem_cellsIn.mp (List.mem_of_find?_eq_some found)
    have at' : c.1 = j := by simpa using List.find?_some found
    rw [at'] at inside value
    rw [if_pos inside, ← value]
    rfl
  | none =>
    rw [if_neg fun inside => ?_]
    · rfl
    · have missing := List.find?_eq_none.mp found _ (mem_cellsIn (c := (j, bs.getD (8 * w + j - pa) 0)).mpr ⟨small, inside, rfl⟩)
      exact missing (beq_self_eq_true j)

/-! ## Words stored (13 R255) -/

/-- The bytes that a word of the L1 holds before a store; those of a word that is not there count as zeros until they merge. -/
def heldBytes? (o : Option L1Word) : List Byte := (o.map (·.bytes)).getD (List.replicate 8 0)

theorem L1Word.bytes_store (old : Option L1Word) (cells : List (Nat × Byte)) (ws : Wsid) (sealed : Bool) :
    (L1Word.store old cells ws sealed).bytes = patchWord (heldBytes? old) cells ∧ (L1Word.store old cells ws sealed).st = .registered := by
  cases old <;> exact ⟨rfl, rfl⟩

section
variable (u : State) (sid pa : Nat) (bs : List Byte) (sealed : Bool) (w : Nat)

theorem State.storeWord_present (present : u.tile.linePresent (w / 16) = true) : u.storeWord u.src sid pa bs sealed w =
    { u.putTile { u.tile with l1 := sset w (L1Word.store (sget w u.tile.l1) (cellsIn pa bs w) u.ws sealed) u.tile.l1 } with
      flights := u.flights.map (Flight.stale u.curTile w) ++ [.regist u.src sid w] } := by
  unfold State.storeWord
  exact if_pos present

theorem State.storeWord_absent (absent : u.tile.linePresent (w / 16) = false) : u.storeWord u.src sid pa bs sealed w =
    { u with flights := u.flights.map (Flight.stale u.curTile w) ++ [.wdata u.src sid w (cellsIn pa bs w) false] } := by
  unfold State.storeWord
  exact if_neg (Bool.eq_false_iff.mp absent)

end

/-- A store under way: the acting agent's results are as they were. -/
structure Storing (u v : State) : Prop extends Traffic u v where
  outs : v.th.outs = u.th.outs

namespace Storing

theorem refl (u : State) : Storing u u := ⟨.refl u, rfl⟩

theorem trans {u v w : State} (h : Storing u v) (k : Storing v w) : Storing u w := ⟨h.toTraffic.trans k.toTraffic, k.outs.trans h.outs⟩

theorem withFlights (u : State) (fl : List Flight) : Storing u { u with flights := fl } := ⟨(Traffic.refl u).withFlights fl, rfl⟩

theorem storeWord (u : State) (sid pa : Nat) (bs : List Byte) (sealed : Bool) (w : Nat) : Storing u (u.storeWord u.src sid pa bs sealed w) := by
  cases present : u.tile.linePresent (w / 16) with
  | true =>
    rw [State.storeWord_present u sid pa bs sealed w present]
    refine ⟨(Traffic.putTile_caches u _ u.tile.plru).withFlights _, ?_⟩
    exact (congrArg Thread.outs (State.th_putTile u { u.tile with l1 := _ }) :)
  | false =>
    rw [State.storeWord_absent u sid pa bs sealed w present]
    exact withFlights u _

end Storing

section
variable (u : State) (sid pa : Nat) (bs : List Byte) (sealed : Bool) (w : Nat)

theorem State.l1_storeWord : (u.storeWord u.src sid pa bs sealed w).tile.l1 =
    if u.tile.linePresent (w / 16) = true then sset w (L1Word.store (sget w u.tile.l1) (cellsIn pa bs w) u.ws sealed) u.tile.l1
    else u.tile.l1 := by
  cases present : u.tile.linePresent (w / 16) with
  | true =>
    rw [State.storeWord_present u sid pa bs sealed w present, if_pos rfl]
    exact (congrArg Tile.l1 (State.tile_putTile u { u.tile with l1 := _ }) :)
  | false =>
    rw [State.storeWord_absent u sid pa bs sealed w present, if_neg Bool.false_ne_true]
    rfl

theorem State.flights_storeWord : (u.storeWord u.src sid pa bs sealed w).flights = u.flights.map (Flight.stale u.curTile w)
    ++ [if u.tile.linePresent (w / 16) = true then .regist u.src sid w else .wdata u.src sid w (cellsIn pa bs w) false] := by
  cases present : u.tile.linePresent (w / 16) with
  | true => rw [State.storeWord_present u sid pa bs sealed w present, if_pos rfl]
  | false => rw [State.storeWord_absent u sid pa bs sealed w present, if_neg Bool.false_ne_true]

end

/-! ## Posted stores (04 R95) -/

theorem wordsOf_inside {pa n : Nat} (pos : 0 < n) (inside : pa % 8 + n ≤ 8) : wordsOf pa n = [pa / 8] := by
  have one : (pa + n - 1) / 8 - pa / 8 + 1 = 1 := by omega
  rw [wordsOf, if_neg (by omega), one]
  rfl

/-- A piece that lies in one word is that word stored. -/
theorem State.storePiece_word (u : State) (src : Src) (sid : Nat) {p : Piece} {pa : Nat} {sealed : Bool} (mem : p.at' = .mem pa sealed) {bs : List Byte}
    (pos : 0 < bs.length) (inside : pa % 8 + bs.length ≤ 8) : u.storePiece src sid p bs = u.storeWord src sid pa bs sealed (pa / 8) := by
  unfold State.storePiece
  rw [mem]
  dsimp only
  rw [wordsOf_inside pos inside, List.foldl_cons, List.foldl_nil]

/-- A store that lies in one word is one word stored. -/
theorem State.postStore_word (u : State) {pa : Nat} {bs : List Byte} (pos : 0 < bs.length) (inside : pa % 8 + bs.length ≤ 8) (sealed : Bool) :
    u.postStore [{ pos := 0, len := bs.length, at' := .mem pa sealed }] bs =
      ({ u with fresh := u.fresh + 1 } : State).storeWord u.src u.fresh pa bs sealed (pa / 8) := by
  change ({ u with fresh := u.fresh + 1 } : State).storePiece u.src u.fresh { pos := 0, len := bs.length, at' := .mem pa sealed }
    ((bs.drop 0).take bs.length) = _
  rw [List.drop_zero, List.take_length, State.storePiece_word _ _ _ rfl pos inside]

theorem State.postStore_window (u : State) (bs : List Byte) (ows rid off : Nat) :
    u.postStore [{ pos := 0, len := bs.length, at' := .win ows rid off }] bs =
      { u with fresh := u.fresh + 1, flights := u.flights ++ [.winWrite u.src u.fresh ows rid off bs []] } := by
  change ({ u with fresh := u.fresh + 1, flights := u.flights ++ [.winWrite u.src u.fresh ows rid off ((bs.drop 0).take bs.length) []] } : State) = _
  rw [List.drop_zero, List.take_length]

section
variable {u : State} {a : Word} {bs : List Byte} {ps : List Piece} (access : reaches u needStore a bs.length ps) (room : u.storeFull = false)
include access room

theorem State.store_global (region : accessRegion a.toNat bs.length = .global) :
    u.store a bs = .ok ((u.touchPages [(0, a.toNat, bs.length)]).postStore ps bs) := by
  obtain ⟨free, -, reached, unlocked, order⟩ := access
  have reach := State.reach_ok reached unlocked order
  unfold State.store
  dsimp only
  rw [accessWait_of_free free, region]
  dsimp only
  rw [reach, room]
  rfl

theorem State.store_window (region : accessRegion a.toNat bs.length = .window) :
    u.store a bs = .commit ((u.touchPages [(0, a.toNat, bs.length)]).postStore ps bs) := by
  obtain ⟨free, -, reached, unlocked, order⟩ := access
  have reach := State.reach_ok reached unlocked order
  unfold State.store
  dsimp only
  rw [accessWait_of_free free, region]
  dsimp only
  rw [reach, room]
  rfl

end

/-- A word stored: Registered in the L1 where that holds its line, else on its way with its bytes. -/
structure WordPosted (u : State) (sid pa : Nat) (bs : List Byte) (v : State) : Prop extends Storing u v where
  l1 : ∃ ws sealed, v.tile.l1 = if u.tile.linePresent (pa / 128) = true then
      sset (pa / 8) (L1Word.store (sget (pa / 8) u.tile.l1) (cellsIn pa bs (pa / 8)) ws sealed) u.tile.l1
    else u.tile.l1
  flights : v.flights = u.flights.map (Flight.stale u.curTile (pa / 8))
    ++ [if u.tile.linePresent (pa / 128) = true then .regist u.src sid (pa / 8) else .wdata u.src sid (pa / 8) (cellsIn pa bs (pa / 8)) false]

namespace WordPosted

/-- A word is stored in any state with the flights and the L1 of the state of issue. -/
theorem storeWord {u w : State} (traffic : Traffic u w) (flights : w.flights = u.flights) (l1 : w.tile.l1 = u.tile.l1)
    (outs : w.th.outs = u.th.outs) (sid pa : Nat) (bs : List Byte) (sealed : Bool) :
    WordPosted u sid pa bs (w.storeWord w.src sid pa bs sealed (pa / 8)) := by
  have storing := Storing.storeWord w sid pa bs sealed (pa / 8)
  have present : w.tile.linePresent (pa / 8 / 16) = u.tile.linePresent (pa / 128) := by
    rw [Nat.div_div_eq_div_mul, Tile.linePresent, l1, Tile.linePresent]
  refine ⟨⟨traffic.trans storing.toTraffic, storing.outs.trans outs⟩, ⟨w.ws, sealed, ?_⟩, ?_⟩
  · rw [State.l1_storeWord, present, l1]
  · rw [State.flights_storeWord, present, flights, traffic.curTile, traffic.src]

section
variable {u : State} {sid pa : Nat} {bs : List Byte} {v : State} (posted : WordPosted u sid pa bs v)
include posted

theorem sget_other {w : Nat} (other : w ≠ pa / 8) : sget w v.tile.l1 = sget w u.tile.l1 := by
  obtain ⟨ws, sealed, l1⟩ := posted.l1
  rw [l1]
  split
  · exact sget_sset_ne other ..
  · rfl

/-- The word in a line that the L1 holds: the bytes stored, and the others as they were. -/
theorem sget_word (inside : pa % 8 + bs.length ≤ 8) (present : u.tile.linePresent (pa / 128) = true) :
    ∃ l, sget (pa / 8) v.tile.l1 = some l ∧ l.st = .registered
      ∧ (∀ i, i < bs.length → l.bytes.getD (pa % 8 + i) 0 = bs.getD i 0)
      ∧ ∀ l', sget (pa / 8) u.tile.l1 = some l' → ∀ i, i < 8 → i < pa % 8 ∨ pa % 8 + bs.length ≤ i → l.bytes.getD i 0 = l'.bytes.getD i 0 := by
  obtain ⟨ws, sealed, l1⟩ := posted.l1
  rw [if_pos present] at l1
  obtain ⟨bytes, registered⟩ := L1Word.bytes_store (sget (pa / 8) u.tile.l1) (cellsIn pa bs (pa / 8)) ws sealed
  refine ⟨_, by rw [l1, sget_sset_same], registered, fun i hi => ?_, fun l' held i small out => ?_⟩
  · rw [bytes, getD_patchWord _ _ _ _ _ (by omega), if_pos (by omega), show 8 * (pa / 8) + (pa % 8 + i) - pa = i by omega]
  · rw [bytes, getD_patchWord _ _ _ _ _ small, if_neg (by omega), held]
    rfl

end

theorem postStore {u w : State} (touched : Touched u w) {pa : Nat} {bs : List Byte} (pos : 0 < bs.length) (inside : pa % 8 + bs.length ≤ 8)
    (sealed : Bool) : WordPosted u u.fresh pa bs (w.postStore [{ pos := 0, len := bs.length, at' := .mem pa sealed }] bs) := by
  rw [State.postStore_word w pos inside, touched.fresh]
  exact storeWord (touched.toTraffic.withFresh (u.fresh + 1)) touched.flights touched.l1 touched.outs u.fresh pa bs sealed

end WordPosted

section
variable {s u : State} {i : Instr} {a : Word} {bs : List Byte} {n : Nat} (runs : exec i s = .next (State.finish ((u.store a bs).afterStreams u)))
  (length : bs.length = n)
include runs length

/-- A store to a word of global memory is posted: as a registered word of the L1, or with its bytes. -/
theorem completes_postedWord {pa : Nat} {sealed : Bool} (pos : 0 < n) (access : reaches u needStore a n [{ pos := 0, len := n, at' := .mem pa sealed }])
    (region : accessRegion a.toNat n = .global) (room : u.storeFull = false) (inside : pa % 8 + n ≤ 8) : completes i s (fun t =>
      t.pc = u.pc + 4 ∧ { t.th with pc := u.th.pc } = u.th ∧ sameStrand u t ∧ sameVK u t ∧ t.ctx.written = u.ctx.written ∧ sameButTraffic u t
      ∧ (∀ w, w ≠ pa / 8 → sget w t.tile.l1 = sget w u.tile.l1)
      ∧ if u.tile.linePresent (pa / 128) = true then
          (∃ l, sget (pa / 8) t.tile.l1 = some l ∧ l.st = .registered
            ∧ (∀ i, i < n → l.bytes.getD (pa % 8 + i) 0 = bs.getD i 0)
            ∧ ∀ l', sget (pa / 8) u.tile.l1 = some l' → ∀ i, i < 8 → i < pa % 8 ∨ pa % 8 + n ≤ i → l.bytes.getD i 0 = l'.bytes.getD i 0)
          ∧ t.flights = u.flights.map (Flight.stale u.curTile (pa / 8)) ++ [.regist u.src u.fresh (pa / 8)]
        else t.tile.l1 = u.tile.l1
          ∧ t.flights = u.flights.map (Flight.stale u.curTile (pa / 8))
              ++ [.wdata u.src u.fresh (pa / 8) ((List.range n).map fun i => (pa % 8 + i, bs.getD i 0)) false]) := by
  subst length
  have done := exec_of_ok runs (State.store_global access room region)
  have posted := WordPosted.postStore (Touched.touchPages u [(0, a.toNat, bs.length)]) pos inside sealed
  generalize (u.touchPages [(0, a.toNat, bs.length)]).postStore [{ pos := 0, len := bs.length, at' := .mem pa sealed }] bs = v at done posted
  have traffic := posted.toTraffic
  rw [finish_ok, traffic.pc] at done
  refine completes_next done ?_
  obtain ⟨strand, vk, written⟩ := traffic.sameStrand_wentOn (u.pc + 4)
  refine ⟨traffic.pc_wentOn _, ?_, strand, vk, written, traffic.sameButTraffic_wentOn _, ?_, ?_⟩
  · rw [traffic.th_wentOn, posted.outs]
  · intro w other
    rw [l1_wentOn, posted.sget_other other]
  · rw [l1_wentOn, flights_wentOn, posted.flights]
    split
    next present => exact ⟨posted.sget_word inside present, rfl⟩
    next absent =>
      obtain ⟨ws, other, l1⟩ := posted.l1
      rw [if_neg absent] at l1
      exact ⟨l1, by rw [cellsIn_word inside]⟩

/-- A store to the store window is posted, and commits. -/
theorem completes_postedWindow {ows rid off : Nat} (access : reaches u needStore a n [{ pos := 0, len := n, at' := .win ows rid off }])
    (region : accessRegion a.toNat n = .window) (room : u.storeFull = false) : completes i s (fun t =>
      ∃ v, t = committedTo (u.pc + 4) v ∧ (∀ r, v.x r = u.x r) ∧ v.mem = u.mem ∧ v.tile.store = u.tile.store ∧ v.tile.l1 = u.tile.l1
        ∧ v.flights = u.flights ++ [.winWrite u.src u.fresh ows rid off bs []]) := by
  subst length
  have touched := Touched.touchPages u [(0, a.toNat, bs.length)]
  obtain ⟨-, noStream, -⟩ := access.1
  have done := exec_of_commit runs (noStream true true) (State.store_window access room region)
  rw [State.postStore_window, touched.src, touched.fresh, touched.flights] at done
  exact completes_next done ⟨_, congrArg (committedTo · _) (congrArg (· + 4) touched.pc), touched.readX, touched.mem, touched.store, touched.l1, rfl⟩

end

/-- Settles O13: each width runs as a store of its low bytes, and so does an aligned SREL whose agent's earlier accesses have performed; a
store that lies in one word stores that word alone. -/
theorem postedStores : Obligations.PostedStores := by
  unfold Obligations.PostedStores
  intro s u m issued rs1 rs2 imm sc wd pa sealed a low ok put
  have sb := exec_scalar (i := .sb m rs1 rs2 imm) issued rfl
  have sh := exec_scalar (i := .sh m rs1 rs2 imm) issued rfl
  have sw := exec_scalar (i := .sw m rs1 rs2 imm) issued rfl
  have sd := exec_scalar (i := .sd m rs1 rs2 imm) issued rfl
  refine ⟨fun ⟨access, region, room, inside⟩ => completes_postedWord sb (length_lowBytes ..) (by decide) access region room inside,
    fun ⟨access, region, room, inside⟩ => completes_postedWord sh (length_lowBytes ..) (by decide) access region room inside,
    fun ⟨access, region, room, inside⟩ => completes_postedWord sw (length_lowBytes ..) (by decide) access region room inside,
    fun ⟨access, region, room, inside⟩ => completes_postedWord sd (length_lowBytes ..) (by decide) access region room inside, ?_, ?_⟩
  · intro ⟨access, region, room, inside⟩ aligned released
    have srel := exec_srel_released (sc := sc) (rs2 := rs2) issued access.1 (by rw [region]; decide) aligned released
    exact completes_postedWord srel (length_lowBytes ..) (by cases wd <;> decide) access region room inside
  · intro ows rid off okW putW
    exact ⟨fun ⟨access, region, room⟩ => completes_postedWindow sb rfl access region room,
      fun ⟨access, region, room⟩ => completes_postedWindow sh rfl access region room,
      fun ⟨access, region, room⟩ => completes_postedWindow sw rfl access region room,
      fun ⟨access, region, room⟩ => completes_postedWindow sd rfl access region room⟩

end Sys2Proof.Machine
end

section
/-! SUPPORT. The vector accesses (07 R154 to R157). -/

namespace Sys2Proof.Machine

open Sys2Proof.Safety

/-! ## VLDG and VSTG of global memory (07 R155) -/

theorem State.vLock_of_no_locks {u : State} (none : u.tile.locks = []) (es : List VAcc) : u.vLock es = .none := by
  have free (spans : List (Nat × Nat)) : u.tile.lockHit spans = .none := by rw [Tile.lockHit, none]; rfl
  have found : (es.find? fun e => (u.tile.lockHit [(e.va, e.n)]).isSome) = .none :=
    List.find?_eq_none.mpr fun e _ => by simp [free]
  rw [State.vLock, found]
  rfl

/-- An access of global memory that passes its checks does what its instruction does with the pieces. -/
theorem State.vGlobal_reached {u : State} {need : Need} {es : List VAcc} {ps : List Piece} (free : accessFree u) (unlocked : u.tile.locks = [])
    (global : ∀ e ∈ es, accessRegion e.va e.n = .global)
    (reached : u.reachPieces need ((vSpans es).flatMap fun sp => lineChunks sp.1 sp.2.1 sp.2.2) = .ok ps) (order : u.atomAhead ps = false)
    (k : State → Bool → List Piece → Done) : u.vGlobal need es k = k (u.touchPages (vSpans es)) false ps := by
  have inside : outside (· == .global) es = none := List.find?_eq_none.mpr fun e he => by simp [global e he]
  have goesOn := State.reachThen_ok reached (.inr order) fun v ps => k v false ps
  unfold State.vGlobal
  rw [accessWait_of_free free, State.vLock_of_no_locks unlocked]
  cases es with
  | nil => exact goesOn
  | cons e es =>
    dsimp only
    rw [global e List.mem_cons_self, if_pos (show (VRegion.global == .global || VRegion.global == .window) = true from rfl), inside]
    exact goesOn

/-! ## Two pieces of one store at one place -/

theorem mem_of_sget {k : Nat} {v : α} {l : List (Nat × α)} (found : sget k l = some v) : (k, v) ∈ l := by
  induction l with
  | nil => cases found
  | cons e l ih =>
    rw [sget] at found
    split at found
    next same =>
      cases found
      exact same ▸ List.mem_cons_self
    next => exact List.mem_cons_of_mem _ (ih found)

theorem Tile.linePresent_of_sget {t : Tile} {w : Nat} {l : L1Word} (found : sget w t.l1 = some l) : t.linePresent (w / 16) = true :=
  List.any_eq_true.mpr ⟨_, mem_of_sget found, beq_self_eq_true _⟩

theorem State.postStore_pair (u : State) (p q : Piece) (bs : List Byte) : ∃ v : State, v = { u with fresh := u.fresh + 1 } ∧
    u.postStore [p, q] bs = (v.storePiece v.src u.fresh p ((bs.drop p.pos).take p.len)).storePiece
      (v.storePiece v.src u.fresh p ((bs.drop p.pos).take p.len)).src u.fresh q ((bs.drop q.pos).take q.len) := ⟨_, rfl, rfl⟩

/-- Where two pieces of a store lie at one address of a word, in a line that the L1 holds, the word holds the bytes of the second, and only
registrations travel. -/
theorem State.postStore_sameWord {u w : State} (touched : Touched u w) {p q : Piece} {pa : Nat} {sl sl' : Bool} {bs bs₁ bs₂ : List Byte}
    (first : p.at' = .mem pa sl) (bytes₁ : (bs.drop p.pos).take p.len = bs₁) (pos₁ : 0 < bs₁.length) (inside₁ : pa % 8 + bs₁.length ≤ 8)
    (second : q.at' = .mem pa sl') (bytes₂ : (bs.drop q.pos).take q.len = bs₂) (pos₂ : 0 < bs₂.length) (inside₂ : pa % 8 + bs₂.length ≤ 8)
    (present : u.tile.linePresent (pa / 128) = true) (quiet : u.flights = []) :
    (w.postStore [p, q] bs).flights = [.regist u.src u.fresh (pa / 8), .regist u.src u.fresh (pa / 8)]
    ∧ ∃ l, sget (pa / 8) (w.postStore [p, q] bs).tile.l1 = some l ∧ ∀ i, i < bs₂.length → l.bytes.getD (pa % 8 + i) 0 = bs₂.getD i 0 := by
  obtain ⟨v, started, pair⟩ := w.postStore_pair p q bs
  have traffic : Traffic u v := started ▸ touched.toTraffic.withFresh _
  have one := WordPosted.storeWord traffic ((congrArg State.flights started).trans touched.flights) ((congrArg (·.tile.l1) started).trans touched.l1)
    ((congrArg (·.th.outs) started).trans touched.outs) u.fresh pa bs₁ sl
  rw [pair, touched.fresh, bytes₁, bytes₂, State.storePiece_word _ _ _ first pos₁ inside₁]
  generalize v.storeWord v.src u.fresh pa bs₁ sl (pa / 8) = v₁ at one ⊢
  have two := WordPosted.storeWord (Traffic.refl v₁) rfl rfl rfl u.fresh pa bs₂ sl'
  rw [State.storePiece_word _ _ _ second pos₂ inside₂]
  generalize v₁.storeWord v₁.src u.fresh pa bs₂ sl' (pa / 8) = v₂ at two ⊢
  have present₁ : v₁.tile.linePresent (pa / 128) = true := by
    obtain ⟨l, found, -⟩ := one.sget_word inside₁ present
    have line := Tile.linePresent_of_sget found
    rwa [Nat.div_div_eq_div_mul] at line
  constructor
  · rw [two.flights, one.flights, if_pos present, if_pos present₁, one.src, quiet]
    rfl
  · obtain ⟨l, found, -, bytes, -⟩ := two.sget_word inside₂ present₁
    exact ⟨l, found, bytes⟩

/-! ## A store across two pages whose frames overlap -/

namespace OverlappingFrames

/-- A context whose x1 is four bytes short of a page's end, and whose k registers make elements 0 and 1 active. -/
def context : Context :=
  { Context.reset with
    st := .ready
    th := { Thread.reset with x := (Vector.replicate 32 0).set 1 4092 }
    v := Vector.replicate 32 1
    k := Vector.replicate 8 3 }

/-- The address at which both elements perform. -/
def place : Nat := hbmBase 0 + 4092

/-- A tile whose TLB puts the second page inside the frame of the first, at that frame's last four bytes; its L1 holds their word. -/
def tile : Tile :=
  { Tile.reset with
    ctx := Vector.replicate 8 context
    tlb := [(0, { ws := 0, va := 0, size := 4096, pa := hbmBase 0, r := true, w := true, x := false, sealed := false }),
            (1, { ws := 0, va := 4096, size := 4096, pa := place, r := true, w := true, x := false, sealed := false })]
    l1 := [(place / 8, { st := .valid, bytes := List.replicate 8 0, poison := false, ws := 0, sealed := false, merging := none })] }

def state : State := { State.reset with tiles := [(0, tile)] }

/-- The elements of `VSTG v0, (x1 + x0)` under mask register 1. -/
def elements : List VAcc := state.vElems 1 .int32 (state.x 1 + state.x 0) 4#64

/-- Both pieces lie at one address. -/
def pieces : List Piece := [{ pos := 0, len := 4, at' := .mem place false }, { pos := 4, len := 4, at' := .mem place false }]

theorem elements_eq : elements = [{ j := 0, va := 4092, n := 4 }, { j := 1, va := 4096, n := 4 }] := by decide

theorem reachGlobal_eq {va : Nat} (found : state.viaTlb state.curTile state.who state.ws va needStore = .ok (place, false)) :
    state.reachGlobal state.curTile state.who state.ws va needStore = .ok (.mem place false) := by
  have here : state.wsWord state.ws.toNat wFMBASE = 0 := by decide
  rw [State.reachGlobal, State.fabPlace, if_pos here]
  dsimp only
  rw [found]

theorem reached : state.reachPieces needStore ((vSpans elements).flatMap fun sp => lineChunks sp.1 sp.2.1 sp.2.2) = .ok pieces := by
  have chunks : ((vSpans elements).flatMap fun sp => lineChunks sp.1 sp.2.1 sp.2.2) = [(0, 4092, 4), (4, 4096, 4)] := by
    rw [elements_eq]
    decide
  have one := reachGlobal_eq (va := 4092) rfl
  have two := reachGlobal_eq (va := 4096) rfl
  rw [chunks]
  simp [State.reachPieces, regionOfVa, globalEnd, one, two, pieces]

theorem issued : issues state false state := ⟨state, rfl, rfl⟩

theorem free : accessFree state := ⟨rfl, fun _ _ => rfl, rfl⟩

/-- The bytes of the register: 1 and then zeros, so that the two elements differ. -/
theorem bytes_v : leBytes (state.v 0).toNat 128 = 1 :: List.replicate 127 0 := by
  have one : (state.v 0).toNat = 1 := BitVec.toNat_one (by decide)
  rw [one]
  decide

/-- The store completes; both elements are registrations of one word, which holds the bytes of the second. -/
theorem exec_vstg : ∃ v, exec (.vstg false 1 .int32 0 1 0) state = .next (wentOn (v.pc + 4) v)
    ∧ v.flights = [.regist state.src state.fresh (place / 8), .regist state.src state.fresh (place / 8)]
    ∧ ∃ l, sget (place / 8) v.tile.l1 = some l ∧ l.bytes.getD 4 0 = 0 := by
  have runs := exec_vector (i := .vstg false 1 .int32 0 1 0) issued rfl rfl rfl
  have global : ∀ e ∈ elements, accessRegion e.va e.n = .global := by
    rw [elements_eq]
    decide
  have room : ¬ state.storeFull = true := by decide
  have done := exec_of_ok runs ((State.vGlobal_reached free rfl global reached rfl _).trans (if_neg room))
  have first : ((leBytes (state.v 0).toNat 128).drop 0).take 4 = [1, 0, 0, 0] := by rw [bytes_v]; decide
  have second : ((leBytes (state.v 0).toNat 128).drop 4).take 4 = [0, 0, 0, 0] := by rw [bytes_v]; decide
  obtain ⟨flights, l, found, bytes⟩ := State.postStore_sameWord (Touched.touchPages state (vSpans elements))
    (p := { pos := 0, len := 4, at' := .mem place false }) (q := { pos := 4, len := 4, at' := .mem place false }) rfl first (by decide) (by decide) rfl second (by decide) (by decide) (by decide) rfl
  exact ⟨_, done.trans (congrArg Host.Outcome.next (finish_ok _)), flights, l, found, bytes 0 (by decide)⟩

end OverlappingFrames

/-- Refutes O42: VSTG of two elements on either side of a page boundary, where the TLB puts the second page's first bytes on the last ones of
the first page's frame. The word in the L1 holds the bytes of the second element, and nothing with the bytes of the first is in flight. A page
table gives frames at multiples of 4 KiB (13 R268), but the statement has no premise that the TLB's entries come from one. -/
theorem not_vectorMemory : ¬ Obligations.VectorMemory := by
  unfold Obligations.VectorMemory
  intro holds
  obtain ⟨-, -, -, global⟩ := holds OverlappingFrames.state OverlappingFrames.state false OverlappingFrames.issued rfl OverlappingFrames.free
    1 .int32 0 1 0 0 OverlappingFrames.pieces
  obtain ⟨-, -, posts⟩ := global rfl (by decide) rfl
  obtain ⟨t, runs, -, -, -, -, -, stands⟩ := posts OverlappingFrames.reached rfl rfl
  obtain ⟨v, done, flights, l, found, byte⟩ := OverlappingFrames.exec_vstg
  cases done.symm.trans runs
  have bytes : (leBytes (OverlappingFrames.state.v 0).toNat 128).getD (0 + 0) 0 = 1 := by rw [OverlappingFrames.bytes_v]; rfl
  rcases stands _ List.mem_cons_self _ _ rfl 0 (by decide) with ⟨-, l', found', byte'⟩ | ⟨cells, sent, -⟩
  · rw [l1_wentOn] at found'
    cases found.symm.trans found'
    exact absurd (byte.symm.trans (byte'.trans bytes)) (by decide)
  · rw [flights_wentOn, flights] at sent
    simp at sent

end Sys2Proof.Machine
end

section
/-! SUPPORT. The CSR class (O16, O17): what a read answers and a write form does once the CSR is the agent's to name, and the fields of
the CSRs as the statements give them. -/

namespace Sys2Proof.Machine

open Sys2Proof.Safety

/-! ## Fields of a word -/

theorem getLsbD_field (v : Word) (l n : Nat) {i : Nat} (small : i < 64) :
    (field v l n).getLsbD i = (v.getLsbD i && (decide (l ≤ i) && decide (i < l + n))) := by
  have bit : (nbit v.toNat l n * 2 ^ l).testBit i = (decide (l ≤ i) && (decide (i < l + n) && v.toNat.testBit i)) := by
    rw [Nat.testBit_mul_two_pow, nbit, Nat.testBit_mod_two_pow, Nat.testBit_div_two_pow]
    by_cases low : l ≤ i
    · rw [Nat.sub_add_cancel low, decide_eq_decide.mpr (show i - l < n ↔ i < l + n by omega)]
    · simp [low]
  rw [field, BitVec.getLsbD_ofNat, bit, decide_eq_true small, Bool.true_and, BitVec.getLsbD]
  ac_rfl

/-- A field is what a mask with its bits leaves. -/
theorem field_eq_and {mask : Word} {l n : Nat} (bits : ∀ i : Fin 64, mask.getLsbD i = (decide (l ≤ i.val) && decide (i.val < l + n))) (v : Word) :
    field v l n = v &&& mask := by
  refine BitVec.eq_of_getLsbD_eq fun i small => ?_
  rw [getLsbD_field v l n small, BitVec.getLsbD_and, bits ⟨i, small⟩]

theorem nbit_eq_zero_iff (v : Word) (l n : Nat) : nbit v.toNat l n = 0 ↔ v.extractLsb' l n = 0 := by
  rw [← BitVec.toNat_inj, BitVec.extractLsb'_toNat, Nat.shiftRight_eq_div_pow]
  rfl

/-! ## Values (01 R16, 06 R124, 08 R162) -/

theorem Tile.queue_eq (T : Tile) (q : BitVec 2) : T.queues.getD q.toNat [] = T.queue q := by
  simp [Tile.queue, Vector.getD, q.isLt]

theorem foldl_range_four (f : Nat → Nat) : ((List.range 4).map f).foldl (· + ·) 0 = f 0 + f 1 + f 2 + f 3 := by
  simp [List.range_succ]

theorem Tile.qstat_eq (T : Tile) : T.qstat = BitVec.ofNat 64 ((T.queue 0).length + (T.queue 1).length * 2 ^ 8
    + (T.queue 2).length * 2 ^ 16 + (T.queue 3).length * 2 ^ 24) := by
  have q0 : T.queues.getD 0 [] = T.queue 0 := T.queue_eq 0
  have q1 : T.queues.getD 1 [] = T.queue 1 := T.queue_eq 1
  have q2 : T.queues.getD 2 [] = T.queue 2 := T.queue_eq 2
  have q3 : T.queues.getD 3 [] = T.queue 3 := T.queue_eq 3
  rw [Tile.qstat, foldl_range_four, q0, q1, q2, q3, Nat.mul_zero, pow_zero, Nat.mul_one, Nat.mul_one]

theorem State.self_ctx {u : State} {c : Fin 8} (acts : u.curAgent = .ctx c) : u.self = BitVec.ofNat 64 (c.val + u.ltidOf u.curTile % 4096 * 2 ^ 4
    + u.ctx.wsid.toNat * 2 ^ 16 + u.ctx.domain.toNat * 2 ^ 28 + u.ctx.prio.toNat * 2 ^ 36) := by
  have code : agentCode u.curAgent % 8 = c.val := by
    rw [acts]
    exact Nat.mod_eq_of_lt c.isLt
  rw [State.self, code]

theorem toNat_zcfg (z : BitVec 4) : (0x03#7 ++ z).toNat = 0x030 + z.toNat := by
  rw [BitVec.toNat_append, ← Nat.shiftLeft_add_eq_or_of_lt z.isLt]
  rfl

theorem State.csrRead_zcfg (u : State) (z : BitVec 4) : u.csrRead (0x03#7 ++ z).toNat = (u.tile.panels.getD z.toNat .reset).cfg := by
  have small := z.isLt
  have inside : isZcfg (0x030 + z.toNat) = true := by
    simp only [isZcfg, Bool.and_eq_true, decide_eq_true_eq]
    omega
  rw [toNat_zcfg, State.csrRead]
  simp (disch := omega) only [if_neg, inside, if_true, Nat.add_sub_cancel_left]

/-- LDRCTL and STRCTL, with the codes of the states written out (06 R124). -/
theorem SideCore.ctl_eq (c : SideCore) : c.ctl = BitVec.ofNat 64 (c.len.toNat
    + (match c.st with | .stopped => 0 | .loading => 1 | .running => 2 | .trapped => 3) * 2 ^ 20
    + c.tcode.toNat * 2 ^ 24 + c.spc.toNat * 2 ^ 32 + c.wsid.toNat * 2 ^ 48) := by
  unfold SideCore.ctl sideStateCode
  cases c.st <;> rfl

/-- FRM keeps RM where bits 2:0 of what is written are 5 to 7 (01 R16). -/
theorem Thread.setFrm_eq (h : Thread) (v : Word) : h.setFrm v =
    { h with rm := if v.toNat % 8 ≤ 4 then v.setWidth 3 else h.rm, nanov := v.getLsbD 3 } := by
  have low : v.extractLsb' 0 3 = v.setWidth 3 := (BitVec.setWidth_eq_extractLsb' (by decide)).symm
  rw [Thread.setFrm, low, BitVec.toNat_setWidth]

/-! ## Which CSRs an agent may name (06 R123) -/

/-- What 06 R123 gives a side core to read, every agent may read. -/
theorem State.csrAllowed_read {n : Nat} (exists' : csrExists n = true) (side : sideReads n = true) (u : State) : u.csrAllowed n false = true := by
  simp [State.csrAllowed, exists', side]

theorem State.csrAllowed_read_ctx {u : State} {n : Nat} (exists' : csrExists n = true) (isCtx : u.isCtx = true) : u.csrAllowed n false = true := by
  simp [State.csrAllowed, exists', isCtx]

theorem State.csrAllowed_write_ctx {u : State} {n : Nat} (exists' : csrExists n = true) (written : csrReadOnly n = false) (isCtx : u.isCtx = true) :
    u.csrAllowed n true = true := by
  simp [State.csrAllowed, exists', written, isCtx]

theorem State.csrAllowed_readOnly {n : Nat} (readOnly : csrReadOnly n = true) (u : State) : u.csrAllowed n true = false := by
  simp [State.csrAllowed, readOnly]

theorem State.csrAllowed_missing {n : Nat} (missing : csrExists n = false) (u : State) (write : Bool) : u.csrAllowed n write = false := by
  simp [State.csrAllowed, missing]

theorem State.csrAllowed_read_side {u : State} {n : Nat} (side : u.isCtx = false) (barred : sideReads n = false) : u.csrAllowed n false = false := by
  simp [State.csrAllowed, side, barred]

theorem State.csrAllowed_write_side {u : State} {n : Nat} (side : u.isCtx = false) (barred : sideWrites n = false) : u.csrAllowed n true = false := by
  simp [State.csrAllowed, side, barred]

/-! ## A read and a write form (05 R100) -/

section
variable {u : State} {n : BitVec 11} (i : Instr) (rd : Reg)

theorem State.csrGet_illegal (barred : u.csrAllowed n.toNat false = false) : u.csrGet i rd n = Done.illegal u i := by
  simp [State.csrGet, barred]

theorem State.csrPut_illegal (barred : u.csrAllowed n.toNat true = false) (f : CsrForm) (rs1 : Reg) : u.csrPut i f rd rs1 n = Done.illegal u i := by
  simp [State.csrPut, barred]

variable (idle : u.tile.tensorBusy u.src = false)
include idle

theorem State.csrGet_value (allowed : u.csrAllowed n.toNat false = true) (noLaunch : n.toNat ≠ 0x054) :
    u.csrGet i rd n = .ok (u.setX rd (u.csrRead n.toNat)) := by
  simp [State.csrGet, allowed, noLaunch, State.flagsBusy, idle]

theorem State.csrPut_value (allowed : u.csrAllowed n.toNat true = true) (noInv : n.toNat ≠ 0x040) (f : CsrForm) (rs1 : Reg) :
    u.csrPut i f rd rs1 n = .ok ((u.csrWrite n.toNat (CsrForm.apply f (u.csrRead n.toNat) (u.x rs1))).setX rd (u.csrRead n.toNat)) := by
  simp [State.csrPut, allowed, noInv, State.flagsBusy, idle]

end

/-- Settles O16: each CSR from its value, where the agent may name it. -/
theorem csrReads : Obligations.CsrReads := by
  unfold Obligations.CsrReads
  intro s u m issued idle rd get bit cp ctl
  have read : ∀ n v, u.csrAllowed n.toNat false = true → n.toNat ≠ 0x054 → u.csrRead n.toNat = v → get n v := fun n v allowed noLaunch value => by
    subst value
    exact completes_next (exec_of_ok (exec_scalar issued rfl) (State.csrGet_value _ rd idle allowed noLaunch)) (writesOnly_setX u rd _)
  have both : ∀ n v, csrExists n.toNat = true → sideReads n.toNat = true → n.toNat ≠ 0x054 → u.csrRead n.toNat = v → get n v :=
    fun n v exists' side => read n v (State.csrAllowed_read exists' side u)
  refine ⟨both 0x001 _ rfl rfl (by decide) rfl, both 0x002 _ rfl rfl (by decide) rfl, both 0x003 _ rfl rfl (by decide) rfl,
    both 0x004 _ rfl rfl (by decide) rfl, both 0x020 _ rfl rfl (by decide) u.tile.qstat_eq, both 0x050 _ rfl rfl (by decide) rfl,
    both 0x051 _ rfl rfl (by decide) rfl, both 0x052 _ rfl rfl (by decide) rfl, both 0x053 _ rfl rfl (by decide) rfl,
    both 0x056 _ rfl rfl (by decide) rfl, both 0x055 _ rfl rfl (by decide) rfl, both 0x060 _ rfl rfl (by decide) rfl,
    both 0x7C0 _ rfl rfl (by decide) rfl, both 0x7C1 _ rfl rfl (by decide) rfl, both 0x7C2 _ rfl rfl (by decide) rfl,
    both 0x7C3 _ rfl rfl (by decide) rfl, both 0x7D0 _ rfl rfl (by decide) rfl, both 0x7D1 _ rfl rfl (by decide) rfl, fun c acts => ?_⟩
  have isCtx : u.isCtx = true := by rw [State.isCtx, acts]
  have one : ∀ n v, csrExists n.toNat = true → n.toNat ≠ 0x054 → u.csrRead n.toNat = v → get n v :=
    fun n v exists' => read n v (State.csrAllowed_read_ctx exists' isCtx)
  have panel : ∀ z : BitVec 4, csrExists (0x03#7 ++ z).toNat = true ∧ (0x03#7 ++ z).toNat ≠ 0x054 := by decide
  exact ⟨one 0x005 _ rfl (by decide) (State.self_ctx acts), one 0x006 _ rfl (by decide) (field_eq_and (by decide) _),
    one 0x007 _ rfl (by decide) (field_eq_and (by decide) _), one 0x008 _ rfl (by decide) rfl, one 0x021 _ rfl (by decide) (SideCore.ctl_eq _),
    one 0x022 _ rfl (by decide) (SideCore.ctl_eq _), one 0x023 _ rfl (by decide) rfl, one 0x024 _ rfl (by decide) rfl,
    fun z => one _ _ (panel z).1 (panel z).2 (u.csrRead_zcfg z), one 0x040 _ rfl (by decide) rfl, one 0x070 _ rfl (by decide) rfl,
    one 0x080 _ rfl (by decide) rfl, one 0x081 _ rfl (by decide) rfl, one 0x082 _ rfl (by decide) rfl, one 0x083 _ rfl (by decide) rfl,
    one 0x084 _ rfl (by decide) rfl, one 0x090 _ rfl (by decide) rfl⟩

/-- Settles O17: a write form by the old value and by what its CSR takes of the new one; the others by who may name the CSR. -/
theorem csrWrites : Obligations.CsrWrites := by
  unfold Obligations.CsrWrites
  refine ⟨?writes, ?refused⟩
  case writes =>
    intro s u m issued isCtx idle f rd rs1 i new put frm oor stat
    have runs : ∀ n, exec (i n) s = .next (State.finish ((u.csrPut (i n) f rd rs1 n).afterStreams u)) := fun n => by
      cases f with
      | wr => exact exec_scalar (i := .csrwr m rd rs1 n) issued rfl
      | set => exact exec_scalar (i := .csrset m rd rs1 n) issued rfl
      | clr => exact exec_scalar (i := .csrclr m rd rs1 n) issued rfl
    have applied : ∀ old, CsrForm.apply f old (u.x rs1) = new old := fun old => by cases f <;> rfl
    have write : ∀ n old v, csrExists n.toNat = true → csrReadOnly n.toNat = false → n.toNat ≠ 0x040 → u.csrRead n.toNat = old →
        u.csrWrite n.toNat (new old) = v → completes (i n) s (put old v) := fun n old v exists' written noInv value wrote => by
      have ends := State.csrPut_value (i n) rd idle (State.csrAllowed_write_ctx exists' written isCtx) noInv f rs1
      rw [value, applied, wrote] at ends
      exact completes_next (exec_of_ok (runs n) ends) (writesOnly_setX v rd old)
    have oorf : BitVec.ofNat 64 (b2n u.th.oorf) = oor := by
      simp only [oor]
      cases u.th.oorf <;> rfl
    have drop : u.csrWrite 0x060 (new u.tile.bfnStat) =
        if (new u.tile.bfnStat).extractLsb' 16 32 = 0 then u.putTile { u.tile with bfnDrop := 0 } else u :=
      if_congr (nbit_eq_zero_iff _ 16 32) rfl rfl
    have image : ∀ w, field w 2 54 = w &&& 0x00FF_FFFF_FFFF_FFFC := field_eq_and (by decide)
    have length : ∀ w, field w 0 32 = w &&& 0xFFFF_FFFF := field_eq_and (by decide)
    refine ⟨write 0x001 _ _ rfl rfl (by decide) rfl rfl, write 0x002 _ _ rfl rfl (by decide) rfl (congrArg u.setTh (u.th.setFrm_eq _)),
      write 0x003 _ _ rfl rfl (by decide) oorf rfl, write 0x008 _ _ rfl rfl (by decide) rfl rfl, write 0x081 _ _ rfl rfl (by decide) rfl rfl,
      write 0x050 _ _ rfl rfl (by decide) rfl rfl, write 0x051 _ _ rfl rfl (by decide) rfl rfl, write 0x052 _ _ rfl rfl (by decide) rfl ?_,
      write 0x082 _ _ rfl rfl (by decide) rfl rfl, write 0x053 _ _ rfl rfl (by decide) rfl rfl, write 0x055 _ _ rfl rfl (by decide) rfl rfl,
      write 0x060 _ _ rfl rfl (by decide) rfl drop, write 0x023 _ _ rfl rfl (by decide) rfl ?_, write 0x024 _ _ rfl rfl (by decide) rfl ?_⟩
    · rw [← length]; rfl
    · rw [← image]; rfl
    · rw [← image]; rfl
  case refused =>
    intro s u m issued rd rs1 n ill
    have get : u.csrAllowed n.toNat false = false → ill (.csrrd m rd n) := fun barred =>
      exec_of_trap (exec_scalar issued rfl) (State.csrGet_illegal _ rd barred)
    have put : u.csrAllowed n.toNat true = false → ill (.csrwr m rd rs1 n) ∧ ill (.csrset m rd rs1 n) ∧ ill (.csrclr m rd rs1 n) := fun barred =>
      ⟨exec_of_trap (exec_scalar issued rfl) (State.csrPut_illegal _ rd barred .wr rs1),
        exec_of_trap (exec_scalar issued rfl) (State.csrPut_illegal _ rd barred .set rs1),
        exec_of_trap (exec_scalar issued rfl) (State.csrPut_illegal _ rd barred .clr rs1)⟩
    refine ⟨fun readOnly => put (State.csrAllowed_readOnly ?_ u), fun side barred => get (State.csrAllowed_read_side side barred),
      fun side barred => put (State.csrAllowed_write_side side barred),
      fun missing => ⟨get (State.csrAllowed_missing missing u false), put (State.csrAllowed_missing missing u true)⟩⟩
    exact List.contains_iff_mem.mpr (List.mem_map_of_mem (f := BitVec.toNat) readOnly)

end Sys2Proof.Machine
end

section
/-! SUPPORT. WFI, TLBSYNC, RGN and RGNV (O21), and the instructions that a strand alone executes. -/

namespace Sys2Proof.Machine

open Sys2Proof.Safety

/-! ## What `exec` answers of an instruction of a strand alone (02 R31) -/

section
variable {s u : State} {m : SMark} {i j : Instr} {body : State → Done} {c : Fin 8} (issued : issues s m u) (acts : u.curAgent = .ctx c)
include issued acts

theorem exec_strand (meaning : exec i s = .next (issue j m false body s)) : exec i s = .next (State.finish ((body u).afterStreams u)) := by
  have isCtx : u.isCtx = true := by rw [State.isCtx, acts]
  rw [meaning, issues_body issued (.inr isCtx)]

end

section
variable {s u : State} {i : Instr} {d : Done} (runs : exec i s = .next (State.finish (d.afterStreams u)))
include runs

theorem exec_of_wait {w : Wait} (ends : d = .wait w u) : exec i s = .next (waitsFor w u) := by
  rw [runs, ends]
  exact congrArg Host.Outcome.next (finish_wait u w)

theorem exec_of_gone {v : State} (ends : d = .gone v) : exec i s = .next v := by
  rw [runs, ends]
  rfl

/-- An instruction that leaves its agent at the next one, in a state `v` made of `u`. -/
theorem completes_jumpsTo {v : State} (ends : d = .ok v) (pc : v.pc = u.pc) : completes i s (fun t => jumpsTo v t (u.pc + 4)) := by
  refine completes_next (exec_of_ok runs ends) ?_
  rw [finish_ok, pc]
  exact jumpsTo_wentOn v _

end

/-! ## What changes no thread -/

theorem State.pc_putTile {u : State} {T : Tile} (same : ∀ a, T.thread a = u.tile.thread a) : (u.putTile T).pc = u.pc := by
  rw [State.pc, State.th, State.tile_putTile, State.putTile_curAgent, same, State.pc, State.th]

theorem State.th_setCtx_of_th {u : State} {k : Context} (same : k.th = u.ctx.th) : (u.setCtx k).th = u.th := by
  unfold State.setCtx State.th
  unfold State.ctx at same
  cases acts : u.curAgent with
  | ctx c =>
    rw [acts] at same
    simp [acts, Tile.thread, same]
  | loader => rw [acts]
  | storer => rw [acts]

theorem State.pc_setCtx {u : State} {k : Context} (same : k.th = u.ctx.th) : (u.setCtx k).pc = u.pc :=
  congrArg Thread.pc (State.th_setCtx_of_th same)

/-- Settles O21, clause by clause from how the body of each instruction ends. -/
theorem waitsSyncsAndRegions : Obligations.WaitsSyncsAndRegions := by
  unfold Obligations.WaitsSyncsAndRegions
  intro s u m c issued acts d count
  have wfi := exec_strand (i := .wfi m) issued acts rfl
  have tlbsync := exec_strand (i := .tlbsync m) issued acts rfl
  have rgn := exec_strand (i := .rgn m d) issued acts rfl
  have rgnv := exec_strand (i := .rgnv m count) issued acts rfl
  refine ⟨fun ended => ?_, fun kept early => ?_, fun stored => ?_, ?_, fun l pa fetched whole => ?_⟩
  · have ready : (u.ctx.released || u.ctx.expired) = true := by simpa using ended
    exact completes_jumpsTo wfi (if_pos ready) rfl
  · have early' : ¬ (u.ctx.released || u.ctx.expired) = true := by simp [kept, early]
    exact exec_of_wait wfi (if_neg early')
  · have idle : ¬ u.storesOut u.src = true := by simp [stored]
    exact completes_jumpsTo tlbsync (if_neg idle) (State.pc_putTile fun a => by cases a <;> rfl)
  · exact completes_jumpsTo rgn rfl (State.pc_setCtx rfl)
  · refine completes_jumpsTo rgnv ?_ (State.pc_setCtx rfl)
    have line : u.fetchLine (rgnvAddr u.pc count).toNat = .ok (l, pa) := fetched
    rw [line]
    exact if_pos whole

end Sys2Proof.Machine
end

section
/-! SUPPORT. What no access to memory changes, and no bookkeeping of its errors: for whom a word acts, the dies' schedulers, the management
window, and of every tile everything but its L1 (O20, O53). -/

namespace Sys2Proof.Machine

open Sys2Proof.Safety

/-- Everything that no access to memory changes is as it was: of a tile, everything but its L1. -/
structure sameOutsideMemory (s t : State) : Prop where
  curTile : t.curTile = s.curTile
  curAgent : t.curAgent = s.curAgent
  dies : t.dies = s.dies
  mgmt : t.mgmt = s.mgmt
  tile : ∀ n, { t.tileAt n with l1 := (s.tileAt n).l1 } = s.tileAt n

namespace sameOutsideMemory

theorem refl (s : State) : sameOutsideMemory s s := ⟨rfl, rfl, rfl, rfl, fun _ => rfl⟩

theorem trans {s t u : State} (h : sameOutsideMemory s t) (k : sameOutsideMemory t u) : sameOutsideMemory s u where
  curTile := k.curTile.trans h.curTile
  curAgent := k.curAgent.trans h.curAgent
  dies := k.dies.trans h.dies
  mgmt := k.mgmt.trans h.mgmt
  tile n := (congrArg (fun T : Tile => { T with l1 := (s.tileAt n).l1 }) (k.tile n)).trans (h.tile n)

theorem withFlights {s t : State} (h : sameOutsideMemory s t) (f : List Flight) : sameOutsideMemory s { t with flights := f } :=
  h.trans ⟨rfl, rfl, rfl, rfl, fun _ => rfl⟩

theorem withFaulted (s : State) (f : List (Nat × Word)) : sameOutsideMemory s { s with faulted := f } := ⟨rfl, rfl, rfl, rfl, fun _ => rfl⟩

theorem foldl {β : Type} {f : State → β → State} (h : ∀ s b, sameOutsideMemory s (f s b)) (l : List β) (s : State) : sameOutsideMemory s (l.foldl f s) :=
  foldl_keeps (P := sameOutsideMemory s) (fun t b ht => ht.trans (h t b)) l (refl s)

/-- A tile's L1 replaced. -/
theorem setL1 (s : State) (n : Nat) (l1 : List (Nat × L1Word)) : sameOutsideMemory s (s.setTile n { s.tileAt n with l1 := l1 }) := by
  refine ⟨rfl, rfl, rfl, rfl, fun m => ?_⟩
  by_cases hm : m = n
  · rw [hm, State.tileAt_setTile_same]
  · rw [State.tileAt_setTile_ne hm]

section
variable {s t : State} (h : sameOutsideMemory s t) (n : Nat)
include h

theorem ctx : (t.tileAt n).ctx = (s.tileAt n).ctx := (congrArg Tile.ctx (h.tile n) :)
theorem run : (t.tileAt n).run = (s.tileAt n).run := (congrArg Tile.run (h.tile n) :)
theorem slots : (t.tileAt n).slots = (s.tileAt n).slots := (congrArg Tile.slots (h.tile n) :)

end

end sameOutsideMemory

/-! ## Errors, lines and sectors (13 R253, 18 R313, R315) -/

theorem dropL2_outside (s : State) (e : L2Line) : sameOutsideMemory s (s.dropL2 e) := by
  unfold State.dropL2
  dsimp only
  split
  · exact ⟨rfl, rfl, rfl, rfl, fun _ => rfl⟩
  · split
    · split <;> exact ⟨rfl, rfl, rfl, rfl, fun _ => rfl⟩
    · exact ⟨rfl, rfl, rfl, rfl, fun _ => rfl⟩

theorem allocL2_outside (s : State) (e : L2Line) : sameOutsideMemory s (s.allocL2 e) := by
  unfold State.allocL2
  dsimp only
  split
  · exact ⟨rfl, rfl, rfl, rfl, fun _ => rfl⟩
  · split
    next v _ _ => exact (dropL2_outside s v).trans ⟨rfl, rfl, rfl, rfl, fun _ => rfl⟩
    next => exact ⟨rfl, rfl, rfl, rfl, fun _ => rfl⟩

theorem touchLine_outside (s : State) (pa : Nat) : sameOutsideMemory s (s.touchLine pa) := by
  unfold State.touchLine
  split
  · exact .refl s
  · exact allocL2_outside ..

theorem takeSector_outside (s : State) (pa : Nat) (write : Bool) : sameOutsideMemory s (s.takeSector pa write) := by
  unfold State.takeSector
  split
  · split
    · exact ⟨rfl, rfl, rfl, rfl, fun _ => rfl⟩
    · split <;> exact ⟨rfl, rfl, rfl, rfl, fun _ => rfl⟩
    · exact .refl s
  · dsimp only
    split <;> split <;> exact ⟨rfl, rfl, rfl, rfl, fun _ => rfl⟩
  · exact .refl s

theorem noteNomem_outside (s : State) (pa len ws : Nat) : sameOutsideMemory s (s.noteNomem pa len ws) := by
  unfold State.noteNomem
  split
  · exact ⟨rfl, rfl, rfl, rfl, fun _ => rfl⟩
  · exact .refl s

theorem nomemRuns_outside (s : State) (l : List (Nat × Nat)) (ws : Nat) : sameOutsideMemory s (s.nomemRuns l ws) := by
  unfold State.nomemRuns
  split
  · exact noteNomem_outside ..
  · exact .refl s

theorem vsee_outside (s : State) (ws va n : Nat) : sameOutsideMemory s (s.vsee ws va n) := by
  unfold State.vsee
  split
  · unfold State.walkNomem
    split
    · exact noteNomem_outside ..
    · exact .refl s
  · unfold State.seeRuns
    exact (sameOutsideMemory.foldl (fun s a => (touchLine_outside s a).trans (takeSector_outside _ a false)) _ s).trans (nomemRuns_outside ..)

/-! ## Writes at the slices (13 R255, R261, R263) -/

theorem putWord_outside (s : State) (w : Nat) (cells : List (Nat × Byte)) (ws : Wsid) : sameOutsideMemory s (s.putWord w cells ws) := by
  unfold State.putWord
  split
  · let written : State := { s with
      mem := cells.foldl (fun m c => mset m (8 * w + c.1) c.2) s.mem
      mpoison := if cells.length = 8 then nsDel w s.mpoison else s.mpoison }
    have wrote : sameOutsideMemory s written := ⟨rfl, rfl, rfl, rfl, fun _ => rfl⟩
    exact (wrote.trans (touchLine_outside written _)).trans ⟨rfl, rfl, rfl, rfl, fun _ => rfl⟩
  · exact .refl s

theorem setPoison_outside (s : State) (w : Nat) (p : Bool) : sameOutsideMemory s (s.setPoison w p) := ⟨rfl, rfl, rfl, rfl, fun _ => rfl⟩

theorem chargeEvict_outside (s : State) (unit loc tile : Nat) (ws : Wsid) (pa : Nat) : sameOutsideMemory s (s.chargeEvict unit loc tile ws pa) :=
  ⟨rfl, rfl, rfl, rfl, fun _ => rfl⟩

theorem writeBackWord_outside (s : State) (w : Nat) (l : L1Word) (h : Holder) : sameOutsideMemory s (s.writeBackWord w l h) := by
  unfold State.writeBackWord
  dsimp only
  split
  · exact ((putWord_outside ..).trans (setPoison_outside ..)).trans (chargeEvict_outside ..)
  · exact putWord_outside ..

theorem dropHeld_outside (s : State) (h : Holder) (w : Nat) : sameOutsideMemory s (s.dropHeld h w) := by
  unfold State.dropHeld
  cases h with
  | tile t => exact .withFlights (.setL1 s t _) _
  | cluster c => exact ⟨rfl, rfl, rfl, rfl, fun _ => rfl⟩

theorem unregister_outside (s : State) (w : Nat) : sameOutsideMemory s (s.unregister w) := ⟨rfl, rfl, rfl, rfl, fun _ => rfl⟩

theorem revoke_outside (s : State) (w : Nat) : sameOutsideMemory s (s.revoke w) := by
  unfold State.revoke
  split
  · exact .refl s
  · refine sameOutsideMemory.trans ?_ (unregister_outside _ w)
    split
    · exact (writeBackWord_outside ..).trans (dropHeld_outside ..)
    · exact .refl s

theorem evictWords_outside (s : State) (tile : Nat) (p : Nat → Bool) : sameOutsideMemory s (s.evictWords tile p) := by
  unfold State.evictWords
  refine (sameOutsideMemory.foldl (fun s e => ?_) _ s).trans (.setL1 ..)
  split
  · split
    · exact .withFlights ((writeBackWord_outside ..).trans (unregister_outside _ e.1)) _
    · exact ⟨rfl, rfl, rfl, rfl, fun _ => rfl⟩
  · exact .refl s

theorem unseal_outside (s : State) (w : Nat) (keep : Option Nat) : sameOutsideMemory s (s.unseal w keep) := by
  unfold State.unseal
  dsimp only
  split
  · exact .refl s
  · refine .trans ?_ (.foldl (fun s t => evictWords_outside s t _) _ _)
    exact ⟨rfl, rfl, rfl, rfl, fun _ => rfl⟩

theorem sliceWrite_outside (s : State) (w : Nat) (cells : List (Nat × Byte)) (ws : Wsid) : sameOutsideMemory s (s.sliceWrite w cells ws) :=
  ((revoke_outside s w).trans (unseal_outside _ w none)).trans (putWord_outside ..)

theorem putRun_outside (s : State) (pa : Nat) (bytes : List Byte) (ws : Wsid) : sameOutsideMemory s (s.putRun pa bytes ws) :=
  (sameOutsideMemory.foldl (fun s a => takeSector_outside s a true) _ s).trans
    (sameOutsideMemory.foldl (fun s w => sliceWrite_outside s w (cellsIn pa bytes w) ws) _ _)

theorem writeAt_outside (s : State) (pa : Nat) (bytes : List Byte) (ws : Wsid) : sameOutsideMemory s (s.writeAt pa bytes ws) :=
  (putRun_outside s pa bytes ws).trans (noteNomem_outside ..)

theorem writePieces_outside (ws : Wsid) (l : List (Nat × Nat)) (bs : List Byte) (s : State) : sameOutsideMemory s (s.writePieces ws l bs) := by
  induction l generalizing s bs with
  | nil => exact .refl s
  | cons c r ih => exact (putRun_outside ..).trans (ih ..)

theorem vwrite_outside {s t : State} {ws va : Nat} {bs : List Byte} (h : s.vwrite ws va bs = .ok t) : sameOutsideMemory s t := by
  unfold State.vwrite at h
  split at h
  · cases h
  · cases h
    exact (writePieces_outside ..).trans (nomemRuns_outside ..)

theorem vput_outside (s : State) (ws va n v : Nat) : sameOutsideMemory s (s.vput ws va n v) := by
  unfold State.vput
  split
  next t wrote => exact vwrite_outside wrote
  next => exact .refl s

/-! ## The fault record and the spill frames (21 R352, 05 R106, R111) -/

theorem faultRecord_outside (s : State) (ws code ltid info addr : Nat) : sameOutsideMemory s (s.faultRecord ws code ltid info addr) := by
  have miss : ∀ v, sameOutsideMemory s (s.setWsWord ws wEVCOUNT v) := fun v => writeAt_outside ..
  unfold State.faultRecord
  dsimp only
  split
  · exact miss _
  · split
    · exact miss _
    · split
      next => exact miss _
      next t wrote => exact ((vsee_outside ..).trans (vwrite_outside wrote)).trans (vput_outside ..)

theorem freeFrame_outside (s : State) (ltid ws f : Nat) : sameOutsideMemory s (s.freeFrame ltid ws f) := by
  unfold State.freeFrame
  split
  · exact .refl s
  · split
    · exact ⟨rfl, rfl, rfl, rfl, fun _ => rfl⟩
    · dsimp only
      split
      next => exact faultRecord_outside ..
      next =>
        split
        next => exact faultRecord_outside ..
        next t wrote => exact ((vsee_outside ..).trans (vwrite_outside wrote)).trans (vput_outside ..)

theorem popPool_outside (s : State) (ltid ws need : Nat) : sameOutsideMemory s (s.popPool ltid ws need).1 := by
  unfold State.popPool
  dsimp only
  split
  · exact .refl s
  · split
    · exact faultRecord_outside ..
    · split
      · exact vsee_outside ..
      · split
        · exact vsee_outside ..
        · split
          · exact (vsee_outside ..).trans (faultRecord_outside ..)
          · split
            next => exact (vsee_outside ..).trans (faultRecord_outside ..)
            next t wrote => exact ((vsee_outside ..).trans (vsee_outside ..)).trans (vwrite_outside wrote)

theorem popReserve_outside (s : State) (die : Nat) (ws : Wsid) (cause : Byte) : sameOutsideMemory s (s.popReserve die ws cause).1 := by
  unfold State.popReserve
  split
  · exact ⟨rfl, rfl, rfl, rfl, fun _ => rfl⟩
  · exact .refl s

theorem takeFrame_outside (s : State) (t : Nat) (ws : Wsid) (need : Nat) (m : SaveMode) : sameOutsideMemory s (s.takeFrame t ws need m).1 := by
  have popped := popPool_outside s (s.ltidOf t) ws.toNat need
  unfold State.takeFrame
  split
  next s1 f pool =>
    rw [pool] at popped
    exact popped
  next s1 cause pool =>
    rw [pool] at popped
    split
    · exact popped.trans (popReserve_outside ..)
    · exact popped

theorem vpoison_outside (s : State) (ws va : Nat) : sameOutsideMemory s (s.vpoison ws va) := by
  unfold State.vpoison
  split
  · exact setPoison_outside ..
  · exact .refl s

theorem putFrame_outside {s u : State} {t : Nat} {c : Fin 8} {sv : Save} {f : Nat} (h : s.putFrame t c sv f = some u) : sameOutsideMemory s u := by
  unfold State.putFrame at h
  dsimp only at h
  split at h
  next s1 wrote =>
    cases h
    exact (vwrite_outside wrote).trans (.foldl (fun s w => vpoison_outside ..) _ _)
  next => cases h

theorem fillFrame_outside (s : State) (t : Nat) (c : Fin 8) (sv : Save) (f : Nat) : sameOutsideMemory s (s.fillFrame t c sv f).1 := by
  unfold State.fillFrame
  split
  next s1 filled => exact putFrame_outside filled
  next =>
    have popped := (faultRecord_outside s (s.cx t c).wsid.toNat frSPILL (s.ltidOf t) 0 f).trans
      (popReserve_outside _ (t / 256) (s.cx t c).wsid trSPILL_EMPTY)
    split
    next s1 g reserve =>
      rw [reserve] at popped
      split
      next s2 filled => exact popped.trans (putFrame_outside filled)
      next => exact popped
    next => exact popped

theorem putRecord_outside (s : State) (k : Context) (sv : Save) (f : Nat) : sameOutsideMemory s (s.putRecord k sv f) := by
  unfold State.putRecord
  split
  next s1 wrote => exact vwrite_outside wrote
  next => exact .refl s

end Sys2Proof.Machine
end

section
/-! SUPPORT. The end of a strand and the delivery of its trap, ECALL, EBREAK, ERET and HALT (O20): what all of it leaves is which tile acts,
which context each tile runs and the resume lists, up to the step that frees the context. -/

namespace Sys2Proof.Machine

open Sys2Proof.Safety

/-- The turn is the same tile's, its contexts run on, and the resume lists stand. -/
structure sameTurn (s t : State) : Prop where
  curTile : t.curTile = s.curTile
  run : ∀ n, (t.tileAt n).run = (s.tileAt n).run
  resume : ∀ d : Fin 4, t.dies[d].resume = s.dies[d].resume

theorem sameOutsideMemory.turn {s t : State} (h : sameOutsideMemory s t) : sameTurn s t := ⟨h.curTile, h.run, fun d => by rw [h.dies]⟩

namespace sameTurn

theorem refl (s : State) : sameTurn s s := ⟨rfl, fun _ => rfl, fun _ => rfl⟩

theorem trans {s t u : State} (h : sameTurn s t) (k : sameTurn t u) : sameTurn s u :=
  ⟨k.curTile.trans h.curTile, fun n => (k.run n).trans (h.run n), fun d => (k.resume d).trans (h.resume d)⟩

theorem foldl {β : Type} {f : State → β → State} (h : ∀ s b, sameTurn s (f s b)) (l : List β) (s : State) : sameTurn s (l.foldl f s) :=
  foldl_keeps (P := sameTurn s) (fun t b ht => ht.trans (h t b)) l (refl s)

theorem ite {p : Prop} [Decidable p] {s t u : State} (h : sameTurn s t) (k : sameTurn s u) : sameTurn s (if p then t else u) := by
  split
  · exact h
  · exact k

theorem withFaulted {s t : State} (h : sameTurn s t) (f : List (Nat × Word)) : sameTurn s { t with faulted := f } :=
  h.trans ⟨rfl, fun _ => rfl, fun _ => rfl⟩

/-- A tile replaced by one that runs the same context. -/
theorem setTile {s : State} {n : Nat} {T : Tile} (h : T.run = (s.tileAt n).run) : sameTurn s (s.setTile n T) := by
  refine ⟨rfl, fun m => ?_, fun _ => rfl⟩
  by_cases hm : m = n
  · rw [hm, State.tileAt_setTile_same, h]
  · rw [State.tileAt_setTile_ne hm]

theorem setCx (s : State) (n : Nat) (c : Fin 8) (k : Context) : sameTurn s (s.setCx n c k) := setTile rfl

/-- A die replaced by one with the same resume list. -/
theorem setDie {s : State} {n : Nat} {D : Die} (h : D.resume = (s.die n).resume) : sameTurn s (s.setDie n D) := by
  refine ⟨rfl, fun _ => rfl, fun d => ?_⟩
  by_cases hd : n = d.val
  · subst hd
    rw [State.setDie_get, h, State.die_get]
  · simp [State.setDie, hd]

end sameTurn

/-! ## Messages and departures (09 R189, 10 R214, 11 R225) -/

theorem Tile.run_weirEvent (T : Tile) (off : Nat) (e : WeirEvent) : (T.weirEvent off e).run = T.run := by
  unfold Tile.weirEvent Tile.putWeir
  dsimp only
  split
  · split <;> rfl
  · rfl

theorem Tile.run_deviceMail (T : Tile) (m : BitVec 128) : (T.deviceMail m).run = T.run := by
  unfold Tile.deviceMail
  split <;> rfl

theorem resolve_turn (s : State) (tile l : Nat) : sameTurn s (s.resolve tile l).1 := by
  unfold State.resolve
  split
  · exact .refl s
  · exact .setTile rfl

theorem lookHops_turn (s : State) (a fuel : Nat) (path : List Nat) : sameTurn s (s.lookHops a fuel path) := by
  induction fuel generalizing s path with
  | zero => exact .refl s
  | succ fuel ih =>
    cases path with
    | nil => exact .refl s
    | cons t rest =>
      unfold State.lookHops
      dsimp only
      refine .trans ?_ (ih ..)
      split
      · split
        · exact .refl s
        · split
          · exact (resolve_turn ..).trans (resolve_turn ..)
          · exact resolve_turn ..
      · exact .refl s

theorem launch_turn (s : State) (tile dst seq : Nat) : sameTurn s (s.launch tile dst seq) := by
  have found := resolve_turn s tile dst
  unfold State.launch State.inject
  dsimp only
  split
  · exact found.trans ⟨rfl, fun _ => rfl, fun _ => rfl⟩
  · exact (found.trans (lookHops_turn ..)).trans ⟨rfl, fun _ => rfl, fun _ => rfl⟩

theorem sendMsg_turn (s : State) (tile dst : Nat) (src : Src) (pc addr : Word) (body : MsgBody) : sameTurn s (s.sendMsg tile dst src pc addr body) := by
  have entered : ∀ w, sameTurn s (s.setTile tile ((s.tileAt tile).setWindow dst w)) := fun w => .setTile rfl
  unfold State.sendMsg
  dsimp only
  split
  · exact entered _
  · exact (entered _).trans (launch_turn ..)

theorem departEntry_turn (s : State) (t : Nat) (src : Src) (e : Word) : sameTurn s (s.departEntry t src e) := by
  unfold State.departEntry
  split
  · exact .refl s
  · split
    · exact .setTile (Tile.run_weirEvent ..)
    · split
      · exact .setTile rfl
      · exact sendMsg_turn ..

theorem departAll_turn (s : State) (t : Nat) (src : Src) (joins : List Word) : sameTurn s (s.departAll t src joins) :=
  .foldl (fun s e => departEntry_turn s t src e) joins s

/-! ## The work of a strand (15 R285, R287, R291, R296) -/

theorem sendSignals_turn (s : State) (ltid : Nat) (ws : Wsid) (cs : List Word) : sameTurn s (s.sendSignals ltid ws cs) :=
  ⟨rfl, fun _ => rfl, fun _ => rfl⟩

theorem templateSucc_outside (s : State) (ws array : Nat) : sameOutsideMemory s (s.templateSucc ws array).1 := by
  unfold State.templateSucc
  split
  · exact .refl s
  · split
    · exact vsee_outside ..
    · split
      · exact vsee_outside ..
      · exact (vsee_outside ..).trans (vsee_outside ..)

theorem endRange_turn (s : State) (ltid : Nat) (ws : Wsid) (array : Word) : sameTurn s (s.endRange ltid ws array) := by
  unfold State.endRange
  split
  · exact .refl s
  · dsimp only
    split
    · exact ((vput_outside ..).trans (templateSucc_outside ..)).turn.trans (sendSignals_turn ..)
    · exact (vput_outside ..).turn

theorem domainFaults_turn (s : State) (t : Nat) (g : Gang) : sameTurn s (s.domainFaults t g) :=
  .foldl (fun _ _ => .setTile (Tile.run_deviceMail ..)) _ s

theorem endMember_turn (s : State) (t die id : Nat) (ws : Wsid) (lost : Bool) : sameTurn s (s.endMember t die id ws lost) := by
  unfold State.endMember
  dsimp only
  split
  · exact .refl s
  next g found =>
    have left' : sameTurn s (if s.otherMember t g.ch then s else s.setTile t { s.tileAt t with dommem := (s.tileAt t).dommem &&& ~~~(1#8 <<< g.ch.toNat) }) :=
      .ite (.refl s) (.setTile rfl)
    generalize (if s.otherMember t g.ch then s else _ : State) = left at left' ⊢
    have told' : sameTurn s (if lost = true then
        (if g.failed then left else left.faultRecord ws.toNat frGANG (left.ltidOf t) g.domain.toNat 0).domainFaults t g else left) :=
      .ite ((sameTurn.ite left' (left'.trans (faultRecord_outside ..).turn)).trans (domainFaults_turn ..)) left'
    generalize (if lost = true then _ else left : State) = told at told' ⊢
    split
    · have removed : ∀ gangs chans, sameTurn s (told.setDie die { told.die die with gangs := gangs, chans := chans }) := fun _ _ => told'.trans (.setDie rfl)
      split
      · exact removed _ _
      · exact (removed _ _).trans (sendSignals_turn ..)
    · exact told'.trans (.setDie rfl)

theorem endWork_turn (s : State) (t : Nat) (ws : Wsid) (rec : Word) (how : EndKind) : sameTurn s (s.endWork t ws rec how) := by
  unfold State.endWork
  split
  · exact .refl s
  next e found =>
    dsimp only
    have released : sameTurn s (({ s with strands := sdel (recKey ws rec) s.strands } : State).release e) := by
      unfold State.release
      refine sameTurn.trans (t := { s with strands := sdel (recKey ws rec) s.strands }) ⟨rfl, fun _ => rfl, fun _ => rfl⟩ ?_
      split
      · exact .refl _
      · exact .setDie rfl
    split
    · split
      · exact released.trans (sendSignals_turn ..)
      · exact released
    · exact released.trans (endRange_turn ..)
    · exact released.trans (endMember_turn ..)

/-! ## Strands ended, in memory and in a context (05 R106, R114, R118) -/

theorem killOne_turn (s : State) (t : Nat) (src : Src) (rec : Word) : sameTurn s (s.killOne t src rec) := by
  unfold State.killOne
  dsimp only
  generalize (s.vnat src.ws.toNat (rec.toNat + 16) 8).getD 0 = spill
  have read : sameTurn s (if (spill != 0 && spill % 64 == 0) = true then (s.vsee src.ws.toNat rec.toNat 24).vsee src.ws.toNat spill 128
      else s.vsee src.ws.toNat rec.toNat 24) := .ite ((vsee_outside ..).trans (vsee_outside ..)).turn (vsee_outside ..).turn
  generalize (if (spill != 0 && spill % 64 == 0) = true then _ else _ : State) = seen at read ⊢
  have ended : ∀ joins, sameTurn s ((seen.departAll t src joins).endWork t src.ws rec .terminated) := fun _ =>
    (read.trans (departAll_turn ..)).trans (endWork_turn ..)
  split
  · exact ((ended _).withFaulted _).trans (freeFrame_outside ..).turn
  · exact (ended _).withFaulted _

theorem killRecord_turn (s : State) (t : Nat) (src : Src) (rec : Word) : sameTurn s (s.killRecord t src rec) := by
  unfold State.killRecord
  dsimp only
  split
  · exact killOne_turn ..
  · exact ((killOne_turn ..).trans (killOne_turn ..)).trans (faultRecord_outside ..).turn

theorem recordDrops_outside (s : State) (t : Nat) (ws : Wsid) (rs : List Remote) : sameOutsideMemory s (s.recordDrops t ws rs) := by
  refine .foldl (fun s r => ?_) rs s
  split
  · exact faultRecord_outside ..
  · exact .refl s

/-- The end of a resident strand is bookkeeping and then the context's release. -/
theorem endStrandAs_turn (s : State) (t : Nat) (c : Fin 8) (how : EndKind) (nested : Nat × Nat) :
    ∃ u, sameTurn s u ∧ s.endStrandAs t c how nested = u.freeCx t c := by
  unfold State.endStrandAs
  dsimp only
  refine ⟨_, ?_, rfl⟩
  have ended := ((recordDrops_outside s t (s.cx t c).wsid (s.cx t c).th.outs).turn.trans
    (departAll_turn _ t (s.srcOf t c) (s.cx t c).joins.toList)).trans (endWork_turn _ t (s.cx t c).wsid (s.cx t c).recAddr how)
  have killed := ended.trans (killRecord_turn _ t (s.srcOf t c) (s.cx t c).trec)
  split
  · exact (sameTurn.ite (killed.trans (faultRecord_outside ..).turn) ended).trans (freeFrame_outside ..).turn
  · exact .ite (killed.trans (faultRecord_outside ..).turn) ended

/-! ## Saves and trap packets (05 R103, R109, R111) -/

theorem saveStrand_turn (s : State) (t : Nat) (c : Fin 8) (sv : Save) (m : SaveMode) : sameTurn s (s.saveStrand t c sv m).1 := by
  unfold State.saveStrand
  dsimp only
  split
  · have took : ∀ r, (match (s.cx t c).frame with
        | some f => (s, FrameRes.frame f)
        | none => s.takeFrame t (s.cx t c).wsid sv.size m) = r → sameTurn s r.1 := by
      rintro r rfl
      split
      · exact .refl s
      · exact (takeFrame_outside ..).turn
    split
    next s1 _ taken => exact took _ taken
    next s1 f taken =>
      have filled := (fillFrame_outside s1 t c sv f).turn
      split
      next s2 _ broken =>
        rw [broken] at filled
        exact ((took _ taken).trans filled).trans (.setCx ..)
      next s2 g whole =>
        rw [whole] at filled
        exact ((took _ taken).trans filled).trans (putRecord_outside ..).turn
  · refine .trans ?_ (putRecord_outside ..).turn
    split
    · exact (freeFrame_outside ..).turn
    · exact .refl s

theorem setQState_outside (s : State) (ws q st : Nat) : sameOutsideMemory s (s.setQState ws q st) := by
  unfold State.setQState
  split
  · exact .refl s
  · split
    · exact vput_outside ..
    · exact .refl s

theorem qDiscard_outside (s : State) (ws q off last : Nat) : sameOutsideMemory s (s.qDiscard ws q off last) := by
  unfold State.qDiscard
  split
  · exact (vput_outside ..).trans (vput_outside ..)
  · exact .refl s

theorem Die.resume_serve (d : Die) (q : Word) (ws : Wsid) : (d.serve q ws).resume = d.resume := by
  unfold Die.serve
  split <;> rfl

theorem notifyDies_turn (s : State) (ds : List Nat) (q : Word) (ws : Wsid) (cell : Nat) : sameTurn s (s.notifyDies ds q ws cell) :=
  sameTurn.trans (t := { s with fresh := s.fresh + 1 }) ⟨rfl, fun _ => rfl, fun _ => rfl⟩
    (.foldl (fun s d => by exact sameTurn.setDie (Die.resume_serve (s.die d) q ws)) ds _)

theorem enqueueAs_turn (s : State) (bad : Bool) (ws : Wsid) (q : Word) (p : List Byte) : sameTurn s (s.enqueueAs bad ws q p).1 := by
  unfold State.enqueueAs
  dsimp only
  split
  · exact (setQState_outside ..).turn
  · split
    · exact (setQState_outside ..).turn
    · split
      · exact (vsee_outside ..).turn
      · split
        · exact (vsee_outside ..).turn
        · split
          · exact (qDiscard_outside ..).turn
          · split
            · exact (vsee_outside ..).turn
            · split
              next => exact (setQState_outside ..).turn
              next s1 wrote => exact ((vwrite_outside wrote).trans (vput_outside ..)).turn.trans (notifyDies_turn ..)

theorem sendTrap_turn (s : State) (ws : Wsid) (payload : List Byte) : sameTurn s (s.sendTrap ws payload).1 := by
  have sent := enqueueAs_turn s false ws (s.wsWord ws.toNat wFQ) (s.trapPacket ws payload)
  unfold State.sendTrap State.enqueue
  dsimp only
  split
  · exact .refl s
  · split
    · exact sent
    · split
      · exact sent.trans ⟨rfl, fun _ => rfl, fun _ => rfl⟩
      · exact sent

/-! ## A context freed -/

theorem Tile.run_landAll (T : Tile) (a : Agent) : (T.landAll a).run = T.run := by cases a <;> rfl

/-- The strand of context `c` of tile `n` has left it: bookkeeping, the context's release, and then accesses to memory alone. -/
def vacated (s t : State) (n : Nat) (c : Fin 8) : Prop := ∃ u, sameTurn s u ∧ sameOutsideMemory (u.freeCx n c) t

theorem State.run_freeCx (s : State) (n : Nat) (c : Fin 8) : ((s.freeCx n c).tileAt n).run ≠ some c := by
  unfold State.freeCx
  dsimp only
  rw [State.tileAt_setTile_same]
  dsimp only
  split
  · exact nofun
  next other => exact fun on => other (by simp [on])

namespace vacated

variable {s t : State} {n : Nat} {c : Fin 8}

theorem after {u : State} (h : sameTurn s u) (k : vacated u t n c) : vacated s t n c := by
  obtain ⟨v, turn, outside⟩ := k
  exact ⟨v, h.trans turn, outside⟩

theorem trans {u : State} (h : vacated s t n c) (k : sameOutsideMemory t u) : vacated s u n c := by
  obtain ⟨v, turn, outside⟩ := h
  exact ⟨v, turn, outside.trans k⟩

theorem freeCx (s : State) (n : Nat) (c : Fin 8) : vacated s (s.freeCx n c) n c := ⟨s, .refl s, .refl _⟩

theorem endStrandAs (s : State) (n : Nat) (c : Fin 8) (how : EndKind) (nested : Nat × Nat) : vacated s (s.endStrandAs n c how nested) n c := by
  obtain ⟨u, turn, freed⟩ := endStrandAs_turn s n c how nested
  exact ⟨u, turn, freed ▸ .refl _⟩

theorem endStrand (s : State) (n : Nat) (c : Fin 8) (how : EndKind) : vacated s (s.endStrand n c how) n c := endStrandAs ..

/-- However a trap is delivered, its strand leaves the context (05 R108 to R111, R114). -/
theorem deliverTrap (s : State) (n : Nat) (c : Fin 8) (tr : Trap) : vacated s (s.deliverTrap n c tr) n c := by
  have dropped := (recordDrops_outside s n (s.cx n c).wsid (s.cx n c).th.outs).turn
  unfold State.deliverTrap
  dsimp only
  generalize s.recordDrops n (s.cx n c).wsid (s.cx n c).th.outs = recorded at dropped ⊢
  have landed : sameTurn s (if (tr.code == trPOISON) = true then
      recorded.setCx n c { recorded.cx n c with th := { (recorded.cx n c).th with outs := [] } }
      else recorded.setTile n ((recorded.tileAt n).landAll (.ctx c))) :=
    dropped.trans (.ite (.setCx ..) (.setTile (Tile.run_landAll ..)))
  generalize (if (tr.code == trPOISON) = true then _ else _ : State) = u at landed ⊢
  refine .after landed ?_
  have saved := saveStrand_turn u n c (trapSave (u.cx n c) tr) .trap
  split
  · exact endStrandAs ..
  · split
    · exact .after (faultRecord_outside ..).turn (endStrand ..)
    · split
      next s2 cause lack =>
        rw [lack] at saved
        exact .after (saved.trans (faultRecord_outside ..).turn) (endStrand ..)
      next s2 broken =>
        rw [broken] at saved
        exact .after (saved.trans (faultRecord_outside ..).turn) (endStrand ..)
      next s2 done =>
        rw [done] at saved
        have sent := saved.trans (sendTrap_turn s2 (u.cx n c).wsid (trapRecord tr.code c.val false (u.ltidOf n) tr.tpc tr.taddr tr.tinfo
          (u.cx n c).recAddr (s2.returnQueue (u.cx n c).wsid (u.cx n c).recAddr)))
        refine .after sent ?_
        split
        · exact (freeCx ..).trans (.withFaulted ..)
        · exact .trans (.after (faultRecord_outside ..).turn (endStrand ..)) (freeFrame_outside ..)

variable (h : vacated s t n c)
include h

theorem curTile : t.curTile = s.curTile := by
  obtain ⟨u, turn, outside⟩ := h
  exact outside.curTile.trans turn.curTile

theorem resume (d : Fin 4) : t.dies[d].resume = s.dies[d].resume := by
  obtain ⟨u, turn, outside⟩ := h
  rw [outside.dies, ← turn.resume]
  rfl

/-- Of the freed context only the count of residencies goes on. -/
theorem context : ∃ inc, (t.tileAt n).ctx[c] = { Context.reset with inc := inc } := by
  obtain ⟨u, turn, outside⟩ := h
  rw [outside.ctx]
  exact ⟨_, State.cx_freeCx u n c⟩

theorem run : (t.tileAt n).run ≠ some c := by
  obtain ⟨u, turn, outside⟩ := h
  rw [outside.run]
  exact State.run_freeCx u n c

/-- The acting strand has left its context. -/
theorem left (acting : n = s.curTile) : t.tile.ctx[c].st = .free ∧ t.tile.ctx[c].wsid = 0 ∧ t.tile.run ≠ some c := by
  have here : t.tile = t.tileAt n := by rw [State.tile, h.curTile, acting]
  obtain ⟨inc, context⟩ := h.context
  rw [here, context]
  exact ⟨rfl, rfl, h.run⟩

end vacated

/-! ## A trap taken (05 R108) -/

theorem sameBytes_putTile_of_store {s : State} {T : Tile} (l1 : T.l1 = s.tile.l1) (store : T.store = s.tile.store) : sameBytes s (s.putTile T) := by
  refine ⟨fun a => readAt_putTile l1 a 1, fun n off => ?_⟩
  by_cases here : n = s.curTile
  · subst here
    simp only [Tile.byte, State.putTile, State.tileAt_setTile_same, store]
    rfl
  · rw [State.tileAt_putTile_ne s here]

section
variable {u : State} {c : Fin 8} (acts : u.curAgent = .ctx c) (tr : Trap)
include acts

theorem State.takeTrap_quiet (quiet : u.quiet u.curTile c = true) : u.takeTrap tr = u.deliverTrap u.curTile c tr := by
  unfold State.takeTrap
  rw [acts]
  exact if_pos quiet

/-- A trap that waits for what is outstanding: the context leaves issue with it. -/
theorem State.takeTrap_waits (busy : u.quiet u.curTile c = false) : u.takeTrap tr = u.putTile { u.tile with
    ctx := u.tile.ctx.set c { u.tile.ctx[c] with pending := some tr, st := .waiting .trap }, run := none, last := c } := by
  have notQuiet : ¬ u.quiet u.curTile c = true := by simp [busy]
  unfold State.takeTrap
  rw [acts]
  dsimp only
  rw [if_neg notQuiet]
  simp [State.setCtx, State.ctx, acts, State.putTile_putTile]

end

/-! ## The statement -/

/-- Settles O20: a trap by its delivery or its wait, ERET and HALT by what they wait for and by the end of their strand. -/
theorem trapsAndReturns : Obligations.TrapsAndReturns := by
  unfold Obligations.TrapsAndReturns
  refine ⟨?calls, ?ends⟩
  case calls =>
    intro s u m code c issued acts tr
    have ecall : exec (.ecall m code) s = .next (u.takeTrap (tr 0x0A)) := exec_of_trap (exec_strand (i := .ecall m code) issued acts rfl) rfl
    have ebreak : exec (.ebreak m code) s = .next (u.takeTrap (tr 0x0B)) := exec_of_trap (exec_strand (i := .ebreak m code) issued acts rfl) rfl
    refine ⟨ecall, ebreak, fun quiet => ?_, fun busy => ?_⟩
    · have left : ∀ n, let t := u.takeTrap (tr n); t.tile.ctx[c].st = .free ∧ t.tile.ctx[c].wsid = 0 ∧ t.tile.run ≠ some c := fun n => by
        rw [State.takeTrap_quiet acts _ quiet]
        exact (vacated.deliverTrap u u.curTile c (tr n)).left rfl
      exact ⟨completes_next ecall (left 0x0A), completes_next ebreak (left 0x0B)⟩
    · refine completes_next ecall ?_
      rw [State.takeTrap_waits acts _ busy]
      refine ⟨?_, ?_, ?_, sameBytes_putTile_of_store rfl rfl⟩ <;> simp
  case ends =>
    intro s u m c issued acts
    have halt := exec_strand (i := .halt m) issued acts rfl
    have eret := exec_strand (i := .eret m) issued acts rfl
    simp only [acts] at halt eret
    refine ⟨fun stored => ⟨exec_of_wait halt (if_pos stored), fun serves => exec_of_wait eret ((if_neg serves).trans (if_pos stored))⟩,
      fun w stored departs => ?window, fun stored departs => ?halts, fun stored departs serves => ?returns,
      fun serves => exec_of_trap eret (if_pos serves)⟩
    case window =>
      have notStored : ¬ u.storesOut u.src = true := by simp [stored]
      rw [departs, if_neg notStored] at halt eret
      exact ⟨exec_of_wait halt rfl, fun serves => exec_of_wait eret (if_neg serves)⟩
    case halts =>
      have notStored : ¬ u.storesOut u.src = true := by simp [stored]
      rw [departs, if_neg notStored] at halt
      obtain ⟨free, -, run⟩ := (vacated.endStrand u u.curTile c .halt).left rfl
      exact completes_next (exec_of_gone halt rfl) ⟨free, run⟩
    case returns =>
      have notStored : ¬ u.storesOut u.src = true := by simp [stored]
      rw [departs, if_neg serves, if_neg notStored] at eret
      obtain ⟨d, queued⟩ := u.pushResume_mem (u.returnQueue u.ws u.ctx.trec) u.ws u.ctx.trec (u.recPrio u.ws u.ctx.trec)
      have ended := vacated.endStrand (u.pushResume (u.returnQueue u.ws u.ctx.trec) u.ws u.ctx.trec (u.recPrio u.ws u.ctx.trec)) u.curTile c .eret
      obtain ⟨free, -, run⟩ := ended.left rfl
      rw [← ended.resume] at queued
      exact completes_next (exec_of_gone eret rfl) ⟨free, run, d, _, queued, rfl, rfl⟩

end Sys2Proof.Machine
end

section
/-! SUPPORT. One word written at the slices (O53): what of the registry, the L1s and memory a write to one word leaves, and what every word
reads as after it. -/

namespace Sys2Proof.Machine

open Sys2Proof.Safety

/-! ## HBM of which the host holds nothing (18 R311, R315) -/

/-- An address of the dies' HBM. -/
def inHbm (pa : Nat) : Prop := 0x80_0000_0000 ≤ pa ∧ pa < 0x100_0000_0000

theorem regionOf_of_inHbm {pa : Nat} (h : inHbm pa) : regionOf pa = .hbm ((pa - 0x80_0000_0000) / 2 ^ 37) ((pa - 0x80_0000_0000) % 2 ^ 37) := by
  obtain ⟨low, high⟩ := h
  rw [regionOf, if_neg (by omega), if_neg (by omega), if_pos high]

theorem inHbm_of_regionOf {pa d o : Nat} (h : regionOf pa = .hbm d o) : inHbm pa := by
  unfold regionOf at h
  split at h
  · cases h
  · split at h
    · cases h
    next low =>
      split at h
      next high => exact ⟨by omega, high⟩
      next =>
        split at h
        · cases h
        · split at h
          · cases h
          · split at h <;> cases h

theorem hostKeeps_of_no_hold {s : State} (free : s.hold = []) {pa : Nat} (hbm : inHbm pa) : s.hostKeeps pa = false := by
  rw [State.hostKeeps, regionOf_of_inHbm hbm, free]
  rfl

theorem takeSector_of_no_hold {s : State} (free : s.hold = []) {pa : Nat} (hbm : inHbm pa) (write : Bool) : s.takeSector pa write = s := by
  rw [State.takeSector, regionOf_of_inHbm hbm, free]
  rfl

theorem foldl_of_fixed {α β : Type} {f : α → β → α} {a : α} {l : List β} (fixed : ∀ b ∈ l, f a b = a) : l.foldl f a = a := by
  induction l with
  | nil => rfl
  | cons b r ih =>
    rw [List.foldl_cons, fixed b List.mem_cons_self]
    exact ih fun c hc => fixed c (List.mem_cons_of_mem _ hc)

/-! ## Bytes of a memory -/

theorem mread_eq_map (m : Mem) (a n : Nat) : mread m a n = (List.range n).map fun i => mget m (a + i) := by
  induction n generalizing a with
  | zero => rfl
  | succ n ih =>
    have next : ∀ i, a + 1 + i = a + (i + 1) := fun i => by omega
    rw [mread, ih, List.range_succ_eq_map, List.map_cons, List.map_map]
    simp only [next]
    rfl

/-! ## A line of HBM that enters or leaves a slice moves no word (13 R253) -/

/-- The registrants, what they hold, what the host holds and what is backed are as they were. -/
structure sameHolders (s t : State) : Prop where
  reg : t.reg = s.reg
  cu : t.cu = s.cu
  tiles : t.tiles = s.tiles
  hold : t.hold = s.hold
  backed : backed t = backed s

theorem sameHolders.trans {s t u : State} (h : sameHolders s t) (k : sameHolders t u) : sameHolders s u :=
  ⟨k.reg.trans h.reg, k.cu.trans h.cu, k.tiles.trans h.tiles, k.hold.trans h.hold, k.backed.trans h.backed⟩

theorem dropL2_holders (s : State) (e : L2Line) : sameHolders s (s.dropL2 e) := by
  unfold State.dropL2
  dsimp only
  split
  · exact ⟨rfl, rfl, rfl, rfl, rfl⟩
  · split
    · split <;> exact ⟨rfl, rfl, rfl, rfl, rfl⟩
    · exact ⟨rfl, rfl, rfl, rfl, rfl⟩

theorem touchLine_holders (s : State) (pa : Nat) : sameHolders s (s.touchLine pa) := by
  unfold State.touchLine State.allocL2
  dsimp only
  split
  · exact ⟨rfl, rfl, rfl, rfl, rfl⟩
  · split
    · exact ⟨rfl, rfl, rfl, rfl, rfl⟩
    · split
      next v _ _ => exact (dropL2_holders s v).trans ⟨rfl, rfl, rfl, rfl, rfl⟩
      next => exact ⟨rfl, rfl, rfl, rfl, rfl⟩

theorem markDirty_holders (s : State) (line : Nat) (ws : Wsid) : sameHolders s (s.markDirty line ws) := ⟨rfl, rfl, rfl, rfl, rfl⟩

theorem putWord_holders (s : State) (w : Nat) (cells : List (Nat × Byte)) (ws : Wsid) : sameHolders s (s.putWord w cells ws) := by
  unfold State.putWord
  split
  · refine sameHolders.trans (.trans ?_ (touchLine_holders ..)) (markDirty_holders ..)
    exact ⟨rfl, rfl, rfl, rfl, rfl⟩
  · exact ⟨rfl, rfl, rfl, rfl, rfl⟩

theorem setPoison_holders (s : State) (w : Nat) (p : Bool) : sameHolders s (s.setPoison w p) := ⟨rfl, rfl, rfl, rfl, rfl⟩

theorem chargeEvict_holders (s : State) (unit loc tile : Nat) (ws : Wsid) (pa : Nat) : sameHolders s (s.chargeEvict unit loc tile ws pa) :=
  ⟨rfl, rfl, rfl, rfl, rfl⟩

/-! ## The bytes that a write to one word leaves in memory -/

theorem mem_putWord (s : State) (w : Nat) (cells : List (Nat × Byte)) (ws : Wsid) : (s.putWord w cells ws).mem =
    if writable s (8 * w) then (cells.map fun c => (8 * w + c.1, c.2)).foldl (fun m c => mset m c.1 c.2) s.mem else s.mem := by
  unfold State.putWord
  split
  · refine (touchLine_mem ..).trans ?_
    rw [List.foldl_map]
  · rfl

theorem mget_putWord_outside {s : State} {w a : Nat} {cells : List (Nat × Byte)} (inWord : ∀ c ∈ cells, c.1 < 8) (outside : a < 8 * w ∨ 8 * w + 8 ≤ a)
    (ws : Wsid) : mget (s.putWord w cells ws).mem a = mget s.mem a := by
  rw [mem_putWord]
  split
  · rw [mget_cells]
    refine lastCell_outside (fun c hc => ?_) _
    obtain ⟨d, hd, rfl⟩ := List.mem_map.mp hc
    have := inWord d hd
    dsimp only
    omega
  · rfl

/-- The cells of a whole word, at their addresses. -/
theorem cellsIn_whole {w : Nat} {bs : List Byte} (whole : bs.length = 8) : (cellsIn (8 * w) bs w).map (fun c => (8 * w + c.1, c.2)) = runCells (8 * w) bs := by
  have cells := cellsIn_word (pa := 8 * w) (bs := bs) (by omega)
  rw [Nat.mul_div_cancel_left w (by decide), Nat.mul_mod_right] at cells
  have zipped : (List.range bs.length).zip bs = (List.range bs.length).map fun i => (i, bs.getD i 0) := by
    refine List.ext_getElem (by simp) fun i short _ => ?_
    have inside : i < bs.length := by simpa using short
    simp [List.getElem?_eq_getElem inside]
  rw [cells, runCells, zipped]
  simp

theorem mget_putWord_whole {s : State} {w i : Nat} {bs : List Byte} (whole : bs.length = 8) (written : writable s (8 * w) = true) (small : i < 8) (ws : Wsid) :
    mget (s.putWord w (cellsIn (8 * w) bs w) ws).mem (8 * w + i) = bs.getD i 0 := by
  rw [mem_putWord, if_pos written, mget_cells, cellsIn_whole whole, lastCell_runCells, if_pos (by omega), Nat.add_sub_cancel_left]

theorem wordCells_inWord {bs : List Byte} : ∀ c ∈ wordCells bs, c.1 < 8 := fun _ hc => List.mem_range.mp (List.of_mem_zip hc).1

theorem cellsIn_inWord {pa w : Nat} {bs : List Byte} : ∀ c ∈ cellsIn pa bs w, c.1 < 8 := fun _ hc => (mem_cellsIn.mp hc).1

/-! ## Every other word -/

/-- Of every word but one: its registrant, what the L1s and the cluster units hold of it, and its bytes at the slice. -/
structure sameWordsBut (w : Nat) (s t : State) : Prop where
  reg : ∀ v, v ≠ w → sget v t.reg = sget v s.reg
  cu : ∀ v, v ≠ w → sget v t.cu = sget v s.cu
  l1 : ∀ n v, v ≠ w → sget v (t.tileAt n).l1 = sget v (s.tileAt n).l1
  mem : ∀ v, v ≠ w → ∀ i, i < 8 → mget t.mem (8 * v + i) = mget s.mem (8 * v + i)
  hold : t.hold = s.hold
  backed : backed t = backed s

namespace sameWordsBut

variable {w : Nat} {s t u : State}

theorem refl (w : Nat) (s : State) : sameWordsBut w s s := ⟨fun _ _ => rfl, fun _ _ => rfl, fun _ _ _ => rfl, fun _ _ _ _ => rfl, rfl, rfl⟩

theorem trans (h : sameWordsBut w s t) (k : sameWordsBut w t u) : sameWordsBut w s u where
  reg v hv := (k.reg v hv).trans (h.reg v hv)
  cu v hv := (k.cu v hv).trans (h.cu v hv)
  l1 n v hv := (k.l1 n v hv).trans (h.l1 n v hv)
  mem v hv i hi := (k.mem v hv i hi).trans (h.mem v hv i hi)
  hold := k.hold.trans h.hold
  backed := k.backed.trans h.backed

theorem of_holders (h : sameHolders s t) (mem : ∀ a, a < 8 * w ∨ 8 * w + 8 ≤ a → mget t.mem a = mget s.mem a) : sameWordsBut w s t where
  reg _ _ := by rw [h.reg]
  cu _ _ := by rw [h.cu]
  l1 n _ _ := by rw [State.tileAt, h.tiles, State.tileAt]
  mem v hv i hi := mem _ (by omega)
  hold := h.hold
  backed := h.backed

theorem putWord (s : State) (w : Nat) {cells : List (Nat × Byte)} (inWord : ∀ c ∈ cells, c.1 < 8) (ws : Wsid) : sameWordsBut w s (s.putWord w cells ws) :=
  of_holders (putWord_holders ..) fun _ outside => mget_putWord_outside inWord outside ws

theorem writeBackWord (s : State) (w : Nat) (l : L1Word) (h : Holder) : sameWordsBut w s (s.writeBackWord w l h) := by
  have wrote := putWord s w (wordCells_inWord (bs := s.heldBytes w l)) l.ws
  unfold State.writeBackWord
  dsimp only
  split
  · exact wrote.trans (of_holders ((setPoison_holders ..).trans (chargeEvict_holders ..)) fun _ _ => rfl)
  · exact wrote

theorem dropHeld (s : State) (h : Holder) (w : Nat) : sameWordsBut w s (s.dropHeld h w) := by
  unfold State.dropHeld
  cases h with
  | tile t =>
    refine ⟨fun _ _ => rfl, fun _ _ => rfl, fun n v hv => ?_, fun _ _ _ _ => rfl, rfl, rfl⟩
    change sget v ((s.setTile t { s.tileAt t with l1 := sdel w (s.tileAt t).l1 }).tileAt n).l1 = _
    by_cases at' : n = t
    · rw [at', State.tileAt_setTile_same]
      exact sget_sdel_ne hv _
    · rw [State.tileAt_setTile_ne at']
  | cluster c => exact ⟨fun _ _ => rfl, fun v hv => sget_sdel_ne hv _, fun _ _ _ => rfl, fun _ _ _ _ => rfl, rfl, rfl⟩

theorem unregister (s : State) (w : Nat) : sameWordsBut w s (s.unregister w) :=
  ⟨fun _ hv => sget_sdel_ne hv _, fun _ _ => rfl, fun _ _ _ => rfl, fun _ _ _ _ => rfl, rfl, rfl⟩

theorem revoke (s : State) (w : Nat) : sameWordsBut w s (s.revoke w) := by
  unfold State.revoke
  split
  · exact refl w s
  · refine trans ?_ (unregister _ w)
    split
    · exact (writeBackWord ..).trans (dropHeld ..)
    · exact refl w s

/-- A word of HBM of which the host holds nothing reads as before. -/
theorem latestWord {v : Nat} (h : sameWordsBut w s t) (other : v ≠ w) (free : s.hold = []) (hbm : inHbm (8 * v)) :
    (t.latestWord v).bytes = (s.latestWord v).bytes := by
  have slice : (t.sliceWord v).bytes = (s.sliceWord v).bytes := by
    have bytes : mread t.mem (8 * v) 8 = mread s.mem (8 * v) 8 := by
      rw [mread_eq_map, mread_eq_map]
      exact List.map_congr_left fun i hi => h.mem v other i (List.mem_range.mp hi)
    rw [State.sliceWord, State.sliceWord, hostKeeps_of_no_hold (h.hold.trans free) hbm, hostKeeps_of_no_hold free hbm]
    exact bytes
  have holder : ∀ r : Holder, t.holderWord r v = s.holderWord r v := fun r => by
    cases r with
    | tile n => exact h.l1 n v other
    | cluster c => exact h.cu v other
  unfold State.latestWord
  rw [h.reg v other]
  split
  · exact slice
  · rw [holder]
    split
    · exact slice
    · dsimp only [State.heldBytes]
      rw [slice]

end sameWordsBut

/-! ## Lines that nobody holds as sealed (13 R263) -/

/-- Of a line: no replica, no redirect, no word on its way as sealed and none held so. -/
structure copyFree (line : Nat) (s : State) : Prop where
  l2 : ∀ e ∈ s.l2, e.line = line → e.copy = none
  coppice : ∀ c ∈ s.coppice, c.line ≠ line
  flights : ∀ f ∈ s.flights, f.sealedOf line = false
  l1 : ∀ e ∈ s.tiles, ∀ x ∈ e.2.l1, x.1 / 16 = line → x.2.sealed = false

theorem sealedTrace_eq_false_iff (s : State) (line : Nat) : s.sealedTrace line = false ↔ copyFree line s := by
  unfold State.sealedTrace
  simp only [Bool.or_eq_false_iff, List.any_eq_false, Bool.and_eq_true, beq_iff_eq, not_and, Bool.not_eq_true, Option.isSome_eq_false_iff,
    Option.isNone_iff_eq_none]
  exact ⟨fun ⟨⟨⟨l2, coppice⟩, flights⟩, l1⟩ => ⟨l2, coppice, flights, l1⟩, fun ⟨l2, coppice, flights, l1⟩ => ⟨⟨⟨l2, coppice⟩, flights⟩, l1⟩⟩

theorem sealedOf_ackLate (line tile w : Nat) (f : Flight) : (f.ackLate tile w).sealedOf line = f.sealedOf line := by
  unfold Flight.ackLate
  split <;> rfl

namespace copyFree

variable {line : Nat} {s : State} (free : copyFree line s)
include free

theorem dropL2 (e : L2Line) : copyFree line (s.dropL2 e) := by
  have rest : ∀ o ∈ s.l2.filter (· != e), o.line = line → o.copy = none := fun o ho => free.l2 o (List.mem_of_mem_filter ho)
  have redirects : ∀ c ∈ (s.coppice.map (Coppice.less e.line e.slice)).filter (fun c => !c.helpers.isEmpty), c.line ≠ line := fun c hc => by
    obtain ⟨d, hd, rfl⟩ := List.mem_map.mp (List.mem_of_mem_filter hc)
    have same : (Coppice.less e.line e.slice d).line = d.line := by
      unfold Coppice.less
      split <;> rfl
    rw [same]
    exact free.coppice d hd
  unfold State.dropL2
  dsimp only
  split
  · exact ⟨rest, redirects, free.flights, free.l1⟩
  · split
    · split <;> exact ⟨rest, free.coppice, free.flights, free.l1⟩
    · exact ⟨rest, free.coppice, free.flights, free.l1⟩

/-- A line that the slice fetches is no copy. -/
theorem touchLine (pa : Nat) : copyFree line (s.touchLine pa) := by
  have entered : ∀ t, copyFree line t → ∀ e : L2Line, e.copy = none → copyFree line { t with l2 := t.l2 ++ [e] } := fun t ht e he =>
    { ht with
      l2 := fun o ho => by
        rcases List.mem_append.mp ho with ho | ho
        · exact ht.l2 o ho
        · rw [List.mem_singleton.mp ho]
          exact fun _ => he }
  unfold State.touchLine State.allocL2
  dsimp only
  split
  · exact free
  · split
    · exact entered _ free _ rfl
    · split
      next v _ _ => exact entered _ (free.dropL2 v) _ rfl
      next => exact entered _ free _ rfl

theorem markDirty (l : Nat) (ws : Wsid) : copyFree line (s.markDirty l ws) :=
  { free with
    l2 := fun o ho at' => by
      obtain ⟨e, he, rfl⟩ := List.mem_map.mp ho
      by_cases home : e.line = l && e.copy.isNone
      · rw [if_pos home] at at' ⊢
        exact free.l2 e he at'
      · rw [if_neg home] at at' ⊢
        exact free.l2 e he at' }

theorem putWord (w : Nat) (cells : List (Nat × Byte)) (ws : Wsid) : copyFree line (s.putWord w cells ws) := by
  unfold State.putWord
  split
  · refine markDirty (touchLine ?_ _) _ _
    exact ⟨free.l2, free.coppice, free.flights, free.l1⟩
  · exact free

theorem writeBackWord (w : Nat) (l : L1Word) (h : Holder) : copyFree line (s.writeBackWord w l h) := by
  have wrote := free.putWord w (wordCells (s.heldBytes w l)) l.ws
  unfold State.writeBackWord
  dsimp only
  split
  · exact ⟨wrote.l2, wrote.coppice, wrote.flights, wrote.l1⟩
  · exact wrote

theorem dropHeld (h : Holder) (w : Nat) : copyFree line (s.dropHeld h w) := by
  unfold State.dropHeld
  cases h with
  | cluster c => exact ⟨free.l2, free.coppice, free.flights, free.l1⟩
  | tile t =>
    refine ⟨free.l2, free.coppice, fun f hf => ?_, fun e he x hx => ?_⟩
    · obtain ⟨g, hg, rfl⟩ := List.mem_map.mp hf
      rw [sealedOf_ackLate]
      exact free.flights g hg
    · rcases mem_sset e he with rfl | he
      · have held := mem_sdel x hx
        unfold State.tileAt at held
        cases found : sget t s.tiles with
        | some T =>
          rw [found] at held
          exact free.l1 _ (mem_of_sget found) x held
        | none =>
          rw [found] at held
          cases held
      · exact free.l1 e he x hx

theorem revoke (w : Nat) : copyFree line (s.revoke w) := by
  unfold State.revoke
  split
  · exact free
  · have returned : ∀ r : Holder, copyFree line (match s.holderWord r w with
        | some l => (s.writeBackWord w l r).dropHeld r w
        | none => s) := fun r => by
      split
      · exact dropHeld (free.writeBackWord ..) ..
      · exact free
    exact ⟨(returned _).l2, (returned _).coppice, (returned _).flights, (returned _).l1⟩

end copyFree

/-! ## A word written by the device (05 R112, 13 R255) -/

theorem sget_reg_revoke (s : State) (w : Nat) : sget w (s.revoke w).reg = none := by
  unfold State.revoke
  split
  next none => exact none
  next => exact sget_sdel_same ..

section
variable {s : State} {w : Nat} (unsealed : s.sealedTrace (w / 16) = false)
include unsealed

/-- Of a line that nobody holds as sealed, the write revokes the registrant and no more. -/
theorem sliceWrite_unsealed (cells : List (Nat × Byte)) (ws : Wsid) : s.sliceWrite w cells ws = (s.revoke w).putWord w cells ws := by
  have free := ((sealedTrace_eq_false_iff _ _).mp unsealed).revoke w
  rw [State.sliceWrite, State.unseal]
  dsimp only
  rw [if_pos (by simp [(sealedTrace_eq_false_iff _ _).mpr free])]

variable {bs : List Byte} (whole : bs.length = 8) (hbm : inHbm (8 * w)) (back : backed s (8 * w) = true) (noHold : s.hold = [])
include whole hbm back noHold

/-- A whole backed word of HBM of which the host holds nothing, written by the device: the registrant is revoked, then the word is written. -/
theorem writeAt_word_eq (ws : Wsid) : s.writeAt (8 * w) bs ws = (s.revoke w).putWord w (cellsIn (8 * w) bs w) ws := by
  have sectors : (sectorsOf (8 * w) bs.length).foldl (fun s a => s.takeSector a true) s = s := by
    refine foldl_of_fixed fun a ha => takeSector_of_no_hold noHold ?_ true
    rw [sectorsOf, if_neg (by omega)] at ha
    obtain ⟨i, hi, rfl⟩ := List.mem_map.mp ha
    have last := List.mem_range.mp hi
    obtain ⟨low, high⟩ := hbm
    unfold sectorOf at last ⊢
    constructor <;> omega
  have run : s.putRun (8 * w) bs ws = (s.revoke w).putWord w (cellsIn (8 * w) bs w) ws := by
    rw [State.putRun, sectors, State.writeRun, whole, wordsOf_word]
    exact sliceWrite_unsealed unsealed _ ws
  have backed' : backed (s.putRun (8 * w) bs ws) (8 * w) = true := by
    rw [run, ((sameWordsBut.revoke s w).trans (.putWord _ w cellsIn_inWord ws)).backed, back]
  rw [State.writeAt, State.noteNomem, whole, wordsOf_word, ← run]
  simp [backed']

/-- The word reads as written, and every other word is as it was. -/
theorem writeAt_word (ws : Wsid) : ((s.writeAt (8 * w) bs ws).latestWord w).bytes = bs ∧ sameWordsBut w s (s.writeAt (8 * w) bs ws) := by
  have others : sameWordsBut w s ((s.revoke w).putWord w (cellsIn (8 * w) bs w) ws) := (sameWordsBut.revoke s w).trans (.putWord _ w cellsIn_inWord ws)
  have written : writable (s.revoke w) (8 * w) = true := by
    rw [writable, regionOf_of_inHbm hbm, (sameWordsBut.revoke s w).backed, back]
    rfl
  rw [writeAt_word_eq unsealed whole hbm back noHold]
  refine ⟨?_, others⟩
  have free : sget w ((s.revoke w).putWord w (cellsIn (8 * w) bs w) ws).reg = none := by
    rw [(putWord_holders ..).reg, sget_reg_revoke]
  rw [State.latestWord_bytes_of_mem free (hostKeeps_of_no_hold (others.hold.trans noHold) hbm), mread_eq_map]
  refine List.ext_getElem (by simp [whole]) fun i short inside => ?_
  rw [List.getElem_map, List.getElem_range, mget_putWord_whole whole written (by omega), List.getD_eq_getElem _ _ inside]

end

end Sys2Proof.Machine
end

section
/-! SUPPORT. The steward's commands and the management window (O53): what each command does where its arguments are good, and what is left of O53. -/

namespace Sys2Proof.Machine

open Sys2Proof.Safety

/-! ## Every tile changed alike -/

theorem sget_map_snd {α β : Type} (f : α → β) (k : Nat) (l : List (Nat × α)) : sget k (l.map fun e => (e.1, f e.2)) = (sget k l).map f := by
  induction l with
  | nil => rfl
  | cons e r ih =>
    rw [List.map_cons, sget, sget]
    split
    · rfl
    · exact ih

theorem State.tileAt_onTiles (s : State) (f : Tile → Tile) (n : Nat) : (s.onTiles f).tileAt n = s.tileAt n ∧ s.tileAt n = .reset ∨ (s.onTiles f).tileAt n = f (s.tileAt n) := by
  unfold State.onTiles State.tileAt
  dsimp only
  rw [sget_map_snd]
  cases sget n s.tiles with
  | none => exact .inl ⟨rfl, rfl⟩
  | some T => exact .inr rfl

/-- What the change gives every tile, and a tile that nothing has changed since reset has anyway, every tile has. -/
theorem State.onTiles_all {P : Tile → Prop} (s : State) {f : Tile → Tile} (reset : P .reset) (changed : ∀ T, P (f T)) (n : Nat) : P ((s.onTiles f).tileAt n) := by
  rcases s.tileAt_onTiles f n with ⟨same, fresh⟩ | same
  · rw [same, fresh]
    exact reset
  · rw [same]
    exact changed _

section
variable (s : State) {f : Tile → Tile} (kept : ∀ T, (f T).l1 = T.l1)
include kept

theorem State.l1_onTiles (n : Nat) : ((s.onTiles f).tileAt n).l1 = (s.tileAt n).l1 := by
  rcases s.tileAt_onTiles f n with ⟨same, -⟩ | same
  · rw [same]
  · rw [same, kept]

theorem State.latestWord_onTiles (w : Nat) : (s.onTiles f).latestWord w = s.latestWord w := by
  have holder : ∀ r : Holder, (s.onTiles f).holderWord r w = s.holderWord r w := fun r => by
    cases r with
    | tile n => exact congrArg (sget w) (s.l1_onTiles kept n)
    | cluster c => rfl
  unfold State.latestWord
  rw [show (s.onTiles f).reg = s.reg from rfl]
  split
  · rfl
  · rw [holder]
    split <;> rfl

theorem State.wsWord_onTiles (ws i : Nat) : (s.onTiles f).wsWord ws i = s.wsWord ws i := by
  unfold State.wsWord State.natAt State.readAt
  rw [List.map_congr_left fun w _ => s.latestWord_onTiles kept w]
  rfl

end

/-! ## A word of the workspace table written in place (05 R112) -/

theorem leNat_leBytes (v n : Nat) : leNat (leBytes v n) = v % 256 ^ n := by
  induction n generalizing v with
  | zero => exact (Nat.mod_one v).symm
  | succ n ih => rw [leBytes, leNat, ih, BitVec.toNat_ofNat, pow_succ' 256 n, Nat.mod_mul]

/-- The number of the word of memory that holds a word of a workspace's entry. -/
def State.wsIndex (s : State) (ws i : Nat) : Nat := s.mgmt.wstBase.toNat / 8 + 32 * (ws % 4096) + i

section
variable {s : State} (base : s.mgmt.wstBase.toNat % 2 ^ 20 = 0)
include base

theorem State.wsAddr_eq (ws i : Nat) : s.wsAddr ws i = 8 * s.wsIndex ws i := by
  unfold State.wsAddr State.wsIndex
  omega

theorem State.inHbm_wsIndex (hbm : inHbm s.mgmt.wstBase.toNat) (ws : Nat) {i : Nat} (small : i < 32) : inHbm (8 * s.wsIndex ws i) := by
  obtain ⟨low, high⟩ := hbm
  have entry := Nat.mod_lt ws (show 4096 > 0 by decide)
  unfold State.wsIndex
  constructor <;> omega

theorem State.wsWord_eq (ws i : Nat) : s.wsWord ws i = BitVec.ofNat 64 (leNat ((s.latestWord (s.wsIndex ws i)).bytes.take 8)) := by
  rw [State.wsWord, State.wsAddr_eq base, State.natAt_word]

variable (hbm : inHbm s.mgmt.wstBase.toNat) {ws i : Nat} (small : i < 32) (back : backed s (s.wsAddr ws i) = true) (noHold : s.hold = [])
  (unsealed : s.sealedTrace (s.wsAddr ws i / 128) = false)
include hbm small back noHold unsealed

/-- The word reads as written, and every other word of the table as before. -/
theorem State.wsWord_setWsWord (v : Word) : (s.setWsWord ws i v).wsWord ws i = v
    ∧ ∀ w k, k < 32 → (w % 4096 ≠ ws % 4096 ∨ k ≠ i) → (s.setWsWord ws i v).wsWord w k = s.wsWord w k := by
  have line : 8 * s.wsIndex ws i / 128 = s.wsIndex ws i / 16 := by omega
  rw [State.wsAddr_eq base] at back unsealed
  rw [line] at unsealed
  have wrote := writeAt_word (bs := leBytes v.toNat 8) unsealed (length_leBytes ..) (State.inHbm_wsIndex base hbm ws small) back noHold (BitVec.ofNat 12 noWs)
  have table : (s.setWsWord ws i v).mgmt = s.mgmt := (writeAt_outside ..).mgmt
  have index : ∀ w k, (s.setWsWord ws i v).wsIndex w k = s.wsIndex w k := fun w k => by rw [State.wsIndex, table, State.wsIndex]
  have base' : (s.setWsWord ws i v).mgmt.wstBase.toNat % 2 ^ 20 = 0 := by rw [table, base]
  have written : s.setWsWord ws i v = s.writeAt (8 * s.wsIndex ws i) (leBytes v.toNat 8) (BitVec.ofNat 12 noWs) := by
    rw [State.setWsWord, State.putNat, State.wsAddr_eq base]
  obtain ⟨bytes, others⟩ := wrote
  rw [← written] at bytes others
  refine ⟨?_, fun w k small' other => ?_⟩
  · rw [State.wsWord_eq base', index, bytes, List.take_of_length_le (by rw [length_leBytes]), leNat_leBytes]
    have fits := v.isLt
    refine BitVec.eq_of_toNat_eq ?_
    rw [BitVec.toNat_ofNat]
    omega
  · have apart : s.wsIndex w k ≠ s.wsIndex ws i := by
      unfold State.wsIndex
      omega
    rw [State.wsWord_eq base', index, others.latestWord apart noHold (State.inHbm_wsIndex base hbm w small'), State.wsWord_eq base]

end

/-! ## Commands (05 R113) -/

section
variable {s : State}

theorem completes_command {i : Instr} {f : State → State} {P : State → Prop} (meaning : exec i s = .next (s.command f)) (idle : s.mgmt.sstat ≠ 0x80)
    (done : P (f s)) : completes i s P := by
  refine completes_next meaning ?_
  rw [State.command, if_neg idle]
  exact done

theorem State.command_busy (busy : s.mgmt.sstat = 0x80) (f : State → State) : s.command f = s := if_pos busy

theorem State.forWs_valid (small : s.arg 0 < 4096) (valid : s.wsValid (s.arg 0) = true) (f : Nat → State) : s.forWs f = f (s.arg 0) := by
  rw [State.forWs, if_neg (by omega), valid]
  rfl

theorem State.endCommand_done (t : State) (res : Word) : (t.endCommand scDONE res).mgmt.sstat = 0 ∧ (t.endCommand scDONE res).mgmt.scmd = 0 := ⟨rfl, rfl⟩

end

/-! ### WSWRITE, TLBINV, TTFLUSH -/

theorem Tile.l1_forget (T : Tile) (ws off : Nat) : (T.forget ws off).l1 = T.l1 := by
  unfold Tile.forget
  dsimp only
  split <;> rfl

theorem Tile.tlb_forget_root (T : Tile) (ws : Nat) : ∀ x ∈ (T.forget ws 56).tlb, x.2.ws.toNat ≠ ws := fun _ hx => by
  simpa using List.of_mem_filter hx

section
variable {s : State} (small : s.arg 0 < 4096)
include small

/-- WSWRITE of a good offset writes the word and invalidates what depends on it. -/
theorem State.wswrite_eq (aligned : s.arg 1 % 8 = 0) (inside : s.arg 1 < 120) :
    let written := (s.setWsWord (s.arg 0) (s.arg 1 / 8) (s.mgmt.sarg[2])).onTiles fun T => T.forget (s.arg 0) (s.arg 1)
    s.wswrite = (if s.arg 1 = 56 then written.dropWalkCache (s.arg 0) else written).endCommand scDONE 0 := by
  unfold State.wswrite
  dsimp only
  rw [if_neg]
  simp only [Bool.or_eq_true, decide_eq_true_eq, bne_iff_ne, ne_eq]
  omega

theorem State.wsWord_wswrite (aligned : s.arg 1 % 8 = 0) (inside : s.arg 1 < 120) (w k : Nat) :
    s.wswrite.wsWord w k = (s.setWsWord (s.arg 0) (s.arg 1 / 8) (s.mgmt.sarg[2])).wsWord w k := by
  rw [State.wswrite_eq small aligned inside]
  refine Eq.trans ?_ (State.wsWord_onTiles _ (fun T => T.l1_forget (s.arg 0) (s.arg 1)) w k)
  split <;> rfl

end

/-- TLBINV leaves no translation of the range, and no instruction line of the workspace. -/
theorem State.tlbinv_drops {s : State} (small : s.arg 0 < 4096) (valid : s.wsValid (s.arg 0) = true) (n : Nat) :
    (∀ x ∈ (s.tlbinv.tileAt n).tlb, x.2.overlaps (s.arg 0) (s.arg 1) (s.arg 2) = false) ∧ ∀ x ∈ (s.tlbinv.tileAt n).icache, x.ws.toNat ≠ s.arg 0 := by
  unfold State.tlbinv
  rw [State.forWs_valid small valid]
  refine State.onTiles_all (P := fun T => (∀ x ∈ T.tlb, x.2.overlaps (s.arg 0) (s.arg 1) (s.arg 2) = false) ∧ ∀ x ∈ T.icache, x.ws.toNat ≠ s.arg 0) s
    (f := fun T => { T.tlbKeep (fun e => !e.overlaps (s.arg 0) (s.arg 1) (s.arg 2)) with icache := T.icache.filter fun l => l.ws.toNat != s.arg 0 })
    ⟨nofun, nofun⟩ (fun T => ⟨fun x hx => ?_, fun x hx => ?_⟩) n
  · simpa using List.of_mem_filter hx
  · simpa using List.of_mem_filter hx

/-- TTFLUSH of a good range is its filter of every tile's table cache. -/
theorem State.ttflush_eq {s : State} (small : s.arg 0 < 4096) (valid : s.wsValid (s.arg 0) = true) (first : s.arg 1 < 1024) (some : 0 < s.arg 2)
    (most : s.arg 2 ≤ 1024) : s.ttflush = (s.onTiles fun T => { T with
      tt := T.tt.filter fun e => !(e.ws.toNat == s.arg 0 && decide (s.arg 1 ≤ e.tid.toNat) && decide (e.tid.toNat < s.arg 1 + s.arg 2)) }).endCommand scDONE 0 := by
  unfold State.ttflush
  rw [State.forWs_valid small valid]
  dsimp only
  rw [if_neg]
  simp only [Bool.or_eq_true, decide_eq_true_eq, beq_iff_eq]
  omega

/-! ### Regions (11 R239 to R241) -/

/-- The arguments of an RGNMAKE are good. -/
structure State.regionArgs (s : State) : Prop where
  small : s.arg 0 < 4096
  valid : s.wsValid (s.arg 0) = true
  table : s.wsWord (s.arg 0) wSWBASE ≠ 0
  rid : s.arg 1 < 2 ^ min ((s.wsWord (s.arg 0) wSWCTL).toNat % 32) 16
  some : 0 < s.arg 2
  most : s.arg 2 ≤ 65535
  die : s.arg 3 < 4
  ltid : s.arg 4 < 4096
  new : s.rgnOf (s.arg 0) (s.arg 1) = none

/-- The spans that the next free values of `s` name may be taken, as `u` reads the tables in memory. -/
def State.spansFreeIn (s u : State) : Prop :=
  u.spanFree (s.arg 3) (Config.regionBack s.fresh) (s.arg 2 * pageSize) pageSize = true
    ∧ u.spanFree (s.arg 3) (Config.regionTable s.fresh) (8 * s.arg 2) 8 = true
    ∧ spansMeet (Config.regionBack s.fresh) (s.arg 2 * pageSize) (Config.regionTable s.fresh) (8 * s.arg 2) = false

section
variable {s : State} (args : s.regionArgs)
include args

/-- RGNMAKE of good arguments looks at the spans that free values name, and at nothing else. -/
theorem State.rgnmake_eq : ∃ made : State, s.rgnmake =
    if (!s.spanFree (s.arg 3) (Config.regionBack s.fresh) (s.arg 2 * pageSize) pageSize
        || !s.spanFree (s.arg 3) (Config.regionTable s.fresh) (8 * s.arg 2) 8
        || spansMeet (Config.regionBack s.fresh) (s.arg 2 * pageSize) (Config.regionTable s.fresh) (8 * s.arg 2)) = true
    then s.takeFresh.1.endCommand scNOMEM 0 else made.endCommand scDONE (BitVec.ofNat 64 (Config.regionBack s.fresh)) := by
  obtain ⟨small, valid, table, rid, some, most, die, ltid, new⟩ := args
  have base : (s.wsWord (s.arg 0) wSWBASE).toNat ≠ 0 := fun zero => table (BitVec.eq_of_toNat_eq zero)
  have good : ¬ ((s.wsWord (s.arg 0) wSWBASE).toNat == 0 || decide (2 ^ min ((s.wsWord (s.arg 0) wSWCTL).toNat % 32) 16 ≤ s.arg 1) || s.arg 2 == 0
      || decide (65535 < s.arg 2) || decide (4 ≤ s.arg 3) || decide (4096 ≤ s.arg 4)) = true := by
    simp only [Bool.or_eq_true, decide_eq_true_eq, beq_iff_eq]
    omega
  unfold State.rgnmake
  rw [State.forWs_valid small valid]
  dsimp only
  rw [if_neg good, new, Option.isSome_none, if_neg Bool.false_ne_true]
  exact ⟨_, rfl⟩

theorem State.rgnmake_free (free : s.spansFreeIn s) :
    (s.rgnmake.mgmt.sstat = 0 ∧ s.rgnmake.mgmt.scmd = 0) ∧ s.rgnmake.mgmt.sres = BitVec.ofNat 64 (Config.regionBack s.fresh) := by
  obtain ⟨made, eq⟩ := State.rgnmake_eq args
  obtain ⟨back, tab, apart⟩ := free
  rw [eq, back, tab, apart, if_neg (by decide)]
  exact ⟨State.endCommand_done _ _, rfl⟩

theorem State.rgnmake_notFree (notFree : ¬ s.spansFreeIn s) : s.rgnmake = s.takeFresh.1.endCommand scNOMEM 0 := by
  obtain ⟨made, eq⟩ := State.rgnmake_eq args
  refine eq.trans (if_pos ?_)
  simp only [State.spansFreeIn, Bool.or_eq_true, Bool.not_eq_true', ← Bool.not_eq_true] at notFree ⊢
  tauto

end

/-- A descriptor that grants nothing takes a grant in its first place. -/
theorem State.rgngrant_first {s : State} {r : Rgn} (small : s.arg 0 < 4096) (valid : s.wsValid (s.arg 0) = true) (found : s.rgnOf (s.arg 0) (s.arg 1) = some r)
    (none' : r.grants = 0) (grantee : s.arg 2 < 4096) (rights : s.arg 3 = 1 ∨ s.arg 3 = 3) :
    s.rgngrant = (s.putNat (r.desc + 16) 8 (s.arg 2 + s.arg 3 * 2 ^ 12) 0xFFF).endCommand 0 0 := by
  have given : (List.range 4).find? (fun i => grantLive 0 i && grantWs 0 i == s.arg 2) = none := by
    simp [grantLive, nbit]
  have place : (List.range 4).find? (fun i => !grantLive 0 i) = some 0 := by decide
  have good : ¬ (4096 ≤ s.arg 2 || decide (3 < s.arg 3)) = true := by
    simp only [Bool.or_eq_true, decide_eq_true_eq]
    omega
  have word : (if (s.arg 3 = 1 || s.arg 3 = 3) = true then s.arg 2 + s.arg 3 * 2 ^ 12 else 0) = s.arg 2 + s.arg 3 * 2 ^ 12 :=
    if_pos (by simpa using rights)
  unfold State.rgngrant
  rw [State.forWs_valid small valid]
  dsimp only
  rw [found]
  dsimp only
  rw [if_neg good, none', given]
  dsimp only
  rw [word, if_neg (by omega), place]
  simp [nbit, scDONE]
  rfl

/-- RGNFREE under way. -/
def State.freeing (s : State) : State := { s with mgmt := { s.mgmt with scmd := 6, sstat := 0x80, sres := 0 } }

theorem State.rgnfree_eq {s : State} (small : s.arg 0 < 4096) (valid : s.wsValid (s.arg 0) = true) (found : (s.rgnOf (s.arg 0) (s.arg 1)).isSome = true)
    (rid : s.arg 1 ≠ 0) : s.rgnfree = s.freeing.finishFree := by
  have some' : ¬ (s.rgnOf (s.arg 0) (s.arg 1)).isNone = true := by simpa [Option.isSome_iff_ne_none] using found
  unfold State.rgnfree
  rw [State.forWs_valid small valid]
  dsimp only
  rw [if_neg some', if_neg (by simp [rid])]
  rfl

theorem State.finishFree_moving {s : State} (moving : s.regionMoving (s.arg 0) (s.arg 1) = true) : s.freeing.finishFree = s.freeing := by
  refine if_neg ?_
  have moving' : s.freeing.regionMoving (s.freeing.mgmt.sarg[0]).toNat (s.freeing.mgmt.sarg[1]).toNat = true := moving
  rw [moving']
  simp

theorem State.finishFree_still {s : State} (still : s.regionMoving (s.arg 0) (s.arg 1) = false) :
    s.freeing.finishFree = { s.freeing.freeRegion (s.arg 0) (s.arg 1) with
      mgmt := { (s.freeing.freeRegion (s.arg 0) (s.arg 1)).mgmt with scmd := 0, sstat := 0 } } := by
  refine if_pos ?_
  have still' : s.freeing.regionMoving (s.freeing.mgmt.sarg[0]).toNat (s.freeing.mgmt.sarg[1]).toNat = false := still
  rw [still']
  rfl

/-- A freed region has no page in a slot. -/
theorem State.slots_freeRegion {s : State} {ws rid : Nat} {r : Rgn} (found : s.rgnOf ws rid = some r) (n : Nat) :
    ∀ p ∈ ((s.freeRegion ws rid).tileAt n).slots, ¬ (p.2.ws.toNat = ws ∧ p.2.region = rid) := by
  unfold State.freeRegion
  rw [found]
  dsimp only
  rw [State.putNat, (writeAt_outside ..).slots]
  refine State.onTiles_all (P := fun T => ∀ p ∈ T.slots, ¬ (p.2.ws.toNat = ws ∧ p.2.region = rid)) s
    (f := fun T => { T with slots := T.slots.filter fun p => !(p.2.ws.toNat == ws && p.2.region == rid) }) nofun (fun T p hp => ?_) n
  have other := List.of_mem_filter hp
  simp only [Bool.not_eq_true', Bool.and_eq_false_imp, beq_iff_eq, beq_eq_false_iff_ne] at other
  exact fun ⟨sameWs, sameRgn⟩ => other sameWs sameRgn

/-! ### FORCECAST and TASKSTOP -/

theorem State.role_setRole (s : State) (l : Nat) (e : RoleEntry) : (s.setRole l e).role l = e := by
  simp [State.role, State.setRole]

theorem State.roles_sendNotices (s : State) (l : Nat) (as : List Addressee) : (s.sendNotices l as).roles = s.roles := by
  unfold State.sendNotices
  split
  · rfl
  next x _ =>
    have kept := foldl_keeps (P := fun t => t.roles = s.roles) (f := fun t a => t.setTile a.tile ((t.tileAt a.tile).deviceMail (noticeMail l (t.role l) x.why a)))
      (fun _ _ h => h) as (s := s) rfl
    exact kept

/-- A tile given notice is notice pending, its role to come as it was. -/
theorem State.role_postNotice (s : State) (l why : Nat) : ((s.postNotice l why).role l).cstate = 2 ∧ ((s.postNotice l why).role l).trole = (s.role l).trole := by
  have entry : ∀ (t : State) (e : RoleEntry) (x : List (Nat × Notice)) (as : List Addressee),
      (({ t.castRole l e with notices := x } : State).sendNotices l as).role l = e := fun t e x as => by
    have roles := State.roles_sendNotices ({ t.castRole l e with notices := x } : State) l as
    unfold State.role
    rw [roles]
    simp [State.castRole, State.setRole]
  unfold State.postNotice
  dsimp only
  rw [entry]
  exact ⟨rfl, rfl⟩

theorem State.role_endCommand (s : State) (status : Nat) (res : Word) (l : Nat) : (s.endCommand status res).role l = s.role l := rfl

theorem State.forcecast_eq {s : State} (small : s.arg 0 < 4096) (role : s.arg 1 ≤ 2) (bound : (s.role (s.arg 0)).v = true)
    (steady : (s.role (s.arg 0)).cstate.toNat < 2) : s.forcecast =
      ((s.castRole (s.arg 0) { s.role (s.arg 0) with trole := BitVec.ofNat 2 (s.arg 1) }).postNotice (s.arg 0) 2).endCommand scDONE 0 := by
  have good : ¬ (4096 ≤ s.arg 0 || decide (2 < s.arg 1) || !(s.role (s.arg 0)).v) = true := by
    simp only [bound, Bool.or_eq_true, decide_eq_true_eq, Bool.not_true, Bool.false_eq_true, or_false]
    omega
  unfold State.forcecast
  dsimp only
  rw [if_neg good, if_neg (Nat.not_le.mpr steady)]

/-- Where no headgate has a packet, TASKSTOP finds none to discard. -/
theorem State.stopTasks_none {s : State} {d : Nat} (inRange : d < 4) (empty : ∀ d : Fin 4, s.dies[d].heads = []) (q : Word) (ws : Nat) : s.stopTasks q ws d = s := by
  unfold State.stopTasks
  dsimp only
  rw [State.die_get s ⟨d, inRange⟩, empty]
  rfl

theorem State.taskstop_none {s : State} (small : s.arg 1 < 4096) (valid : s.wsValid (s.arg 1) = true) (empty : ∀ d : Fin 4, s.dies[d].heads = []) :
    s.taskstop = s.endCommand 0 0 := by
  unfold State.taskstop
  dsimp only
  rw [if_neg (by omega), valid, foldl_of_fixed fun d hd => State.stopTasks_none (List.mem_range.mp hd) empty _ _]
  rfl

/-! ## The registers of the window (05 R112, R113, 15 R280, R297) -/

theorem setIfInBounds_fin {α : Type} {n : Nat} (xs : Vector α n) (j : Fin n) (v : α) : xs.setIfInBounds j v = xs.set j v :=
  Vector.ext fun i inside => by rw [Vector.getElem_setIfInBounds, Vector.getElem_set]

theorem State.mgmtWrite_stageCtl (s : State) (d : Fin 4) (v : Word) :
    s.mgmtWrite (0x1000 + 8 * d.val) v = s.setDie d.val { s.die d.val with ctl := v &&& 0x1FFF } := by
  fin_cases d <;> rfl

theorem State.mgmtWrite_sarg (s : State) (j : Fin 7) (v : Word) : s.mgmtWrite (0x2108 + 8 * j.val) v =
    s.command fun s => { s with mgmt := { s.mgmt with sarg := s.mgmt.sarg.set j v } } := by
  have inPlace : s.mgmtWrite (0x2108 + 8 * j.val) v = s.command fun s => { s with mgmt := { s.mgmt with sarg := s.mgmt.sarg.setIfInBounds j v } } := by
    fin_cases j <;> rfl
  simp only [inPlace, setIfInBounds_fin]

theorem State.mgmtWrite_eqgo (s : State) (i : Fin 4) : s.mgmtWrite (0x2210 + 0x400 * i.val) 1 =
    if s.mgmt.enq[i].busy = true then s else { s with mgmt := { s.mgmt with enq := s.mgmt.enq.set i { s.mgmt.enq[i] with busy := true } } } := by
  fin_cases i <;> rfl

/-! ## The statement's clauses -/

section
variable {s : State}

/-- While a command runs, a write to SCMD is dropped (05 R113). -/
theorem exec_command_busy (busy : s.mgmt.sstat = 0x80) :
    ∀ i ∈ [Instr.wswrite, .tlbinv, .ttflush, .rgnmake, .rgngrant, .rgnfree, .forcecast, .taskstop, .badcmd 9], exec i s = .next s := by
  have dropped : ∀ (i : Instr) (f : State → State), exec i s = .next (s.command f) → exec i s = .next s := fun _ f meaning => by
    rw [meaning, State.command_busy busy f]
  intro i hi
  fin_cases hi
  iterate 8 exact dropped _ _ rfl
  exact dropped _ (fun s => s.endCommand scBADCMD 0) rfl

theorem completes_badcmd {code : Word} (idle : s.mgmt.sstat ≠ 0x80) (unknown : 8 < code.toNat) : completes (.badcmd code) s (fun t => t = s.endCommand 1 0) := by
  have names : ¬ (code = 0 || decide (code.toNat ≤ 8)) = true := by
    have nonzero : code ≠ 0 := fun zero => by simp [zero] at unknown
    simpa only [nonzero, decide_false, Bool.false_or, decide_eq_true_eq, Nat.not_le] using unknown
  refine completes_command (f := fun s => s.endCommand scBADCMD 0) ?_ idle rfl
  rw [exec, execBadcmd, if_neg names]

/-- WSWRITE of the root register leaves no translation of the workspace. -/
theorem State.wswrite_root (small : s.arg 0 < 4096) (root : s.arg 1 = 56) :
    (∀ n, ∀ x ∈ (s.wswrite.tileAt n).tlb, x.2.ws.toNat ≠ s.arg 0) ∧ ∀ x ∈ s.wswrite.walkCache, x.ws.toNat ≠ s.arg 0 := by
  rw [State.wswrite_eq small (by omega) (by omega), if_pos root, root]
  refine ⟨fun n => ?_, fun x hx => ?_⟩
  · exact State.onTiles_all (P := fun T => ∀ x ∈ T.tlb, x.2.ws.toNat ≠ s.arg 0) _ (f := fun T => T.forget (s.arg 0) 56) nofun
      (fun T => T.tlb_forget_root _) n
  · simpa using List.of_mem_filter hx

theorem State.wswrite_done (small : s.arg 0 < 4096) (aligned : s.arg 1 % 8 = 0) (inside : s.arg 1 < 120) : s.wswrite.mgmt.sstat = 0 ∧ s.wswrite.mgmt.scmd = 0 := by
  rw [State.wswrite_eq small aligned inside]
  exact State.endCommand_done _ _

theorem State.wswrite_word {d o : Nat} (small : s.arg 0 < 4096) (aligned : s.arg 1 % 8 = 0) (inside : s.arg 1 < 120) (base : s.mgmt.wstBase.toNat % 2 ^ 20 = 0)
    (hbm : regionOf s.mgmt.wstBase.toNat = .hbm d o) (back : backed s (s.wsAddr (s.arg 0) (s.arg 1 / 8)) = true) (noHold : s.hold = [])
    (unsealed : s.sealedTrace (s.wsAddr (s.arg 0) (s.arg 1 / 8) / 128) = false) :
    s.wswrite.wsWord (s.arg 0) (s.arg 1 / 8) = s.mgmt.sarg[2]
      ∧ ∀ w k, w < 4096 → k < 32 → (w ≠ s.arg 0 ∨ k ≠ s.arg 1 / 8) → s.wswrite.wsWord w k = s.wsWord w k := by
  obtain ⟨same, others⟩ := State.wsWord_setWsWord base (inHbm_of_regionOf hbm) (by omega) back noHold unsealed (s.mgmt.sarg[2])
  refine ⟨(State.wsWord_wswrite small aligned inside _ _).trans same, fun w k hw hk other => ?_⟩
  exact (State.wsWord_wswrite small aligned inside _ _).trans (others w k hk (by rwa [Nat.mod_eq_of_lt hw, Nat.mod_eq_of_lt small]))

theorem State.tlbinv_done (small : s.arg 0 < 4096) (valid : s.wsValid (s.arg 0) = true) : s.tlbinv.mgmt.sstat = 0 ∧ s.tlbinv.mgmt.scmd = 0 := by
  unfold State.tlbinv
  rw [State.forWs_valid small valid]
  exact State.endCommand_done _ _

theorem State.ttflush_drops (small : s.arg 0 < 4096) (valid : s.wsValid (s.arg 0) = true) (first : s.arg 1 < 1024) (some : 0 < s.arg 2) (most : s.arg 2 ≤ 1024) :
    ∀ n, ∀ x ∈ (s.ttflush.tileAt n).tt, x.ws.toNat = s.arg 0 → x.tid.toNat < s.arg 1 ∨ s.arg 1 + s.arg 2 ≤ x.tid.toNat := by
  rw [State.ttflush_eq small valid first some most]
  refine fun n => State.onTiles_all (P := fun T => ∀ x ∈ T.tt, x.ws.toNat = s.arg 0 → x.tid.toNat < s.arg 1 ∨ s.arg 1 + s.arg 2 ≤ x.tid.toNat) s
    (f := fun T => { T with
      tt := T.tt.filter fun e => !(e.ws.toNat == s.arg 0 && decide (s.arg 1 ≤ e.tid.toNat) && decide (e.tid.toNat < s.arg 1 + s.arg 2)) })
    nofun (fun T x hx mine => ?_) n
  have outside := List.of_mem_filter hx
  simp only [mine, beq_self_eq_true, Bool.true_and, Bool.not_eq_true', Bool.and_eq_false_imp, decide_eq_true_eq, decide_eq_false_iff_not] at outside
  omega

/-- RGNFREE of a region of which no page moves. -/
theorem State.rgnfree_still (small : s.arg 0 < 4096) (valid : s.wsValid (s.arg 0) = true) (found : (s.rgnOf (s.arg 0) (s.arg 1)).isSome = true)
    (rid : s.arg 1 ≠ 0) (still : s.regionMoving (s.arg 0) (s.arg 1) = false) : (s.rgnfree.mgmt.sstat = 0 ∧ s.rgnfree.mgmt.scmd = 0)
      ∧ ∀ n, ∀ p ∈ (s.rgnfree.tileAt n).slots, ¬ (p.2.ws.toNat = s.arg 0 ∧ p.2.region = s.arg 1) := by
  obtain ⟨r, hr⟩ := Option.isSome_iff_exists.mp found
  rw [State.rgnfree_eq small valid found rid, State.finishFree_still still]
  exact ⟨⟨rfl, rfl⟩, State.slots_freeRegion (s := s.freeing) hr⟩

theorem State.forcecast_pending (small : s.arg 0 < 4096) (role : s.arg 1 ≤ 2) (bound : (s.role (s.arg 0)).v = true)
    (steady : (s.role (s.arg 0)).cstate.toNat < 2) : (s.forcecast.mgmt.sstat = 0 ∧ s.forcecast.mgmt.scmd = 0)
      ∧ (s.forcecast.role (s.arg 0)).cstate = 2 ∧ (s.forcecast.role (s.arg 0)).trole.toNat = s.arg 1 := by
  rw [State.forcecast_eq small role bound steady]
  obtain ⟨pending, toCome⟩ := (s.castRole (s.arg 0) { s.role (s.arg 0) with trole := BitVec.ofNat 2 (s.arg 1) }).role_postNotice (s.arg 0) 2
  rw [State.role_endCommand, toCome, State.castRole, State.role_setRole, BitVec.toNat_ofNat]
  refine ⟨State.endCommand_done _ _, pending, ?_⟩
  omega

/-- A register of the window at an offset below 2^32. -/
theorem completes_mgmtRegisterWrite {off : Nat} {v : Word} {P : State → Prop} (fits : off < 2 ^ 32) (done : P (s.mgmtWrite off v)) :
    completes (.mgmtRegisterWrite (BitVec.ofNat 32 off) v) s P := by
  refine completes_next rfl ?_
  rwa [BitVec.toNat_ofNat, Nat.mod_eq_of_lt fits]

end

/-- RGNMAKE answers alike whether the tables are read before or after its free values are taken: the bytes of a sector that the
host keeps (18 R315) are free values of the same count. -/
def regionsReadAlike : Prop := ∀ s : State, s.mgmt.sstat ≠ 0x80 → s.regionArgs → (s.spansFreeIn s.takeFresh.1 ↔ s.spansFreeIn s)

/-- Each command where its arguments are good. -/
theorem stewardCommands_of_regionsReadAlike (alike : regionsReadAlike) : Obligations.StewardCommands := by
  unfold Obligations.StewardCommands
  intro s a idle ended taken
  refine ⟨exec_command_busy, ?wswrite, ?tlbinv, ?ttflush, ?rgnmake, ?rgngrant, ?rgnfree, ?forcecast, ?taskstop, fun _ => completes_badcmd, ?stage, ?sarg, ?enq⟩
  case wswrite =>
    intro idle small aligned inside
    exact completes_command rfl idle ⟨State.wswrite_done small aligned inside, fun root => State.wswrite_root small root,
      fun d o base hbm back noHold unsealed => State.wswrite_word small aligned inside base hbm back noHold unsealed⟩
  case tlbinv =>
    intro idle small valid
    exact completes_command rfl idle ⟨State.tlbinv_done small valid, State.tlbinv_drops small valid⟩
  case ttflush =>
    intro idle small valid first some most
    refine completes_command rfl idle ⟨?_, State.ttflush_drops small valid first some most⟩
    rw [State.ttflush_eq small valid first some most]
    exact State.endCommand_done _ _
  case rgnmake =>
    intro idle small valid table rid some most die ltid new
    have args : s.regionArgs := ⟨small, valid, table, rid, some, most, die, ltid, new⟩
    refine completes_command rfl idle ?_
    split
    next free => exact State.rgnmake_free args ((alike s idle args).mp free)
    next notFree => exact State.rgnmake_notFree args fun free => notFree ((alike s idle args).mpr free)
  case rgngrant =>
    intro r idle small valid found none' grantee rights
    have granted := State.rgngrant_first small valid found none' grantee rights
    refine completes_command rfl idle ⟨?_, granted⟩
    rw [granted]
    exact State.endCommand_done _ _
  case rgnfree =>
    intro idle small valid found rid
    refine ⟨fun moving => completes_command rfl idle ?_, fun still => completes_command rfl idle (State.rgnfree_still small valid found rid still)⟩
    rw [State.rgnfree_eq small valid found rid, State.finishFree_moving moving]
    exact ⟨rfl, rfl⟩
  case forcecast =>
    intro idle small role bound steady
    exact completes_command rfl idle (State.forcecast_pending small role bound steady)
  case taskstop =>
    intro idle small valid empty
    exact completes_command rfl idle (State.taskstop_none small valid empty)
  case stage =>
    intro d v
    refine completes_mgmtRegisterWrite (by omega) ?_
    rw [State.mgmtWrite_stageCtl]
    exact ⟨by rw [State.setDie_get, State.die_get], rfl⟩
  case sarg =>
    intro j v idle
    refine completes_mgmtRegisterWrite (by omega) ?_
    rw [State.mgmtWrite_sarg, State.command, if_neg idle]
  case enq =>
    intro i w p r
    exact ⟨completes_next rfl ⟨Vector.getElem_set_self _, rfl, rfl⟩, completes_mgmtRegisterWrite (by omega) (State.mgmtWrite_eqgo s i)⟩

/-- The model reads the tables before the free values are taken, the statement after. -/
theorem regionsReadAlike_of_stewardCommands (holds : Obligations.StewardCommands) : regionsReadAlike := by
  intro s idle args
  obtain ⟨-, -, -, -, rgnmake, -⟩ := holds s
  obtain ⟨t, meaning, result⟩ := rgnmake idle args.small args.valid args.table args.rid args.some args.most args.die args.ltid args.new
  have ran : s.rgnmake = t := by
    refine Host.Outcome.next.inj (Eq.trans ?_ meaning)
    exact congrArg Host.Outcome.next (if_neg idle).symm
  have failed : ∀ u : State, (u.endCommand scNOMEM 0).mgmt.sstat ≠ 0 := fun _ => (by decide : (4#8) ≠ 0)
  rw [← ran] at result
  split at result
  next free =>
    refine iff_of_true free ?_
    by_contra notFree
    obtain ⟨⟨done, -⟩, -⟩ := result
    rw [State.rgnmake_notFree args notFree] at done
    exact failed _ done
  next notFree =>
    refine iff_of_false notFree fun free => ?_
    obtain ⟨⟨done, -⟩, -⟩ := State.rgnmake_free args free
    rw [result] at done
    exact failed _ done

/-- O53 is not settled. All else of it is proved here; what is left is that RGNMAKE answers alike before and after its free values are
taken, and that rests on `Config.hostByte` at two counts, of which nothing can be proved (log 10). -/
theorem stewardCommands_iff : Obligations.StewardCommands ↔ regionsReadAlike :=
  ⟨regionsReadAlike_of_stewardCommands, stewardCommands_of_regionsReadAlike⟩

end Sys2Proof.Machine
end

section
/-! SUPPORT. The end of a step (O59): what settling the waits of every agent leaves of a tile and of each agent, and that it changes no
condition that an agent waits for. -/

namespace Sys2Proof.Machine

open Sys2Proof.Safety

/-! ## One agent settled (06 R120, 02 R28) -/

/-- A context that still waits after it is settled is as it was: its condition does not hold, and it has no trap to take at its next
boundary, unless it waits for a reply or for the trap's own delivery. -/
theorem State.settleCtx_waiting {s : State} {n : Nat} {k : Context} {c : Fin 8} {w : Wait} (waits : (s.settleCtx n k c).st = .waiting w) :
    s.settleCtx n k c = k ∧ s.waitOver { tile := n, agent := .ctx c, inc := k.inc, ws := k.wsid } k.th w = false
      ∧ (k.pending = none ∨ w = .trap ∨ w = .reply) := by
  unfold State.settleCtx at waits ⊢
  cases st : k.st with
  | waiting v =>
    rw [st] at waits
    dsimp only at waits ⊢
    split at waits
    next => cases waits
    next noTrap =>
      split at waits
      next => cases waits
      next notOver =>
        obtain rfl : v = w := CtxState.waiting.inj (st.symm.trans waits)
        rw [if_neg noTrap, if_neg notOver]
        refine ⟨rfl, Bool.eq_false_of_not_eq_true notOver, ?_⟩
        by_contra! trapped
        obtain ⟨pending, notTrap, notReply⟩ := trapped
        exact noTrap (by simp [Option.isSome_iff_ne_none, pending, notTrap, notReply])
  | _ =>
    rw [st] at waits
    exact absurd (st.symm.trans waits) nofun

/-- The same of a side core that still stalls. -/
theorem State.settleSide_stalled {s : State} {n : Nat} {a : Agent} {k : SideCore} {w : Wait} (stalls : (s.settleSide n a k).stall = some w) :
    s.settleSide n a k = k ∧ s.waitOver { tile := n, agent := a, inc := k.inc, ws := k.wsid } k.th w = false
      ∧ (k.pending = none ∨ w = .reply) := by
  unfold State.settleSide at stalls ⊢
  cases stall : k.stall with
  | none =>
    rw [stall] at stalls
    exact absurd (stall.symm.trans stalls) nofun
  | some v =>
    rw [stall] at stalls
    dsimp only at stalls ⊢
    split at stalls
    next => cases stalls
    next noTrap =>
      split at stalls
      next => cases stalls
      next notOver =>
        obtain rfl : v = w := Option.some.inj (stall.symm.trans stalls)
        rw [if_neg noTrap, if_neg notOver]
        refine ⟨rfl, Bool.eq_false_of_not_eq_true notOver, ?_⟩
        by_contra! trapped
        obtain ⟨pending, notReply⟩ := trapped
        exact noTrap (by simp [Option.isSome_iff_ne_none, pending, notReply])

/-! ## One tile settled -/

/-- A tile with its agents settled; where none waits, that is the tile as it was. -/
theorem State.settleTile_eq (s : State) (n : Nat) (T : Tile) : s.settleTile n T =
    { T with ctx := Vector.ofFn fun c => s.settleCtx n T.ctx[c] c, ldr := s.settleSide n .loader T.ldr, str := s.settleSide n .storer T.str } := by
  unfold State.settleTile
  split
  next => rfl
  next noneWaits =>
    obtain ⟨⟨ldr, str⟩, ctx⟩ : (T.ldr.stall = none ∧ T.str.stall = none) ∧ ∀ c : Fin 8, ∀ w, T.ctx[c].st ≠ .waiting w := by
      simp only [Tile.waits, Bool.or_eq_true, Option.isSome_iff_ne_none, Vector.any_eq_true, not_or, not_exists, ne_eq, not_not] at noneWaits
      obtain ⟨sides, ctx⟩ := noneWaits
      exact ⟨sides, fun c w st => ctx c c.isLt (by rw [show T.ctx[c.val].st = .waiting w from st])⟩
    have ctxs : (Vector.ofFn fun c : Fin 8 => s.settleCtx n T.ctx[c] c) = T.ctx := by
      refine Vector.ext fun i small => ?_
      rw [Vector.getElem_ofFn]
      unfold State.settleCtx
      split
      next w st => exact absurd st (ctx ⟨i, small⟩ w)
      next => rfl
    rw [ctxs, State.settleSide, ldr, State.settleSide, str]

theorem State.ctx_settleTile (s : State) (n : Nat) (T : Tile) (c : Fin 8) : (s.settleTile n T).ctx[c] = s.settleCtx n T.ctx[c] c := by
  rw [State.settleTile_eq, Fin.getElem_fin, Vector.getElem_ofFn]

theorem State.side_settleTile (s : State) (n : Nat) (T : Tile) (sd : Side) :
    (s.settleTile n T).side sd = s.settleSide n (if sd = .loader then .loader else .storer) (T.side sd) := by
  rw [State.settleTile_eq]
  cases sd <;> rfl

/-! ## Every tile settled -/

theorem sget_map_keyed {α β : Type} (f : Nat → α → β) (k : Nat) (l : List (Nat × α)) :
    sget k (l.map fun e => (e.1, f e.1 e.2)) = (sget k l).map (f k) := by
  induction l with
  | nil => rfl
  | cons e r ih =>
    rw [List.map_cons, sget, sget]
    split
    next here =>
      rw [here]
      rfl
    next => exact ih

theorem State.settleTile_reset (s : State) (n : Nat) : s.settleTile n .reset = .reset := if_neg (by simp [Tile.waits, Tile.reset, SideCore.reset, Context.reset])

/-- A tile that the list of tiles does not hold stands as after reset, and none of its agents waits. -/
theorem State.tileAt_settleAll (s : State) (n : Nat) : s.settleAll.tileAt n = s.settleTile n (s.tileAt n) := by
  unfold State.settleAll State.tileAt
  dsimp only
  rw [sget_map_keyed]
  cases sget n s.tiles with
  | none => exact (s.settleTile_reset n).symm
  | some T => rfl

/-- What is read of a tile beyond its agents is as it was. -/
theorem State.read_tileAt_settleAll {α : Type} (f : Tile → α) (s : State) (n : Nat)
    (beyond : ∀ T ctx ldr str, f { T with ctx := ctx, ldr := ldr, str := str } = f T := by intros; rfl) : f (s.settleAll.tileAt n) = f (s.tileAt n) := by
  rw [State.tileAt_settleAll, State.settleTile_eq, beyond]

/-! ## The conditions of the waits, which no settling of agents changes -/

section
variable (s : State) (src : Src)

theorem State.streams_settleAll (n : Nat) (ld st : Bool) : (s.settleAll.tileAt n).streams src ld st = (s.tileAt n).streams src ld st :=
  State.read_tileAt_settleAll (·.streams src ld st) s n

theorem State.messagesOf_settleAll (n : Nat) (get : Bool) : (s.settleAll.tileAt n).messagesOf src get = (s.tileAt n).messagesOf src get :=
  State.read_tileAt_settleAll (·.messagesOf src get) s n

theorem State.loadsDone_settleAll (outs : List Remote) (sc : Scope) : s.settleAll.loadsDone outs src sc = s.loadsDone outs src sc := by
  unfold State.loadsDone
  rw [State.streams_settleAll]
  rfl

theorem State.storesOut_settleAll : s.settleAll.storesOut src = s.storesOut src := by
  unfold State.storesOut
  rw [State.streams_settleAll]
  rfl

theorem State.released_settleAll (outs : List Remote) (sc : Scope) : s.settleAll.released outs src sc = s.released outs src sc := by
  unfold State.released
  rw [State.loadsDone_settleAll, State.streams_settleAll]
  rfl

theorem State.fenced_settleAll (outs : List Remote) (sc : Scope) (p : FenceSet) : s.settleAll.fenced outs src sc p = s.fenced outs src sc p := by
  unfold State.fenced
  rw [State.loadsDone_settleAll, State.streams_settleAll, State.messagesOf_settleAll, State.messagesOf_settleAll,
    State.read_tileAt_settleAll (·.enginesOf src)]
  rfl

theorem State.notifyReady_settleAll (outs : List Remote) (dst : Nat) : s.settleAll.notifyReady outs src dst = s.notifyReady outs src dst := by
  unfold State.notifyReady
  rw [State.released_settleAll, State.read_tileAt_settleAll (·.windows)]
  rfl

theorem State.gathered_settleAll (ch : BitVec 3) : s.settleAll.gathered src ch = s.gathered src ch := by
  unfold State.gathered State.sendsOut
  rw [State.streams_settleAll, State.read_tileAt_settleAll (·.xsend), State.read_tileAt_settleAll (·.windows)]
  rfl

/-- Each condition looks beyond the agents of the tiles, but for the waiting agent's own thread. -/
theorem State.waitOver_settleAll (th : Thread) (w : Wait) : s.settleAll.waitOver src th w = s.waitOver src th w := by
  cases w with
  | results | acquire | walk | fetch | host | reply | frame | trap | stream => rfl
  | release sc => exact State.released_settleAll s src th.outs sc
  | stores => exact congrArg Bool.not (State.storesOut_settleAll s src)
  | fence sc p => exact State.fenced_settleAll s src th.outs sc p
  | notify dst => exact State.notifyReady_settleAll s src th.outs dst.toNat
  | gather ch _ => exact State.gathered_settleAll s src ch
  | queue q => exact State.read_tileAt_settleAll (fun T => !(T.queues.getD q.toNat []).isEmpty) s src.tile
  | room q => exact State.read_tileAt_settleAll (fun T => decide ((T.queues.getD q.toNat []).length < 16)) s src.tile
  | tag off full => exact State.read_tileAt_settleAll (·.tagIs off full) s src.tile
  | message => exact State.read_tileAt_settleAll (·.mail.any (mayTake src.agent)) s src.tile
  | phase off p _ => exact State.read_tileAt_settleAll (fun T => decide (storeSize ≤ off) || (T.weir off).phase != p) s src.tile
  | wfi was => exact State.read_tileAt_settleAll (·.phases != was) s src.tile
  | window dst => exact State.read_tileAt_settleAll (·.hasRoom dst.toNat) s src.tile
  | arrive ch _ | barrier ch => exact State.read_tileAt_settleAll (fun T => !T.arrived.getLsbD ch.toNat) s src.tile
  | credit ep =>
    unfold State.waitOver
    rw [State.read_tileAt_settleAll (·.fsrc)]
  | datum ep =>
    unfold State.waitOver
    rw [State.read_tileAt_settleAll (·.fsink)]
    rfl

end

/-! ## The statement -/

/-- Whatever stood before, nobody waits for what holds once all agents are settled. -/
theorem State.noWaitHolds_settleAll (s : State) : noWaitHolds s.settleAll := by
  refine ⟨fun n c w waits => ?_, fun n sd w stalls => ?_⟩
  · rw [State.tileAt_settleAll, State.ctx_settleTile] at waits
    obtain ⟨same, notOver, noTrap⟩ := State.settleCtx_waiting waits
    rw [State.waitOver_settleAll, State.srcOf, State.cx, State.tileAt_settleAll, State.ctx_settleTile, same]
    exact ⟨notOver, noTrap⟩
  · rw [State.tileAt_settleAll, State.side_settleTile] at stalls
    obtain ⟨same, notOver, noTrap⟩ := State.settleSide_stalled stalls
    rw [State.waitOver_settleAll, State.tileAt_settleAll, State.side_settleTile, same]
    exact ⟨notOver, noTrap⟩

/-- Every step that answers a next state has settled all agents last (log 4). -/
theorem step_settles {s t : State} (next : step s = .next t) : ∃ u : State, t = u.settleAll := by
  unfold step at next
  cases ran : runTurn s.nextTurn.1 s.nextTurn.2 with
  | next u =>
    rw [ran] at next
    exact ⟨_, (Host.Outcome.next.inj next).symm⟩
  | fault r =>
    rw [ran] at next
    cases next
  | refused r =>
    rw [ran] at next
    cases next

/-- Settles O59: all agents are settled at the end of the step, and settling changes no condition. -/
theorem nobodyWaitsForWhatHolds : Obligations.NobodyWaitsForWhatHolds := by
  unfold Obligations.NobodyWaitsForWhatHolds
  intro s t _ next
  obtain ⟨u, rfl⟩ := step_settles next
  exact u.noWaitHolds_settleAll

end Sys2Proof.Machine
end

section
/-! SUPPORT. The queue registers (O22): who pushes and who pops, and how QPUSH and QPOP end. -/

namespace Sys2Proof.Machine

open Sys2Proof.Safety

/-! ## Who pushes and who pops (06 R128) -/

theorem mayPush_iff (u : State) (q : BitVec 2) : mayPush u.curAgent q = true ↔
    (u.isCtx = true ∧ q = 1) ∨ (u.curAgent = .loader ∧ q = 0) ∨ (u.curAgent = .storer ∧ q = 2) := by
  unfold State.isCtx
  cases u.curAgent <;> simp [mayPush]

theorem mayPop_iff (u : State) (q : BitVec 2) : mayPop u.curAgent q = true ↔
    (u.isCtx = true ∧ (q = 0 ∨ q = 3)) ∨ (u.curAgent = .loader ∧ (q = 2 ∨ q = 3)) ∨ (u.curAgent = .storer ∧ (q = 1 ∨ q = 3)) := by
  unfold State.isCtx
  cases u.curAgent <;> simp [mayPop]

/-! ## How the instructions end (06 R129) -/

/-- A queue register belongs to no thread. -/
theorem State.pc_setQueue (u : State) (q : BitVec 2) (l : List Word) : (u.putTile (u.tile.setQueue q l)).pc = u.pc :=
  State.pc_putTile fun a => by cases a <;> rfl

section
variable {s u : State} {m : SMark} (issued : issues s m u) {q : BitVec 2} {rd rs1 : Reg}
include issued

theorem exec_qpush_illegal (barred : mayPush u.curAgent q = false) : exec (.qpush m q rs1) s = .next (u.takeTrap
    { code := 0x01, tpc := u.pc, taddr := 0, tinfo := ((encode (.qpush m q rs1)).getD 0).setWidth 64, resume := .at u.pc }) :=
  exec_of_trap (exec_scalar issued rfl) (if_pos (by rw [barred]; rfl))

theorem exec_qpop_illegal (barred : mayPop u.curAgent q = false) : exec (.qpop m rd q) s = .next (u.takeTrap
    { code := 0x01, tpc := u.pc, taddr := 0, tinfo := ((encode (.qpop m rd q)).getD 0).setWidth 64, resume := .at u.pc }) :=
  exec_of_trap (exec_scalar issued rfl) (if_pos (by rw [barred]; rfl))

theorem exec_qpush_full (pusher : mayPush u.curAgent q = true) (full : 16 ≤ (u.tile.queue q).length) :
    exec (.qpush m q rs1) s = .next (if u.isCtx then u else waitsFor (.room q) u) := by
  have runs := exec_scalar (i := .qpush m q rs1) issued rfl
  have allowed : ¬ (!mayPush u.curAgent q) = true := by rw [pusher]; nofun
  rw [if_neg allowed, if_pos full] at runs
  split
  next strand => exact exec_of_hold runs (if_pos strand)
  next sideCore => exact exec_of_wait runs (if_neg sideCore)

theorem exec_qpush_room (noStream : u.tile.streams u.src true true = false) (pusher : mayPush u.curAgent q = true)
    (room : (u.tile.queue q).length < 16) (performed : u.released u.th.outs u.src .tile = true) : exec (.qpush m q rs1) s =
      .next (committedTo (u.pc + 4) (u.putTile (u.tile.setQueue q (u.tile.queue q ++ [u.x rs1])))) := by
  have allowed : ¬ (!mayPush u.curAgent q) = true := by rw [pusher]; nofun
  have ready : ¬ (!u.released u.th.outs u.src .tile) = true := by rw [performed]; nofun
  have runs := exec_scalar (i := .qpush m q rs1) issued rfl
  rw [if_neg allowed, if_neg (Nat.not_le.mpr room), if_neg ready] at runs
  rw [exec_of_commit runs noStream rfl, State.pc_setQueue]

theorem exec_qpop_empty (popper : mayPop u.curAgent q = true) (empty : u.tile.queue q = []) :
    exec (.qpop m rd q) s = .next (waitsFor (.queue q) u) :=
  exec_of_wait (exec_scalar issued rfl) ((if_neg (by rw [popper]; nofun)).trans (by rw [empty]))

theorem exec_qpop_oldest {v : Word} {r : List Word} (noStream : u.tile.streams u.src true true = false)
    (popper : mayPop u.curAgent q = true) (entries : u.tile.queue q = v :: r) : exec (.qpop m rd q) s =
      .next (committedTo (u.pc + 4) ((u.putTile (u.tile.setQueue q r)).setX rd v)) := by
  rw [exec_of_commit (exec_scalar issued rfl) noStream ((if_neg (by rw [popper]; nofun)).trans (by rw [entries])), State.pc_setX, State.pc_setQueue]

end

/-! ## The statement -/

/-- Settles O22, by whether the agent is the queue's pusher or popper, and by what the queue holds. -/
theorem queueRegisters : Obligations.QueueRegisters := by
  unfold Obligations.QueueRegisters
  intro s u m issued noStream q rd rs1 pushes pops
  have pusher : mayPush u.curAgent q = true ↔ pushes := mayPush_iff u q
  have popper : mayPop u.curAgent q = true ↔ pops := mayPop_iff u q
  refine ⟨fun may room performed => ?push, fun may full => ?full, fun v r may entries => ?pop, fun may empty => ?empty,
    fun mayNot => ?noPusher, fun mayNot => ?noPopper⟩
  case push => exact completes_next (exec_qpush_room issued (noStream true true) (pusher.mpr may) room performed) rfl
  case full => exact exec_qpush_full issued (pusher.mpr may) full
  case pop => exact completes_next (exec_qpop_oldest issued (noStream true true) (popper.mpr may) entries) rfl
  case empty => exact exec_qpop_empty issued (popper.mpr may) empty
  case noPusher => exact exec_qpush_illegal issued (Bool.eq_false_of_not_eq_true (mayNot ∘ pusher.mp))
  case noPopper => exact exec_qpop_illegal issued (Bool.eq_false_of_not_eq_true (mayNot ∘ popper.mp))

end Sys2Proof.Machine
end

section
/-! SUPPORT. The vector instructions that stay in registers (O37 to O41): a v or a k register written, the elements of a register, what an
element-wise instruction leaves in each of them. -/

namespace Sys2Proof.Machine

open Sys2Proof.Safety

/-! ## A v or a k register written -/

/-- A context with other v and k registers, and another set of registers written in the region. -/
def Context.withRegs (c : Context) (v : Vector VWord 32) (k : Vector (BitVec 32) 8) (written : RegSet) : Context :=
  { c with v := v, k := k, written := written }

section
variable {u : State} (isCtx : u.isCtx = true) (f : Flags)
include isCtx

theorem ctx_raise : (u.raise f).ctx = { u.ctx with th := { u.th with fflags := u.th.fflags ||| f } } := by
  cases acts : u.curAgent <;> simp_all [State.isCtx, State.ctx, State.raise, State.setTh, Tile.setThread]

/-- A strand that goes on with other v and k registers and with flags raised. -/
theorem finish_withRegs (v : Vector VWord 32) (k : Vector (BitVec 32) 8) (written : RegSet) :
    State.finish (.ok ((u.raise f).setCtx ((u.raise f).ctx.withRegs v k written))) =
      u.putTile (agentTile u { u.th with pc := u.pc + 4, fflags := u.th.fflags ||| f } (Context.withRegs · v k written)) := by
  rw [finish_ok, State.pc_setCtx (k := (u.raise f).ctx.withRegs v k written) rfl, pc_raise]
  cases acts : u.curAgent <;>
    simp_all [State.isCtx, wentOn, agentTile, State.setCtx, State.ctx, State.raise, State.setTh, Tile.setThread, State.putTile_putTile,
      State.th, Tile.thread, Context.withRegs]

/-- The same where the instruction raises no flag. -/
theorem finish_withRegs_plain (v : Vector VWord 32) (k : Vector (BitVec 32) 8) (written : RegSet) :
    State.finish (.ok (u.setCtx (u.ctx.withRegs v k written))) =
      State.finish (.ok ((u.raise 0).setCtx ((u.raise 0).ctx.withRegs v k written))) := by
  rw [finish_withRegs isCtx, finish_ok, State.pc_setCtx (k := u.ctx.withRegs v k written) rfl]
  cases acts : u.curAgent <;>
    simp_all [State.isCtx, wentOn, agentTile, State.setCtx, State.ctx, State.putTile_putTile, State.th, Tile.thread, Context.withRegs]

omit isCtx in
/-- Of the thread of such a strand, only the program counter and the flags change. -/
theorem thread_agentTile (pc : Word) (g : Context → Context) :
    let t := u.putTile (agentTile u { u.th with pc := pc, fflags := u.th.fflags ||| f } g)
    (∀ r, t.x r = u.x r) ∧ t.pc = pc ∧ t.th.fflags = u.th.fflags ||| f := by
  refine ⟨fun r => ?_, ?_, ?_⟩
  · simp [State.x, th_agentTile, Thread.readX]
  · rw [State.pc, th_agentTile]
  · rw [th_agentTile]

theorem setV_raise (vd : Reg) (v : VWord) : (u.raise f).setV vd v =
    (u.raise f).setCtx ((u.raise f).ctx.withRegs (u.ctx.v.set vd.toNat v vd.isLt) u.ctx.k (u.ctx.written.addV vd)) := by
  rw [State.setV, ctx_raise isCtx]
  rfl

theorem setK_raise (kd : KReg) (v : BitVec 32) : (u.raise f).setK kd v =
    (u.raise f).setCtx ((u.raise f).ctx.withRegs u.ctx.v (u.ctx.k.set kd.toNat v kd.isLt) (u.ctx.written.addK kd)) := by
  rw [State.setK, ctx_raise isCtx]
  rfl

theorem writesV_setV (vd : Reg) (v : VWord) : writesV f u (State.finish (.ok ((u.raise f).setV vd v))) vd v := by
  obtain ⟨x, pc, flags⟩ := thread_agentTile (u := u) f (u.pc + 4)
    (Context.withRegs · (u.ctx.v.set vd.toNat v vd.isLt) u.ctx.k (u.ctx.written.addV vd))
  rw [setV_raise isCtx, finish_withRegs isCtx]
  refine ⟨?_, fun r hr => ?_, by rw [ctx_agentTile isCtx]; rfl, x, pc, flags, by rw [ctx_agentTile isCtx]; rfl,
    sameButRegs_agentTile _ _ _ rfl fun _ => rfl⟩
  · simp [State.v, ctx_agentTile isCtx, Context.withRegs]
  · have other : vd.toNat ≠ r.toNat := fun h => hr (BitVec.eq_of_toNat_eq h.symm)
    simp [State.v, ctx_agentTile isCtx, Context.withRegs, other]

theorem writesK_setK (kd : KReg) (v : BitVec 32) : writesK f u (State.finish (.ok ((u.raise f).setK kd v))) kd v := by
  obtain ⟨x, pc, flags⟩ := thread_agentTile (u := u) f (u.pc + 4)
    (Context.withRegs · u.ctx.v (u.ctx.k.set kd.toNat v kd.isLt) (u.ctx.written.addK kd))
  rw [setK_raise isCtx, finish_withRegs isCtx]
  refine ⟨?_, fun r hr => ?_, by rw [ctx_agentTile isCtx]; rfl, x, pc, flags, by rw [ctx_agentTile isCtx]; rfl,
    sameButRegs_agentTile _ _ _ rfl fun _ => rfl⟩
  · simp [State.k, ctx_agentTile isCtx, Context.withRegs]
  · have other : kd.toNat ≠ r.toNat := fun h => hr (BitVec.eq_of_toNat_eq h.symm)
    simp [State.k, ctx_agentTile isCtx, Context.withRegs, other]

theorem writesK_setK_plain (kd : KReg) (v : BitVec 32) : writesK 0 u (State.finish (.ok (u.setK kd v))) kd v := by
  have raised := writesK_setK isCtx 0 kd v
  rwa [setK_raise isCtx, ← finish_withRegs_plain isCtx] at raised

end

/-! ## Elements of a register (07 R137) -/

theorem packElems_lt (w : Nat) (l : List Nat) : packElems w l < 2 ^ (w * l.length) := by
  induction l with
  | nil => exact Nat.one_pos
  | cons e r ih =>
    have low : e % 2 ^ w < 2 ^ w := Nat.mod_lt _ (Nat.two_pow_pos w)
    rw [packElems, List.length_cons, Nat.mul_succ, Nat.add_comm (w * _), pow_add]
    calc e % 2 ^ w + 2 ^ w * packElems w r < 2 ^ w * (packElems w r + 1) := by rw [Nat.mul_succ]; omega
      _ ≤ 2 ^ w * 2 ^ (w * r.length) := Nat.mul_le_mul_left _ ih

theorem packElems_div_mod (w : Nat) (l : List Nat) (j : Nat) : packElems w l / 2 ^ (w * j) % 2 ^ w = l.getD j 0 % 2 ^ w := by
  induction l generalizing j with
  | nil => simp [packElems]
  | cons e r ih =>
    cases j with
    | zero => simp [packElems]
    | succ j =>
      have above : (e % 2 ^ w + 2 ^ w * packElems w r) / 2 ^ w = packElems w r := by
        rw [Nat.add_mul_div_left _ _ (Nat.two_pow_pos w), Nat.div_eq_of_lt (Nat.mod_lt _ (Nat.two_pow_pos w)), Nat.zero_add]
      rw [packElems, Nat.mul_succ, Nat.add_comm (w * j), pow_add, ← Nat.div_div_eq_div_mul, above, ih]
      rfl

theorem toNat_packElems {n w : Nat} {l : List Nat} (fits : w * l.length ≤ n) : (BitVec.ofNat n (packElems w l)).toNat = packElems w l := by
  rw [BitVec.toNat_ofNat, Nat.mod_eq_of_lt ((packElems_lt w l).trans_le (Nat.pow_le_pow_right Nat.two_pos fits))]

/-- The elements of a register are the ones that it is packed from. -/
theorem elem_packElems {w : Nat} {l : List Nat} (fits : w * l.length ≤ 1024) (j : Nat) :
    elem w (BitVec.ofNat 1024 (packElems w l)) j = l.getD j 0 % 2 ^ w := by
  rw [elem, toNat_packElems fits, packElems_div_mod]

theorem elem_lt (w : Nat) (v : VWord) (j : Nat) : elem w v j < 2 ^ w := Nat.mod_lt _ (Nat.two_pow_pos w)

/-- An element's lane is one of the 32. -/
theorem lane_lt {w j : Nat} (hj : j < 1024 / w) : w * j / 32 < 32 := by
  have fits : w * (j + 1) ≤ 1024 := (Nat.mul_le_mul_left w hj).trans (Nat.mul_div_le 1024 w)
  have pos : 0 < w := Nat.pos_of_ne_zero fun h => by simp [h] at hj
  rw [Nat.mul_succ] at fits
  omega

/-- The bits of a mask register are those of the lanes that its field names. -/
theorem mask_getLsbD (u : State) (mk : KReg) {i : Nat} (hi : i < 32) : (u.mask mk).getLsbD i = (mk == 0 || (u.k mk).getLsbD i) := by
  unfold State.mask
  split
  next all => rw [BitVec.getLsbD_allOnes, decide_eq_true hi, all]; rfl
  next some => rw [beq_false_of_ne some, Bool.false_or]

theorem laneOn_mask (u : State) (mk : KReg) {w j : Nat} (hj : j < 1024 / w) : laneOn (u.mask mk) w j = active u mk w j :=
  mask_getLsbD u mk (lane_lt hj)

/-! ## Element-wise instructions (07 R138) -/

/-- Two functions give each of `n` elements the same bits and the same flags. -/
def elemsAgree (w n : Nat) (g f : Nat → Nat × Flags) : Prop := ∀ j < n, (g j).1 % 2 ^ w = (f j).1 % 2 ^ w ∧ (g j).2 = (f j).2

theorem elemsAgree_of_eq {w n : Nat} {g f : Nat → Nat × Flags} (same : ∀ j < n, g j = f j) : elemsAgree w n g f :=
  fun j hj => ⟨congrArg (·.1 % 2 ^ w) (same j hj), congrArg Prod.snd (same j hj)⟩

theorem elem_vmap (m : BitVec 32) (w : Nat) (old : VWord) (g : Nat → Nat × Flags) {j : Nat} (hj : j < 1024 / w) :
    elem w (vmap m w old g).1 j = if laneOn m w j then (g j).1 % 2 ^ w else elem w old j := by
  unfold vmap
  rw [elem_packElems (by simpa using Nat.mul_div_le 1024 w)]
  cases on : laneOn m w j <;> simp [hj, on, Nat.mod_eq_of_lt (elem_lt w old j)]

theorem vmap_flags (m : BitVec 32) (w : Nat) (old : VWord) (g : Nat → Nat × Flags) :
    (vmap m w old g).2 = (List.range (1024 / w)).foldl (fun a j => if laneOn m w j then a ||| (g j).2 else a) 0 := by
  unfold vmap
  dsimp only
  rw [List.foldl_map]
  refine List.foldl_ext _ _ _ fun a j _ => ?_
  split <;> simp

/-- The register and the flags of an element-wise instruction. -/
theorem setsElems_vmap {u : State} (isCtx : u.isCtx = true) {mk : KReg} {w : Nat} {vd : Reg} {old : VWord} {g f : Nat → Nat × Flags}
    (agree : elemsAgree w (1024 / w) g f) :
    setsElems u (State.finish (u.putV vd (vmap (u.mask mk) w old g))) mk w vd old f := by
  have flags : (vmap (u.mask mk) w old g).2 = (List.range (1024 / w)).foldl (fun a j => if active u mk w j then a ||| (f j).2 else a) 0 := by
    rw [vmap_flags]
    refine List.foldl_ext _ _ _ fun a j hj => ?_
    rw [laneOn_mask u mk (List.mem_range.mp hj), (agree j (List.mem_range.mp hj)).2]
  rw [setsElems, ← flags]
  refine ⟨_, writesV_setV isCtx _ vd _, fun j hj => ?_⟩
  rw [elem_vmap _ _ _ _ hj, laneOn_mask u mk hj, (agree j hj).1]

/-! ## The shapes -/

section
variable {s u : State} {m : SMark} {i : Instr} {body : State → Done} (issued : issues s m u) (isCtx : u.isCtx = true)
include issued isCtx

/-- An element-wise instruction: what it computes of each element is what the rule says. -/
theorem completes_elems {mk : KReg} {w : Nat} {vd : Reg} {old : VWord} {g f : Nat → Nat × Flags} (meaning : exec i s = vec i m body s)
    (result : body u = u.putV vd (vmap (u.mask mk) w old g)) (agree : elemsAgree w (1024 / w) g f) (wf : i.wf = true) :
    completes i s fun t => setsElems u t mk w vd old f :=
  completes_next (exec_of_ok (exec_vector issued isCtx wf meaning) result) (setsElems_vmap isCtx agree)

/-- An element-wise instruction that computes of each element exactly what the rule says. -/
theorem completes_elems_of_eq {mk : KReg} {w : Nat} {vd : Reg} {old : VWord} {g f : Nat → Nat × Flags} (meaning : exec i s = vec i m body s)
    (result : body u = u.putV vd (vmap (u.mask mk) w old g)) (same : ∀ j, g j = f j) (wf : i.wf = true) :
    completes i s fun t => setsElems u t mk w vd old f :=
  completes_elems issued isCtx meaning result (elemsAgree_of_eq fun j _ => same j) wf

/-- An instruction that writes a whole v register. -/
theorem completes_putV {vd : Reg} {r : VWord × Flags} (meaning : exec i s = vec i m body s) (result : body u = u.putV vd r) (wf : i.wf = true) :
    completes i s fun t => ∃ fl v, writesV fl u t vd v ∧ (v, fl) = r :=
  completes_next (exec_of_ok (exec_vector issued isCtx wf meaning) result) ⟨r.2, r.1, writesV_setV isCtx r.2 vd r.1, rfl⟩

/-- An instruction of the mask registers, which raises no flag. -/
theorem completes_setK {kd : KReg} {v : BitVec 32} (meaning : exec i s = vec i m body s) (result : body u = .ok (u.setK kd v)) (wf : i.wf = true) :
    completes i s fun t => writesK 0 u t kd v :=
  completes_next (exec_of_ok (exec_vector issued isCtx wf meaning) result) (writesK_setK_plain isCtx kd v)

/-- A vector instruction whose result is an x register, without flags. -/
theorem completes_setX {rd : Reg} {v w : Word} (meaning : exec i s = vec i m body s) (result : body u = .ok (u.setX rd v)) (value : v = w)
    (wf : i.wf = true) : completes i s fun t => writesOnly u t rd w :=
  completes_next (exec_of_ok (exec_vector issued isCtx wf meaning) result) (value ▸ writesOnly_setX u rd v)

end

end Sys2Proof.Machine
end

section
/-! SUPPORT. The vector statements (O37 to O41): what the model computes of each element, said as the spec says it. -/

namespace Sys2Proof.Machine

open Sys2Proof.Safety

/-! ## Elements as two's complement (03 R55) -/

theorem ofInt_sgn (w x : Nat) : BitVec.ofInt w (sgn w x) = BitVec.ofNat w x := by
  unfold sgn
  split
  · exact BitVec.ofInt_natCast w x
  · refine BitVec.eq_of_toInt_eq ?_
    rw [BitVec.toInt_ofInt, BitVec.toInt_ofNat']
    exact_mod_cast Int.sub_bmod_right (x : Int) (2 ^ w)

theorem sgn_eq_toInt {w x : Nat} (pos : 0 < w) (small : x < 2 ^ w) : sgn w x = (BitVec.ofNat w x).toInt := by
  have two : 2 ^ w = 2 * 2 ^ (w - 1) := (Nat.pow_pred_mul pos).symm.trans (Nat.mul_comm ..)
  have cast : ((2 ^ w : Nat) : Int) = 2 ^ w := by norm_cast
  rw [BitVec.toInt_eq_toNat_cond, BitVec.toNat_ofNat, Nat.mod_eq_of_lt small, cast, sgn]
  split <;> split <;> omega

theorem wrapTo_toInt {w : Nat} (x : BitVec w) : wrapTo w x.toInt = x.toNat := congrArg BitVec.toNat (BitVec.ofInt_toInt ..)

theorem wrapTo_add (w a b : Nat) : wrapTo w (sgn w a + sgn w b) = (BitVec.ofNat w a + BitVec.ofNat w b).toNat := by
  rw [wrapTo, BitVec.ofInt_add, ofInt_sgn, ofInt_sgn]

theorem wrapTo_sub (w a b : Nat) : wrapTo w (sgn w a - sgn w b) = (BitVec.ofNat w a - BitVec.ofNat w b).toNat := by
  rw [wrapTo, sub_eq_add_neg, BitVec.ofInt_add, BitVec.ofInt_neg, ofInt_sgn, ofInt_sgn, BitVec.sub_eq_add_neg]

theorem wrapTo_mul (w a b : Nat) : wrapTo w (sgn w a * sgn w b) = (BitVec.ofNat w a * BitVec.ofNat w b).toNat := by
  rw [wrapTo, BitVec.ofInt_mul, ofInt_sgn, ofInt_sgn]

theorem wrapTo_mulAdd (w c a b : Nat) :
    wrapTo w (sgn w c + sgn w a * sgn w b) = (BitVec.ofNat w c + BitVec.ofNat w a * BitVec.ofNat w b).toNat := by
  rw [wrapTo, BitVec.ofInt_add, BitVec.ofInt_mul, ofInt_sgn, ofInt_sgn, ofInt_sgn]

theorem wrapTo_neg (w a : Nat) : wrapTo w (-sgn w a) = (-BitVec.ofNat w a).toNat := by
  rw [wrapTo, BitVec.ofInt_neg, ofInt_sgn]

section
variable {w a b : Nat} (pos : 0 < w) (sa : a < 2 ^ w) (sb : b < 2 ^ w)
include pos sa

theorem wrapTo_natAbs : wrapTo w (sgn w a).natAbs = if (BitVec.ofNat w a).toInt < 0 then (-BitVec.ofNat w a).toNat else a := by
  rw [sgn_eq_toInt pos sa]
  split
  next neg => rw [Int.ofNat_natAbs_of_nonpos neg.le, wrapTo, BitVec.ofInt_neg, BitVec.ofInt_toInt]
  next whole => rw [Int.natAbs_of_nonneg (not_lt.mp whole), wrapTo_toInt, BitVec.toNat_ofNat, Nat.mod_eq_of_lt sa]

/-- Inverting the top bit is adding it. -/
theorem add_top_eq_xor : (a + 2 ^ (w - 1)) % 2 ^ w = (BitVec.ofNat w a ^^^ BitVec.ofNat w (2 ^ (w - 1))).toNat := by
  refine Nat.eq_of_testBit_eq fun i => ?_
  have top : 2 ^ (w - 1) < 2 ^ w := Nat.pow_lt_pow_right Nat.one_lt_two (Nat.sub_one_lt_of_lt pos)
  rw [BitVec.toNat_xor, BitVec.toNat_ofNat, BitVec.toNat_ofNat, Nat.mod_eq_of_lt sa, Nat.mod_eq_of_lt top, Nat.testBit_mod_two_pow,
    Nat.testBit_xor, Nat.testBit_two_pow, Nat.add_comm]
  rcases lt_trichotomy i (w - 1) with below | rfl | above
  · rw [Nat.testBit_two_pow_add_gt below, decide_eq_true (by omega), decide_eq_false (by omega)]
    simp
  · rw [Nat.testBit_two_pow_add_eq]
    simp [pos]
  · have out : a.testBit i = false := Nat.testBit_lt_two_pow (sa.trans_le (Nat.pow_le_pow_right Nat.two_pos (by omega)))
    rw [out, decide_eq_false (by omega), decide_eq_false (by omega)]
    rfl

include sb

theorem wrapTo_min : wrapTo w (min (sgn w a) (sgn w b)) =
    (if (BitVec.ofNat w b).toInt < (BitVec.ofNat w a).toInt then BitVec.ofNat w b else BitVec.ofNat w a).toNat := by
  rw [sgn_eq_toInt pos sa, sgn_eq_toInt pos sb]
  split
  next less => rw [min_eq_right less.le, wrapTo_toInt]
  next most => rw [min_eq_left (not_lt.mp most), wrapTo_toInt]

theorem wrapTo_max : wrapTo w (max (sgn w a) (sgn w b)) =
    (if (BitVec.ofNat w a).toInt < (BitVec.ofNat w b).toInt then BitVec.ofNat w b else BitVec.ofNat w a).toNat := by
  rw [sgn_eq_toInt pos sa, sgn_eq_toInt pos sb]
  split
  next less => rw [max_eq_right less.le, wrapTo_toInt]
  next most => rw [max_eq_left (not_lt.mp most), wrapTo_toInt]

end

theorem etBits_pos (ty : ETy) : 0 < etBits ty := by cases ty <;> decide

/-! ## Arithmetic (07 R140) -/

section
variable {ty : ETy} {a b c : Nat}

/-- Two-operand arithmetic whose integer function is one of words. -/
theorem arith2_eq {fi : Int → Int → Int} {fb : BitVec (etBits ty) → BitVec (etBits ty) → BitVec (etBits ty)}
    (ff : FFmt → Nat → Nat → Nat × Flags)
    (word : wrapTo (etBits ty) (fi (sgn (etBits ty) a) (sgn (etBits ty) b)) = (fb (BitVec.ofNat _ a) (BitVec.ofNat _ b)).toNat) :
    arith2 ty fi ff a b = if ty.isInt then ((fb (BitVec.ofNat _ a) (BitVec.ofNat _ b)).toNat, 0) else ff (etFmt ty) a b := by
  rw [arith2, word]

theorem arith3_eq (rm : RM) : arith3 ty rm c a b =
    if ty.isInt then ((BitVec.ofNat (etBits ty) c + BitVec.ofNat (etBits ty) a * BitVec.ofNat (etBits ty) b).toNat, 0)
    else (etFmt ty).fma rm c a b := by
  rw [arith3, wrapTo_mulAdd]

theorem absE_eq (small : a < 2 ^ etBits ty) : absE ty a =
    if ty.isInt then (if (BitVec.ofNat (etBits ty) a).toInt < 0 then (-(BitVec.ofNat (etBits ty) a)).toNat else a) else a % 2 ^ (etBits ty - 1) := by
  rw [absE, wrapTo_natAbs (etBits_pos ty) small]

theorem negE_eq (small : a < 2 ^ etBits ty) : negE ty a =
    if ty.isInt then (-(BitVec.ofNat (etBits ty) a)).toNat else (BitVec.ofNat (etBits ty) a ^^^ BitVec.ofNat (etBits ty) (2 ^ (etBits ty - 1))).toNat := by
  rw [negE, wrapTo_neg, add_top_eq_xor (etBits_pos ty) small]

end

/-- Settles O37: each instruction is element-wise, and its integers are those of words of the element's width. -/
theorem vectorArithmetic : Obligations.VectorArithmetic := by
  unfold Obligations.VectorArithmetic
  intro s u m issued isCtx mk ty vd vs1 vs2 w g rm a b c bv two
  have small (r : Reg) (j : Nat) : elem w (u.v r) j < 2 ^ w := elem_lt ..
  refine ⟨completes_elems_of_eq issued isCtx rfl rfl fun j => ?add, completes_elems_of_eq issued isCtx rfl rfl fun j => ?sub,
    completes_elems_of_eq issued isCtx rfl rfl fun j => ?mul, completes_elems_of_eq issued isCtx rfl rfl fun j => ?min,
    completes_elems_of_eq issued isCtx rfl rfl fun j => ?max, completes_elems_of_eq issued isCtx rfl rfl fun j => ?fma,
    completes_elems_of_eq issued isCtx rfl rfl fun j => ?abs, completes_elems_of_eq issued isCtx rfl rfl fun j => ?neg⟩
  case add => exact arith2_eq _ (wrapTo_add ..)
  case sub => exact arith2_eq _ (wrapTo_sub ..)
  case mul => exact arith2_eq _ (wrapTo_mul ..)
  case min => exact arith2_eq (fb := fun x y => if y.toInt < x.toInt then y else x) _ (wrapTo_min (etBits_pos ty) (small vs1 j) (small vs2 j))
  case max => exact arith2_eq (fb := fun x y => if x.toInt < y.toInt then y else x) _ (wrapTo_max (etBits_pos ty) (small vs1 j) (small vs2 j))
  case fma => exact arith3_eq rm
  case abs => exact congrArg (·, 0) (absE_eq (small vs1 j))
  case neg => exact congrArg (·, 0) (negE_eq (small vs1 j))

/-! ## Logic and masks (07 R142, R145, R158) -/

theorem shlE_agrees (w n : Nat) (a b : Nat → Nat) : elemsAgree w n (fun j => (shlE w (a j) (b j), 0)) fun j => (a j <<< (b j % w), 0) :=
  fun j _ => ⟨by simp [shlE, Nat.shiftLeft_eq], rfl⟩

theorem shrE_eq (w a b : Nat) : shrE w a b = a >>> (b % w) := (Nat.shiftRight_eq_div_pow ..).symm

theorem sraE_eq {w a : Nat} (pos : 0 < w) (small : a < 2 ^ w) (b : Nat) :
    sraE w a b = ((BitVec.ofNat w a).sshiftRight (b % w)).toNat := by
  have shifted : (BitVec.ofNat w a).toInt / 2 ^ (b % w) = ((BitVec.ofNat w a).sshiftRight (b % w)).toInt := by
    rw [BitVec.toInt_sshiftRight, Int.shiftRight_eq_div_pow]
    norm_cast
  rw [sraE, sgn_eq_toInt pos small, shifted, wrapTo_toInt]

theorem popc_and_mask (u : State) (mk : KReg) (k : BitVec 32) :
    popc 32 (k &&& u.mask mk) = (List.range 32).countP fun i => k.getLsbD i && (mk == 0 || (u.k mk).getLsbD i) := by
  rw [popc, ← List.countP_eq_length_filter]
  refine List.countP_congr fun i hi => ?_
  rw [BitVec.getLsbD_and, mask_getLsbD u mk (List.mem_range.mp hi)]

/-- Settles O38: element-wise instructions, writes of a mask register, and the count of the bits that two masks share. -/
theorem vectorLogicAndMasks : Obligations.VectorLogicAndMasks := by
  unfold Obligations.VectorLogicAndMasks
  intro s u m issued isCtx mk ty vd vs1 vs2 rd kd ks1 ks2 w a b put ok
  refine ⟨completes_elems_of_eq issued isCtx rfl rfl fun j => rfl, completes_elems_of_eq issued isCtx rfl rfl fun j => rfl,
    completes_elems_of_eq issued isCtx rfl rfl fun j => rfl, completes_elems issued isCtx rfl rfl (shlE_agrees w _ a b),
    completes_elems_of_eq issued isCtx rfl rfl fun j => congrArg (·, 0) (shrE_eq w (a j) (b j)),
    completes_elems_of_eq issued isCtx rfl rfl fun j => congrArg (·, 0) (sraE_eq (etBits_pos ty) (elem_lt ..) (b j)),
    completes_elems_of_eq issued isCtx rfl rfl fun j => rfl, completes_elems_of_eq issued isCtx rfl rfl fun j => rfl,
    completes_setK issued isCtx rfl rfl, completes_setK issued isCtx rfl rfl, completes_setK issued isCtx rfl rfl, completes_setK issued isCtx rfl rfl,
    completes_setX issued isCtx rfl rfl (congrArg (BitVec.ofNat 64) (popc_and_mask u mk (u.k ks1)))⟩

/-! ## Comparisons (07 R143) -/

theorem getLsbD_packElems {n : Nat} (f : Nat → Bool) {i : Nat} (hi : i < n) :
    (BitVec.ofNat n (packElems 1 (((List.range n).map f).map fun b => if b then 1 else 0))).getLsbD i = f i := by
  rw [BitVec.getLsbD, toNat_packElems (by simp), Nat.testBit_eq_decide_div_mod_eq]
  have bit := packElems_div_mod 1 (((List.range n).map f).map fun b => if b then 1 else 0) i
  rw [Nat.one_mul, pow_one] at bit
  rw [bit]
  cases h : f i <;> simp [hi, h]

section
variable (u : State) (mk : KReg) (ty : ETy) (kd : KReg) (vs1 vs2 : Reg) (r : VRel)

/-- What a comparison writes: of each lane that the mask names, whether all of its elements are in the relation. -/
theorem State.vcmp_bits : ∃ fl v, u.vcmp mk ty kd vs1 vs2 r = .ok ((u.raise fl).setK kd v) ∧ (ty.isInt = true → fl = 0)
    ∧ ∀ i, i < 32 → v.getLsbD i = if mk == 0 || (u.k mk).getLsbD i
        then (List.range (32 / etBits ty)).all fun q =>
          (relE ty r (elem (etBits ty) (u.v vs1) (32 / etBits ty * i + q)) (elem (etBits ty) (u.v vs2) (32 / etBits ty * i + q))).1
        else (u.k kd).getLsbD i := by
  refine ⟨_, _, rfl, fun int => ?_, fun i hi => ?_⟩
  · have quiet (a b : Nat) : (relE ty r a b).2 = 0 := by simp [relE, int]
    refine List.foldl_fixed' (fun i => ?_) _
    by_cases hi : i < 32 <;> simp [hi, List.foldl_map, quiet]
  · rw [getLsbD_packElems _ hi, mask_getLsbD u mk hi]
    simp [hi, List.all_map, Function.comp_def]

end

/-- Settles O39: each comparison is one of lanes, by its relation. -/
theorem vectorComparisons : Obligations.VectorComparisons := by
  unfold Obligations.VectorComparisons
  intro s u m issued isCtx mk ty kd vs1 vs2 w n a b put ok
  have compared (r : VRel) {i : Instr} (meaning : exec i s = vec i m (fun s => s.vcmp mk ty kd vs1 vs2 r) s) : ok i (put r) := fun wf => by
    obtain ⟨fl, v, result, quiet, bits⟩ := u.vcmp_bits mk ty kd vs1 vs2 r
    exact completes_next (exec_of_ok (exec_vector issued isCtx wf meaning) result) ⟨fl, v, writesK_setK isCtx fl kd v, quiet, bits⟩
  exact ⟨compared .eq rfl, compared .ne rfl, compared .lt rfl, compared .le rfl, compared .gt rfl, compared .ge rfl, compared .ltu rfl, compared .geu rfl⟩

/-! ## Places (07 R144, R145) -/

section
variable (u : State) (mk : KReg) (w : Nat)

/-- The elements that are active, in ascending order. -/
theorem filter_laneOn {k : Nat} (hk : k ≤ 1024 / w) :
    ((List.range k).filter fun j => laneOn (u.mask mk) w j) = (List.range k).filter (active u mk w) :=
  List.filter_congr fun _ hj => laneOn_mask u mk ((List.mem_range.mp hj).trans_le hk)

theorem elemScalar_eq {ty : ETy} {e : Nat} (small : e < 2 ^ etBits ty) :
    elemScalar ty e = if ty.isInt then (BitVec.ofNat (etBits ty) e).signExtend 64 else BitVec.ofNat 64 e := by
  rw [elemScalar, sgn_eq_toInt (etBits_pos ty) small]
  rfl

theorem slideE_eq (ty : ETy) (v : VWord) (sh : Int) (j : Nat) :
    slideE ty v sh j = let p := (j : Int) + sh; if 0 ≤ p ∧ p < (1024 / etBits ty : Nat) then elem (etBits ty) v p.toNat else 0 := by
  exact if_congr (by rw [Bool.and_eq_true, decide_eq_true_iff, decide_eq_true_iff]; rfl) rfl rfl

theorem iotaE_eq (ty : ETy) (k : BitVec 32) (j : Nat) : iotaE ty k j = (List.range j).countP fun i => k.getLsbD (etBits ty * i / 32) :=
  (List.countP_eq_length_filter ..).symm

end

/-- An element inserted has the low bits of the register. -/
theorem ite_mod_mod (c : Prop) [Decidable c] (x e n : Nat) : (if c then x % n else e) % n = (if c then x else e) % n := by
  split
  · exact Nat.mod_mod x n
  · rfl

/-! ## Reductions (07 R146) -/

section
variable (u : State) (mk : KReg) (ty : ETy) (vs1 rs2 : Reg)

/-- The active elements of `vs1` reduced in ascending order, from x[rs2] as a 64-bit integer. -/
def State.reducedInt (fi : Int → Int → Int) : Int :=
  ((List.range (1024 / etBits ty)).filter (active u mk (etBits ty))).foldl
    (fun x j => fi x (BitVec.ofNat (etBits ty) (elem (etBits ty) (u.v vs1) j)).toInt) (u.x rs2).toInt

/-- The active elements of `vs1` reduced in ascending order as FP32, from the low half of x[rs2], with the flags of all steps. -/
def State.reducedFloat (ff : Nat → Nat → Nat × Flags) : Nat × Flags :=
  ((List.range (1024 / etBits ty)).filter (active u mk (etBits ty))).foldl (fun x j =>
    let y := ff x.1 (if ty = .bf16 then elem (etBits ty) (u.v vs1) j * 2 ^ 16 else elem (etBits ty) (u.v vs1) j)
    (y.1, x.2 ||| y.2)) ((u.x rs2).toNat % 2 ^ 32, 0)

variable (rd : Reg) (fi : Int → Int → Int) (ff : Nat → Nat → Nat × Flags)

theorem State.vreduce_int (int : ty.isInt = true) :
    u.vreduce mk ty rd vs1 rs2 fi ff = .ok (u.setX rd (BitVec.ofInt 64 (u.reducedInt mk ty vs1 rs2 fi))) := by
  simp only [State.vreduce, State.reducedInt, int, if_true, etNum, List.foldl_map, filter_laneOn u mk _ le_rfl,
    sgn_eq_toInt (etBits_pos ty) (elem_lt ..)]

theorem State.vreduce_float (float : ty.isInt = false) : u.vreduce mk ty rd vs1 rs2 fi ff =
    .ok ((u.raise (u.reducedFloat mk ty vs1 rs2 ff).2).setX rd (BitVec.ofNat 64 (u.reducedFloat mk ty vs1 rs2 ff).1)) := by
  simp only [State.vreduce, State.reducedFloat, float, etNum, List.foldl_map, filter_laneOn u mk _ le_rfl, widen]
  rfl

end

/-- A reduction leaves its result in an x register, of floats with the flags of its steps. -/
theorem completes_reduction {s u : State} {m : SMark} {i : Instr} {body : State → Done} (issued : issues s m u) (isCtx : u.isCtx = true)
    {mk : KReg} {ty : ETy} {rd vs1 rs2 : Reg} {fi : Int → Int → Int} {ff : Nat → Nat → Nat × Flags}
    (meaning : exec i s = vec i m body s) (result : body u = u.vreduce mk ty rd vs1 rs2 fi ff) (wf : i.wf = true) :
    completes i s fun t =>
      if ty.isInt then writesOnly u t rd (BitVec.ofInt 64 (u.reducedInt mk ty vs1 rs2 fi))
      else writesTo (u.pc + 4) (u.reducedFloat mk ty vs1 rs2 ff).2 u t rd (BitVec.ofNat 64 (u.reducedFloat mk ty vs1 rs2 ff).1) := by
  have runs := exec_vector issued isCtx wf meaning
  cases int : ty.isInt with
  | true => exact completes_next (exec_of_ok runs (result.trans (u.vreduce_int mk ty vs1 rs2 rd fi ff int))) (writesOnly_setX u rd _)
  | false => exact completes_next (exec_of_ok runs (result.trans (u.vreduce_float mk ty vs1 rs2 rd fi ff int))) (writesTo_raise u _ rd _)

/-! ## Running sums (07 R147) -/

section
variable (ty : ETy) (rm : RM) (m : BitVec 32) (src old : VWord)

/-- The sum that a scan has reached after the first `k` elements, from the start `x`, with the flags of the last sum. -/
def scanSum (x : Nat) (k : Nat) : Nat × Flags :=
  ((List.range k).filter fun j => laneOn m (etBits ty) j).foldl
    (fun a j => arith2 ty (· + ·) (fun f a b => f.add rm a b) a.1 (elem (etBits ty) src j)) (x, 0)

theorem scanSum_succ (x k : Nat) : scanSum ty rm m src x (k + 1) = if laneOn m (etBits ty) k
    then arith2 ty (· + ·) (fun f a b => f.add rm a b) (scanSum ty rm m src x k).1 (elem (etBits ty) src k)
    else scanSum ty rm m src x k := by
  rw [scanSum, List.range_succ, List.filter_append, List.foldl_append]
  cases on : laneOn m (etBits ty) k <;> simp [on, scanSum]

theorem scanE_eq_map (x k n : Nat) : scanE ty rm m src old (List.range' k n) (scanSum ty rm m src x k).1 =
    (List.range' k n).map fun j => if laneOn m (etBits ty) j then scanSum ty rm m src x (j + 1) else (elem (etBits ty) old j, 0) := by
  induction n generalizing k with
  | zero => rfl
  | succ n ih =>
    have next := ih (k + 1)
    rw [scanSum_succ] at next
    rw [List.range'_succ, scanE, List.map_cons, ← next, scanSum_succ]
    cases laneOn m (etBits ty) k <;> rfl

/-- A scan is element-wise: each active element becomes the sum up to it. -/
theorem scanE_eq_vmap (x : Nat) :
    let rs := scanE ty rm m src old (List.range (etNum ty)) x
    (BitVec.ofNat 1024 (packElems (etBits ty) (rs.map (·.1))), rs.foldl (fun a r => a ||| r.2) flNone) =
      vmap m (etBits ty) old fun j => scanSum ty rm m src x (j + 1) := by
  have results := scanE_eq_map ty rm m src old x 0 (etNum ty)
  rw [← List.range_eq_range'] at results
  change scanE ty rm m src old (List.range (etNum ty)) x = _ at results
  dsimp only
  rw [results]
  rfl

/-- Sums of integers are those of words. -/
theorem scanSum_int (int : ty.isInt = true) (x k : Nat) : scanSum ty rm m src (x % 2 ^ etBits ty) k =
    ((((List.range k).filter fun j => laneOn m (etBits ty) j).foldl
      (fun (a : BitVec (etBits ty)) j => a + BitVec.ofNat (etBits ty) (elem (etBits ty) src j)) (BitVec.ofNat (etBits ty) x)).toNat, 0) := by
  unfold scanSum
  rw [← BitVec.toNat_ofNat]
  generalize BitVec.ofNat (etBits ty) x = a
  generalize (List.range k).filter _ = l
  induction l generalizing a with
  | nil => rfl
  | cons j l ih =>
    rw [List.foldl_cons, List.foldl_cons, ← ih, arith2, if_pos int, wrapTo_add, BitVec.ofNat_toNat, BitVec.setWidth_eq]

theorem scanSum_float (float : ty.isInt = false) (x k : Nat) : scanSum ty rm m src x k =
    ((List.range k).filter fun j => laneOn m (etBits ty) j).foldl (fun a j => (etFmt ty).add rm a.1 (elem (etBits ty) src j)) (x, 0) := by
  simp [scanSum, arith2, float]

end

/-- Settles O40: moves element by element, reductions over the active elements, and scans as the running sums of each active element. -/
theorem vectorPlacesAndSums : Obligations.VectorPlacesAndSums := by
  unfold Obligations.VectorPlacesAndSums
  intro s u m issued isCtx mk ty vd vs1 vs2 rd rs1 rs2 ks1 w n a put ok acts sint red
  refine ⟨completes_elems issued isCtx rfl rfl fun j _ => ⟨Nat.mod_mod .., rfl⟩, completes_setX issued isCtx rfl rfl (elemScalar_eq (elem_lt ..)),
    completes_elems issued isCtx rfl rfl fun j _ => ⟨?inserted, rfl⟩, completes_elems_of_eq issued isCtx rfl rfl fun j => rfl,
    completes_elems_of_eq issued isCtx rfl rfl fun j => congrArg (·, 0) (slideE_eq ty ..),
    completes_elems_of_eq issued isCtx rfl rfl fun j => congrArg (·, 0) (iotaE_eq ty ..),
    completes_reduction issued isCtx rfl rfl, completes_reduction issued isCtx rfl rfl, completes_reduction issued isCtx rfl rfl,
    fun int => completes_elems issued isCtx rfl (congrArg (u.putV vd) (scanE_eq_vmap ..)) (elemsAgree_of_eq fun j hj => ?intSum),
    fun float => completes_elems issued isCtx rfl (congrArg (u.putV vd) (scanE_eq_vmap ..)) (elemsAgree_of_eq fun j hj => ?floatSum)⟩
  case inserted => exact ite_mod_mod ..
  case intSum => rw [scanSum_int ty _ _ _ int, filter_laneOn u mk w hj]
  case floatSum => rw [scanSum_float ty _ _ _ float, filter_laneOn u mk w hj]; rfl

/-! ## Packing and unpacking (07 R149, R150) -/

theorem clampInt_eq {lo hi : Int} (ordered : lo ≤ hi) (v : Int) :
    clampInt lo hi v = (max lo (min hi v), if v = max lo (min hi v) then 0 else flSAT) := by
  unfold clampInt
  split
  next below =>
    have value : max lo (min hi v) = lo := by omega
    rw [value, if_neg below.ne]
  next =>
    split
    next above =>
      have value : max lo (min hi v) = hi := by omega
      rw [value, if_neg above.ne']
    next =>
      have value : max lo (min hi v) = v := by omega
      rw [value, if_pos rfl]

section
variable {ty : ETy} {a : Nat}

theorem packE_eq (rm : RM) (small : a < 2 ^ (2 * etBits ty)) : packE ty rm a =
    if ty = .bf16 then fp32.convert bf16 false rm a
    else if ty = .fp32 then fp64.convert fp32 false rm a
    else
      let x := (BitVec.ofNat (2 * etBits ty) a).toInt
      let y := max (-(2 ^ (etBits ty - 1) : Int)) (min (2 ^ (etBits ty - 1) - 1) x)
      ((BitVec.ofInt (etBits ty) y).toNat, if x = y then 0 else flSAT) := by
  have pos : (0 : Int) < 2 ^ (etBits ty - 1) := by positivity
  have clamp := clampInt_eq (lo := -(2 ^ (etBits ty - 1) : Int)) (hi := 2 ^ (etBits ty - 1) - 1) (by omega) (BitVec.ofNat (2 * etBits ty) a).toInt
  rw [← sgn_eq_toInt (Nat.mul_pos two_pos (etBits_pos ty)) small] at clamp ⊢
  have saturated := congrArg (fun r : Int × Flags => (wrapTo (etBits ty) r.1, r.2)) clamp
  cases ty with
  | bf16 => rfl
  | fp32 => rfl
  | int8 | int16 | int32 => exact saturated

theorem unpackE_eq (small : a < 2 ^ etBits ty) : unpackE ty a =
    if ty = .bf16 then bf16.convert fp32 false .ne a else if ty = .fp32 then fp32.convert fp64 false .ne a
    else (((BitVec.ofNat (etBits ty) a).signExtend (2 * etBits ty)).toNat, 0) := by
  have extended : wrapTo (2 * etBits ty) (sgn (etBits ty) a) = ((BitVec.ofNat (etBits ty) a).signExtend (2 * etBits ty)).toNat := by
    rw [sgn_eq_toInt (etBits_pos ty) small]
    rfl
  cases ty with
  | bf16 => rfl
  | fp32 => rfl
  | int8 | int16 | int32 => exact congrArg (·, 0) extended

end

/-! ## Dot products (07 R141) -/

theorem dotLane_int8 (rm : RM) {c : Nat} (small : c < 2 ^ 32) (a b : VWord) (i : Nat) :
    let p (q : Nat) : Int := (BitVec.ofNat 8 (elem 8 a (4 * i + q))).toInt * (BitVec.ofNat 8 (elem 8 b (4 * i + q))).toInt
    dotLane .int8 rm c a b i = ((BitVec.ofInt 32 ((BitVec.ofNat 32 c).toInt + p 0 + p 1 + p 2 + p 3)).toNat, 0) := by
  have sa (q : Nat) := sgn_eq_toInt (w := 8) (by decide) (elem_lt 8 a q)
  have sb (q : Nat) := sgn_eq_toInt (w := 8) (by decide) (elem_lt 8 b q)
  simp only [dotLane, if_true, sa, sb, sgn_eq_toInt (w := 32) (by decide) small]
  rfl

theorem snanFlag_or (f g : FFmt) (xs ys : List Nat) : snanFlag f xs ||| snanFlag g ys = if xs.any f.isSnan || ys.any g.isSnan then flNV else 0 := by
  unfold snanFlag flagIf
  cases xs.any f.isSnan <;> cases ys.any g.isSnan <;> rfl

theorem dotLane_bf16 (rm : RM) (c : Nat) (a b : VWord) (i : Nat) :
    let p (q : Nat) := Exact.mul (bf16.decode (elem 16 a (2 * i + q))) (bf16.decode (elem 16 b (2 * i + q)))
    let s0 := Exact.add rm (fp32.decode c) (p 0).1
    let s1 := Exact.add rm s0.1 (p 1).1
    let r := fp32.round false rm s1.1
    dotLane .bf16 rm c a b i = (r.1, (if fp32.isSnan c || bf16.isSnan (elem 16 a (2 * i)) || bf16.isSnan (elem 16 b (2 * i))
        || bf16.isSnan (elem 16 a (2 * i + 1)) || bf16.isSnan (elem 16 b (2 * i + 1)) then flNV else 0)
      ||| (p 0).2 ||| (p 1).2 ||| s0.2 ||| s1.2 ||| r.2) := by
  intro p s0 s1 r
  have signals := snanFlag_or fp32 bf16 [c] [elem 16 a (2 * i), elem 16 b (2 * i), elem 16 a (2 * i + 1), elem 16 b (2 * i + 1)]
  simp only [List.any_cons, List.any_nil, Bool.or_false, ← Bool.or_assoc] at signals
  rw [← signals]
  rfl

/-! ## Reciprocals (07 R153) -/

section
variable {f : FFmt} (ieee : f.sp = .ieee) (rm : RM)
include ieee

/-- A result that overflows becomes the infinity of its sign; one that is no finite number does not overflow. -/
theorem FFmt.roundInf_eq {x : Exact} {sign : Bool} (signed : ∀ neg m e st, x = .fin neg m e st → neg = sign) : f.roundInf rm x =
    (if (f.round false rm x).2 &&& flOF = flOF then f.withSign sign f.infCode else (f.round false rm x).1, (f.round false rm x).2) := by
  cases x with
  | nan => simp [FFmt.roundInf, FFmt.round_nan ieee]
  | inf neg => simp [FFmt.roundInf, FFmt.round_inf ieee]
  | fin neg m e st =>
    obtain rfl := signed neg m e st rfl
    simp only [FFmt.roundInf]
    split <;> rfl

omit ieee in
/-- A finite reciprocal has the sign of its operand. -/
theorem FFmt.sign_of_reciprocal {a : Nat} (neg : Bool) (m : Nat) (e : Int) (st : Bool)
    (quotient : (Exact.div (.fin false 1 0 false) (f.decode a)).1 = .fin neg m e st) : neg = f.signBit a := by
  cases nan : f.isNan a with
  | true => simp [FFmt.decode_of_nan nan, Exact.div] at quotient
  | false =>
    cases inf : f.isInf a with
    | true => simp_all [FFmt.decode_of_inf nan inf, Exact.div]
    | false =>
      rw [FFmt.decode_of_finite nan inf] at quotient
      simp only [Exact.div] at quotient
      split at quotient
      · simp at quotient
      · simp_all

theorem rcpE_eq (a : Nat) :
    let q := Exact.div (.fin false 1 0 false) (f.decode a)
    let z := f.round false rm q.1
    rcpE f rm a = (if z.2 &&& flOF = flOF then f.withSign (f.signBit a) f.infCode else z.1, (if f.isSnan a then flNV else 0) ||| q.2 ||| z.2) := by
  intro q z
  have rounded := FFmt.roundInf_eq ieee rm (x := q.1) (FFmt.sign_of_reciprocal (f := f) (a := a))
  have signals : snanFlag f [a] = if f.isSnan a then flNV else 0 := by simp [snanFlag, flagIf]
  rw [← signals]
  simp only [rcpE, rounded, q, z]

end

theorem etFmt_sp (ty : ETy) : (etFmt ty).sp = .ieee := by cases ty <;> rfl

/-! ## Exact points of the approximate functions (07 R153) -/

/-- 2 to the power of a zero is one. -/
theorem exp2Fin_zero (neg : Bool) (e : Int) : exp2Fin neg 0 e = .fin false 1 0 false := by
  have near : magLt 0 e 16384 0 = true := by simp [magLt]
  simp [exp2Fin, near]

theorem exp2E_zero (rm : RM) : exp2E fp32 rm 0 = (0x3F80_0000, 0) := by
  have zero : fp32.decode 0 = .fin false 0 (-149) false := rfl
  rw [exp2E, zero]
  dsimp only
  rw [exp2Fin_zero]
  cases rm <;> rfl

theorem exp2E_neg_inf (rm : RM) : exp2E bf16 rm 0xFF80 = (0, 0) := by cases rm <;> rfl

theorem log2E_one (rm : RM) : log2E fp32 rm 0x3F80_0000 = (0, 0) := by cases rm <;> rfl

theorem log2E_zero (rm : RM) : log2E fp32 rm 0 = (0xFF80_0000, flDZ) := by cases rm <;> rfl

theorem rsqrtE_neg_one (rm : RM) : rsqrtE fp32 rm 0xBF80_0000 = (0x7FC0_0000, flNV) := by cases rm <;> rfl

/-- Settles O41: what each instruction computes of an element, and the approximate functions at the exact points. -/
theorem vectorConversions : Obligations.VectorConversions := by
  unfold Obligations.VectorConversions
  intro s u m issued isCtx mk ty dst f hi vd vs1 vs2 w g n rm a ok wide unary
  refine ⟨completes_putV issued isCtx rfl rfl, completes_elems_of_eq issued isCtx rfl rfl fun j => ?packed,
    completes_elems_of_eq issued isCtx rfl rfl fun j => unpackE_eq (elem_lt ..), fun int8 => ?int8, fun bf16 => ?bf16,
    completes_putV issued isCtx rfl rfl, completes_elems_of_eq issued isCtx rfl rfl fun j => rfl,
    completes_elems_of_eq issued isCtx rfl rfl fun j => rfl, completes_elems_of_eq issued isCtx rfl rfl fun j => rfl,
    completes_elems_of_eq issued isCtx rfl rfl fun j => rcpE_eq (etFmt_sp ty) rm (a j), completes_elems_of_eq issued isCtx rfl rfl fun j => rfl,
    exp2E_zero rm, log2E_one rm, log2E_zero rm, rsqrtE_neg_one rm, exp2E_neg_inf rm⟩
  case packed => exact congrArg₂ (ite (j < n / 2)) (packE_eq rm (elem_lt ..)) (packE_eq rm (elem_lt ..))
  case int8 =>
    subst int8
    exact completes_elems_of_eq issued isCtx rfl rfl fun i => dotLane_int8 rm (elem_lt ..) ..
  case bf16 =>
    subst bf16
    exact completes_elems_of_eq issued isCtx rfl rfl fun i => dotLane_bf16 ..

end Sys2Proof.Machine
end

section
/-! SUPPORT. The CSR writes that command a unit (O18): the tensor table's cache, the configuration of a panel, the exchange schedule, the
side cores. -/

namespace Sys2Proof.Machine

open Sys2Proof.Safety

/-! ## A write form of a context (05 R100) -/

/-- A write form whose CSR is neither FFLAGS nor the command of the table's cache waits for nothing; that one waits for stores alone. -/
theorem State.csrPut_ready {u : State} {n : BitVec 11} (i : Instr) (rd rs1 : Reg) (f : CsrForm) (allowed : u.csrAllowed n.toNat true = true)
    (noFlags : n.toNat ≠ 0x001) (ready : n.toNat ≠ 0x040 ∨ u.storesOut u.src = false) :
    u.csrPut i f rd rs1 n = .ok ((u.csrWrite n.toNat (CsrForm.apply f (u.csrRead n.toNat) (u.x rs1))).setX rd (u.csrRead n.toNat)) := by
  have stored : (decide (n.toNat = 0x040) && u.storesOut u.src) = false := by
    rw [Bool.and_eq_false_iff, decide_eq_false_iff_not]
    exact ready
  simp [State.csrPut, allowed, State.flagsBusy, noFlags, stored]

section
variable {s u : State} {m : SMark} {i j : Instr} {rd rs1 : Reg} {n : BitVec 11} {old : Word} {w : State} (issued : issues s m u)
  (isCtx : u.isCtx = true)
include issued isCtx

theorem completes_csrWr (meaning : exec i s = .next (issue j m true (fun s => s.csrPut j .wr rd rs1 n) s)) (exists' : csrExists n.toNat = true)
    (written : csrReadOnly n.toNat = false) (noFlags : n.toNat ≠ 0x001) (ready : n.toNat ≠ 0x040 ∨ u.storesOut u.src = false)
    (value : u.csrRead n.toNat = old) (wrote : u.csrWrite n.toNat (u.x rs1) = w) : completes i s fun t => writesOnly w t rd old := by
  have ends := State.csrPut_ready j rd rs1 .wr (State.csrAllowed_write_ctx exists' written isCtx) noFlags ready
  rw [value, CsrForm.apply, wrote] at ends
  exact completes_next (exec_of_ok (exec_scalar issued meaning) ends) (writesOnly_setX w rd old)

end

/-! ## What the commands do -/

theorem State.csrWrite_zcfg (u : State) (z : ZReg) (v : Word) : u.csrWrite (0x03#7 ++ z).toNat v = u.writeZcfg z.toNat v := by
  have small := z.isLt
  have inside : isZcfg (0x030 + z.toNat) = true := by
    simp only [isZcfg, Bool.and_eq_true, decide_eq_true_eq]
    omega
  rw [toNat_zcfg, State.csrWrite]
  simp (disch := omega) only [if_neg, inside, if_true, Nat.add_sub_cancel_left]

theorem State.csrRead_ctl (u : State) (sd : Side) : u.csrRead sd.ctlCsr.toNat = (u.tile.side sd).ctl := by cases sd <;> rfl

theorem State.csrWrite_ctl (u : State) (sd : Side) (v : Word) : u.csrWrite sd.ctlCsr.toNat v = u.ctlWrite sd v := by cases sd <;> rfl

theorem SideCore.busy_iff (c : SideCore) : c.busy = true ↔ c.st = .loading ∨ c.st = .running := by simp [SideCore.busy]

section
variable {c : SideCore} {v : Word} (ws : Wsid)

/-- GO with at least one instruction to load (06 R125). -/
theorem SideCore.writeCtl_go (go : v.getLsbD 17 = true) (noStop : v.getLsbD 18 = false) (notLoading : c.st ≠ .loading) (notRunning : c.st ≠ .running)
    (length : 4 ≤ (v.setWidth 17 : BitVec 17).toNat) : c.writeCtl v ws =
      { c with len := v.setWidth 17, wsid := ws, inc := c.inc + 1, st := .loading, goLen := v.setWidth 17, goImg := c.img, stall := none } := by
  have idle : c.busy = false := Bool.eq_false_of_not_eq_true fun busy => (c.busy_iff.mp busy).elim notLoading notRunning
  have starts : (v.getLsbD 17 && !c.busy) = true := by rw [go, idle]; rfl
  have loads : loadLen (v.setWidth 17) ≠ 0 := by
    unfold loadLen
    omega
  exact (if_neg (ne_true_of_eq_false noStop)).trans ((if_pos starts).trans (if_neg loads))

/-- STOP of a side core that runs. -/
theorem SideCore.writeCtl_stop (stop : v.getLsbD 18 = true) (running : c.st = .running) : c.writeCtl v ws =
    { c with
      len := v.setWidth 17, st := .stopped, stall := none, pending := none, th := { c.th with outs := [] }
      spc := if c.th.pc.toNat < 0x1_0000 then BitVec.ofNat 16 c.th.pc.toNat else 0xFFFF } :=
  (if_pos stop).trans (if_pos (c.busy_iff.mpr (.inr running)))

end

/-- The faults that a side core leaves to the fault record are written to memory. -/
theorem sideLeft_outside (s : State) (n : Nat) (sd : Side) : sameOutsideMemory s (s.sideLeft n sd) := by
  unfold State.sideLeft
  dsimp only
  split
  · split
    · exact (recordDrops_outside ..).trans (faultRecord_outside ..)
    · exact recordDrops_outside ..
  · exact recordDrops_outside ..

theorem State.side_sideLeft (u : State) (sd sd' : Side) : (u.sideLeft u.curTile sd).tile.side sd' = u.tile.side sd' := by
  have left := sideLeft_outside u u.curTile sd
  have own : (u.sideLeft u.curTile sd).tile = (u.sideLeft u.curTile sd).tileAt u.curTile := congrArg _ left.curTile
  rw [own]
  cases sd' with
  | loader => exact (congrArg Tile.ldr (left.tile u.curTile) :)
  | storer => exact (congrArg Tile.str (left.tile u.curTile) :)

/-! ## The statement -/

/-- Settles O18, each command from what its CSR takes of the value written. -/
theorem csrCommands : Obligations.CsrCommands := by
  unfold Obligations.CsrCommands
  intro s u m issued isCtx rd rs1 z sd v put core
  have panel : ∀ z : ZReg, csrExists (0x03#7 ++ z).toNat = true ∧ csrReadOnly (0x03#7 ++ z).toNat = false ∧ (0x03#7 ++ z).toNat ≠ 0x001
      ∧ (0x03#7 ++ z).toNat ≠ 0x040 := by decide
  obtain ⟨zExists, zWritten, zNoFlags, zNoInv⟩ := panel z
  have zcfg {w : State} (wrote : u.writeZcfg z.toNat v = w) : completes (.zcfgWrite m .wr z rd rs1) s (put (u.tile.panels.getD z.toNat .reset).cfg w) :=
    completes_csrWr issued isCtx rfl zExists zWritten zNoFlags (.inl zNoInv) (u.csrRead_zcfg z) ((u.csrWrite_zcfg z v).trans wrote)
  have xsdata {T : Tile} (wrote : u.tile.writeXs v = T) : completes (.xsdataWrite m .wr rd rs1) s fun t => ∃ old, put old (u.putTile T) t := by
    obtain ⟨t, runs, wrote⟩ := completes_csrWr (i := .xsdataWrite m .wr rd rs1) issued isCtx rfl rfl rfl (by decide) (.inl (by decide)) rfl
      (congrArg u.putTile wrote)
    exact ⟨t, runs, _, wrote⟩
  have ctl : ∀ sd : Side, csrExists sd.ctlCsr.toNat = true ∧ csrReadOnly sd.ctlCsr.toNat = false ∧ sd.ctlCsr.toNat ≠ 0x001 ∧ sd.ctlCsr.toNat ≠ 0x040 := by
    intro sd
    cases sd <;> decide
  obtain ⟨cExists, cWritten, cNoFlags, cNoInv⟩ := ctl sd
  refine ⟨fun stored => ?ttinv, fun illegal => zcfg (if_neg (ne_true_of_eq_false illegal)), fun legal => zcfg (if_pos legal),
    fun opened => xsdata ?opened, fun closed nonzero => xsdata ?closed, fun go noStop notLoading notRunning length => ?go, fun stop running => ?stop⟩
  case ttinv =>
    obtain ⟨t, runs, wrote⟩ := completes_csrWr (i := .ttinv m .wr rd rs1) issued isCtx rfl rfl rfl (by decide) (.inr stored) rfl rfl
    exact ⟨t, runs, _, wrote⟩
  case opened =>
    have isOpen : u.tile.windowOpen = true := by simp [Tile.windowOpen, opened]
    exact if_pos isOpen
  case closed =>
    have isClosed : ¬ u.tile.windowOpen = true := by simp [Tile.windowOpen, closed]
    exact (if_neg isClosed).trans (by rw [xsMask, if_neg nonzero])
  case go =>
    refine completes_csrWr issued isCtx rfl cExists cWritten cNoFlags (.inl cNoInv) (u.csrRead_ctl sd) ((u.csrWrite_ctl sd v).trans ?_)
    have noFaults : ¬ v.getLsbD 18 = true := ne_true_of_eq_false noStop
    rw [State.ctlWrite, if_neg noFaults, SideCore.writeCtl_go u.ws go noStop notLoading notRunning length]
  case stop =>
    refine completes_csrWr issued isCtx rfl cExists cWritten cNoFlags (.inl cNoInv) (u.csrRead_ctl sd) ((u.csrWrite_ctl sd v).trans ?_)
    rw [State.ctlWrite, if_pos stop, State.side_sideLeft, SideCore.writeCtl_stop u.ws stop running]

end Sys2Proof.Machine
end

section
/-! SUPPORT. The launch of a copy (O19): what a read of a tensor table leaves of the machine, the channel that a launch starts, and how a read
of CP_GO ends. -/

namespace Sys2Proof.Machine

open Sys2Proof.Safety

/-! ## A read of a tensor table (08 R165) -/

/-- The same agent acts, and of every tile everything is as it was but its L1, the bits of its TLB's replacement and its cache of the tensor
table. -/
structure sameButCaches (s t : State) : Prop where
  curTile : t.curTile = s.curTile
  curAgent : t.curAgent = s.curAgent
  tile : ∀ n, { t.tileAt n with tt := (s.tileAt n).tt, l1 := (s.tileAt n).l1, plru := (s.tileAt n).plru } = s.tileAt n

theorem sameOutsideMemory.caches {s t : State} (h : sameOutsideMemory s t) : sameButCaches s t where
  curTile := h.curTile
  curAgent := h.curAgent
  tile n := congrArg (fun T : Tile => { T with tt := (s.tileAt n).tt, plru := (s.tileAt n).plru }) (h.tile n)

namespace sameButCaches

theorem refl (s : State) : sameButCaches s s := ⟨rfl, rfl, fun _ => rfl⟩

theorem trans {s t u : State} (h : sameButCaches s t) (k : sameButCaches t u) : sameButCaches s u where
  curTile := k.curTile.trans h.curTile
  curAgent := k.curAgent.trans h.curAgent
  tile n := (congrArg (fun T : Tile => { T with tt := (s.tileAt n).tt, l1 := (s.tileAt n).l1, plru := (s.tileAt n).plru }) (k.tile n)).trans (h.tile n)

theorem setTile {s : State} {n : Nat} {T : Tile} (h : { T with tt := (s.tileAt n).tt, l1 := (s.tileAt n).l1, plru := (s.tileAt n).plru } = s.tileAt n) :
    sameButCaches s (s.setTile n T) := by
  refine ⟨rfl, rfl, fun m => ?_⟩
  by_cases hm : m = n
  · rw [hm, State.tileAt_setTile_same, h]
  · rw [State.tileAt_setTile_ne hm]

section
variable {s t : State} (h : sameButCaches s t)
include h

theorem here : { t.tile with tt := s.tile.tt, l1 := s.tile.l1, plru := s.tile.plru } = s.tile := by
  have at' : t.tile = t.tileAt s.curTile := congrArg t.tileAt h.curTile
  rw [at']
  exact h.tile s.curTile

theorem th : t.th = s.th := by
  have own := congrArg (Tile.thread · s.curAgent) h.here
  rw [State.th, State.th, h.curAgent, ← own]
  cases s.curAgent <;> rfl

theorem pc : t.pc = s.pc := congrArg Thread.pc h.th
theorem readX (r : Reg) : t.x r = s.x r := congrArg (Thread.readX · r) h.th

theorem src : t.src = s.src := by
  unfold State.src State.ws
  rw [h.curTile, h.curAgent, ← h.here]

end

end sameButCaches

theorem seeRuns_outside (s : State) (l : List (Nat × Nat)) (ws : Nat) : sameOutsideMemory s (s.seeRuns l ws) :=
  (sameOutsideMemory.foldl (fun s a => (touchLine_outside s a).trans (takeSector_outside _ a false)) _ s).trans (nomemRuns_outside ..)

theorem winSee_outside (s : State) (ows rid off len : Nat) (ws : Wsid) : sameOutsideMemory s (s.winSee ows rid off len ws) := by
  unfold State.winSee
  split
  · exact seeRuns_outside ..
  · exact .refl s

theorem touchWin_outside (s : State) (ows rid off : Nat) : sameOutsideMemory s (s.touchWin ows rid off) := by
  unfold State.touchWin
  split
  · exact .refl s
  · exact writeAt_outside ..

theorem leaveOrder_outside (s : State) (k : List Nat) : sameOutsideMemory s (s.leaveOrder k) := ⟨rfl, rfl, rfl, rfl, fun _ => rfl⟩

theorem touchTlb_caches (s : State) (n : Nat) (ws : Wsid) (va : Nat) : sameButCaches s (s.touchTlb n ws va) := by
  unfold State.touchTlb
  split
  · exact .setTile rfl
  · exact .refl s

theorem engTouch_caches (s : State) (e : EngId) (write : Bool) (p : EPlace × Nat) : sameButCaches s (s.engTouch e write p) := by
  unfold State.engTouch
  split
  case h_1 => exact .refl s
  case h_2 va pa _ =>
    have sectors := sameOutsideMemory.foldl (fun s a => takeSector_outside s a write) (sectorsOf pa p.2) ((s.touchTlb e.tile e.ws va).touchLine pa)
    exact (touchTlb_caches ..).trans (((touchLine_outside _ pa).trans sectors).trans (leaveOrder_outside ..)).caches
  case h_3 => exact (touchTlb_caches ..).trans ⟨rfl, rfl, fun _ => rfl⟩
  case h_4 =>
    refine ((sameOutsideMemory.trans ?_ (touchWin_outside ..)).trans (leaveOrder_outside ..)).caches
    split
    · exact .refl s
    · exact winSee_outside ..

theorem engNomem_outside (s : State) (e : EngId) (ps : List (EPlace × Nat)) : sameOutsideMemory s (s.engNomem e ps) := by
  unfold State.engNomem
  split
  · exact noteNomem_outside ..
  · exact ⟨rfl, rfl, rfl, rfl, fun _ => rfl⟩
  · exact .refl s

/-! ### An access of an engine that faults -/

section
variable {s s' : State} {e : EngId} {need : Need} {ws : Wsid} {who va n a : Nat} {c : Byte}

theorem needWalk_trap {α : Type} (faults : s.needWalk (α := α) who ws va need = .trap c a s') : sameOutsideMemory s s' := by
  unfold State.needWalk at faults
  split at faults
  · cases faults
    exact ⟨rfl, rfl, rfl, rfl, fun _ => rfl⟩
  · cases faults

theorem viaTlb_trap {tile : Nat} (faults : s.viaTlb tile who ws va need = .trap c a s') : sameOutsideMemory s s' := by
  unfold State.viaTlb at faults
  split at faults
  · split at faults
    · cases faults
      exact .refl s
    · split at faults
      · cases faults
      · exact needWalk_trap faults
  · split at faults
    · cases faults
    · exact needWalk_trap faults

theorem reachGlobal_trap {tile : Nat} (faults : s.reachGlobal tile who ws va need = .trap c a s') : sameOutsideMemory s s' := by
  unfold State.reachGlobal at faults
  split at faults
  · split at faults
    next walked =>
      cases faults
      exact needWalk_trap walked
    next => exact needWalk_trap faults
  · split at faults
    next => cases faults
    next => cases faults
    next walked =>
      cases faults
      exact viaTlb_trap walked
  · split at faults
    next => cases faults
    next => cases faults
    next walked =>
      cases faults
      exact viaTlb_trap walked

theorem engGlobal_trap (faults : s.engGlobal e need va n = .trap c a s') : sameOutsideMemory s s' := by
  unfold State.engGlobal engStall at faults
  split at faults
  next => cases faults
  next reached =>
    cases faults
    exact reachGlobal_trap reached
  next => cases faults
  next => split at faults <;> cases faults
  next =>
    split at faults
    · cases faults
    · split at faults <;> cases faults

theorem engWindow_trap (faults : s.engWindow e need va n = .trap c a s') : sameOutsideMemory s s' := by
  unfold State.engWindow engStall at faults
  split at faults
  · cases faults
    exact .refl s
  · split at faults
    · cases faults
      exact .refl s
    · split at faults
      · cases faults
      · split at faults <;> cases faults

theorem engPlace_trap (faults : s.engPlace e need va n = .trap c a s') : sameOutsideMemory s s' := by
  unfold State.engPlace at faults
  split at faults
  · cases faults
    exact .refl s
  · cases faults
  · exact engWindow_trap faults
  · exact engGlobal_trap faults

end

theorem ttFetch_caches (s : State) (e : EngId) (tid : BitVec 10) (p : EPlace) : sameButCaches s (s.ttFetch e tid p).1 := by
  have seen : sameButCaches s ((s.engTouch e false (p, 128)).engNomem e [(p, 128)]) := (engTouch_caches ..).trans (engNomem_outside ..).caches
  unfold State.ttFetch
  dsimp only
  split
  · exact seen.trans (.setTile rfl)
  · exact seen

theorem ttRead_caches {s : State} {who n : Nat} {ws : Wsid} {tid : BitVec 10} {r : State × Option (List Byte)} (read : s.ttRead who n ws tid = .ok r) :
    sameButCaches s r.1 := by
  unfold State.ttRead at read
  dsimp only at read
  split at read
  · cases read
    exact .setTile rfl
  · split at read
    · cases read
      exact .refl s
    · split at read
      next => cases read
      next faults =>
        cases read
        exact (engPlace_trap faults).caches
      next =>
        cases read
        exact ttFetch_caches ..

/-- An entry whose read faults counts as malformed; the read does not trap (08 R167). -/
theorem ttRead_not_trap {s s' : State} {who n a : Nat} {ws : Wsid} {tid : BitVec 10} {c : Byte} (read : s.ttRead who n ws tid = .trap c a s') : False := by
  unfold State.ttRead at read
  dsimp only at read
  split at read
  · cases read
  · split at read
    · cases read
    · split at read <;> cases read

theorem copyEntries_caches {s : State} {ws : Wsid} {src dst : BitVec 10} {r : State × Option (List Byte × List Byte)}
    (read : s.copyEntries ws src dst = .ok r) : sameButCaches s r.1 := by
  unfold State.copyEntries at read
  split at read
  next => cases read
  next first =>
    cases read
    exact (ttRead_not_trap first).elim
  next first =>
    cases read
    exact ttRead_caches first
  next first =>
    split at read
    next => cases read
    next second =>
      cases read
      exact (ttRead_not_trap second).elim
    next second =>
      cases read
      exact (ttRead_caches first).trans (ttRead_caches second)
    next second =>
      cases read
      exact (ttRead_caches first).trans (ttRead_caches second)

/-! ## A committing instruction that writes rd (01 R20) -/

theorem committedTo_setX (u : State) (rd : Reg) (v pc : Word) : committedTo pc (u.setX rd v) = u.putTile (agentTile u { u.th.writeX rd v with pc := pc }
    fun k => { k with rgnpc := pc, live := k.live.union (k.written.addX rd), written := .empty, claim := false }) := by
  cases ha : u.curAgent <;>
    simp [committedTo, beganRegion, wentOn, agentTile, State.setX, Tile.writeX, ha, State.putTile_putTile, State.th, Tile.thread, Context.writeX,
      Thread.writeX_eq]

theorem committed_setX (u : State) (rd : Reg) (v : Word) : let t := committedTo (u.pc + 4) (u.setX rd v)
    t.x rd = (if rd = 0 then 0 else v) ∧ sameX u t rd ∧ t.pc = u.pc + 4 ∧ sameCore u t ∧ sameBytes u t := by
  rw [committedTo_setX]
  have core := agentTile_core u { u.th.writeX rd v with pc := u.pc + 4 }
    fun k => { k with rgnpc := u.pc + 4, live := k.live.union (k.written.addX rd), written := .empty, claim := false }
  refine ⟨?_, fun r other => ?_, ?_, sameCore_putTile core, sameBytes_putTile core⟩
  · rw [State.x, th_agentTile]
    exact Thread.readX_writeX_self u.th rd v
  · rw [State.x, th_agentTile]
    exact (Thread.readX_writeX u.th rd r v).trans (if_neg fun same => other same.1)
  · rw [State.pc, th_agentTile]

/-! ## The channel of a launch (09 R195, R196) -/

/-- A channel as a launch leaves it. -/
def launched (T : Tile) (ch : Fin 4) (src : Src) (f : Nat) (cp : CopyCsrs) (es : Option (List Byte × List Byte)) : Chan :=
  { st := .running, xid := T.nextXid, status := T.chans[ch].status, done := 0, owner := src, srcA := cp.src, dstA := cp.dst, len := copyCount cp es
    opt := cp.opt, srcE := (es.map (·.1)).getD [], dstE := (es.map (·.2)).getD [], next := 0, inAir := 0, faddr := 0, postCmb := opCmb cp.opt
    postQ3 := opCq3 cp.opt, fenceE := f, stop := 0, recast := false, stage := none, half := [] }

/-- A copy of nothing is over at once. -/
def Chan.endedIfEmpty (c : Chan) : Chan := if c.len = 0 then { c with st := .posting, status := 0 } else c

theorem Chan.endedIfEmpty_eq (c : Chan) : c.endedIfEmpty =
    { c with st := if c.len = 0 then .posting else c.st, status := if c.len = 0 then 0 else c.status } := by
  unfold Chan.endedIfEmpty
  split <;> rfl

theorem copyCount_linear (cp : CopyCsrs) : copyCount cp none = cp.len.toNat % 2 ^ 32 := congrArg (· % 2 ^ 32) (Nat.div_one _)

/-- A tile with a channel started and the next copy's number; `locks` are its range locks. -/
def Tile.started (T : Tile) (ch : Fin 4) (c : Chan) (locks : List (Nat × RangeLock)) : Tile :=
  { T with chans := T.chans.set ch c, nextXid := Machine.nextXid T.nextXid, locks := locks }

theorem Tile.addLock_started (T : Tile) (ch : Fin 4) (c : Chan) (locks : List (Nat × RangeLock)) (dst : Bool) (xid : BitVec 16) (lo hi : Nat) :
    ∃ locks', (T.started ch c locks).addLock ch dst xid lo hi = T.started ch c locks' := by
  unfold Tile.addLock
  split
  · exact ⟨_, rfl⟩
  · split <;> exact ⟨_, rfl⟩

theorem clearForCopy_outside (s : State) (n ws lo hi : Nat) : sameOutsideMemory s (s.clearForCopy n ws lo hi) :=
  (evictWords_outside ..).withFlights _

theorem State.startCopy_outside (s : State) (n : Nat) (ch : Fin 4) (src : Src) (f : Nat) (cp : CopyCsrs) (es : Option (List Byte × List Byte)) :
    ∃ locks, sameOutsideMemory (s.setTile n ((s.tileAt n).started ch (launched (s.tileAt n) ch src f cp es) locks)) (s.startCopy n ch src f cp es) := by
  let c := launched (s.tileAt n) ch src f cp es
  let spans := s.copySpans n cp (copyCount cp es) es
  obtain ⟨l, source⟩ := (s.tileAt n).addLock_started ch c (s.tileAt n).locks false (s.tileAt n).nextXid spans.1.1 spans.1.2
  obtain ⟨locks, both⟩ := (s.tileAt n).addLock_started ch c l true (s.tileAt n).nextXid spans.2.1 spans.2.2
  refine ⟨locks, ?_⟩
  rw [← both, ← source]
  unfold State.startCopy
  dsimp only
  split
  · exact clearForCopy_outside ..
  · exact .refl _

/-- The same change of a tile's channels and locks on both sides. -/
theorem sameOutsideMemory.mapTile {s t : State} (h : sameOutsideMemory s t) (n : Nat) {f : Tile → Tile}
    (commutes : ∀ T l, f { T with l1 := l } = { f T with l1 := l }) : sameOutsideMemory (s.setTile n (f (s.tileAt n))) (t.setTile n (f (t.tileAt n))) := by
  refine ⟨h.curTile, h.curAgent, h.dies, h.mgmt, fun m => ?_⟩
  by_cases hm : m = n
  · have changed : { f (t.tileAt n) with l1 := (s.tileAt n).l1 } = f (s.tileAt n) := (commutes ..).symm.trans (congrArg f (h.tile n))
    have l1 : (f (s.tileAt n)).l1 = (s.tileAt n).l1 := (congrArg Tile.l1 changed).symm
    rw [hm, State.tileAt_setTile_same, State.tileAt_setTile_same, l1, changed]
  · rw [State.tileAt_setTile_ne hm, State.tileAt_setTile_ne hm, h.tile m]

/-- A tile whose channel `ch` has ended without a fault. -/
def Tile.closed (T : Tile) (ch : Fin 4) : Tile :=
  { T with locks := T.locks.filter (fun e => e.2.chan != ch), chans := T.chans.set ch { T.chans[ch] with st := .posting, status := 0 } }

theorem State.closeCopy_complete {s : State} {n : Nat} {ch : Fin 4} (plain : ((s.tileAt n).chans[ch]).recast = false) :
    s.closeCopy n ch 0 = s.setTile n ((s.tileAt n).closed ch) :=
  (if_neg (ne_true_of_eq_false plain)).trans (if_neg (by decide))

/-- What a launch on channel `ch` makes of the state. -/
def State.launchCopy (s : State) (ch : Fin 4) (es : Option (List Byte × List Byte)) : State :=
  let v := s.startCopy s.curTile ch s.src s.th.fenceE s.th.cp es
  if v.tile.chans[ch].len = 0 then v.closeCopy v.curTile ch 0 else v

theorem Tile.closed_started (T : Tile) (ch : Fin 4) (c : Chan) (locks : List (Nat × RangeLock)) : (T.started ch c locks).closed ch =
    T.started ch { c with st := .posting, status := 0 } (locks.filter fun e => e.2.chan != ch) := by
  simp [Tile.closed, Tile.started]

theorem State.launchCopy_outside (s : State) (ch : Fin 4) (es : Option (List Byte × List Byte)) : ∃ locks, sameOutsideMemory
    (s.putTile (s.tile.started ch (launched s.tile ch s.src s.th.fenceE s.th.cp es).endedIfEmpty locks)) (s.launchCopy ch es) := by
  let c := launched s.tile ch s.src s.th.fenceE s.th.cp es
  obtain ⟨locks, started⟩ := s.startCopy_outside s.curTile ch s.src s.th.fenceE s.th.cp es
  let v := s.startCopy s.curTile ch s.src s.th.fenceE s.th.cp es
  have here : v.curTile = s.curTile := started.curTile
  have own : v.tile = v.tileAt s.curTile := congrArg v.tileAt here
  have chan : (v.tileAt s.curTile).chans[ch] = c := by
    have tile := started.tile s.curTile
    rw [State.tileAt_setTile_same] at tile
    have chans : (v.tileAt s.curTile).chans = s.tile.chans.set ch c := (congrArg Tile.chans tile :)
    simp [chans]
  by_cases nothing : c.len = 0
  · have ends : s.launchCopy ch es = v.setTile s.curTile ((v.tileAt s.curTile).closed ch) := by
      have empty : v.tile.chans[ch].len = 0 := by rw [own, chan, nothing]
      have plain : (v.tileAt s.curTile).chans[ch].recast = false := by rw [chan]; rfl
      exact (if_pos empty).trans ((congrArg (v.closeCopy · ch 0) here).trans (State.closeCopy_complete plain))
    have both := started.mapTile s.curTile (f := (Tile.closed · ch)) fun _ _ => rfl
    rw [State.tileAt_setTile_same, Tile.closed_started, State.setTile_setTile] at both
    rw [ends, Chan.endedIfEmpty, if_pos nothing]
    exact ⟨_, both⟩
  · have goes : s.launchCopy ch es = v := by
      have more : ¬ v.tile.chans[ch].len = 0 := by rwa [own, chan]
      rw [State.launchCopy, if_neg more]
    rw [goes, Chan.endedIfEmpty, if_neg nothing]
    exact ⟨locks, started⟩

section
variable (s : State) (ch : Fin 4) (es : Option (List Byte × List Byte))

theorem State.th_launchCopy : (s.launchCopy ch es).th = s.th := by
  obtain ⟨locks, launch⟩ := s.launchCopy_outside ch es
  rw [launch.caches.th, State.th_putTile]
  cases ha : s.curAgent <;> simp [State.th, ha, Tile.thread, Tile.started]

/-- The launch takes the copy's number and its channel. -/
theorem State.tile_launchCopy : (s.launchCopy ch es).tile.nextXid = nextXid s.tile.nextXid
    ∧ (s.launchCopy ch es).tile.chans = s.tile.chans.set ch (launched s.tile ch s.src s.th.fenceE s.th.cp es).endedIfEmpty := by
  obtain ⟨locks, launch⟩ := s.launchCopy_outside ch es
  have here := launch.caches.here
  rw [State.tile_putTile] at here
  exact ⟨(congrArg Tile.nextXid here :), (congrArg Tile.chans here :)⟩

end

/-! ## Why a launch is refused (09 R195, 08 R183) -/

/-- Where a reason holds, the lowest that holds is not above the last. -/
theorem formatPair_le {l : List (Nat × Bool)} {k : Nat} (holds : (k, true) ∈ l) (last : ∀ e ∈ l, e.1 ≤ k) : ∃ r, formatPair l = some r ∧ r ≤ k := by
  cases found : l.find? (·.2) with
  | none => exact absurd (List.find?_eq_none.mp found _ holds) (by simp)
  | some e => exact ⟨e.1, by rw [formatPair, found]; rfl, last e (List.mem_of_find?_eq_some found)⟩

section
variable {T : Tile} {cp : CopyCsrs}

theorem Tile.refuses_busy (es : Option (List Byte × List Byte)) (busy : T.idleChan = none) : T.refuses cp es = some 1 := by
  simp [Tile.refuses, formatPair, busy]

theorem Tile.refuses_unread (tensor : opMode cp.opt = true) : ∃ r, T.refuses cp none = some r ∧ r ≤ 4 := by
  refine formatPair_le ?_ (by simp)
  simp [tensor]

end

/-! ## A read of CP_GO (09 R195) -/

section
variable {u w : State} {es : Option (List Byte × List Byte)} (rd : Reg) (acquired : u.acquiring = false)
  (performed : u.released u.th.outs u.src .tile = true)
  (entries : (if opMode u.th.cp.opt then u.copyEntries u.ws (u.th.cp.src.setWidth 10) (u.th.cp.dst.setWidth 10) else .ok (u, none)) = .ok (w, es))
include acquired performed entries

theorem State.copyGo_refused {r : Nat} (refused : w.tile.refuses u.th.cp es = some r) : u.copyGo rd = .commit (w.setX rd (refusedWord r)) := by
  rw [State.copyGo, acquired, State.tileRelease, performed]
  dsimp only
  rw [entries]
  dsimp only
  rw [refused]
  rfl

theorem State.copyGo_launched {ch : Fin 4} (same : w.th.cp = u.th.cp) (accepted : w.tile.refuses u.th.cp es = none) (idle : w.tile.idleChan = some ch) :
    u.copyGo rd = .commit ((w.launchCopy ch es).setX rd (BitVec.ofNat 64 (w.tile.nextXid.toNat + ch.val * 2 ^ 16))) := by
  rw [State.copyGo, acquired, State.tileRelease, performed, State.launchCopy, same]
  dsimp only
  rw [entries]
  dsimp only
  rw [accepted, idle]
  rfl

end

/-- Settles O19, by whether the launch is refused, and by what it leaves of the channel that was idle. -/
theorem copyLaunch : Obligations.CopyLaunch := by
  unfold Obligations.CopyLaunch
  intro s u w m rd es issued free performed read cp
  obtain ⟨acquired, noStream, -⟩ := free
  have found : (if opMode u.th.cp.opt then u.copyEntries u.ws (u.th.cp.src.setWidth 10) (u.th.cp.dst.setWidth 10) else .ok (u, none)) = .ok (w, es)
      ∧ sameButCaches u w ∧ (opMode u.th.cp.opt = false → es = none) := by
    by_cases tensor : opMode u.th.cp.opt = true
    · rw [if_pos tensor] at read ⊢
      exact ⟨read, copyEntries_caches read, fun linear => absurd tensor (ne_true_of_eq_false linear)⟩
    · rw [if_neg tensor] at read ⊢
      obtain ⟨rfl, rfl⟩ := read
      exact ⟨rfl, .refl w, fun _ => rfl⟩
  obtain ⟨entries, caches, linear⟩ := found
  have same : cp = u.th.cp := congrArg Thread.cp caches.th
  have runs := exec_scalar (i := .cpGo m rd) issued rfl
  refine ⟨fun ch accepted idle => ?launched, fun r refused => ?refused, Tile.refuses_busy es, fun tensor unread => unread ▸ Tile.refuses_unread tensor⟩
  case refused =>
    rw [same] at refused
    have ends := exec_of_commit runs (noStream true true) (State.copyGo_refused rd acquired performed entries refused)
    rw [State.pc_setX] at ends
    obtain ⟨x, others, pc, core, bytes⟩ := committed_setX w rd (refusedWord r)
    refine completes_next ends ⟨?_, fun q other => (others q other).trans (caches.readX q), pc.trans (by rw [caches.pc]), core, bytes⟩
    rw [x, refusedWord, Nat.add_comm]
  case launched =>
    rw [same] at accepted
    have ends := exec_of_commit runs (noStream true true) (State.copyGo_launched rd acquired performed entries same accepted idle)
    rw [State.pc_setX] at ends
    obtain ⟨x, others, pc, core, -⟩ := committed_setX (w.launchCopy ch es) rd (BitVec.ofNat 64 (w.tile.nextXid.toNat + ch.val * 2 ^ 16))
    have th : (w.launchCopy ch es).th = u.th := (w.th_launchCopy ch es).trans caches.th
    obtain ⟨xid, chans⟩ := w.tile_launchCopy ch es
    rw [Chan.endedIfEmpty_eq] at chans
    refine completes_next ends ⟨x, fun q other => (others q other).trans (congrArg (Thread.readX · q) th), pc.trans (congrArg (·.pc + 4) th),
      (congrArg Tile.nextXid core :).trans xid, ?_⟩
    rw [(congrArg Tile.chans core :).trans chans]
    have own (c : Chan) : (w.tile.chans.set ch c)[ch] = c := Vector.getElem_set_self ..
    have elsewhere (c : Chan) (d : Fin 4) (other : d ≠ ch) : (w.tile.chans.set ch c)[d] = w.tile.chans[d] := vset_ne _ _ _ _ other.symm
    simp only [own]
    refine ⟨rfl, fun nothing => if_pos nothing, rfl, caches.src, rfl, rfl, rfl, rfl, rfl, fun off => ?_, rfl, rfl, rfl, elsewhere _⟩
    rw [same] at off
    rw [linear off]
    exact copyCount_linear _

end Sys2Proof.Machine
end

section
/-! SUPPORT. ZLD of an entry that the tile has not cached (O43). -/

namespace Sys2Proof.Machine

open Sys2Proof.Safety

/-! ## A tensor table in the store window (08 R165, 11 R240) -/

namespace TableInWindow

/-- Bytes at addresses of die 0's HBM. Workspace 0 has a tensor table at the start of the store window, and a region table at 0x4000 with one
region of one page: its backing is at 0x8000, where entry 0 is a BF16 tensor of rank 1, and its store table at 0x6000 is empty. -/
def hbm : Mem := [(0x4000, 9), (0x4005, 0x80), (0x4008, 0x80), (0x4019, 0x60), (0x401C, 0x80), (0x8000, 0x10), (0x8003, 0x80),
  (wstOff + 8 * wTTBASE + 7, 0xFE), (wstOff + 8 * wSWBASE + 1, 0x40), (wstOff + 8 * wSWBASE + 4, 0x80)]

/-- A strand of workspace 0 in context 0 of tile 0. -/
def state : State :=
  { State.reset with
    mem := hbm.map fun c => (hbmBase 0 + c.1, c.2)
    tiles := [(0, { Tile.reset with ctx := Tile.reset.ctx.set 0 { Context.reset with st := .ready } })] }

/-- The byte of the page's entry in the store table that HOT stands in (11 R240). -/
def hotByte : Nat := hbmBase 0 + 0x6003

def entry : List Byte := [0x10, 0, 0, 0x80] ++ List.replicate 124 0

/-- The bytes that a read of the tensor table answers. -/
def bytesOf : Reach (State × Option (List Byte)) → Option (List Byte)
  | .ok r => r.2
  | _ => none

theorem read_of_bytesOf {r : Reach (State × Option (List Byte))} {b : List Byte} (bytes : bytesOf r = some b) : ∃ w, r = .ok (w, some b) := by
  cases r with
  | ok r => exact ⟨r.1, congrArg Reach.ok (Prod.ext rfl bytes)⟩
  | wait => cases bytes
  | trap => cases bytes

theorem reads : ∃ w, state.ttRead state.who state.curTile state.ws 0 = .ok (w, some entry) := read_of_bytesOf (by decide +kernel)

/-- The byte of memory at an address after an operation. -/
def byteAfter (i : Instr) (s : State) (a : Nat) : Option Byte :=
  match exec i s with
  | .next t => some (mget t.mem a)
  | _ => none

/-- ZLD counts the access to the page that holds its entry. -/
theorem hot_zld : byteAfter (.zld false 0 0 0) state hotByte = some 2 := by decide +kernel

end TableInWindow

/-- Refutes O43: ZLD of entry 0 by a strand whose tensor table stands in a region of the store window. The first read of the entry counts in HOT
of its page (11 R240), in the region's store table in memory, so that memory is not as it was before the issue. 08 R165 makes TTBASE a global
address, which no premise of the statement asks for. -/
theorem not_panelInstructions : ¬ Obligations.PanelInstructions := by
  unfold Obligations.PanelInstructions
  intro holds
  obtain ⟨w, read⟩ := TableInWindow.reads
  obtain ⟨-, -, -, -, -, -, -, -, streams, -⟩ := holds.1 TableInWindow.state TableInWindow.state false ⟨_, rfl, rfl⟩ rfl .bf16 .bf16 0 0 0 .f32 0 0
  obtain ⟨⟨t, runs, ⟨-, -, -, -, -, -, mem⟩, -⟩, -⟩ := streams w TableInWindow.entry rfl read (by decide) rfl
    (by decide +kernel) (by decide +kernel) (by decide +kernel) (by decide +kernel) (by decide +kernel)
  have after : TableInWindow.byteAfter (.zld false 0 0 0) TableInWindow.state TableInWindow.hotByte = some (mget t.mem TableInWindow.hotByte) := by
    rw [TableInWindow.byteAfter, runs]
  rw [TableInWindow.hot_zld, mem] at after
  exact absurd after (by decide)

end Sys2Proof.Machine
end

section
/-! SUPPORT. ZZERO at the tensor engine (O44). -/

namespace Sys2Proof.Machine

open Sys2Proof.Safety

namespace ZeroedPanel

/-- A ZZERO of panel 0 at the head of a tensor queue. -/
def op : TensorOp :=
  { src := State.reset.src, instr := .zzero false 0, pc := 0, a := 0, b := 0, nanov := false, cfg := [], entry := [], fenceE := 0 }

/-- The package after reset, with that ZZERO queued in tile 0. -/
def state : State := { State.reset with tiles := [(0, { Tile.reset with tq := [op] })] }

/-- A number at which a byte memory that lists nothing reads a reset value of the workspace table: the address of HPRIO in entry 0 (05 R111). -/
def tableByte : Nat := hbmBase 0 + wstOff + 8 * wHPRIO

/-- What panel 0 of tile 0 reads at a number after an operation. -/
def dataAfter (i : Instr) (s : State) (a : Nat) : Option Byte :=
  match exec i s with
  | .next t => some (mget ((t.tileAt 0).panel 0).data a)
  | _ => none

theorem data_zzero : dataAfter (.tensorEngineCompletion 0) state tableByte = some 0x87 := by decide +kernel

end ZeroedPanel

/-- Refutes O44: the clause of ZZERO asks for a zero at every number, and not only at those of the panel's 18,432 data bytes. The emptied panel
lists nothing, and a byte memory that lists nothing reads as zero but at the addresses of the workspace table (log 2, log 6), here the one of
HPRIO. -/
theorem not_tensorResults : ¬ Obligations.TensorResults := by
  unfold Obligations.TensorResults
  intro holds
  obtain ⟨zzero, -⟩ := holds ZeroedPanel.state 0 ZeroedPanel.op [] rfl false .bf16 .bf16 0 0 0 .f32
  obtain ⟨t, runs, -, ⟨zeros, -⟩, -⟩ := zzero rfl
  have after : ZeroedPanel.dataAfter (.tensorEngineCompletion 0) ZeroedPanel.state ZeroedPanel.tableByte = some 0 := by
    rw [ZeroedPanel.dataAfter, runs]
    exact congrArg some (zeros _)
  exact absurd (ZeroedPanel.data_zzero.symm.trans after) (by decide)

end Sys2Proof.Machine
end

section
/-! SUPPORT. Weirs, tagged words and the mailbox (O23 to O25): an object in the tile store that passes its checks, what
noting an access keeps, and the tagged words. -/

namespace Sys2Proof.Machine

open Sys2Proof.Safety

/-! ## How an instruction ends that notes an access (06 R120) -/

theorem exec_of_waits {s u v : State} {i : Instr} {d : Done} {w : Wait} (runs : exec i s = .next (State.finish (d.afterStreams u)))
    (ends : d = .wait w v) : exec i s = .next (waitsFor w v) := by
  rw [runs, ends]
  exact congrArg Host.Outcome.next (finish_wait v w)

section
variable {s u v : State} {i : Instr} {d : Done} (runs : exec i s = .next (State.finish (d.afterStreams u))) (pc : v.pc = u.pc)
include runs pc

/-- An instruction that goes on in a state `v` made of `u`. -/
theorem completes_wentOn (ends : d = .ok v) : completes i s (fun t => t = wentOn (u.pc + 4) v) := by
  refine completes_next (exec_of_ok runs ends) ?_
  rw [finish_ok, pc]

/-- A committing instruction that leaves a state `v` made of `u`. -/
theorem completes_committedTo (noStream : u.tile.streams u.src true true = false) (ends : d = .commit v) :
    completes i s (fun t => t = committedTo (u.pc + 4) v) := by
  refine completes_next (exec_of_commit runs noStream ends) ?_
  rw [pc]

end

/-! ## The checks of an object (09 R187, R191) -/

section
variable {u : State} {a : Word} {n : Nat}

theorem State.tileObject_at (object : objectAt u a n) (k : State → Nat → Done) : u.tileObject a n k = k u (a.toNat - tileBase) := by
  obtain ⟨⟨free, region, unlocked⟩, aligned⟩ := object
  unfold State.tileObject
  rw [accessWait_of_free free]
  dsimp only
  rw [region, aligned, lockTrap_of_free unlocked]
  rfl

theorem State.weirAt_object (object : objectAt u a 16) (k : State → Nat → Done) : u.weirAt a k = k (noted u a 16) (a.toNat - tileBase) := by
  rw [State.weirAt, State.tileObject_at object, State.noteObject, noteOut_run]
  rfl

theorem State.tagAt_object (object : objectAt u a 8) (k : State → Nat → Done) : u.tagAt a k = k (noted u a 8) (a.toNat - tileBase) := by
  rw [State.tagAt, State.tileObject_at object, State.noteObject, noteOut_run]
  rfl

theorem State.unpoisoned_clean {off : Nat} (clean : u.tile.poisoned off n = false) (d : Done) : u.unpoisoned a off n d = d :=
  if_neg (ne_true_of_eq_false clean)

theorem State.tileRelease_released (released : u.released u.th.outs u.src .tile = true) (d : Done) : u.tileRelease d = d := if_pos released

/-! ## What noting an access keeps (01 R25) -/

theorem Thread.readX_rangeNoted (h : Thread) (off n : Nat) (r : Reg) : (rangeNoted h off n).readX r = h.readX r := by
  unfold rangeNoted
  split <;> rfl

theorem tile_noted : (noted u a n).tile = u.tile.setThread u.curAgent (rangeNoted u.th (a.toNat - tileBase) n) := State.tile_setTh ..

theorem noted_pc : (noted u a n).pc = u.pc := pc_noted ..

theorem x_noted (r : Reg) : (noted u a n).x r = u.x r := by
  rw [State.x, noted, State.th_setTh, Thread.readX_rangeNoted, State.x]

/-- What is read of a tile without its agents is the same after an agent's thread is replaced. -/
theorem Tile.setThread_keeps {α : Type} (f : Tile → α) (t : Tile) (ag : Agent) (h : Thread)
    (kept : ∀ (ctx : Vector Context 8) (ldr str : SideCore), f { t with ctx := ctx, ldr := ldr, str := str } = f t) :
    f (t.setThread ag h) = f t := by
  cases ag with
  | ctx c => exact kept (t.ctx.set c { t.ctx[c] with th := h }) t.ldr t.str
  | loader => exact kept t.ctx { t.ldr with th := h } t.str
  | storer => exact kept t.ctx t.ldr { t.str with th := h }

theorem tile_noted_keeps {α : Type} (f : Tile → α)
    (kept : ∀ (ctx : Vector Context 8) (ldr str : SideCore), f { u.tile with ctx := ctx, ldr := ldr, str := str } = f u.tile) :
    f (noted u a n).tile = f u.tile := by
  rw [tile_noted]
  exact Tile.setThread_keeps f _ _ _ kept

end

/-! ## Tagged words (09 R191) -/

theorem Tile.tagIs_inside {t : Tile} {off : Nat} (inside : off < storeSize) (full : Bool) : t.tagIs off full = (nsMem (off / 8) t.full == full) := by
  rw [Tile.tagIs, decide_eq_false (Nat.not_le.mpr inside), Bool.false_or]

theorem Tile.setTag_inside {t : Tile} {off : Nat} (inside : off < storeSize) (full : Bool) :
    t.setTag off full = { t with full := if full then nsAdd (off / 8) t.full else nsDel (off / 8) t.full } := if_pos inside

theorem Tile.thread_setTag (t : Tile) (off : Nat) (full : Bool) (ag : Agent) : (t.setTag off full).thread ag = t.thread ag := by
  unfold Tile.setTag
  split
  · cases ag <;> rfl
  · rfl

theorem State.pc_setTag (v : State) (off : Nat) (full : Bool) : (v.putTile (v.tile.setTag off full)).pc = v.pc :=
  State.pc_putTile fun _ => Tile.thread_setTag ..

theorem State.pc_storeFullTag (v : State) (off : Nat) (x : Word) : (v.storeFullTag off x).pc = v.pc :=
  State.pc_putTile fun _ => (Tile.thread_setTag ..).trans (thread_writeCells ..)

/-- Settles O24: each instruction ends as the tag of its word says, with the checks of the word passed. -/
theorem taggedWords : Obligations.TaggedWords := by
  unfold Obligations.TaggedWords
  intro s u m issued rd rs1 rs2 imm a object clean inside off v full val rel tagged
  have ⟨⟨⟨acquired, streams, _⟩, _⟩, _⟩ := object
  have noStream := streams true true
  have word (k : State → Nat → Done) : u.tagAt a k = k v off := State.tagAt_object object k
  have good (d : Done) : v.unpoisoned a off 8 d = d :=
    State.unpoisoned_clean ((tile_noted_keeps (·.poisoned off 8) fun _ _ _ => rfl).trans clean) d
  have tag (b : Bool) : v.tile.tagIs off b = (full == b) :=
    (tile_noted_keeps (·.tagIs off b) fun _ _ _ => rfl).trans (Tile.tagIs_inside inside b)
  have set (T : Tile) (b : Bool) : T.setTag off b = tagged T b := Tile.setTag_inside inside b
  have value : BitVec.ofNat 64 (v.tile.natAt off 8) = val := congrArg (BitVec.ofNat 64) (tile_noted_keeps (·.natAt off 8) fun _ _ _ => rfl)
  have pc : v.pc = u.pc := noted_pc
  have filled : v.storeFullTag off (v.x rs2) = v.putTile (tagged (v.tile.writeBytes off (leBytes (u.x rs2).toNat 8)) true) := by
    rw [x_noted, State.storeFullTag, set]
    rfl
  have arrives (d : Done) (ready : u.released u.th.outs u.src .tile = true) :
      (if u.acquiring then .wait .acquire u else u.tileRelease d) = d := by
    rw [acquired, State.tileRelease_released ready]
    rfl
  have ldf := exec_scalar (i := .ldf m rd rs1 imm) issued rfl
  have ldff := exec_scalar (i := .ldff m rd rs1 imm) issued rfl
  have ste := exec_scalar (i := .ste m rs1 rs2 imm) issued rfl
  have stf := exec_scalar (i := .stf m rs1 rs2 imm) issued rfl
  have tgset := exec_scalar (i := .tgset m rs1 imm) issued rfl
  have tgclr := exec_scalar (i := .tgclr m rs1 imm) issued rfl
  refine ⟨fun isFull => ?full, fun isEmpty => ?empty, fun ready isEmpty => ?ste, fun ready isFull => ?steWaits, fun ready => ?stf, fun ready => ?tgset,
    ?tgclr⟩
  case full =>
    have met : v.tile.tagIs off true = true := by rw [tag, isFull]; rfl
    rw [← value, ← set]
    exact ⟨completes_wentOn ldf ((State.pc_setX ..).trans pc) ((word _).trans ((good _).trans (if_pos met))),
      completes_committedTo ldff ((State.pc_setX ..).trans ((State.pc_setTag ..).trans pc)) noStream ((word _).trans ((good _).trans (if_pos met)))⟩
  case empty =>
    have unmet : ¬ v.tile.tagIs off true = true := by rw [tag, isEmpty]; nofun
    exact ⟨exec_of_waits ldf ((word _).trans ((good _).trans (if_neg unmet))), exec_of_waits ldff ((word _).trans ((good _).trans (if_neg unmet)))⟩
  case ste =>
    have met : v.tile.tagIs off false = true := by rw [tag, isEmpty]; rfl
    obtain ⟨t, next, eq⟩ := completes_committedTo ste ((State.pc_storeFullTag ..).trans pc) noStream
      ((arrives _ ready).trans ((word _).trans ((good _).trans (if_pos met))))
    exact completes_next next ⟨_, storedAt_writeBytes .., filled ▸ eq⟩
  case steWaits =>
    have unmet : ¬ v.tile.tagIs off false = true := by rw [tag, isFull]; nofun
    exact exec_of_waits ste ((arrives _ ready).trans ((word _).trans ((good _).trans (if_neg unmet))))
  case stf =>
    obtain ⟨t, next, eq⟩ := completes_committedTo stf ((State.pc_storeFullTag ..).trans pc) noStream ((arrives _ ready).trans (word _))
    exact completes_next next ⟨_, storedAt_writeBytes .., filled ▸ eq⟩
  case tgset =>
    rw [← set]
    exact completes_committedTo tgset ((State.pc_setTag ..).trans pc) noStream
      ((State.tileRelease_released ready _).trans ((word _).trans (good _)))
  case tgclr =>
    rw [← set]
    exact completes_committedTo tgclr ((State.pc_setTag ..).trans pc) noStream ((word _).trans (good _))

end Sys2Proof.Machine
end

section
/-! SUPPORT. The weir instructions (O23): the agent past a committing instruction, contexts woken, the bytes of a weir, the join list, and how each
instruction ends at a weir that passes its checks. -/

namespace Sys2Proof.Machine

open Sys2Proof.Safety

/-! ## The agent past a committing instruction (01 R20) -/

theorem committedTo_eq (u : State) (pc : Word) : committedTo pc u = u.putTile (agentTile u { u.th with pc := pc } (beganRegion pc)) := by
  cases ha : u.curAgent <;> simp [committedTo, beganRegion, wentOn, agentTile, ha, State.th, Tile.thread]

theorem sameCore_committedTo (u : State) (pc : Word) : sameCore u (committedTo pc u) := by
  rw [committedTo_eq]
  exact sameCore_putTile (agentTile_core ..)

theorem store_committedTo (u : State) (pc : Word) : (committedTo pc u).tile.store = u.tile.store :=
  (congrArg Tile.store (sameCore_committedTo u pc) :)

theorem pc_committedTo (u : State) (pc : Word) : (committedTo pc u).pc = pc := by
  rw [committedTo_eq, State.pc, th_agentTile]

theorem joins_committedTo {u : State} (isCtx : u.isCtx = true) (pc : Word) : (committedTo pc u).ctx.joins = u.ctx.joins := by
  rw [committedTo_eq, ctx_agentTile isCtx]
  rfl

/-! ## Contexts woken by a change of phase (05 R117) -/

theorem Tile.ctx_wakeWfi (t : Tile) (c : Fin 8) : t.wakeWfi.ctx[c] = t.ctx[c].wakeWfi := Vector.getElem_map ..

theorem Context.th_wakeWfi (k : Context) : k.wakeWfi.th = k.th := by
  unfold Context.wakeWfi
  split <;> rfl

theorem Context.joins_wakeWfi (k : Context) : k.wakeWfi.joins = k.joins := by
  unfold Context.wakeWfi
  split <;> rfl

theorem Tile.thread_wakeWfi (t : Tile) (ag : Agent) : t.wakeWfi.thread ag = t.thread ag := by
  cases ag with
  | ctx c => exact (congrArg Context.th (t.ctx_wakeWfi c)).trans (Context.th_wakeWfi _)
  | loader => rfl
  | storer => rfl

/-! ## A weir replaced, an event at a weir (09 R186) -/

section
variable (t : Tile) (off : Nat)

theorem Tile.putWeir_cases (w : Weir) : t.putWeir off w = t.setWeir off w ∨ t.putWeir off w = (t.setWeir off w).wakeWfi := by
  unfold Tile.putWeir
  dsimp only
  split
  · exact .inr rfl
  · exact .inl rfl

theorem Tile.thread_putWeir (w : Weir) (ag : Agent) : (t.putWeir off w).thread ag = t.thread ag := by
  have kept : (t.setWeir off w).thread ag = t.thread ag := by cases ag <;> rfl
  rcases t.putWeir_cases off w with h | h
  · rw [h, kept]
  · rw [h, Tile.thread_wakeWfi, kept]

theorem Tile.thread_weirEvent (e : WeirEvent) (ag : Agent) : (t.weirEvent off e).thread ag = t.thread ag := by
  unfold Tile.weirEvent
  split
  · exact t.thread_putWeir ..
  · rfl

theorem Tile.joins_weirEvent (e : WeirEvent) (c : Fin 8) : (t.weirEvent off e).ctx[c].joins = t.ctx[c].joins := by
  unfold Tile.weirEvent
  split
  · rcases t.putWeir_cases off ((t.weir off).apply e) with h | h
    · rw [h]; rfl
    · rw [h, Tile.ctx_wakeWfi, Context.joins_wakeWfi]; rfl
  · rfl

theorem Tile.store_putWeir (w : Weir) : (t.putWeir off w).store = (t.setWeir off w).store := by
  rcases t.putWeir_cases off w with h | h
  · rw [h]
  · rw [h]
    rfl

end

section
variable {t t' : Tile} (same : t.store = t'.store) (off : Nat)
include same

/-- A weir is read from the store alone. -/
theorem Tile.weir_congr : t.weir off = t'.weir off := by
  unfold Tile.weir Tile.natAt Tile.bytes Tile.byte
  rw [same]

/-- An event writes the store from the store alone. -/
theorem Tile.store_weirEvent_congr (e : WeirEvent) : (t.weirEvent off e).store = (t'.weirEvent off e).store := by
  unfold Tile.weirEvent
  split
  · rw [Tile.store_putWeir, Tile.store_putWeir, Tile.weir_congr same]
    unfold Tile.setWeir Tile.putNat Tile.writeBytes Tile.writeCells
    dsimp only
    rw [same]
  · exact same

end

/-! ## The low and the high field of a register (09 R187) -/

theorem nbit_low (x n : Nat) : nbit x 0 n = x % 2 ^ n := by rw [nbit, Nat.pow_zero, Nat.div_one]

theorem nbit_high {n : Nat} (small : n < 2 ^ 64) : nbit n 32 32 = n / 2 ^ 32 := Nat.mod_eq_of_lt (by omega)

/-! ## The two words of a weir written (09 R187) -/

/-- The bytes of a number made of two: those of its low part, then those of its high part. -/
theorem leBytes_append {x k : Nat} (small : x < 256 ^ k) (y n : Nat) : leBytes (x + y * 256 ^ k) (k + n) = leBytes x k ++ leBytes y n := by
  induction k generalizing x with
  | zero =>
    obtain rfl : x = 0 := by omega
    simp [leBytes]
  | succ k ih =>
    have split : x + y * 256 ^ (k + 1) = x + 256 * (y * 256 ^ k) := by rw [pow_succ]; ring
    have low : BitVec.ofNat 8 (x + 256 * (y * 256 ^ k)) = BitVec.ofNat 8 x := BitVec.eq_of_toNat_eq (by simp)
    have high : (x + 256 * (y * 256 ^ k)) / 256 = x / 256 + y * 256 ^ k := by omega
    rw [split, Nat.add_right_comm, leBytes, leBytes, List.cons_append, low, high, ih (by rw [pow_succ] at small; omega)]

/-- The bytes of the two words that WINIT makes of rs2. -/
def weirBytes (n : Nat) : List Byte := leBytes (n % 2 ^ 16) 8 ++ leBytes (n / 2 ^ 32) 8

theorem weirBytes_eq {n : Nat} (small : n < 2 ^ 64) : leBytes (nbit n 0 16 + nbit n 32 32 * 2 ^ 64) 16 = weirBytes n := by
  have low : nbit n 0 16 = n % 2 ^ 16 := nbit_low ..
  have high : nbit n 32 32 = n / 2 ^ 32 := nbit_high small
  rw [low, high]
  exact leBytes_append (k := 8) (by omega) _ 8

theorem Tile.bytes_writeBytes (t : Tile) {off : Nat} {bs : List Byte} (inside : off + bs.length ≤ storeSize) {k n : Nat} (fits : k + n ≤ bs.length) :
    (t.writeBytes off bs).bytes (off + k) n = (bs.drop k).take n := by
  obtain ⟨-, byte, -⟩ := storedAt_writeBytes t off bs
  refine List.ext_getElem (by rw [Tile.length_bytes, List.length_take, List.length_drop]; omega) fun i hi _ => ?_
  rw [Tile.length_bytes] at hi
  have place : off + k + i - off = k + i := by omega
  simp only [Tile.bytes, List.getElem_map, List.getElem_range, List.getElem_take, List.getElem_drop]
  rw [byte, if_pos (by omega), place, List.getD_eq_getElem _ _ (by omega)]

theorem Tile.weir_writeBytes (t : Tile) {off x y : Nat} (inside : off + 16 ≤ storeSize) (hx : x < 256 ^ 8) (hy : y < 256 ^ 8) :
    (t.writeBytes off (leBytes x 8 ++ leBytes y 8)).weir off = Weir.ofWords x y := by
  have length : (leBytes x 8 ++ leBytes y 8).length = 16 := by rw [List.length_append, length_leBytes, length_leBytes]
  have first : (t.writeBytes off (leBytes x 8 ++ leBytes y 8)).bytes off 8 = _ := t.bytes_writeBytes (k := 0) (length ▸ inside) (by omega)
  have second : (t.writeBytes off (leBytes x 8 ++ leBytes y 8)).bytes (off + 8) 8 = _ := t.bytes_writeBytes (length ▸ inside) (by omega)
  rw [List.drop_zero, List.take_left' (length_leBytes ..)] at first
  rw [List.drop_left' (length_leBytes ..), List.take_of_length_le (length_leBytes ..).le] at second
  rw [Tile.weir, Tile.natAt, Tile.natAt, first, second, leNat_leBytes, leNat_leBytes, Nat.mod_eq_of_lt hx, Nat.mod_eq_of_lt hy]

/-! ## The join list (09 R188, R189) -/

section
variable {u : State}

theorem ctx_setTh (u : State) (h : Thread) : { (u.setTh h).ctx with th := u.ctx.th } = u.ctx := by
  unfold State.ctx State.setTh
  rw [State.putTile_curAgent, State.tile_putTile]
  cases u.curAgent <;> simp [Tile.setThread]

theorem joinV_reset (i : Nat) : joinV (Context.reset.joins.getD i 0) = false := by
  have empty : Context.reset.joins.getD i 0 = 0 := by
    simp only [Context.reset, Vector.getD, Vector.toArray_replicate, Array.getD_eq_getD_getElem?, Array.getElem?_replicate]
    split <;> rfl
  rw [empty]
  rfl

/-- A side core joins no weir. -/
theorem isCtx_of_joined {off i : Nat} (joined : u.joined off = some i) : u.isCtx = true := by
  have valid : joinV (u.ctx.joins.getD i 0) = true := by
    have entry := List.find?_some joined
    simp only [Bool.and_eq_true] at entry
    exact entry.1.1
  unfold State.isCtx
  unfold State.ctx at valid
  cases acts : u.curAgent with
  | ctx c => rfl
  | loader =>
    rw [acts] at valid
    exact absurd valid (ne_true_of_eq_false (joinV_reset i))
  | storer =>
    rw [acts] at valid
    exact absurd valid (ne_true_of_eq_false (joinV_reset i))

theorem joins_getD (l : Vector Word 4) (i : Fin 4) : l.getD i.val 0 = l[i] := by simp [Vector.getD]

theorem setIfInBounds_eq (l : Vector Word 4) (i : Fin 4) (e : Word) : l.setIfInBounds i.val e = l.set i e := by
  ext k hk
  simp [Vector.getElem_setIfInBounds, Vector.getElem_set]

theorem ctx_setCtx (isCtx : u.isCtx = true) (k : Context) : (u.setCtx k).ctx = k := by
  unfold State.setCtx State.ctx
  cases acts : u.curAgent with
  | ctx c => simp [acts]
  | loader => simp [State.isCtx, acts] at isCtx
  | storer => simp [State.isCtx, acts] at isCtx

theorem store_setCtx (u : State) (k : Context) : (u.setCtx k).tile.store = u.tile.store := by
  unfold State.setCtx
  split
  · rw [State.tile_putTile]
  · rfl

theorem isCtx_setCtx (u : State) (k : Context) : (u.setCtx k).isCtx = u.isCtx := by
  unfold State.setCtx
  cases u.curAgent <;> rfl

/-- An event at a weir changes no join list. -/
theorem joins_putTile_weirEvent (u : State) (off : Nat) (e : WeirEvent) : (u.putTile (u.tile.weirEvent off e)).ctx.joins = u.ctx.joins := by
  unfold State.ctx
  rw [State.putTile_curAgent, State.tile_putTile]
  cases u.curAgent with
  | ctx c => exact Tile.joins_weirEvent ..
  | loader => rfl
  | storer => rfl

end

/-! ## A weir that passes its checks (09 R187) -/

theorem joins_noted (u : State) (a : Word) (n : Nat) : (noted u a n).ctx.joins = u.ctx.joins := (congrArg Context.joins (ctx_setTh ..) :)

/-- A weir instruction whose address is `va` has passed its checks: it goes on in `v`, and the weir lies at offset `off`
of the store, whole. -/
structure WeirAt (u : State) (va : Word) (v : State) (off : Nat) : Prop where
  reached : ∀ k, u.weirAt va k = k v off
  inside : off + 16 ≤ storeSize
  pc : v.pc = u.pc
  readX : ∀ r, v.x r = u.x r
  isCtx : v.isCtx = u.isCtx
  joins : v.ctx.joins = u.ctx.joins
  joined : v.joined off = u.joined off
  ltid : v.ltidOf v.curTile = u.ltidOf u.curTile
  weir : v.tile.weir off = u.tile.weir off
  poisoned : v.tile.poisoned off 16 = u.tile.poisoned off 16

theorem weirAt_noted {u : State} {va : Word} (object : objectAt u va 16) (inside : va.toNat - tileBase + 16 ≤ storeSize) :
    WeirAt u va (noted u va 16) (va.toNat - tileBase) where
  reached := State.weirAt_object object
  inside := inside
  pc := noted_pc
  readX := x_noted
  isCtx := rfl
  joins := joins_noted ..
  joined := by
    unfold State.joined
    rw [joins_noted]
    rfl
  ltid := rfl
  weir := tile_noted_keeps (·.weir _) fun _ _ _ => rfl
  poisoned := tile_noted_keeps (·.poisoned _ 16) fun _ _ _ => rfl

namespace WeirAt

section
variable {s u v : State} {m : SMark} {rd rs1 rs2 : Reg} {off : Nat} (h : WeirAt u (u.x rs1) v off)
include h

theorem weirIn : weirIn off = true := decide_eq_true h.inside

theorem unpoisoned (clean : u.tile.poisoned off 16 = false) (va : Word) (d : Done) : v.unpoisoned va off 16 d = d :=
  State.unpoisoned_clean (h.poisoned.trans clean) d

theorem phaseMet_iff (p : Bool) : v.phaseMet off p = true ↔ v.marked = true ∨ (u.tile.weir off).phase ≠ p := by
  rw [State.phaseMet, h.weirIn, h.weir]
  simp

theorem not_phaseMet {p : Bool} (unmarked : v.marked = false) (same : (u.tile.weir off).phase = p) : ¬ v.phaseMet off p = true := by
  rw [h.phaseMet_iff, unmarked]
  simp [same]

/-- The bytes of an arrival, or what is added to the expectation: the low word of rs2. -/
theorem low_word : nbit (v.x rs2).toNat 0 32 = (u.x rs2).toNat % 2 ^ 32 := by
  rw [h.readX, nbit_low]

end

/-! ### Waits and tests (09 R187, R190) -/

section
variable {s u v : State} {m : SMark} {rd rs1 rs2 : Reg} {off : Nat} (h : WeirAt u (u.x rs1) v off) (issued : issues s m u)
  (clean : u.tile.poisoned off 16 = false)
include h issued clean

theorem exec_wwait : exec (.wwait m rs1 rs2) s = .next (State.finish (Done.afterStreams u
    (if v.phaseMet off ((u.x rs2).getLsbD 0) then .ok v else .wait (.phase off ((u.x rs2).getLsbD 0) false) v))) := by
  rw [exec_scalar (i := .wwait m rs1 rs2) issued rfl, h.reached, h.unpoisoned clean, h.readX]

theorem exec_wwaitt : exec (.wwaitt m rd rs1 rs2) s = .next (State.finish (Done.afterStreams u
    (if v.limitPassed then .ok (v.setX rd 1) else if v.phaseMet off ((u.x rs2).getLsbD 0) then .ok (v.setX rd 0)
      else if nbit (u.x rs2).toNat 32 32 == 0 then .ok (v.setX rd 1) else .wait (.phase off ((u.x rs2).getLsbD 0) true) v))) := by
  rw [exec_scalar (i := .wwaitt m rd rs1 rs2) issued rfl, h.reached, h.unpoisoned clean, h.readX]

theorem completes_wtest : completes (.wtest m rd rs1) s (fun t =>
    t = wentOn (u.pc + 4) (v.setX rd (phaseWord (u.tile.weir off) (u.joined off).isSome))) := by
  rw [← h.weir, ← h.joined]
  exact completes_wentOn (exec_scalar issued rfl) ((State.pc_setX ..).trans h.pc)
    ((h.reached _).trans ((h.unpoisoned clean _ _).trans (if_pos h.weirIn)))

end

/-! ### The join list (09 R188) -/

theorem pc_setJoin {u v : State} {va : Word} {off : Nat} (h : WeirAt u va v off) (i : Nat) (e : Word) : (v.setJoin i e).pc = u.pc := by
  have own : (v.setJoin i e).pc = v.pc := State.pc_setCtx rfl
  rw [own, h.pc]

section
variable {s u v : State} {m : SMark} {rs1 : Reg} {off : Nat} (h : WeirAt u (u.x rs1) v off) (issued : issues s m u)
include h issued

theorem completes_wjoin_free {i : Fin 4} (isCtx : u.isCtx = true) (fresh : u.joined off = none) (free : u.ctx.joins[i].getLsbD 63 = false)
    (first : ∀ j : Fin 4, j < i → u.ctx.joins[j].getLsbD 63 = true) :
    completes (.wjoin m rs1) s (fun t =>
      t = wentOn (u.pc + 4) (v.setCtx { v.ctx with joins := v.ctx.joins.set i (joinWord off (u.ltidOf u.curTile) false 0) })) := by
  have found : (List.range 4).find? (fun k => !joinV (v.ctx.joins.getD k 0)) = some i.val := by
    refine List.find?_range_eq_some.mpr ⟨?_, List.mem_range.mpr i.isLt, fun k before => ?_⟩
    · rw [h.joins, joins_getD, joinV, free]; rfl
    · have taken := first ⟨k, before.trans i.isLt⟩ before
      rw [h.joins, joins_getD _ ⟨k, before.trans i.isLt⟩, joinV, taken]; rfl
  have new : v.setJoin i.val (joinWord off (u.ltidOf u.curTile) false 0)
      = v.setCtx { v.ctx with joins := v.ctx.joins.set i (joinWord off (u.ltidOf u.curTile) false 0) } := by
    rw [State.setJoin, setIfInBounds_eq]
  rw [← new]
  refine completes_wentOn (exec_scalar issued rfl) (h.pc_setJoin _ _) ((h.reached _).trans ?_)
  rw [h.isCtx, h.weirIn, h.joined, isCtx, fresh, found, h.ltid]
  rfl

theorem completes_wjoin_kept (kept : u.isCtx = false ∨ (u.joined off).isSome ∨ ∀ i : Fin 4, u.ctx.joins[i].getLsbD 63 = true) :
    completes (.wjoin m rs1) s (fun t => t = wentOn (u.pc + 4) v) := by
  refine completes_wentOn (exec_scalar issued rfl) h.pc ((h.reached _).trans ?_)
  rw [h.isCtx, h.weirIn, h.joined]
  rcases kept with side | joined | full
  · rw [side]; rfl
  · rw [joined, Bool.or_true]; rfl
  · have none : (List.range 4).find? (fun k => !joinV (v.ctx.joins.getD k 0)) = none := by
      refine List.find?_eq_none.mpr fun k hk => ?_
      rw [h.joins, joins_getD _ ⟨k, List.mem_range.mp hk⟩, joinV, full]
      nofun
    rw [none]
    split <;> rfl

theorem completes_wleave_absent (absent : u.joined off = none) : completes (.wleave m rs1) s (fun t => t = wentOn (u.pc + 4) v) := by
  refine completes_wentOn (exec_scalar issued rfl) h.pc ((h.reached _).trans ?_)
  rw [h.joined, absent]

theorem completes_wleave_joined {i : Nat} (joined : u.joined off = some i) : completes (.wleave m rs1) s (fun t =>
    t = wentOn (u.pc + 4) (v.setCtx { v.ctx with joins := v.ctx.joins.setIfInBounds i 0 })) := by
  refine completes_wentOn (exec_scalar issued rfl) (h.pc_setJoin i 0) ((h.reached _).trans ?_)
  rw [h.joined, joined]
  rfl

end

/-! ### Initialization (09 R187) -/

section
variable {s u v : State} {m : SMark} {rd rs1 rs2 : Reg} {off : Nat} (h : WeirAt u (u.x rs1) v off) (issued : issues s m u)
  (noStream : u.tile.streams u.src true true = false)
include h issued

/-- WINIT writes both words, and wakes the contexts at a WFI where the weir's phase was 1. -/
theorem exec_winit : exec (.winit m rs1 rs2) s = .next (State.finish (Done.afterStreams u (.commit (v.putTile
    (if (u.tile.weir off).phase then (v.tile.writeBytes off (weirBytes (u.x rs2).toNat)).wakeWfi
      else v.tile.writeBytes off (weirBytes (u.x rs2).toNat)))))) := by
  rw [exec_scalar (i := .winit m rs1 rs2) issued rfl, h.reached, h.readX]
  dsimp only
  rw [h.weirIn, h.weir, weirBytes_eq (u.x rs2).isLt]
  rfl

include noStream

theorem completes_winit_phase0 (phase : (u.tile.weir off).phase = false) : completes (.winit m rs1 rs2) s (fun t => ∃ T,
    storedAt v.tile T off (weirBytes (u.x rs2).toNat) ∧ t = committedTo (u.pc + 4) (v.putTile T)) := by
  have runs := h.exec_winit (rs2 := rs2) issued
  rw [phase] at runs
  have pc : (v.putTile (v.tile.writeBytes off (weirBytes (u.x rs2).toNat))).pc = u.pc :=
    (State.pc_putTile fun _ => thread_writeCells ..).trans h.pc
  obtain ⟨t, next, eq⟩ := completes_committedTo runs pc noStream rfl
  exact completes_next next ⟨_, storedAt_writeBytes .., eq⟩

theorem completes_winit_phase1 (phase : (u.tile.weir off).phase = true) : completes (.winit m rs1 rs2) s (fun t =>
    t.pc = u.pc + 4 ∧ t.tile.weir off = Weir.ofWords ((u.x rs2).toNat % 2 ^ 16) ((u.x rs2).toNat / 2 ^ 32)) := by
  have runs := h.exec_winit (rs2 := rs2) issued
  rw [phase] at runs
  let T := v.tile.writeBytes off (weirBytes (u.x rs2).toNat)
  have pc : (v.putTile T.wakeWfi).pc = u.pc :=
    (State.pc_putTile fun _ => (Tile.thread_wakeWfi ..).trans (thread_writeCells ..)).trans h.pc
  obtain ⟨t, next, rfl⟩ := completes_committedTo runs pc noStream rfl
  have written : (committedTo (u.pc + 4) (v.putTile T.wakeWfi)).tile.store = T.store := by
    rw [store_committedTo, State.tile_putTile]
    rfl
  refine completes_next next ⟨pc_committedTo .., (Tile.weir_congr written off).trans (v.tile.weir_writeBytes h.inside ?_ ?_)⟩
  · omega
  · have := (u.x rs2).isLt
    omega

end

/-! ### Events (09 R186) -/

section
variable {s u v : State} {va : Word} {off : Nat} (h : WeirAt u va v off) (noStream : u.tile.streams u.src true true = false)
include h noStream

/-- An event of a strand that has not joined the weir, or does not leave it. -/
theorem completes_event {i : Instr} {e : WeirEvent}
    (runs : exec i s = .next (State.finish (Done.afterStreams u (.commit (v.putTile (v.tile.weirEvent off e)))))) :
    completes i s (fun t => t = committedTo (u.pc + 4) (v.putTile (v.tile.weirEvent off e))) :=
  completes_committedTo runs ((State.pc_putTile fun _ => Tile.thread_weirEvent ..).trans h.pc) noStream rfl

/-- An event of a strand whose join list changes with it. -/
theorem completes_joinedEvent {i : Instr} {e : WeirEvent} {k : Nat} {x : Word} (isCtx : u.isCtx = true) (runs : exec i s =
      .next (State.finish (Done.afterStreams u (.commit ((v.setJoin k x).putTile ((v.setJoin k x).tile.weirEvent off e)))))) :
    completes i s (fun t => t.pc = u.pc + 4 ∧ t.tile.weir off = (v.tile.weirEvent off e).weir off
      ∧ t.ctx.joins = u.ctx.joins.setIfInBounds k x) := by
  let w := (v.setJoin k x).putTile ((v.setJoin k x).tile.weirEvent off e)
  have pc : w.pc = u.pc := (State.pc_putTile fun _ => Tile.thread_weirEvent ..).trans (h.pc_setJoin ..)
  obtain ⟨t, next, rfl⟩ := completes_committedTo runs pc noStream rfl
  have written : (committedTo (u.pc + 4) w).tile.store = (v.tile.weirEvent off e).store := by
    rw [store_committedTo, State.tile_putTile]
    exact Tile.store_weirEvent_congr (store_setCtx ..) off e
  have strand : w.isCtx = true := (isCtx_setCtx ..).trans (h.isCtx.trans isCtx)
  have joins : (v.setJoin k x).ctx.joins = u.ctx.joins.setIfInBounds k x := by
    rw [State.setJoin, ctx_setCtx (h.isCtx.trans isCtx), h.joins]
  refine completes_next next ⟨pc_committedTo .., Tile.weir_congr written off, ?_⟩
  rw [joins_committedTo strand, joins_putTile_weirEvent, joins]

end

/-! ### Arrivals, departures, expectation (09 R187 to R189) -/

section
variable {s u v : State} {m : SMark} {rd rs1 rs2 : Reg} {off : Nat} (h : WeirAt u (u.x rs1) v off) (issued : issues s m u)
  (noStream : u.tile.streams u.src true true = false) (released : u.released u.th.outs u.src .tile = true)
  (clean : u.tile.poisoned off 16 = false)
include h issued noStream clean

theorem completes_wexp : completes (.wexp m rd rs1 rs2) s (fun t => t = committedTo (u.pc + 4)
    ((v.putTile (v.tile.putWeir off ((u.tile.weir off).expect ((u.x rs2).toNat % 2 ^ 32)).1)).setX rd
      ((u.tile.weir off).expect ((u.x rs2).toNat % 2 ^ 32)).2)) := by
  rw [← h.low_word, ← h.weir]
  have pc (w : Weir) : (v.putTile (v.tile.putWeir off w)).pc = u.pc := (State.pc_putTile fun _ => Tile.thread_putWeir ..).trans h.pc
  exact completes_committedTo (exec_scalar issued rfl) ((State.pc_setX ..).trans (pc _)) noStream
    ((h.reached _).trans ((h.unpoisoned clean _ _).trans (if_pos h.weirIn)))

include released

theorem completes_warr_absent (absent : u.joined off = none) : completes (.warr m rs1 rs2) s
    (fun t => t = committedTo (u.pc + 4) (v.putTile (v.tile.weirEvent off (.thread ((u.x rs2).toNat % 2 ^ 32))))) := by
  refine h.completes_event noStream ?_
  rw [exec_scalar (i := .warr m rs1 rs2) issued rfl, State.tileRelease_released released, h.reached, h.unpoisoned clean, h.joined, absent, ← h.low_word]

theorem completes_warr_joined {i : Nat} (joined : u.joined off = some i) : completes (.warr m rs1 rs2) s
    (fun t => t.pc = u.pc + 4 ∧ t.tile.weir off = (v.tile.weirEvent off (.thread ((u.x rs2).toNat % 2 ^ 32))).weir off
      ∧ t.ctx.joins = u.ctx.joins.setIfInBounds i (joinWord off (u.ltidOf u.curTile) true (u.tile.weir off).gen)) := by
  refine h.completes_joinedEvent noStream (isCtx_of_joined joined) ?_
  rw [exec_scalar (i := .warr m rs1 rs2) issued rfl, State.tileRelease_released released, h.reached, h.unpoisoned clean, h.joined, joined, ← h.low_word,
    ← h.ltid, ← h.weir]

theorem completes_warrd_absent (absent : u.joined off = none) : completes (.warrd m rs1) s
    (fun t => t = committedTo (u.pc + 4) (v.putTile (v.tile.weirEvent off (.depart true)))) := by
  refine h.completes_event noStream ?_
  rw [exec_scalar (i := .warrd m rs1) issued rfl, State.tileRelease_released released, h.reached, h.unpoisoned clean, h.joined, absent]
  rfl

theorem completes_warrd_joined {i : Nat} (joined : u.joined off = some i) : completes (.warrd m rs1) s
    (fun t => t.pc = u.pc + 4 ∧ t.tile.weir off = (v.tile.weirEvent off
        (.depart (!(joinArr (u.ctx.joins.getD i 0) && joinGen (u.ctx.joins.getD i 0) == (u.tile.weir off).gen)))).weir off
      ∧ t.ctx.joins = u.ctx.joins.setIfInBounds i 0) := by
  refine h.completes_joinedEvent noStream (isCtx_of_joined joined) ?_
  have gen : (v.setJoin i 0).tile.weir off = u.tile.weir off := (Tile.weir_congr (store_setCtx ..) off).trans h.weir
  rw [exec_scalar (i := .warrd m rs1) issued rfl, State.tileRelease_released released, h.reached, h.unpoisoned clean, h.joined, joined]
  dsimp only
  rw [Tile.departure, gen, h.joins]

end

end WeirAt

end Sys2Proof.Machine
end

section
/-! SUPPORT. One arrival at a weir, and the statement of the weirs (O23). -/

namespace Sys2Proof.Machine

open Sys2Proof.Safety

/-! ## One arrival at a weir (09 R186) -/

namespace Weir

variable (w : Weir) (n : Nat)

/-- The bytes that have arrived add up to the limit. -/
theorem addBytes_eq : w.addBytes n = { w with arrb := min (w.arrb + n) (2 ^ 32 - 1), bsat := w.bsat || decide (2 ^ 32 ≤ w.arrb + n) } := by
  unfold addBytes satAdd32
  by_cases fits : w.arrb + n < 2 ^ 32
  · rw [if_pos fits, Nat.min_eq_left (by omega), decide_eq_false (Nat.not_le.mpr fits)]
  · rw [if_neg fits, Nat.min_eq_right (by omega), decide_eq_true (Nat.not_lt.mp fits)]

/-- The weir with one arrival of `n` bytes counted. -/
def counted : Weir :=
  { w with arra := w.arra + 1, arrb := min (w.arrb + n) (2 ^ 32 - 1), bsat := w.bsat || decide (2 ^ 32 ≤ w.arrb + n) }

variable {w}

/-- An arrival that is expected counts, and may complete the weir. -/
theorem apply_thread_expected (expects : w.arra < w.expa) : w.apply (.thread n) =
    if w.arra + 1 = w.expa ∧ w.expb ≤ min (w.arrb + n) (2 ^ 32 - 1) then (w.counted n).complete else w.counted n := by
  have event : w.event (.thread n) = (w.counted n, true) := by
    rw [event, arrive, addBytes_eq]
    exact if_pos expects
  rw [apply, event]
  simp [counted]

/-- One that is not only adds its bytes. -/
theorem apply_thread_excess (full : w.expa ≤ w.arra) : w.apply (.thread n) =
    { w with arrb := min (w.arrb + n) (2 ^ 32 - 1), bsat := w.bsat || decide (2 ^ 32 ≤ w.arrb + n), excess := true } := by
  have event : w.event (.thread n) = ({ w.addBytes n with excess := true }, false) := by
    rw [event, arrive, addBytes_eq]
    exact if_neg (Nat.not_lt.mpr full)
  rw [apply, event, addBytes_eq]
  rfl

end Weir

/-! ## The statement -/

/-- Settles O23: the instructions by what each does at a weir that passes its checks, the arrival by whether the weir expects it. -/
theorem weirInstructions : Obligations.WeirInstructions := by
  unfold Obligations.WeirInstructions
  refine ⟨?instructions, ?arrival⟩
  case arrival =>
    intro w n b r
    refine ⟨fun expects complete => ?_, fun expects more => ?_, fun full => Weir.apply_thread_excess n full⟩
    · have flips : r = (w.counted n).complete := (Weir.apply_thread_expected n expects).trans (if_pos complete)
      rw [flips]
      exact ⟨rfl, rfl, rfl, rfl, rfl, rfl, rfl, rfl, rfl, rfl⟩
    · exact (Weir.apply_thread_expected n expects).trans (if_neg more)
  case instructions =>
    intro s u m issued rd rs1 rs2 object off v n w p clean rel inside
    have h : WeirAt u (u.x rs1) v off := weirAt_noted object inside
    have ⟨⟨⟨_, streams, _⟩, _⟩, _⟩ := object
    have noStream := streams true true
    refine ⟨h.completes_winit_phase0 issued noStream, h.completes_winit_phase1 issued noStream,
      fun released clean => h.completes_warr_absent issued noStream released clean,
      fun i released clean => h.completes_warr_joined issued noStream released clean,
      fun released clean => h.completes_warrd_absent issued noStream released clean,
      fun i released clean joined => ?warrdJoined,
      fun clean => h.completes_wexp issued noStream clean,
      fun clean => ?wwait, fun clean => ?wwaitt,
      h.completes_wtest issued,
      fun isCtx fresh i => h.completes_wjoin_free issued isCtx fresh,
      h.completes_wjoin_kept issued, h.completes_wleave_absent issued, fun i => h.completes_wleave_joined issued⟩
    case warrdJoined =>
      obtain ⟨t, next, pc, weir, joins⟩ := h.completes_warrd_joined issued noStream released clean joined
      exact completes_next next ⟨pc, joins, weir⟩
    case wwait =>
      have runs := h.exec_wwait (rs2 := rs2) issued clean
      exact ⟨fun met => completes_wentOn runs h.pc (if_pos ((h.phaseMet_iff p).mpr met)),
        fun unmarked same => exec_of_waits runs (if_neg (h.not_phaseMet unmarked same))⟩
    case wwaitt =>
      have runs := h.exec_wwaitt (rd := rd) (rs2 := rs2) issued clean
      have goes (x : Word) := completes_wentOn runs ((State.pc_setX v rd x).trans h.pc)
      have limit : nbit n 32 32 = n / 2 ^ 32 := nbit_high (u.x rs2).isLt
      refine ⟨fun passed => goes 1 (if_pos passed), fun early met => goes 0 ?met, fun early unmarked same unlimited => goes 1 ?noLimit,
        fun early unmarked same limited => exec_of_waits runs ?waits⟩
      case met => exact (if_neg (ne_true_of_eq_false early)).trans (if_pos ((h.phaseMet_iff p).mpr met))
      case noLimit =>
        exact (if_neg (ne_true_of_eq_false early)).trans ((if_neg (h.not_phaseMet unmarked same)).trans (if_pos (beq_iff_eq.mpr (limit.trans unlimited))))
      case waits =>
        exact (if_neg (ne_true_of_eq_false early)).trans ((if_neg (h.not_phaseMet unmarked same)).trans
          (if_neg fun zero => limited (limit.symm.trans (beq_iff_eq.mp zero))))

end Sys2Proof.Machine
end

section
/-! SUPPORT. The mailbox (O25): the oldest message that an agent may take, a message shown in the tile store, and what an acquire of it keeps. -/

namespace Sys2Proof.Machine

open Sys2Proof.Safety

/-! ## The oldest message for an agent (06 R134, 09 R192) -/

section
variable {t : Tile} {ag : Agent} {x : BitVec 128} {pre post : List (BitVec 128)}

theorem Tile.mailFor_none (others : t.mail.all (fun y => !mayTake ag y) = true) : t.mailFor ag = none := by
  rw [Tile.mailFor, List.findIdx?_eq_none_iff]
  simpa using others

theorem Tile.mailFor_oldest (mail : t.mail = pre ++ x :: post) (others : pre.all (fun y => !mayTake ag y) = true) (own : mayTake ag x = true) :
    t.mailFor ag = some pre.length := by
  have none : pre.findIdx? (mayTake ag) = none := by
    rw [List.findIdx?_eq_none_iff]
    simpa using others
  rw [Tile.mailFor, mail, List.findIdx?_append, none, List.findIdx?_cons, own]
  simp

theorem filter_mayTake_append (others : pre.all (fun y => !mayTake ag y) = true) (l : List (BitVec 128)) :
    (pre ++ l).filter (mayTake ag) = l.filter (mayTake ag) := by
  have none : pre.filter (mayTake ag) = [] := List.filter_eq_nil_iff.mpr (by simpa using others)
  rw [List.filter_append, none, List.nil_append]

end

theorem mailWord_eq (x : BitVec 128) (n : Nat) : mailWord (msgKind x) n = BitVec.ofNat 64 (x.toNat % 2 ^ 8 + n % 2 ^ 7 * 2 ^ 8) := by
  rw [mailWord, msgKind, nbit_low]
  exact congrArg (fun k => BitVec.ofNat 64 (k + _)) (Nat.mod_mod ..)

/-! ## The target of a receive (09 R192) -/

section
variable {u : State} {rs1 : Reg}

theorem State.mailTarget_x0 (k : State → Option Nat → Done) : u.mailTarget 0 k = k u none := if_pos rfl

theorem State.mailTarget_store (named : rs1 ≠ 0) (access : tileAccess u (u.x rs1) 16) (aligned : (u.x rs1).toNat % 8 = 0)
    (k : State → Option Nat → Done) : u.mailTarget rs1 k = k u (some (u.x rs1).toNat) := by
  obtain ⟨free, region, unlocked⟩ := access
  unfold State.mailTarget
  rw [if_neg named, accessWait_of_free free]
  dsimp only
  rw [region, aligned, lockTrap_of_free unlocked]
  rfl

end

/-! ## A message shown -/

/-- The state with the mailbox holding `mail` and message `x` shown at the target of a receive. -/
def State.showMail (u : State) (mail : List (BitVec 128)) (target : Option Nat) (x : BitVec 128) : State :=
  (noteMail u target).putTile (putMail { (noteMail u target).tile with mail := mail } target x)

section
variable (u : State) (mail : List (BitVec 128)) (target : Option Nat) (x : BitVec 128)

theorem noteMail_store (a : Nat) : noteMail u (some a) = u.setTh (rangeNoted u.th (a - tileBase) 16) := noteOut_run ..

theorem thread_putMail (t : Tile) (ag : Agent) : (putMail t target x).thread ag = t.thread ag := by
  cases target with
  | none => rfl
  | some a => exact thread_writeCells ..

theorem th_showMail : (u.showMail mail target x).th = (noteMail u target).th := by
  rw [State.showMail, State.th_putTile, thread_putMail]
  unfold State.th
  cases (noteMail u target).curAgent <;> rfl

theorem curAgent_showMail : (u.showMail mail target x).curAgent = u.curAgent := by
  cases target <;> rfl

theorem pc_showMail : (u.showMail mail target x).pc = u.pc := by
  rw [State.pc, th_showMail]
  cases target with
  | none => rfl
  | some a => rw [noteMail_store, State.th_setTh, pc_rangeNoted, State.pc]

theorem x_showMail (r : Reg) : (u.showMail mail target x).x r = u.x r := by
  rw [State.x, th_showMail]
  cases target with
  | none => rfl
  | some a => rw [noteMail_store, State.th_setTh, Thread.readX_rangeNoted, State.x]

theorem mail_showMail : (u.showMail mail target x).tile.mail = mail := by
  rw [State.showMail, State.tile_putTile]
  cases target <;> rfl

theorem getD_leBytes {n i : Nat} (inside : i < n) (v : Nat) : (leBytes v n).getD i 0 = BitVec.ofNat 8 (v / 256 ^ i) := by
  induction n generalizing v i with
  | zero => omega
  | succ n ih =>
    cases i with
    | zero => rw [leBytes, List.getD_cons_zero, Nat.pow_zero, Nat.div_one]
    | succ i => rw [leBytes, List.getD_cons_succ, ih (by omega), Nat.div_div_eq_div_mul, pow_succ']

/-- The bytes of the message stand at the target. -/
theorem byte_showMail {a i : Nat} (inside : a - tileBase + i < storeSize) (own : i < 16) :
    (u.showMail mail (some a) x).tile.byte (a - tileBase + i) = BitVec.ofNat 8 (x.toNat / 256 ^ i) := by
  rw [State.showMail, State.tile_putTile]
  obtain ⟨-, byte, -⟩ := storedAt_writeBytes { (noteMail u (some a)).tile with mail := mail } (a - tileBase) (leBytes x.toNat 16)
  refine (byte _).trans ?_
  rw [if_pos (by rw [length_leBytes]; omega), Nat.add_sub_cancel_left, getD_leBytes own]

/-! ## What an acquire of a message keeps (10 R212, 13 R258) -/

theorem mailAcquire_traffic : Traffic u (u.mailAcquire x) := by
  unfold State.mailAcquire
  split
  · exact .selfInvalidate u
  · exact .refl u

theorem mailAcquire_other (other : x.toNat % 2 ^ 8 ≠ 1) : u.mailAcquire x = u := by
  have kind : (msgKind x == mkNOTIFY) = false := by
    rw [msgKind, nbit_low]
    exact beq_false_of_ne other
  rw [State.mailAcquire, kind]
  rfl

end

theorem Traffic.mail {u v : State} (h : Traffic u v) : v.tile.mail = u.tile.mail := by
  rw [h.here]
  exact Tile.setThread_keeps (·.mail) u.tile _ _ fun _ _ _ => rfl

/-! ## How a receive and a peek end -/

theorem mailAt_append {t : Tile} {x : BitVec 128} {pre post : List (BitVec 128)} (mail : t.mail = pre ++ x :: post) : mailAt t pre.length = x := by
  simp [mailAt, mail]

theorem mail_noteMail (u : State) (target : Option Nat) : (noteMail u target).tile.mail = u.tile.mail := by
  cases target with
  | none => rfl
  | some a =>
    rw [noteMail_store, State.tile_setTh]
    exact Tile.setThread_keeps (·.mail) u.tile _ _ fun _ _ _ => rfl

section
variable {s u : State} {m : SMark} {rd rs1 : Reg} {target : Option Nat} {x : BitVec 128} {pre post : List (BitVec 128)}
  (issued : issues s m u) (reached : ∀ k, u.mailTarget rs1 k = k u target) (mail : u.tile.mail = pre ++ x :: post)
  (others : pre.all (fun y => !mayTake u.curAgent y) = true) (own : mayTake u.curAgent x = true)
include issued reached mail others own

theorem exec_mpeek : exec (.mpeek m rd rs1) s = .next (State.finish (.ok ((u.showMail u.tile.mail target x).setX rd
    (BitVec.ofNat 64 (x.toNat % 2 ^ 8 + ((post.filter (mayTake u.curAgent)).length + 1) % 2 ^ 7 * 2 ^ 8))))) := by
  refine exec_of_ok (exec_scalar issued rfl) ((reached _).trans ?_)
  have shown : (noteMail u target).putTile (putMail (noteMail u target).tile target x) = u.showMail u.tile.mail target x := by
    rw [State.showMail, ← mail_noteMail u target]
  have count : (u.showMail u.tile.mail target x).tile.mailCount u.curAgent = (post.filter (mayTake u.curAgent)).length + 1 := by
    rw [Tile.mailCount, mail_showMail, mail, filter_mayTake_append others, List.filter_cons_of_pos own, List.length_cons]
  rw [Tile.mailFor_oldest mail others own]
  dsimp only
  rw [mailAt_append mail, shown, curAgent_showMail, count, mailWord_eq]

theorem exec_mrecv (noStream : u.tile.streams u.src true true = false) :
    let w := (u.showMail (pre ++ post) target x).mailAcquire x
    exec (.mrecv m rd rs1) s = .next (committedTo (w.pc + 4)
      (w.setX rd (BitVec.ofNat 64 (x.toNat % 2 ^ 8 + (post.filter (mayTake u.curAgent)).length % 2 ^ 7 * 2 ^ 8)))) := by
  intro w
  rw [← State.pc_setX w rd]
  refine exec_of_commit (exec_scalar issued rfl) noStream ((reached _).trans ?_)
  have shown : (noteMail u target).putTile (putMail { (noteMail u target).tile with mail := (noteMail u target).tile.mail.eraseIdx pre.length } target x)
      = u.showMail (pre ++ post) target x := by
    rw [State.showMail, mail_noteMail, mail, List.eraseIdx_append_of_length_le le_rfl, Nat.sub_self, List.eraseIdx_cons_zero]
  have count : (u.showMail (pre ++ post) target x).tile.mailCount u.curAgent = (post.filter (mayTake u.curAgent)).length := by
    rw [Tile.mailCount, mail_showMail, filter_mayTake_append others]
  rw [Tile.mailFor_oldest mail others own]
  dsimp only
  rw [mailAt_append mail, shown, curAgent_showMail, count, mailWord_eq]

end

section
variable {u w t : State} {rd : Reg} {v : Word} {l : List (BitVec 128)} {target : Option Nat} {x : BitVec 128}
  (traffic : Traffic (u.showMail l target x) w)
include traffic

/-- What a message shown leaves of the registers and the mailbox, once its instruction is over. -/
theorem message_taken (value : t.x rd = if rd = 0 then 0 else v) (kept : sameX w t rd) (pc : t.pc = w.pc + 4) (core : sameCore w t) :
    t.tile.mail = l ∧ t.pc = u.pc + 4 ∧ t.x rd = (if rd = 0 then 0 else v) ∧ sameX u t rd := by
  refine ⟨(congrArg Tile.mail core :).trans (traffic.mail.trans (mail_showMail ..)), pc.trans ?_, value, fun r other => ?_⟩
  · rw [traffic.pc, pc_showMail]
  · rw [kept r other, traffic.readX, x_showMail]

/-- The same of a message shown at the target of a receive: its bytes stand there. -/
theorem message_stored {a : Nat} (target : target = some a) (value : t.x rd = if rd = 0 then 0 else v) (kept : sameX w t rd) (pc : t.pc = w.pc + 4)
    (core : sameCore w t) : t.tile.mail = l ∧ t.pc = u.pc + 4 ∧ t.x rd = (if rd = 0 then 0 else v) ∧ sameX u t rd
      ∧ ∀ i, a - tileBase + i < storeSize → i < 16 → t.tile.byte (a - tileBase + i) = BitVec.ofNat 8 (x.toNat / 256 ^ i) := by
  obtain ⟨mail, next, result, registers⟩ := message_taken traffic value kept pc core
  subst target
  have store : t.tile.store = (u.showMail l (some a) x).tile.store := (congrArg Tile.store core :).trans traffic.store
  refine ⟨mail, next, result, registers, fun i inside own => ?_⟩
  rw [Tile.byte, store]
  exact byte_showMail _ _ _ inside own

end

/-! ## The statement -/

/-- Settles O25: the oldest message for the agent is shown and its receive commits; without one the value is that of no message. -/
theorem mailbox : Obligations.Mailbox := by
  unfold Obligations.Mailbox
  intro s u m issued streams rd mine
  have noStream := streams true true
  have mwait := exec_scalar (i := .mwait m) issued rfl
  refine ⟨?some, ?none⟩
  case none =>
    intro (none : u.tile.mail.all (fun y => !mayTake u.curAgent y) = true)
    have absent : ¬ u.tile.mail.any (mayTake u.curAgent) = true := by simpa using none
    have word : mailWord 0 0 = 0 := rfl
    have result {i : Instr} {d : Done} (runs : exec i s = .next (State.finish (d.afterStreams u))) (ends : d = .ok (u.setX rd 0)) :
        completes i s (fun t => writesOnly u t rd 0) := completes_next (exec_of_ok runs ends) (writesOnly_setX u rd 0)
    refine ⟨result (exec_scalar issued rfl) ((State.mailTarget_x0 _).trans ?_), result (exec_scalar issued rfl) ((State.mailTarget_x0 _).trans ?_),
      exec_of_wait mwait (if_neg absent)⟩
    all_goals rw [Tile.mailFor_none none, word]
  case some =>
    intro x pre post mail others own n
    refine ⟨?peek, fun other => ?recv, ?recvAny, fun rs1 named access aligned => ?peekStore, fun rs1 named access aligned => ?recvStore, ?wait⟩
    case peek =>
      refine completes_next (exec_mpeek issued State.mailTarget_x0 mail others own) ?_
      rw [finish_ok, State.pc_setX, pc_showMail]
      rfl
    case recv =>
      refine completes_next (exec_mrecv issued State.mailTarget_x0 mail others own noStream) ?_
      rw [mailAcquire_other _ _ other, pc_showMail]
      rfl
    case recvAny =>
      obtain ⟨value, kept, pc, core, -⟩ := committed_setX ((u.showMail (pre ++ post) none x).mailAcquire x) rd _
      exact completes_next (exec_mrecv issued State.mailTarget_x0 mail others own noStream) (message_taken (mailAcquire_traffic ..) value kept pc core)
    case peekStore =>
      obtain ⟨value, pc, -, kept, -, -, -, core, -⟩ := writesOnly_setX (u.showMail u.tile.mail (some (u.x rs1).toNat) x) rd _
      exact completes_next (exec_mpeek issued (State.mailTarget_store named access aligned) mail others own)
        (message_stored (.refl _) rfl value kept pc core)
    case recvStore =>
      obtain ⟨value, kept, pc, core, -⟩ := committed_setX ((u.showMail (pre ++ post) (some (u.x rs1).toNat) x).mailAcquire x) rd _
      exact completes_next (exec_mrecv issued (State.mailTarget_store named access aligned) mail others own noStream)
        (message_stored (mailAcquire_traffic ..) rfl value kept pc core)
    case wait =>
      have present : u.tile.mail.any (mayTake u.curAgent) = true := List.any_eq_true.mpr ⟨x, by simp [mail], own⟩
      exact completes_jumpsTo mwait (if_pos present) rfl

end Sys2Proof.Machine
end

section
/-! SUPPORT. CPCANCEL, CPSTAT and TCOPY (O36): the channel that CPCANCEL names, fields of one bit, the CSRs that TCOPY sets. -/

namespace Sys2Proof.Machine

open Sys2Proof.Safety

/-! ## The channel that CPCANCEL names (09 R197) -/

theorem find?_finRange_some {n : Nat} {p : Fin n → Bool} {i : Fin n} (holds : p i = true) (first : ∀ j, j < i → p j = false) :
    (List.finRange n).find? p = some i := by
  refine List.find?_eq_some_iff_getElem.mpr ⟨holds, i.val, by simp, by simp, fun j hj => ?_⟩
  rw [List.getElem_finRange, first _ hj]
  rfl

theorem find?_finRange_none {n : Nat} {p : Fin n → Bool} (fails : ∀ j, p j = false) : (List.finRange n).find? p = none :=
  List.find?_eq_none.mpr fun j _ => ne_true_of_eq_false (fails j)

/-- A running copy of the acting agent's workspace with the number `x`. -/
def State.cancels (u : State) (x : BitVec 16) : Fin 4 → Bool :=
  fun ch => (u.tile.chans[ch]).xid == x && (u.tile.chans[ch]).owner.ws == u.ws && (u.tile.chans[ch]).st == .running

theorem State.cancels_iff (u : State) (x : BitVec 16) (c : Fin 4) : u.cancels x c = true ↔
    u.tile.chans[c].xid = x ∧ u.tile.chans[c].owner.ws = u.ws ∧ u.tile.chans[c].st = .running := by
  simp [State.cancels, and_assoc]

/-! ## Fields of a register (02 R29) -/

theorem nbit_one_iff (v : Word) (l : Nat) : nbit v.toNat l 1 = 1 ↔ v.getLsbD l = true := by
  rw [BitVec.getLsbD, Nat.testBit_eq_decide_div_mod_eq, decide_eq_true_iff, nbit, Nat.pow_one]

/-! ## The shapes -/

section
variable {s u : State} {m : SMark} {rd rs1 rs2 : Reg}

/-- An instruction that leaves its result in rd and no other change of the registers of `w`. -/
theorem completes_writesOnly {w : State} {i : Instr} {d : Done} {v : Word} (runs : exec i s = .next (State.finish (d.afterStreams u)))
    (ends : d = .ok (w.setX rd v)) : completes i s (fun t => writesOnly w t rd v) :=
  completes_next (exec_of_ok runs ends) (writesOnly_setX w rd v)

/-- The copy CSRs after a TCOPY of `n` elements with the operands `x1` and `x2` (08 R183). -/
def CopyCsrs.ofTcopy (cp : CopyCsrs) (x1 x2 n : Nat) : CopyCsrs :=
  { cp with src := BitVec.ofNat 64 (x1 % 2 ^ 10 + x2 % 2 ^ 32 * 2 ^ 32), dst := BitVec.ofNat 64 (nbit x1 16 10 + x2 / 2 ^ 32 * 2 ^ 32)
            len := BitVec.ofNat 64 (n % 2 ^ 32), opt := cp.opt ||| 1 }

/-- How many elements TCOPY transfers between two entries, from the rows that `x2` names (08 R183). -/
def tcopyCount (a b : TEnt) (x2 : Nat) : Nat := (copyExtent a b (x2 % 2 ^ 32) (x2 / 2 ^ 32)).1 * (copyExtent a b (x2 % 2 ^ 32) (x2 / 2 ^ 32)).2

theorem exec_tcopy (issued : issues s m u) {w : State} {eb fb : List Byte} (middle : nbit (u.x rs1).toNat 10 6 = 0)
    (upper : nbit (u.x rs1).toNat 26 38 = 0)
    (entries : u.copyEntries u.ws (BitVec.ofNat 10 (u.x rs1).toNat) (BitVec.ofNat 10 ((u.x rs1).toNat / 2 ^ 16)) = .ok (w, some (eb, fb)))
    (pair : tensorPair (entOf eb) (entOf fb) = none) : let n := tcopyCount (entOf eb) (entOf fb) (u.x rs2).toNat
    exec (.tcopy m rd rs1 rs2) s = .next (State.finish (.ok
      ((w.setTh { w.th with cp := w.th.cp.ofTcopy (u.x rs1).toNat (u.x rs2).toNat n }).setX rd (BitVec.ofNat 64 n)))) := by
  intro n
  refine exec_of_ok (exec_scalar issued rfl) ?_
  dsimp only
  rw [middle, upper, entries]
  dsimp only
  rw [pair, nbit_low, nbit_low, nbit_high (u.x rs2).isLt]
  rfl

end

/-! ## The statement -/

/-- Settles O36: CPCANCEL by the first channel that it may cancel, CPSTAT by the bit that asks for a lock entry, TCOPY by the entries that it
reads. -/
theorem copyControl : Obligations.CopyControl := by
  unfold Obligations.CopyControl
  intro s u m issued rd rs1 rs2 x mine
  have cancel := exec_scalar (i := .cpcancel m rd rs1 rs2) issued rfl
  have stat := exec_scalar (i := .cpstat m rd rs1 rs2) issued rfl
  have not_mine {c : Fin 4} (other : ¬ mine c) : u.cancels x c = false := Bool.eq_false_of_not_eq_true (other ∘ (u.cancels_iff x c).mp)
  refine ⟨fun c own first => ?cancelled, fun others => ?noCopy, fun c channel place => ?channel, fun lock => ?lock,
    fun w eb fb middle upper entries pair => ?tcopy⟩
  case cancelled =>
    have found : (List.finRange 4).find? (u.cancels x) = some c :=
      find?_finRange_some ((u.cancels_iff x c).mpr own) fun d before => not_mine (first d before)
    unfold State.cancels at found
    refine completes_writesOnly cancel ?_
    dsimp only
    rw [found]
    rfl
  case noCopy =>
    have absent : (List.finRange 4).find? (u.cancels x) = none := find?_finRange_none fun c => not_mine (others c)
    unfold State.cancels at absent
    refine completes_writesOnly cancel ?_
    dsimp only
    rw [absent]
  case channel =>
    have bit : ¬ nbit (u.x rs1).toNat 8 1 = 1 := by rw [nbit_one_iff, channel]; nofun
    have number : nbit (u.x rs1).toNat 0 2 = c.val := (nbit_low ..).trans place
    refine completes_writesOnly stat ((if_neg bit).trans ?_)
    simp only [number, Fin.getElem_fin]
  case lock =>
    rw [show (u.x rs1).toNat % 32 = nbit (u.x rs1).toNat 0 5 from (nbit_low _ 5).symm]
    exact completes_writesOnly stat (if_pos ((nbit_one_iff ..).mpr lock))
  case tcopy =>
    intro n
    have field : nbit (u.x rs1).toNat 26 38 = 0 := by rw [nbit, upper]; rfl
    obtain ⟨value, pc, -, -, -, -, -, -, -, -, control, -⟩ :=
      writesOnly_setX (w.setTh { w.th with cp := w.th.cp.ofTcopy (u.x rs1).toNat (u.x rs2).toNat n }) rd (BitVec.ofNat 64 n)
    have csrs := (congrArg Thread.cp control :).trans (congrArg Thread.cp (State.th_setTh ..))
    refine completes_next (exec_tcopy issued middle field entries pair) ⟨value, pc.trans (by rw [State.pc_setTh, State.pc]), ?_⟩
    exact ⟨congrArg CopyCsrs.len csrs, congrArg CopyCsrs.opt csrs, congrArg CopyCsrs.src csrs⟩

end Sys2Proof.Machine
end

section
/-! SUPPORT. Messages sent (O30): what an interface's look at the role map leaves, a message entered in its window, the checks of a tile
address, and how PUT, GET and NOTIFY end. -/

namespace Sys2Proof.Machine

open Sys2Proof.Safety

/-! ## The role cache of an interface (11 R225, R245) -/

/-- The interface of tile `a` resolves a tile of a path, and the one four positions onward, where there is one, if the first routes. -/
def State.lookStep (s : State) (a n : Nat) (far : Option Nat) : State :=
  match far with
  | none => s
  | some u =>
    if !inLine n u then s
    else
      let s1 := (s.resolve a (s.ltidOf n)).1
      if (s1.tileAt a).routersSeen.contains n then (s1.resolve a (s1.ltidOf u)).1 else s1

theorem State.lookHops_cons (s : State) (a fuel n : Nat) (rest : List Nat) : s.lookHops a (fuel + 1) (n :: rest) =
    let s2 := s.lookStep a n (n :: rest)[4]?
    s2.lookHops a fuel ((n :: rest).drop (s2.hopLen (s2.tileAt a).routersSeen (n :: rest))) := by
  have step : s.lookStep a n (n :: rest)[4]? = match (n :: rest)[4]? with
      | some u =>
        if !inLine n u then s
        else
          let s1 := (s.resolve a (s.ltidOf n)).1
          if (s1.tileAt a).routersSeen.contains n then (s1.resolve a (s1.ltidOf u)).1 else s1
      | none => s := by
    unfold State.lookStep
    cases (n :: rest)[4]? <;> rfl
  rw [step]
  rfl

/-- Of the package only the role cache of tile `a` is another. -/
structure Resolved (a : Nat) (s t : State) : Prop where
  rest : t = { s with tiles := t.tiles }
  elsewhere : ∀ n, n ≠ a → t.tileAt n = s.tileAt n
  here : t.tileAt a = { s.tileAt a with roleCache := (t.tileAt a).roleCache }

namespace Resolved

variable {a : Nat} {s t u : State}

theorem refl (a : Nat) (s : State) : Resolved a s s := ⟨rfl, fun _ _ => rfl, rfl⟩

theorem trans (h : Resolved a s t) (k : Resolved a t u) : Resolved a s u where
  rest := k.rest.trans (by rw [h.rest])
  elsewhere n hn := (k.elsewhere n hn).trans (h.elsewhere n hn)
  here := k.here.trans (by rw [h.here])

theorem curTile (h : Resolved a s t) : t.curTile = s.curTile := (congrArg State.curTile h.rest :)
theorem curAgent (h : Resolved a s t) : t.curAgent = s.curAgent := (congrArg State.curAgent h.rest :)
theorem flights (h : Resolved a s t) : t.flights = s.flights := (congrArg State.flights h.rest :)

/-- What is read of any tile without its role cache. -/
theorem keeps {α : Type} (h : Resolved a s t) (f : Tile → α) (kept : ∀ T c, f { T with roleCache := c } = f T) (n : Nat) :
    f (t.tileAt n) = f (s.tileAt n) := by
  by_cases at' : n = a
  · rw [at', h.here, kept]
  · rw [h.elsewhere n at']

theorem setCache (s : State) (a : Nat) (c : List (Nat × Word)) : Resolved a s (s.setTile a { s.tileAt a with roleCache := c }) where
  rest := rfl
  elsewhere _ hn := State.tileAt_setTile_ne hn ..
  here := by rw [State.tileAt_setTile_same]

theorem resolve (s : State) (a l : Nat) : Resolved a s (s.resolve a l).1 := by
  unfold State.resolve
  split
  · exact refl a s
  · exact setCache s a _

theorem lookStep (s : State) (a n : Nat) (far : Option Nat) : Resolved a s (s.lookStep a n far) := by
  unfold State.lookStep
  split
  · exact refl a s
  · split
    · exact refl a s
    · dsimp only
      split
      · exact (resolve ..).trans (resolve ..)
      · exact resolve ..

theorem lookHops (s : State) (a fuel : Nat) (path : List Nat) : Resolved a s (s.lookHops a fuel path) := by
  induction fuel generalizing s path with
  | zero => exact refl a s
  | succ fuel ih =>
    cases path with
    | nil => exact refl a s
    | cons n rest =>
      rw [State.lookHops_cons]
      exact (lookStep ..).trans (ih ..)

theorem inject (s : State) (a b : Nat) : Resolved a s (s.inject a b).1 := lookHops ..

end Resolved

/-- One packet leaves, or comes back refused. -/
theorem State.launch_eq (s : State) (tile dst seq : Nat) :
    ∃ v f, Resolved tile s v ∧ s.launch tile dst seq = { v with flights := s.flights ++ [f] } := by
  have found := Resolved.resolve s tile dst
  unfold State.launch
  dsimp only
  split
  · exact ⟨_, _, found, by rw [found.flights]⟩
  · exact ⟨_, _, found.trans (.inject ..), by rw [(found.trans (.inject ..)).flights]⟩

/-! ## A message entered in its window (10 R214) -/

/-- A window with one message more. -/
def Window.enter (w : Window) (m : Msg) : Window := { w with next := w.next + 1, msgs := w.msgs ++ [m] }

/-- The message that a sender enters next in a window of tile `n`. -/
def State.nextMsg (s : State) (n dst : Nat) (src : Src) (pc addr : Word) (body : MsgBody) : Msg :=
  { src := src, pc := pc, addr := addr, seq := ((s.tileAt n).window dst).next, first := s.tick, body := body }

/-- Tile `n` has sent a message to `dst`: of the package only what is in flight is other, of the tile its windows and its role cache. -/
structure Sent (n dst : Nat) (m : Msg) (s t : State) : Prop where
  rest : t = { s with tiles := t.tiles, flights := t.flights }
  elsewhere : ∀ k, k ≠ n → t.tileAt k = s.tileAt k
  here : t.tileAt n = { (s.tileAt n).setWindow dst (((s.tileAt n).window dst).enter m) with roleCache := (t.tileAt n).roleCache }

theorem State.sendMsg_sent (s : State) (n dst : Nat) (src : Src) (pc addr : Word) (body : MsgBody) :
    Sent n dst (s.nextMsg n dst src pc addr body) s (s.sendMsg n dst src pc addr body) := by
  let m := s.nextMsg n dst src pc addr body
  let T := (s.tileAt n).setWindow dst (((s.tileAt n).window dst).enter m)
  have entered : Sent n dst m s (s.setTile n T) :=
    ⟨rfl, fun _ hk => State.tileAt_setTile_ne hk .., by rw [State.tileAt_setTile_same]⟩
  unfold State.sendMsg
  dsimp only
  split
  · exact entered
  · obtain ⟨v, f, looked, sends⟩ := (s.setTile n T).launch_eq n dst ((s.tileAt n).window dst).next
    refine sends ▸ ⟨?_, fun k hk => ?_, ?_⟩
    · rw [looked.rest]
      rfl
    · exact (looked.elsewhere k hk).trans (entered.elsewhere k hk)
    · exact looked.here.trans (congrArg (fun T' : Tile => ({ T' with roleCache := (v.tileAt n).roleCache } : Tile)) (State.tileAt_setTile_same ..))

theorem Tile.window_setWindow (T : Tile) (dst d : Nat) (w : Window) : (T.setWindow dst w).window d = if d = dst then w else T.window d := by
  rw [Tile.window, Tile.setWindow]
  by_cases same : d = dst
  · rw [if_pos same, same, sget_sset_same, Option.getD_some]
  · rw [if_neg same, sget_sset_ne same, Tile.window]

namespace Sent

variable {n dst : Nat} {m : Msg} {s t : State} (h : Sent n dst m s t)
include h

theorem curTile : t.curTile = s.curTile := (congrArg State.curTile h.rest :)
theorem curAgent : t.curAgent = s.curAgent := (congrArg State.curAgent h.rest :)
theorem mem : t.mem = s.mem := (congrArg State.mem h.rest :)

/-- What is read of any tile without its windows and its role cache. -/
theorem keeps {α : Type} (f : Tile → α) (kept : ∀ T w c, f { T with windows := w, roleCache := c } = f T) (k : Nat) :
    f (t.tileAt k) = f (s.tileAt k) := by
  by_cases at' : k = n
  · rw [at', h.here]
    exact kept (s.tileAt n) _ _
  · rw [h.elsewhere k at']

theorem window (d : Nat) : (t.tileAt n).window d = if d = dst then ((s.tileAt n).window dst).enter m else (s.tileAt n).window d := by
  rw [h.here]
  exact Tile.window_setWindow ..

theorem th : t.th = s.th := by
  rw [State.th, State.th, State.tile, State.tile, h.curTile, h.curAgent]
  exact h.keeps (·.thread s.curAgent) (fun _ _ _ => by cases s.curAgent <;> rfl) _

theorem ctx : t.ctx = s.ctx := by
  rw [State.ctx, State.ctx, State.tile, State.tile, h.curTile, h.curAgent]
  cases s.curAgent with
  | ctx c => exact h.keeps (·.ctx[c]) (fun _ _ _ => rfl) _
  | loader => rfl
  | storer => rfl

theorem isCtx : t.isCtx = s.isCtx := by rw [State.isCtx, h.curAgent, State.isCtx]

theorem pc : t.pc = s.pc := congrArg Thread.pc h.th

end Sent

/-! ## The checks of a tile address (02 R43, 10 R210) -/

theorem taOff_eq (a : Word) : taOff a = a.toNat % 2 ^ 21 := by
  rw [taOff, nbit, Nat.pow_zero, Nat.div_one]

section
variable {u : State} (free : accessFree u) {a : Word} {n : Nat} (miss k : State → Done)
include free

theorem State.tileAddr_bad (bad : taBad a = true) : u.tileAddr a n miss k = Done.trapAt u trACCESS_FAULT a 0 := by
  rw [State.tileAddr, accessWait_of_free free]
  exact if_pos bad

variable (named : taBad a = false)
include named

theorem State.tileAddr_misaligned (odd : taOff a % n ≠ 0) : u.tileAddr a n miss k = Done.trapAt u trMISALIGNED a 0 := by
  rw [State.tileAddr, accessWait_of_free free, named]
  exact if_pos (bne_iff_ne.mpr odd)

variable (aligned : taOff a % n = 0)
include aligned

theorem State.tileAddr_outside (outside : storeSize ≤ taOff a) : u.tileAddr a n miss k = miss (u.noteOut (some a)) := by
  rw [State.tileAddr, accessWait_of_free free, named, aligned]
  exact if_pos outside

theorem State.tileAddr_good (inside : taOff a < storeSize) : u.tileAddr a n miss k = k u := by
  rw [State.tileAddr, accessWait_of_free free, named, aligned]
  exact if_neg (Nat.not_le.mpr inside)

end

theorem State.sendTo_room {u : State} {a : Word} (room : u.tile.hasRoom (taLtid a) = true) (body : MsgBody) (k : State → Done) :
    u.sendTo a body k = k (u.sendMsg u.curTile (taLtid a) u.src u.pc a body) := if_pos room

theorem State.sendTo_full {u : State} {a : Word} (full : ¬ u.tile.hasRoom (taLtid a) = true) (body : MsgBody) (k : State → Done) :
    u.sendTo a body k = .wait (.window (BitVec.ofNat 12 (taLtid a))) u := if_neg full

/-! ## The sender goes on -/

/-- What a sender leaves in its tile's windows, and what it leaves unchanged, once it is past the instruction. -/
def sentBy (u t : State) (dst : Nat) (a : Word) (body : MsgBody) : Prop :=
  (t.tile.window dst).msgs = (u.tile.window dst).msgs ++ [{ src := u.src, pc := u.pc, addr := a, seq := (u.tile.window dst).next, first := u.tick, body := body }]
  ∧ (t.tile.window dst).next = (u.tile.window dst).next + 1 ∧ (∀ d, d ≠ dst → t.tile.window d = u.tile.window d)
  ∧ t.pc = u.pc + 4 ∧ (∀ r, t.x r = u.x r) ∧ t.mem = u.mem ∧ t.tile.store = u.tile.store

/-- What is read of a tile without its agents. -/
theorem agentTile_keeps {α : Type} (f : Tile → α) (kept : ∀ (T : Tile) (x : Vector Context 8) (l r : SideCore), f { T with ctx := x, ldr := l, str := r } = f T)
    (s : State) (h : Thread) (k : Context → Context) : f (agentTile s h k) = f s.tile := by
  rw [← kept _ s.tile.ctx s.tile.ldr s.tile.str, agentTile_core]

theorem windows_wentOn (w : State) (pc : Word) : (wentOn pc w).tile.windows = w.tile.windows := by
  rw [wentOn_eq, State.tile_putTile]
  exact agentTile_keeps (·.windows) (fun _ _ _ _ => rfl) ..

theorem windows_committedTo (w : State) (pc : Word) : (committedTo pc w).tile.windows = w.tile.windows := by
  rw [committedTo_eq, State.tile_putTile]
  exact agentTile_keeps (·.windows) (fun _ _ _ _ => rfl) ..

/-- A sender whose results alone have changed before it sent, past its instruction whatever its strand then becomes. -/
theorem sentBy_agent {u v : State} (h : Traffic u v) (dst : Nat) (a : Word) (body : MsgBody) (k : Context → Context) :
    let w := v.sendMsg v.curTile dst v.src v.pc a body
    sentBy u (w.putTile (agentTile w { w.th with pc := u.pc + 4 } k)) dst a body := by
  intro w
  have sent := v.sendMsg_sent v.curTile dst v.src v.pc a body
  let t := w.putTile (agentTile w { w.th with pc := u.pc + 4 } k)
  have agents {α : Type} (f : Tile → α) (kept : ∀ (T : Tile) (x : Vector Context 8) (l r : SideCore), f { T with ctx := x, ldr := l, str := r } = f T) :
      f t.tile = f (w.tileAt v.curTile) := by
    rw [State.tile_putTile, agentTile_keeps f kept, State.tile, sent.curTile]
  have windows (d : Nat) : v.tile.window d = u.tile.window d := by
    rw [h.here]
    exact Tile.setThread_keeps (·.window d) u.tile _ _ fun _ _ _ => rfl
  have window (d : Nat) : t.tile.window d = if d = dst then (u.tile.window dst).enter (v.nextMsg v.curTile dst v.src v.pc a body) else u.tile.window d := by
    rw [agents (·.window d) (fun _ _ _ _ => rfl), sent.window d]
    exact if_congr Iff.rfl (by rw [← windows]; rfl) (windows d)
  have own : v.nextMsg v.curTile dst v.src v.pc a body = { src := u.src, pc := u.pc, addr := a, seq := (u.tile.window dst).next, first := u.tick, body := body } := by
    rw [State.nextMsg, h.src, h.pc, ← windows, (congrArg State.tick h.rest :)]
    rfl
  refine ⟨?_, ?_, fun d other => (window d).trans (if_neg other), ?_, fun r => ?_, sent.mem.trans h.mem, ?_⟩
  · rw [window, if_pos rfl, own]
    rfl
  · rw [window, if_pos rfl]
    rfl
  · rw [State.pc, th_agentTile]
  · rw [State.x, th_agentTile, ← h.readX]
    exact (congrArg (Thread.readX · r) sent.th :)
  · rw [agents (·.store) (fun _ _ _ _ => rfl), sent.keeps (·.store) (fun _ _ _ => rfl)]
    exact h.store

/-- The strand past a committing instruction begins a region there. -/
theorem rgnpc_committedTo {w : State} (isCtx : w.isCtx = true) (pc : Word) : (committedTo pc w).ctx.rgnpc = pc := by
  rw [committedTo_eq, ctx_agentTile isCtx]
  rfl

theorem rgnpc_wentOn {w : State} (isCtx : w.isCtx = true) (pc : Word) : (wentOn pc w).ctx.rgnpc = w.ctx.rgnpc := by
  rw [wentOn_eq, ctx_agentTile isCtx]
  rfl

/-! ## How PUT, GET and NOTIFY end -/

theorem State.isCtx_agent {u : State} (isCtx : u.isCtx = true) : ∃ c, u.curAgent = .ctx c := by
  cases acts : u.curAgent with
  | ctx c => exact ⟨c, rfl⟩
  | loader => simp [State.isCtx, acts] at isCtx
  | storer => simp [State.isCtx, acts] at isCtx

/-- A message sent by a committing instruction. -/
theorem completes_sent {s u : State} {i : Instr} {d : Done} (runs : exec i s = .next (State.finish (d.afterStreams u)))
    (noStream : u.tile.streams u.src true true = false) (isCtx : u.isCtx = true) {dst : Nat} {a : Word} {body : MsgBody}
    (ends : d = .commit (u.sendMsg u.curTile dst u.src u.pc a body)) :
    completes i s (fun t => sentBy u t dst a body ∧ t.ctx.rgnpc = u.pc + 4) := by
  have sent := u.sendMsg_sent u.curTile dst u.src u.pc a body
  refine completes_next (exec_of_commit runs noStream ends) ?_
  rw [sent.pc]
  refine ⟨?_, rgnpc_committedTo (sent.isCtx.trans isCtx) _⟩
  rw [committedTo_eq]
  exact sentBy_agent (.refl u) dst a body _

/-- A message sent by an instruction that does not commit, after its result is outstanding. -/
theorem completes_sent_on {s u v : State} {i : Instr} {d : Done} (runs : exec i s = .next (State.finish (d.afterStreams u))) (isCtx : u.isCtx = true)
    (opened : Traffic u v) {dst : Nat} {a : Word} {body : MsgBody} (ends : d = .ok (v.sendMsg v.curTile dst v.src v.pc a body)) :
    completes i s (fun t => sentBy u t dst a body ∧ t.ctx.rgnpc = u.ctx.rgnpc ∧ t.th.outs = v.th.outs) := by
  have sent := v.sendMsg_sent v.curTile dst v.src v.pc a body
  have done := exec_of_ok runs ends
  rw [finish_ok, sent.pc.trans opened.pc] at done
  refine completes_next done ⟨?_, ?_, ?_⟩
  · rw [wentOn_eq]
    exact sentBy_agent opened dst a body id
  · rw [rgnpc_wentOn (sent.isCtx.trans (opened.isCtx.trans isCtx)), sent.ctx, opened.ctx]
  · rw [wentOn_eq, th_agentTile, sent.th]

/-- The result of a GET becomes outstanding as that of any read of the remote class. -/
theorem State.getResult_eq (u : State) (rd : Reg) (a : Word) (bytes : List (Option Byte)) :
    u.getResult rd a bytes = (u.openRead (.x rd true) a.toNat bytes none (rd != 0), u.fresh) := by
  have addr : BitVec.ofNat 64 a.toNat = a := by rw [BitVec.ofNat_toNat, BitVec.setWidth_eq]
  rw [State.getResult, State.openRead, newResult, addr]
  rfl

section
variable {u v : State} (h : Traffic u v)
include h

theorem Traffic.windows : v.tile.windows = u.tile.windows := by
  rw [h.here]
  exact Tile.setThread_keeps (·.windows) u.tile _ _ fun _ _ _ => rfl

theorem Traffic.hasRoom (dst : Nat) : v.tile.hasRoom dst = u.tile.hasRoom dst := by
  rw [h.here]
  exact Tile.setThread_keeps (·.hasRoom dst) u.tile _ _ fun _ _ _ => rfl

end

/-- How the body of a GET goes on at a good address. -/
theorem State.get_body {u : State} (rd : Reg) (a : Word) (n : Nat) (room : Bool) (has : u.tile.hasRoom (taLtid a) = room) :
    (let (s1, tag) := u.getResult rd a (List.replicate n none)
     match s1.sendTo a (.get (taOff a) n tag) .ok with
     | .wait w _ => .wait w u
     | d => d) =
    let v := u.openRead (.x rd true) a.toNat (List.replicate n none) none (rd != 0)
    if room then Done.ok (v.sendMsg v.curTile (taLtid a) v.src v.pc a (.get (taOff a) n u.fresh)) else .wait (.window (BitVec.ofNat 12 (taLtid a))) u := by
  have opened := (State.openRead_traffic u (.x rd true) a.toNat (List.replicate n none) none (rd != 0)).1
  have has' := (opened.hasRoom (taLtid a)).trans has
  rw [State.getResult_eq]
  dsimp only
  cases room with
  | true => rw [State.sendTo_room has']; rfl
  | false => rw [State.sendTo_full (ne_true_of_eq_false has')]; rfl

/-- The result that a GET leaves outstanding. -/
theorem newResult_get (u : State) (rd : Reg) (a : Word) (bytes : List (Option Byte)) : newResult u (.x rd true) a.toNat bytes none =
    { tag := u.fresh, dest := .x rd true, pc := u.pc, addr := a, bytes := bytes, poison := false, dropped := none, acquire := none } := by
  rw [newResult, BitVec.ofNat_toNat, BitVec.setWidth_eq]

theorem ite_bne {α : Type} (rd : Reg) (x y : α) : (if (rd != 0) = true then x else y) = if rd = 0 then y else x := by
  by_cases zero : rd = 0
  · rw [zero]
    rfl
  · rw [if_pos (bne_iff_ne.mpr zero), if_neg zero]

/-- An offset out of range is noted, unless an earlier one stands (01 R25). -/
theorem th_noteOut (u : State) (a : Word) : (u.noteOut (some a)).th = { u.th with oorf := true, oora := if u.th.oorf then u.th.oora else a } := by
  rw [State.noteOut, State.th_setTh, Thread.noteOut]
  by_cases flag : u.th.oorf = true
  · rw [if_pos flag, if_pos flag, ← flag]
  · rw [if_neg flag, if_neg flag]

theorem windows_noteOut (u : State) (a : Option Word) : (u.noteOut a).tile.windows = u.tile.windows := by
  rw [State.noteOut, State.tile_setTh]
  exact Tile.setThread_keeps (·.windows) _ _ _ fun _ _ _ => rfl

/-- A PUT of an offset out of range goes on and sends nothing. -/
theorem completes_putOutside {s u : State} {i : Instr} {d : Done} {a : Word} (runs : exec i s = .next (State.finish (d.afterStreams u)))
    (noStream : u.tile.streams u.src true true = false) (isCtx : u.isCtx = true) (ends : d = .commit (u.noteOut (some a))) :
    completes i s (fun t => t.tile.windows = u.tile.windows ∧ t.flights = u.flights ∧ t.th.oorf = true ∧ t.pc = u.pc + 4 ∧ t.ctx.rgnpc = u.pc + 4) := by
  have pc : (u.noteOut (some a)).pc = u.pc := (congrArg Thread.pc (th_noteOut u a) :)
  refine completes_next (exec_of_commit runs noStream ends) ?_
  rw [pc]
  refine ⟨(windows_committedTo ..).trans (windows_noteOut ..), ?_, ?_, ?_, rgnpc_committedTo (w := u.noteOut (some a)) isCtx _⟩
  · rw [committedTo_eq]
    rfl
  · rw [committedTo_eq, th_agentTile, th_noteOut]
  · rw [committedTo_eq, State.pc, th_agentTile]

/-- A GET of an offset out of range goes on, sends nothing, and its result has the bytes that it opens with. -/
theorem completes_getOutside {s u : State} {i : Instr} {d : Done} {a : Word} {rd : Reg} {bytes : List (Option Byte)}
    (runs : exec i s = .next (State.finish (d.afterStreams u))) (ends : d = .ok ((u.noteOut (some a)).getResult rd a bytes).1) :
    completes i s (fun t => t.tile.windows = u.tile.windows ∧ t.flights = u.flights ∧ t.th.oorf = true ∧ t.pc = u.pc + 4
      ∧ t.th.outs = u.th.outs ++ (if rd = 0 then [] else [
          { tag := u.fresh, dest := .x rd true, pc := u.pc, addr := a, bytes := bytes, poison := false, dropped := none, acquire := none }])) := by
  let v := u.noteOut (some a)
  have th : v.th = { u.th with oorf := true, oora := if u.th.oorf then u.th.oora else a } := th_noteOut u a
  have pc : v.pc = u.pc := (congrArg Thread.pc th :)
  obtain ⟨opened, -, flights⟩ := State.openRead_traffic v (.x rd true) a.toNat bytes none (rd != 0)
  have own : newResult v (.x rd true) a.toNat bytes none =
      { tag := u.fresh, dest := .x rd true, pc := u.pc, addr := a, bytes := bytes, poison := false, dropped := none, acquire := none } := by
    rw [newResult_get, pc]
    rfl
  rw [State.getResult_eq] at ends
  refine completes_next (exec_of_ok runs ends) ?_
  rw [finish_ok, opened.pc, pc]
  refine ⟨(windows_wentOn ..).trans (opened.windows.trans (windows_noteOut ..)), ?_, ?_, ?_, ?_⟩
  · rw [wentOn_eq]
    exact flights
  · rw [wentOn_eq, th_agentTile, opened.th, th]
  · rw [wentOn_eq, State.pc, th_agentTile]
  · rw [wentOn_eq, th_agentTile, State.outs_openRead, own, ite_bne, th]

/-- NOTIFY at an address that names a receiver. -/
theorem State.notify_body {u : State} (free : accessFree u) {a : Word} {c : Byte} (names : notifyCtx a = some c) (b : Word) :
    (match u.accessWait false [] with
     | some d => d
     | none =>
       match notifyCtx a with
       | none => Done.trapAt u trACCESS_FAULT a 0
       | some c =>
         if !u.notifyReady u.th.outs u.src (taLtid a) then .wait (.notify (BitVec.ofNat 12 (taLtid a))) u
         else u.sendTo a (.notify c (u.ltidOf u.curTile) (agentCode u.curAgent) b) .commit) =
    if u.notifyReady u.th.outs u.src (taLtid a) then u.sendTo a (.notify c (u.ltidOf u.curTile) (agentCode u.curAgent) b) .commit
    else .wait (.notify (BitVec.ofNat 12 (taLtid a))) u := by
  rw [accessWait_of_free free, names]
  cases u.notifyReady u.th.outs u.src (taLtid a) <;> rfl

/-! ## The statement -/

/-- Settles O30, clause by clause from the checks of the tile address and the room in its window. -/
theorem sendingMessages : Obligations.SendingMessages := by
  unfold Obligations.SendingMessages
  intro s u m issued isCtx free wd rd rs1 rs2 a n dst off good room entered
  obtain ⟨-, noStreams, -⟩ := id free
  have noStream := noStreams true true
  obtain ⟨c, acts⟩ := State.isCtx_agent isCtx
  have offset : taOff a = off := taOff_eq a
  have put := exec_strand (i := .put m wd rs1 rs2) issued acts rfl
  have get := exec_strand (i := .get m wd rd rs1) issued acts rfl
  have notify := exec_strand (i := .notify m rs1 rs2) issued acts rfl
  have inside' : good → taBad a = false ∧ taOff a % n = 0 ∧ taOff a < storeSize := fun ok => offset.symm ▸ ok
  refine ⟨fun ok has => ?put, fun ok has => ?get, fun c' names ready has => ?notify,
    fun bad => ⟨exec_of_trap put (State.tileAddr_bad free _ _ bad), exec_of_trap get (State.tileAddr_bad free _ _ bad)⟩,
    fun named odd => ?misaligned, fun named aligned outside => ?outside, fun unnamed => ?noReceiver, fun c' names early => ?early,
    fun ok full => ?full⟩
  case put =>
    obtain ⟨named, aligned, inside⟩ := inside' ok
    rw [← offset]
    exact completes_sent put noStream isCtx ((State.tileAddr_good free _ _ named aligned inside).trans (State.sendTo_room has ..))
  case get =>
    obtain ⟨named, aligned, inside⟩ := inside' ok
    rw [← offset]
    obtain ⟨t, runs, sent, rgnpc, outs⟩ := completes_sent_on get isCtx (State.openRead_traffic u (.x rd true) a.toNat (List.replicate n none) none (rd != 0)).1
      ((State.tileAddr_good free _ _ named aligned inside).trans (State.get_body rd a n true has))
    refine ⟨t, runs, sent, rgnpc, ?_⟩
    rw [outs, State.outs_openRead, newResult_get, ite_bne, List.map_append]
    split <;> simp [resultKey]
  case notify =>
    exact completes_sent notify noStream isCtx ((State.notify_body free names _).trans ((if_pos ready).trans (State.sendTo_room has ..)))
  case misaligned =>
    rw [← offset] at odd
    exact ⟨exec_of_trap put (State.tileAddr_misaligned free _ _ named odd), exec_of_trap get (State.tileAddr_misaligned free _ _ named odd)⟩
  case outside =>
    rw [← offset] at aligned outside
    exact ⟨completes_putOutside put noStream isCtx (State.tileAddr_outside free _ _ named aligned outside),
      completes_getOutside get (State.tileAddr_outside free _ _ named aligned outside)⟩
  case noReceiver =>
    refine exec_of_trap notify ?_
    dsimp only
    rw [accessWait_of_free free, unnamed]
    rfl
  case early =>
    exact exec_of_wait notify ((State.notify_body free names _).trans (if_neg (ne_true_of_eq_false early)))
  case full =>
    obtain ⟨named, aligned, inside⟩ := inside' ok
    exact ⟨exec_of_wait put ((State.tileAddr_good free _ _ named aligned inside).trans (State.sendTo_full full ..)),
      exec_of_wait get ((State.tileAddr_good free _ _ named aligned inside).trans (State.get_body rd a n false (Bool.eq_false_iff.mpr full)))⟩

end Sys2Proof.Machine
end

section
/-! SUPPORT. Bank functions and fences (O28, O29): a descriptor of one step on a 32-bit integer, its update, and what a fence leaves. -/

namespace Sys2Proof.Machine

open Sys2Proof.Safety

/-! ## A descriptor of one step (10 R206, R207) -/

/-- The descriptor of one step of operation `op` on the operand, for elements of type `ty`. -/
def oneStep (ty op : Nat) : Word := BitVec.ofNat 64 (ty + 8 + op * 2 ^ 8)

theorem oneStep_reads {ty op : Nat} (int : ty < 2) (named : op < 8) (step : op ≠ 0) : bfType (oneStep ty op) = ty ∧ bfBytes (oneStep ty op) = 4
    ∧ ((List.range 4).map (bfStep (oneStep ty op))).takeWhile (·.1 != 0) = [(op, 0)] := by
  have all : ∀ ty < 2, ∀ op < 8, op ≠ 0 → bfType (oneStep ty op) = ty ∧ bfBytes (oneStep ty op) = 4
      ∧ ((List.range 4).map (bfStep (oneStep ty op))).takeWhile (·.1 != 0) = [(op, 0)] := by decide
  exact all ty int op named step

theorem bfOp_oneStep {ty op : Nat} (int : ty < 2) (named : op < 8) (step : op ≠ 0) (a b : Nat) :
    bfOp (oneStep ty op) op a b = bfInt (ty == 0) 32 op a b := by
  obtain ⟨type, -, -⟩ := oneStep_reads int named step
  rw [bfOp, type]
  interval_cases ty <;> rfl

theorem bfRun_oneStep {ty op : Nat} (int : ty < 2) (named : op < 8) (step : op ≠ 0) (arg r : Nat) :
    bfRun (oneStep ty op) arg r = bfInt (ty == 0) 32 op r arg := by
  obtain ⟨-, -, steps⟩ := oneStep_reads int named step
  rw [bfRun, steps]
  exact bfOp_oneStep int named step r arg

/-- The old element and the operand combined by a step's operation: numbers below `N`, ordered by `below`. -/
def stepValue (N : Nat) (below : Nat → Nat → Bool) (op a c : Nat) : Nat :=
  match op with
  | 1 => (a + c) % N | 2 => (a + N - c) % N | 3 => if below a c then a else c | 4 => if below c a then a else c
  | 5 => a &&& c | 6 => a ||| c | _ => a ^^^ c

theorem stepValue_lt (below : Nat → Nat → Bool) (op : Nat) {w a c : Nat} (ha : a < 2 ^ w) (hc : c < 2 ^ w) : stepValue (2 ^ w) below op a c < 2 ^ w := by
  unfold stepValue
  split
  · exact Nat.mod_lt _ (Nat.two_pow_pos w)
  · exact Nat.mod_lt _ (Nat.two_pow_pos w)
  · split <;> assumption
  · split <;> assumption
  · exact Nat.and_lt_two_pow a hc
  · exact Nat.or_lt_two_pow ha hc
  · exact Nat.xor_lt_two_pow ha hc

/-- The order of signed numbers of width `w` where `signed`, else that of unsigned ones. -/
def orderOf (signed : Bool) (w x y : Nat) : Bool := if signed then decide ((BitVec.ofNat w x).toInt ≤ (BitVec.ofNat w y).toInt) else decide (x ≤ y)

theorem bfInt_eq (signed : Bool) {w op a c : Nat} (pos : 0 < w) (named : op ∈ [1, 2, 3, 4, 5, 6, 7]) (ha : a < 2 ^ w) (hc : c < 2 ^ w) :
    bfInt signed w op a c = stepValue (2 ^ w) (orderOf signed w) op a c := by
  have order {x y : Nat} (hx : x < 2 ^ w) (hy : y < 2 ^ w) : sgn w x ≤ sgn w y ↔ (BitVec.ofNat w x).toInt ≤ (BitVec.ofNat w y).toInt := by
    rw [sgn_eq_toInt pos hx, sgn_eq_toInt pos hy]
  simp only [List.mem_cons, List.not_mem_nil, or_false] at named
  obtain rfl | rfl | rfl | rfl | rfl | rfl | rfl := named
  · rfl
  · rfl
  · simp only [bfInt, stepValue, orderOf, order ha hc, Nat.min_def]
    cases signed <;> simp
  · simp only [bfInt, stepValue, orderOf, order hc ha, max_comm a c, Nat.max_def]
    cases signed <;> simp
  · rfl
  · rfl
  · rfl

/-- A number written to the store and read back. -/
theorem Tile.natAt_putNat (T : Tile) {off n v : Nat} (inside : off + n ≤ storeSize) (fits : v < 256 ^ n) : (T.putNat off n v).natAt off n = v := by
  have length : (leBytes v n).length = n := length_leBytes v n
  have read : (T.writeBytes off (leBytes v n)).bytes off n = _ := T.bytes_writeBytes (k := 0) (length.symm ▸ inside) (by omega)
  rw [List.drop_zero, List.take_of_length_le length.le] at read
  rw [Tile.natAt, Tile.putNat, read, leNat_leBytes, Nat.mod_eq_of_lt fits]

/-- The update of one step at an aligned place in range. -/
theorem Tile.bankUpdate_oneStep (T : Tile) {off ty op : Nat} {slot : BitVec 3} (b : Word) (named : op ∈ [1, 2, 3, 4, 5, 6, 7]) (int : ty < 2)
    (aligned : off % 4 = 0) (inside : off + 4 ≤ storeSize) (held : T.bfn[slot.toNat]'slot.isLt = some (oneStep ty op)) :
    (T.bankUpdate off slot b).natAt off 4 = stepValue (2 ^ 32) (orderOf (ty == 0) 32) op (T.natAt off 4) (b.toNat % 2 ^ 32) := by
  have range : op < 8 ∧ op ≠ 0 := by
    simp only [List.mem_cons, List.not_mem_nil, or_false] at named
    omega
  obtain ⟨-, bytes, -⟩ := oneStep_reads int range.1 range.2
  have old : T.natAt off 4 < 2 ^ 32 := by
    have := leNat_lt (T.bytes off 4)
    rwa [show (T.bytes off 4).length = 4 from List.length_map .. |>.trans List.length_range] at this
  have operand : b.toNat % 2 ^ 32 < 2 ^ 32 := Nat.mod_lt _ (by decide)
  have value : bfRun (oneStep ty op) (b.toNat % 2 ^ 32) (T.natAt off 4) = stepValue (2 ^ 32) (orderOf (ty == 0) 32) op (T.natAt off 4) (b.toNat % 2 ^ 32) := by
    rw [bfRun_oneStep int range.1 range.2, bfInt_eq _ (by decide) named old operand]
  have updated : T.bankUpdate off slot b = { T.putNat off 4 (stepValue (2 ^ 32) (orderOf (ty == 0) 32) op (T.natAt off 4) (b.toNat % 2 ^ 32)) with poison := T.poison } := by
    rw [Tile.bankUpdate, held]
    simp only [bytes, aligned, bne_self_eq_false, Bool.false_eq_true, if_false]
    rw [← value]
  rw [updated]
  exact T.natAt_putNat inside (stepValue_lt _ _ old operand)

/-! ## The statements -/

/-- Settles O28, clause by clause. -/
theorem bankFunctions : Obligations.BankFunctions := by
  unfold Obligations.BankFunctions
  intro s u m issued slot rs1 rs2 d
  have bfnld := exec_scalar (i := .bfnld m slot rs1) issued rfl
  have bupd := exec_scalar (i := .bupd m slot rs1 rs2) issued rfl
  refine ⟨fun empties => ?_, fun sets good => ?_, fun sets bad => ?_, fun free named inside room => ?_,
    fun T off op ty b named int aligned inside held => ?_⟩
  · exact completes_wentOn bfnld (State.pc_putTile (by intro a; cases a <;> rfl)) (if_pos (by rw [empties]; rfl))
  · exact completes_wentOn bfnld (State.pc_putTile (by intro a; cases a <;> rfl)) ((if_neg (by rw [sets]; decide)).trans (if_neg (by rw [good]; decide)))
  · exact exec_of_trap bfnld ((if_neg (by rw [sets]; decide)).trans (if_pos bad))
  · obtain ⟨-, noStreams, -⟩ := id free
    have sent := u.sendMsg_sent u.curTile (taLtid (u.x rs1)) u.src u.pc (u.x rs1) (.bupd (taOff (u.x rs1)) slot (u.x rs2))
    exact completes_committedTo bupd sent.pc (noStreams true true)
      ((State.tileAddr_good free _ _ named (Nat.mod_one _) inside).trans (State.sendTo_room room ..))
  · have value := T.bankUpdate_oneStep b named (Nat.lt_succ_of_le int) aligned inside held
    have order : orderOf (ty == 0) 32 =
        fun x y => if ty = 0 then decide ((BitVec.ofNat 32 x).toInt ≤ (BitVec.ofNat 32 y).toInt) else decide (x ≤ y) := by
      funext x y
      simp only [orderOf, beq_iff_eq]
    rw [value, order]
    generalize 2 ^ 32 = N
    simp only [List.mem_cons, List.not_mem_nil, or_false] at named
    obtain rfl | rfl | rfl | rfl | rfl | rfl | rfl := named <;> rfl

/-- Settles O29: a fence of cluster scope or wider with r among its successors is an acquire. -/
theorem fences : Obligations.Fences := by
  unfold Obligations.Fences
  intro s u m issued sc pred succ
  have fence := exec_scalar (i := .fence m sc pred succ) issued rfl
  have fenceE := exec_scalar (i := .fenceE m sc) issued rfl
  have performed (fenced : u.fenced u.th.outs u.src sc pred = true) :
      (if !u.fenced u.th.outs u.src sc pred then Done.wait (.fence sc pred) u else .ok (if wideScope sc && succ.r then u.selfInvalidate u.curTile else u)) =
        .ok (if wideScope sc && succ.r then u.selfInvalidate u.curTile else u) := by
    rw [fenced]
    rfl
  refine ⟨fun early => ?_, fun fenced plain => ?_, fun fenced acquires => ?_, ?_⟩
  · exact exec_of_wait fence (by rw [early]; rfl)
  · exact completes_jumpsTo fence ((performed fenced).trans (by rw [plain]; rfl)) rfl
  · have cleared : Traffic u (u.selfInvalidate u.curTile) := .selfInvalidate u
    obtain ⟨t, runs, rfl⟩ := completes_wentOn fence cleared.pc ((performed fenced).trans (congrArg Done.ok (if_pos acquires)))
    refine ⟨_, runs, ?_, fun r => ?_, ?_, ?_⟩
    · rw [wentOn_eq, State.pc, th_agentTile]
    · obtain ⟨-, regs, -⟩ := jumpsTo_wentOn (u.selfInvalidate u.curTile) (u.pc + 4)
      exact (regs r).trans (cleared.readX r)
    · rw [wentOn_eq]
      exact cleared.mem
    · rw [l1_wentOn, State.l1_selfInvalidate]
  · exact completes_wentOn fenceE (congrArg Thread.pc (State.th_setTh ..) :) rfl

end Sys2Proof.Machine
end

section
/-! SUPPORT. The steps of atomics (O26, O27), at an old value that is no number of the word's width. -/

namespace Sys2Proof.Machine

open Sys2Proof.Safety

namespace WideOldValue

/-- An AMOMIN of 4 bytes by the strand of the package after reset. -/
def op (sc : Scope) (va : Nat) : AtomOp := { kind := .min, n := 4, b := 1, cmp := 0, sc := sc, va := va, tag := 0, keep := false }

/-- What its unit is said to have read: a number of 34 bits, whose low 32 bits are zero. -/
def old : Nat := 2 ^ 33

/-- The AMOMIN at the bank update unit of tile 0, between its read and its write. -/
def atUnit : State := { State.reset with flights := [.bankAtom State.reset.src (op .tile tileBase) 0 old false] }

/-- Byte 0 of tile 0 after a step. -/
def tileByteAfter (i : Instr) (s : State) : Option Byte :=
  match exec i s with
  | .next t => some ((t.tileAt 0).byte 0)
  | _ => none

/-- The unit keeps the operand, as the lower of the two numbers. -/
theorem tileByte_atUnit : tileByteAfter (.storeRegistration 0) atUnit = some 1 := by decide +kernel

/-- A physical address in HBM. -/
def place : Nat := hbmBase 0

/-- The AMOMIN at the home slice of that address, between its read and its write. -/
def atSlice : State := { State.reset with flights := [.atom State.reset.src (op .die place) place (some (old, false))] }

/-- The bytes of the word after a step. -/
def wordAfter (i : Instr) (s : State) : Option (List Byte) :=
  match exec i s with
  | .next t => some (t.readAt place 4).1
  | _ => none

theorem word_atSlice : wordAfter (.storeRegistration 0) atSlice = some [1, 0, 0, 0] := by decide +kernel

end WideOldValue

/-- Refutes O26: the clause of the unit's later step takes the old value of the flight as any number. Of a number wider than the word, here
2 ^ 33 against the operand 1 of an AMOMIN of 4 bytes, it compares the low 32 bits, which are zero, and asks for zero in the store; the unit
compares the number itself and writes the operand. Both read alike where the old value is a number of the word's width, as what the unit
reads is (03 R55, 10 R203), but no premise says so. -/
theorem not_tileAtomics : ¬ Obligations.TileAtomics := by
  unfold Obligations.TileAtomics
  intro holds
  obtain ⟨t, runs, bytes, -⟩ := holds.2 WideOldValue.atUnit 0 State.reset.src (WideOldValue.op .tile tileBase) 0 WideOldValue.old false rfl
  have after : WideOldValue.tileByteAfter (.storeRegistration 0) WideOldValue.atUnit = some 0 := by
    rw [WideOldValue.tileByteAfter, runs]
    exact congrArg some ((bytes 0).trans (by decide))
  exact absurd (WideOldValue.tileByte_atUnit.symm.trans after) (by decide)

/-- Refutes O27: the clause of the later step at the home slice takes the old value of the flight as any number, and of one wider than the word
it compares the low bits, where the slice compares the number itself (as in `not_tileAtomics`). -/
theorem not_wideAtomics : ¬ Obligations.WideAtomics := by
  unfold Obligations.WideAtomics
  intro holds
  obtain ⟨-, later⟩ := holds.2 WideOldValue.atSlice 0 State.reset.src (WideOldValue.op .die WideOldValue.place) WideOldValue.place
    (by decide) (.inl rfl) (.inl rfl) (by decide) (by decide +kernel) (.inl rfl) rfl (by decide +kernel) (by decide +kernel) (by decide +kernel)
  obtain ⟨t, runs, word, -⟩ := later WideOldValue.old false rfl (.inr rfl)
  have after : WideOldValue.wordAfter (.storeRegistration 0) WideOldValue.atSlice = some [0, 0, 0, 0] := by
    rw [WideOldValue.wordAfter, runs]
    exact congrArg some (word.trans (by decide))
  exact absurd (WideOldValue.word_atSlice.symm.trans after) (by decide)

end Sys2Proof.Machine
end

section
/-! SUPPORT. Furrows (O31): how two interfaces see the same routing tiles, what a change of endpoints leaves, and the ends of each instruction. -/

namespace Sys2Proof.Machine

open Sys2Proof.Safety

theorem Resolved.th {a : Nat} {s t : State} (h : Resolved a s t) : t.th = s.th := by
  rw [State.th, State.th, State.tile, State.tile, h.curTile, h.curAgent]
  exact h.keeps (·.thread s.curAgent) (fun _ _ => by cases s.curAgent <;> rfl) _

theorem Resolved.isCtx {a : Nat} {s t : State} (h : Resolved a s t) : t.isCtx = s.isCtx := by rw [State.isCtx, h.curAgent, State.isCtx]

/-! ## An interface's view of the routing tiles (11 R221, R225) -/

/-- Two states with the same role map, and with the same role cache in tile `a`. -/
structure SameView (a : Nat) (s t : State) : Prop where
  roles : t.roles = s.roles
  service : t.fullService = s.fullService
  dies : t.idDies = s.idDies
  cache : (t.tileAt a).roleCache = (s.tileAt a).roleCache

namespace SameView

variable {a : Nat} {s t : State} (h : SameView a s t)
include h

theorem role (l : Nat) : t.role l = s.role l := by
  rw [State.role, State.role, h.roles, State.boundAtStart, State.boundAtStart, h.service, h.dies]

theorem ltidOf (n : Nat) : t.ltidOf n = s.ltidOf n := by rw [State.ltidOf, State.ltidOf, h.roles]

theorem isRouter : t.isRouter = s.isRouter := by
  funext n
  rw [State.isRouter, State.isRouter, h.ltidOf, h.role]

theorem expressHop (view path : List Nat) : t.expressHop view path = s.expressHop view path := by
  simp only [State.expressHop, h.isRouter, h.ltidOf, h.role]

theorem hopLen (view path : List Nat) : t.hopLen view path = s.hopLen view path := by rw [State.hopLen, State.hopLen, h.expressHop]

theorem visits (view : List Nat) (fuel : Nat) (path : List Nat) : t.visits view fuel path = s.visits view fuel path := by
  induction fuel generalizing path with
  | zero => rfl
  | succ fuel ih =>
    cases path with
    | nil => rfl
    | cons n rest => rw [State.visits, State.visits, h.hopLen, ih]

theorem seen : (t.tileAt a).routersSeen = (s.tileAt a).routersSeen := by rw [Tile.routersSeen, Tile.routersSeen, h.cache]

theorem resolve (l : Nat) : SameView a (s.resolve a l).1 (t.resolve a l).1 := by
  rw [State.resolve, State.resolve, h.cache]
  split
  · exact h
  · refine ⟨h.roles, h.service, h.dies, ?_⟩
    simp only [State.readRole, State.tileAt_setTile_same, h.cache, h.role]

theorem lookStep (n : Nat) (far : Option Nat) : SameView a (s.lookStep a n far) (t.lookStep a n far) := by
  have first := h.resolve (s.ltidOf n)
  unfold State.lookStep
  split
  · exact h
  · rw [h.ltidOf]
    dsimp only
    rw [first.seen, first.ltidOf]
    split
    · exact h
    · split
      · exact first.resolve _
      · exact first

theorem lookHops (fuel : Nat) (path : List Nat) : SameView a (s.lookHops a fuel path) (t.lookHops a fuel path) := by
  induction fuel generalizing s t path with
  | zero => exact h
  | succ fuel ih =>
    cases path with
    | nil => exact h
    | cons n rest =>
      have looked := h.lookStep n (n :: rest)[4]?
      rw [State.lookHops_cons, State.lookHops_cons]
      dsimp only
      rw [looked.hopLen, looked.seen]
      exact ih looked _

theorem routersOn {b : Nat} (route : t.route a b = s.route a b) : t.routersOn a b = s.routersOn a b := by
  rw [State.routersOn, State.routersOn, State.visited, State.visited, route, (h.lookHops ..).seen, h.visits, h.isRouter]

end SameView

/-! ## Endpoints changed (10 R215, R216) -/

/-- Of every tile only the endpoints of furrows and the role cache are others, and the same agent acts. -/
structure EndsOnly (s t : State) : Prop where
  curTile : t.curTile = s.curTile
  curAgent : t.curAgent = s.curAgent
  tile : ∀ n, t.tileAt n = { s.tileAt n with fsrc := (t.tileAt n).fsrc, fsink := (t.tileAt n).fsink, roleCache := (t.tileAt n).roleCache }

namespace EndsOnly

variable {s t u : State}

theorem refl (s : State) : EndsOnly s s := ⟨rfl, rfl, fun _ => rfl⟩

theorem trans (h : EndsOnly s t) (k : EndsOnly t u) : EndsOnly s u :=
  ⟨k.curTile.trans h.curTile, k.curAgent.trans h.curAgent, fun n => (k.tile n).trans (by rw [h.tile n])⟩

theorem setTile (s : State) (n : Nat) {T : Tile} (ends : T = { s.tileAt n with fsrc := T.fsrc, fsink := T.fsink, roleCache := T.roleCache }) : EndsOnly s (s.setTile n T) where
  curTile := rfl
  curAgent := rfl
  tile m := by
    by_cases at' : m = n
    · rw [at', State.tileAt_setTile_same]
      exact ends
    · rw [State.tileAt_setTile_ne at']

theorem setSource (s : State) (n : Nat) (ep : Fin 4) (f : Option FSource) : EndsOnly s (s.setTile n ((s.tileAt n).setSource ep f)) := setTile s n rfl

theorem setSink (s : State) (n : Nat) (ep : Fin 4) (f : Option FSink) : EndsOnly s (s.setTile n ((s.tileAt n).setSink ep f)) := setTile s n rfl

section
variable (h : EndsOnly s t)
include h

theorem th : t.th = s.th := by
  rw [State.th, State.th, State.tile, State.tile, h.curTile, h.curAgent, h.tile]
  cases s.curAgent <;> rfl

theorem isCtx : t.isCtx = s.isCtx := by rw [State.isCtx, h.curAgent, State.isCtx]

theorem src : t.src = s.src := by
  unfold State.src State.ws State.tile
  rw [h.curTile, h.curAgent, h.tile]

theorem pc : t.pc = s.pc := congrArg Thread.pc h.th

theorem readX (r : Reg) : t.x r = s.x r := congrArg (Thread.readX · r) h.th

theorem sameX_trans {v : State} {rd : Reg} (k : sameX t v rd) : sameX s v rd := fun r other => (k r other).trans (h.readX r)

end

end EndsOnly

theorem vset_map_none {α : Type} {n : Nat} (v : Vector (Option α) n) (i j : Fin n) (g : α → α) (free : v[j] = none) :
    (v.set i (v[i].map g))[j] = none := by
  by_cases same : i = j
  · subst same
    simp_all
  · rw [vset_ne _ _ _ _ same, free]

/-- Endpoints are marked, and one that is free stays free. -/
structure EndsMarked (s t : State) : Prop extends EndsOnly s t where
  source : ∀ n (ep : Fin 4), (s.tileAt n).fsrc[ep] = none → (t.tileAt n).fsrc[ep] = none
  sink : ∀ n (ep : Fin 4), (s.tileAt n).fsink[ep] = none → (t.tileAt n).fsink[ep] = none

namespace EndsMarked

variable {s t u : State}

theorem refl (s : State) : EndsMarked s s := ⟨.refl s, fun _ _ free => free, fun _ _ free => free⟩

theorem trans (h : EndsMarked s t) (k : EndsMarked t u) : EndsMarked s u :=
  ⟨h.toEndsOnly.trans k.toEndsOnly, fun n ep free => k.source n ep (h.source n ep free), fun n ep free => k.sink n ep (h.sink n ep free)⟩

/-- Only what is no tile is another. -/
theorem of_tileAt (curTile : t.curTile = s.curTile) (curAgent : t.curAgent = s.curAgent) (tiles : ∀ n, t.tileAt n = s.tileAt n) : EndsMarked s t where
  curTile := curTile
  curAgent := curAgent
  tile n := by rw [tiles]
  source n ep free := by rwa [tiles]
  sink n ep free := by rwa [tiles]

theorem setTile (s : State) (n : Nat) {T : Tile} (ends : T = { s.tileAt n with fsrc := T.fsrc, fsink := T.fsink, roleCache := T.roleCache })
    (source : ∀ ep : Fin 4, (s.tileAt n).fsrc[ep] = none → T.fsrc[ep] = none) (sink : ∀ ep : Fin 4, (s.tileAt n).fsink[ep] = none → T.fsink[ep] = none) :
    EndsMarked s (s.setTile n T) where
  toEndsOnly := .setTile s n ends
  source m ep free := by
    by_cases at' : m = n
    · rw [at', State.tileAt_setTile_same]
      exact source ep (at' ▸ free)
    · rwa [State.tileAt_setTile_ne at']
  sink m ep free := by
    by_cases at' : m = n
    · rw [at', State.tileAt_setTile_same]
      exact sink ep (at' ▸ free)
    · rwa [State.tileAt_setTile_ne at']

theorem closeSource (s : State) (f : FSink) : EndsMarked s (s.closeSource f) :=
  setTile s _ rfl (fun ep free => vset_map_none (s.tileAt f.srcTile).fsrc ⟨f.srcEp.toNat, f.srcEp.isLt⟩ ep _ free) (fun _ free => free)

theorem severSource (s : State) (n : Nat) (ep : Fin 4) (k : Nat) : EndsMarked s (s.setTile n ((s.tileAt n).severSource ep k)) :=
  setTile s n rfl (fun j free => vset_map_none (s.tileAt n).fsrc ep j _ free) (fun _ free => free)

theorem severSink (s : State) (n : Nat) (ep : BitVec 2) (fid : Nat) : EndsMarked s (s.setTile n ((s.tileAt n).severSink ep fid)) :=
  setTile s n rfl (fun _ free => free) (fun j free => vset_map_none (s.tileAt n).fsink ⟨ep.toNat, ep.isLt⟩ j _ free)

theorem sever (s : State) (f : Furrow) (n : Nat) : EndsMarked s (s.sever f n) :=
  have dropped : EndsMarked s { s with flights := s.flights.filter fun x => !x.behind f.fid n } := of_tileAt rfl rfl fun _ => rfl
  (dropped.trans (severSource ..)).trans (severSink ..)

theorem severThrough (s : State) (n : Nat) : EndsMarked s (s.severThrough n) :=
  foldl_keeps (P := EndsMarked s) (fun t f k => k.trans (sever t f n)) _ (refl s)

/-- A routing tile enters moving. -/
theorem toMoving (s : State) (l : Nat) (routes : (s.role l).role = 2) : EndsMarked s (s.toMoving l) := by
  have plain : (s.role l).role ≠ 0 := by rw [routes]; decide
  unfold State.toMoving
  dsimp only
  rw [if_neg plain, if_pos routes]
  exact trans (of_tileAt (t := (s.castRole l _).drain _) rfl rfl fun _ => rfl) (severThrough ..)

theorem furrowClosed (s : State) : EndsMarked s s.furrowClosed := by
  refine foldl_keeps (P := EndsMarked s) (fun t p k => ?_) _ (refl s)
  dsimp only
  split
  next moves =>
    have routes : (t.role p.1).role = 2 := by
      simp only [Bool.and_eq_true, beq_iff_eq] at moves
      obtain ⟨⟨⟨⟨⟨-, routes⟩, -⟩, -⟩, -⟩, -⟩ := moves
      exact routes
    exact k.trans (toMoving t p.1 routes)
  next => exact k

end EndsMarked

/-! ## The endpoints of an agent's workspace -/

theorem Tile.sourceOf_own {T : Tile} {ws : Wsid} {ep : Fin 4} {f : FSource} (held : T.fsrc[ep] = some f) (own : f.ws = ws) : T.sourceOf ws ep = some f := by
  rw [Tile.sourceOf, held, Option.filter_some, own, beq_self_eq_true, if_pos rfl]

theorem Tile.sourceOf_free {T : Tile} {ep : Fin 4} (free : T.fsrc[ep] = none) (ws : Wsid) : T.sourceOf ws ep = none := by rw [Tile.sourceOf, free, Option.filter_none]

theorem Tile.sinkOf_own {T : Tile} {ws : Wsid} {ep : Fin 4} {f : FSink} (held : T.fsink[ep] = some f) (own : f.ws = ws) : T.sinkOf ws ep = some f := by
  rw [Tile.sinkOf, held, Option.filter_some, own, beq_self_eq_true, if_pos rfl]

theorem Tile.sinkOf_free {T : Tile} {ep : Fin 4} (free : T.fsink[ep] = none) (ws : Wsid) : T.sinkOf ws ep = none := by rw [Tile.sinkOf, free, Option.filter_none]

theorem Tile.fsrc_setSource (T : Tile) (ep : Fin 4) (f : Option FSource) : (T.setSource ep f).fsrc[ep] = f := by simp [Tile.setSource]

theorem Tile.fsink_setSink (T : Tile) (ep : Fin 4) (f : Option FSink) : (T.setSink ep f).fsink[ep] = f := by simp [Tile.setSink]

theorem epOf_eq (a : Word) : epOf a = ⟨a.toNat % 4, by omega⟩ := Fin.ext (nbit_low a.toNat 2)

/-! ## How the instructions of a furrow end -/

/-- A committing instruction that leaves `v` in rd and the state `w`. -/
theorem completes_commitsX {s u w : State} {i : Instr} {d : Done} {rd : Reg} {v : Word} (runs : exec i s = .next (State.finish (d.afterStreams u)))
    (noStream : u.tile.streams u.src true true = false) (isCtx : w.isCtx = true) (ends : d = .commit (w.setX rd v)) : completes i s (fun t =>
      t.x rd = (if rd = 0 then 0 else v) ∧ sameX w t rd ∧ t.pc = w.pc + 4 ∧ t.ctx.rgnpc = w.pc + 4 ∧ t.flights = w.flights ∧ sameCore w t) := by
  obtain ⟨value, others, pc, core, -⟩ := committed_setX w rd v
  refine completes_next (exec_of_commit runs noStream ends) ?_
  rw [State.pc_setX]
  refine ⟨value, others, pc, rgnpc_committedTo (w := w.setX rd v) isCtx _, ?_, core⟩
  rw [committedTo_setX]
  rfl

/-- A request whose reply brings the result. -/
theorem completes_replies {s u w : State} {i : Instr} {d : Done} (runs : exec i s = .next (State.finish (d.afterStreams u))) (pc : w.pc = u.pc)
    (ends : d = .reply false w) : completes i s (fun t => t = waitsFor .reply (wentOn (u.pc + 4) w)) := by
  rw [← pc]
  exact completes_next (by rw [runs, ends]; exact congrArg Host.Outcome.next (finish_reply w false)) rfl

/-! ## FSEND (10 R216 to R218) -/

theorem State.fsend_notOpen {u : State} {rd : Reg} {ep : Fin 4} {v : Word} (none' : u.tile.sourceOf u.ws ep = none) : u.fsend rd ep v = .commit (u.setX rd 3) := by
  rw [State.fsend, none']
  rfl

section
variable {u : State} {rd : Reg} {ep : Fin 4} {v : Word} {f : FSource} (own : u.tile.sourceOf u.ws ep = some f)
include own

theorem State.fsend_severed (severed : f.severed = true) :
    u.fsend rd ep v = .commit ((u.putTile (u.tile.setSource ep none)).setX rd (BitVec.ofNat 64 (1 + f.accepted % 2 ^ 32 * 2 ^ 32))) := by
  rw [State.fsend, own]
  exact if_pos severed

theorem State.fsend_closed (whole : f.severed = false) (closed : f.closed = true) :
    u.fsend rd ep v = .commit ((u.putTile (u.tile.setSource ep none)).setX rd 2) := by
  rw [State.fsend, own]
  exact (if_neg (ne_true_of_eq_false whole)).trans (if_pos closed)

variable (whole : f.severed = false) (opened : f.closed = false)
include whole opened

theorem State.fsend_waits (spent : f.credit = 0) : u.fsend rd ep v = .wait (.credit (BitVec.ofNat 2 ep.val)) u := by
  rw [State.fsend, own]
  exact (if_neg (ne_true_of_eq_false whole)).trans ((if_neg (ne_true_of_eq_false opened)).trans (if_pos spent))

theorem State.fsend_sends (credit : 0 < f.credit) (ready : u.released u.th.outs u.src (tileScope u.curTile f.sinkTile) = true) :
    let r := (u.putTile (u.tile.setSource ep (some { f with credit := f.credit - 1 }))).inject u.curTile f.sinkTile
    u.fsend rd ep v = .commit (({ r.1 with flights := r.1.flights ++ [.fdatum u.src f.fid f.sinkTile f.sinkEp (some v) r.2] } : State).setX rd 0) := by
  rw [State.fsend, own]
  exact (if_neg (ne_true_of_eq_false whole)).trans ((if_neg (ne_true_of_eq_false opened)).trans ((if_neg credit.ne').trans
    (if_neg (by rw [ready]; decide))))

end

/-- A source endpoint that is freed by a committing instruction. -/
theorem completes_freesSource {s u : State} {i : Instr} {d : Done} {rd : Reg} {ep : Fin 4} {v : Word}
    (runs : exec i s = .next (State.finish (d.afterStreams u))) (noStream : u.tile.streams u.src true true = false) (isCtx : u.isCtx = true)
    (ends : d = .commit ((u.putTile (u.tile.setSource ep none)).setX rd v)) : completes i s (fun t =>
      t.x rd = (if rd = 0 then 0 else v) ∧ sameX u t rd ∧ t.pc = u.pc + 4 ∧ t.ctx.rgnpc = u.pc + 4 ∧ t.tile.fsrc[ep] = none ∧ t.flights = u.flights) := by
  have freed : EndsOnly u (u.putTile (u.tile.setSource ep none)) := .setSource u u.curTile ep none
  obtain ⟨t, next, value, others, pc, rgnpc, flights, core⟩ := completes_commitsX runs noStream (freed.isCtx.trans isCtx) ends
  have fsrc : t.tile.fsrc = (u.putTile (u.tile.setSource ep none)).tile.fsrc := (congrArg Tile.fsrc core :)
  refine ⟨t, next, value, freed.sameX_trans others, freed.pc ▸ pc, freed.pc ▸ rgnpc, ?_, flights⟩
  rw [fsrc, State.tile_putTile]
  exact Tile.fsrc_setSource ..

/-- A datum sent by a committing instruction. -/
theorem completes_sends {s u : State} {i : Instr} {d : Done} {rd : Reg} {ep : Fin 4} {v : Word} {f : FSource}
    (runs : exec i s = .next (State.finish (d.afterStreams u))) (noStream : u.tile.streams u.src true true = false) (isCtx : u.isCtx = true)
    (ends : let r := (u.putTile (u.tile.setSource ep (some f))).inject u.curTile f.sinkTile
      d = .commit (({ r.1 with flights := r.1.flights ++ [.fdatum u.src f.fid f.sinkTile f.sinkEp (some v) r.2] } : State).setX rd 0)) : completes i s (fun t =>
      t.x rd = 0 ∧ sameX u t rd ∧ t.pc = u.pc + 4 ∧ t.ctx.rgnpc = u.pc + 4 ∧ t.tile.fsrc[ep] = some f
      ∧ ∃ w, t.flights = u.flights ++ [.fdatum u.src f.fid f.sinkTile f.sinkEp (some v) w] ∧ w.bad = [] ∧ w.path = u.route u.curTile f.sinkTile) := by
  let p := u.putTile (u.tile.setSource ep (some f))
  let r := p.inject u.curTile f.sinkTile
  let w : State := { r.1 with flights := r.1.flights ++ [.fdatum u.src f.fid f.sinkTile f.sinkEp (some v) r.2] }
  have paid : EndsOnly u p := .setSource u u.curTile ep (some f)
  have looked : Resolved u.curTile p r.1 := .inject ..
  have th : r.1.th = u.th := looked.th.trans paid.th
  obtain ⟨t, next, value, others, pc, rgnpc, flights, core⟩ := completes_commitsX (w := w) runs noStream ((looked.isCtx.trans paid.isCtx).trans isCtx) ends
  have own : t.pc = u.pc + 4 := pc.trans (congrArg (·.pc + 4) th)
  refine ⟨t, next, ?_, fun q other => (others q other).trans (congrArg (Thread.readX · q) th), own, rgnpc.trans (congrArg (·.pc + 4) th), ?_, r.2, ?_, rfl, rfl⟩
  · rw [value, ite_self]
  · have fsrc : t.tile.fsrc = r.1.tile.fsrc := (congrArg Tile.fsrc core :)
    have kept : r.1.tile.fsrc = p.tile.fsrc := by
      rw [State.tile, State.tile, looked.curTile]
      exact looked.keeps (·.fsrc) (fun _ _ => rfl) _
    rw [fsrc, kept, State.tile_putTile]
    exact Tile.fsrc_setSource ..
  · exact flights.trans (congrArg (· ++ [Flight.fdatum u.src f.fid f.sinkTile f.sinkEp (some v) r.2]) looked.flights)

/-! ## FRECV (10 R216 to R218) -/

theorem Traffic.tile_keeps {u v : State} {α : Type} (h : Traffic u v) (f : Tile → α)
    (kept : ∀ (T : Tile) (ctx : Vector Context 8) (ldr str : SideCore) l1 plru, f { T with ctx := ctx, ldr := ldr, str := str, l1 := l1, plru := plru } = f T) :
    f v.tile = f u.tile := by
  let T := u.tile.setThread u.curAgent { u.th with outs := v.th.outs }
  have agents : f T = f u.tile := Tile.setThread_keeps f _ _ _ fun ctx ldr str => kept u.tile ctx ldr str u.tile.l1 u.tile.plru
  rw [h.here, ← agents]
  exact kept T T.ctx T.ldr T.str _ _

theorem nsMem_nsAdd (k : Nat) (l : NatSet) : nsMem k (nsAdd k l) = true := by
  induction l with
  | nil => simp [nsAdd, nsMem]
  | cons a r ih =>
    unfold nsAdd
    split
    · simp [nsMem, *]
    · split
      · simp [nsMem]
      · rw [nsMem, List.any_cons]
        exact Bool.or_eq_true_iff.mpr (.inr ih)

/-- A tile that takes a datum from a sink's buffer, which then is `f`: the word is written, and poisoned where the datum is. -/
def Tile.takes (T : Tile) (ep : Fin 4) (off : Nat) (f : FSink) (v : Word × Bool) : Tile :=
  let t := (T.putNat off 8 v.1.toNat).setSink ep (some f)
  if v.2 then { t with poison := nsAdd (off / 8) t.poison } else t

section
variable (T : Tile) (ep : Fin 4) (off : Nat) (f : FSink) (v : Word × Bool)

theorem Tile.takes_eq : T.takes ep off f v = { T with store := (T.putNat off 8 v.1.toNat).store, poison := (T.takes ep off f v).poison, fsink := T.fsink.set ep (some f) } := by
  unfold Tile.takes
  dsimp only
  split <;> rfl

theorem Tile.thread_takes (a : Agent) : (T.takes ep off f v).thread a = T.thread a := by
  rw [Tile.takes_eq]
  cases a <;> rfl

theorem Tile.fsink_takes : (T.takes ep off f v).fsink[ep] = some f := by
  rw [Tile.takes_eq]
  exact Tile.fsink_setSink T ep (some f)

variable {off} (aligned : off % 8 = 0) (inside : off < storeSize)
include aligned inside

theorem Tile.byte_takes {i : Nat} (low : i < 8) : (T.takes ep off f v).byte (off + i) = BitVec.ofNat 8 (v.1.toNat / 256 ^ i) := by
  have same : (T.takes ep off f v).byte (off + i) = (T.putNat off 8 v.1.toNat).byte (off + i) := by
    rw [Tile.takes_eq]
    rfl
  obtain ⟨-, bytes, -⟩ := storedAt_writeBytes T off (leBytes v.1.toNat 8)
  have range : off ≤ off + i ∧ off + i < off + (leBytes v.1.toNat 8).length ∧ off + i < storeSize := by
    rw [length_leBytes]
    unfold storeSize at *
    omega
  rw [same, Tile.putNat, bytes, if_pos range, Nat.add_sub_cancel_left, getD_leBytes low]

theorem Tile.poison_takes : nsMem (off / 8) (T.takes ep off f v).poison = v.2 := by
  unfold Tile.takes
  cases poisoned : v.2 with
  | true => exact nsMem_nsAdd ..
  | false =>
    obtain ⟨-, -, clears⟩ := storedAt_writeBytes T off (leBytes v.1.toNat 8)
    have whole : off ≤ 8 * (off / 8) ∧ 8 * (off / 8) + 8 ≤ off + (leBytes v.1.toNat 8).length ∧ 8 * (off / 8) < storeSize := by
      rw [length_leBytes]
      omega
    refine (clears (off / 8)).trans ?_
    rw [decide_eq_true whole, Bool.not_true, Bool.and_false]

end

/-- The package with a datum taken and its credit on the way. -/
def State.takes (u : State) (ep : Fin 4) (va : Word) (f : FSink) (v : Word × Bool) : State :=
  { (noted u va 8).putTile ((noted u va 8).tile.takes ep (va.toNat - tileBase) f v) with flights := u.flights ++ [.fcredit f.fid f.srcTile f.srcEp] }

/-- What the sender released is acquired (10 R217). -/
def State.acquires (w : State) (wide : Bool) : State := if wide then w.selfInvalidate w.curTile else w

theorem State.acquires_traffic (w : State) (wide : Bool) : Traffic w (w.acquires wide) := by
  cases wide with
  | true => exact .selfInvalidate w
  | false => exact .refl w

theorem State.flights_acquires (w : State) (wide : Bool) {before : List Flight} {fid n : Nat} {ep : BitVec 2} (last : w.flights = before ++ [.fcredit fid n ep]) :
    ∃ before', (w.acquires wide).flights = before' ++ [.fcredit fid n ep] ∧ before'.length = before.length := by
  cases wide with
  | true =>
    refine ⟨before.map (Flight.unkeep fun src sl _ => src.tile == w.curTile && !sl), ?_, List.length_map ..⟩
    exact (congrArg (List.map _) last).trans List.map_append
  | false => exact ⟨before, last, rfl⟩

theorem State.takeDatum_at {u : State} {va : Word} (object : objectAt u va 8) (rd : Reg) (ep : Fin 4) (f : FSink) (v : Word × Bool) (rest : List (Word × Bool)) :
    u.takeDatum rd ep va f v rest = .commit (((u.takes ep va { f with buf := rest } v).acquires (wideScope (tileScope f.srcTile u.curTile))).setX rd 0) := by
  rw [State.takeDatum, State.tileObject_at object, State.noteObject, noteOut_run]
  rfl

theorem State.frecv_notOpen {u : State} {rd : Reg} {ep : Fin 4} {va : Word} (none' : u.tile.sinkOf u.ws ep = none) : u.frecv rd ep va = .ok (u.setX rd 3) := by
  rw [State.frecv, none']
  rfl

section
variable {u : State} {rd : Reg} {ep : Fin 4} {va : Word} {f : FSink} (own : u.tile.sinkOf u.ws ep = some f)
include own

theorem State.frecv_severed (severed : f.severed = true) : u.frecv rd ep va =
    .ok ((u.putTile (u.tile.setSink ep (some { f with severed := false, drained := true }))).setX rd (BitVec.ofNat 64 (1 + f.buf.length % 256 * 2 ^ 8))) := by
  rw [State.frecv, own]
  exact if_pos severed

variable (whole : f.severed = false)
include whole

theorem State.frecv_data {v : Word × Bool} {rest : List (Word × Bool)} (held : f.buf = v :: rest) : u.frecv rd ep va = u.takeDatum rd ep va f v rest := by
  rw [State.frecv, own]
  dsimp only
  rw [if_neg (ne_true_of_eq_false whole), held]

variable (nothing : f.buf = [])
include nothing

theorem State.frecv_closed (closed : f.closed = true) : u.frecv rd ep va = .ok ((u.putTile (u.tile.setSink ep none)).setX rd 2) := by
  rw [State.frecv, own]
  dsimp only
  rw [if_neg (ne_true_of_eq_false whole), nothing]
  exact if_pos closed

variable (opened : f.closed = false)
include opened

theorem State.frecv_drained (drained : f.drained = true) (gone : u.flights.any (Flight.ofFurrow f.fid) = false) :
    u.frecv rd ep va = .ok ((u.putTile (u.tile.setSink ep none)).setX rd 3) := by
  rw [State.frecv, own]
  dsimp only
  rw [if_neg (ne_true_of_eq_false whole), nothing]
  exact (if_neg (ne_true_of_eq_false opened)).trans (if_pos (by rw [drained, gone]; rfl))

theorem State.frecv_waits (undrained : f.drained = false) : u.frecv rd ep va = .wait (.datum (BitVec.ofNat 2 ep.val)) u := by
  rw [State.frecv, own]
  dsimp only
  rw [if_neg (ne_true_of_eq_false whole), nothing]
  exact (if_neg (ne_true_of_eq_false opened)).trans (if_neg (by rw [undrained]; exact Bool.false_ne_true))

end

/-- An instruction that goes on in a state `w` where only endpoints are others, with `v` in rd. -/
theorem completes_endsX {s u w : State} {i : Instr} {d : Done} {rd : Reg} {v : Word} (runs : exec i s = .next (State.finish (d.afterStreams u)))
    (ends : EndsOnly u w) (done : d = .ok (w.setX rd v)) :
    completes i s (fun t => t.x rd = (if rd = 0 then 0 else v) ∧ sameX u t rd ∧ t.pc = u.pc + 4 ∧ t.tile.fsrc = w.tile.fsrc ∧ t.tile.fsink = w.tile.fsink) := by
  obtain ⟨t, next, value, pc, -, others, -, -, -, core, -⟩ := completes_writesOnly runs done
  exact ⟨t, next, value, ends.sameX_trans others, ends.pc ▸ pc, (congrArg Tile.fsrc core :), (congrArg Tile.fsink core :)⟩

/-- A sink endpoint set by an instruction that goes on. -/
theorem completes_setsSink {s u : State} {i : Instr} {d : Done} {rd : Reg} {ep : Fin 4} {f : Option FSink} {v : Word}
    (runs : exec i s = .next (State.finish (d.afterStreams u))) (done : d = .ok ((u.putTile (u.tile.setSink ep f)).setX rd v)) :
    completes i s (fun t => t.x rd = (if rd = 0 then 0 else v) ∧ sameX u t rd ∧ t.pc = u.pc + 4 ∧ t.tile.fsink[ep] = f) := by
  obtain ⟨t, next, value, others, pc, -, fsink⟩ := completes_endsX (w := u.putTile (u.tile.setSink ep f)) runs (.setSink u u.curTile ep f) done
  refine ⟨t, next, value, others, pc, ?_⟩
  rw [fsink, State.tile_putTile]
  exact Tile.fsink_setSink ..

/-- A datum taken by a committing instruction. -/
theorem completes_takes {s u : State} {i : Instr} {d : Done} {rd : Reg} {ep : Fin 4} {va : Word} {f : FSink} {v : Word × Bool} {wide : Bool}
    (runs : exec i s = .next (State.finish (d.afterStreams u))) (noStream : u.tile.streams u.src true true = false) (isCtx : u.isCtx = true)
    (aligned : (va.toNat - tileBase) % 8 = 0) (inside : va.toNat - tileBase < storeSize)
    (ends : d = .commit (((u.takes ep va f v).acquires wide).setX rd 0)) : completes i s (fun t =>
      t.x rd = 0 ∧ sameX u t rd ∧ t.pc = u.pc + 4 ∧ t.ctx.rgnpc = u.pc + 4 ∧ t.tile.fsink[ep]'ep.isLt = some f
      ∧ (∃ before, t.flights = before ++ [.fcredit f.fid f.srcTile f.srcEp] ∧ before.length = u.flights.length)
      ∧ nsMem ((va.toNat - tileBase) / 8) t.tile.poison = v.2
      ∧ (∀ i, i < 8 → t.tile.byte (va.toNat - tileBase + i) = BitVec.ofNat 8 (v.1.toNat / 256 ^ i))) := by
  let p := noted u va 8
  let w := u.takes ep va f v
  have acquired : Traffic w (w.acquires wide) := w.acquires_traffic wide
  have tile : w.tile = p.tile.takes ep (va.toNat - tileBase) f v := State.tile_putTile p _
  have th : w.th = p.th := by
    rw [State.th, tile]
    exact Tile.thread_takes ..
  have readX (r : Reg) : (w.acquires wide).x r = u.x r := (acquired.readX r).trans ((congrArg (Thread.readX · r) th).trans (x_noted r))
  have pc : (w.acquires wide).pc = u.pc := acquired.pc.trans ((congrArg Thread.pc th).trans noted_pc)
  obtain ⟨before, flights, length⟩ := w.flights_acquires wide (rfl : w.flights = u.flights ++ [.fcredit f.fid f.srcTile f.srcEp])
  obtain ⟨t, next, value, others, own, rgnpc, sent, core⟩ := completes_commitsX runs noStream (acquired.isCtx.trans isCtx) ends
  have fields {α : Type} (g : Tile → α) (kept : ∀ (T : Tile) (ctx : Vector Context 8) (ldr str : SideCore) l1 plru,
      g { T with ctx := ctx, ldr := ldr, str := str, l1 := l1, plru := plru } = g T) : g t.tile = g (p.tile.takes ep (va.toNat - tileBase) f v) := by
    rw [← kept t.tile (w.acquires wide).tile.ctx (w.acquires wide).tile.ldr (w.acquires wide).tile.str t.tile.l1 t.tile.plru]
    exact (congrArg g core).trans ((acquired.tile_keeps g kept).trans (congrArg g tile))
  refine ⟨t, next, by rw [value, ite_self], fun r other => (others r other).trans (readX r), pc ▸ own, pc ▸ rgnpc, ?_, ⟨before, sent.trans flights, length⟩, ?_,
    fun i low => ?_⟩
  · rw [fields (·.fsink) fun _ _ _ _ _ _ => rfl]
    exact Tile.fsink_takes ..
  · rw [fields (·.poison) fun _ _ _ _ _ _ => rfl]
    exact Tile.poison_takes _ _ _ _ aligned inside
  · rw [fields (·.byte _) fun _ _ _ _ _ _ => rfl]
    exact Tile.byte_takes _ _ _ _ aligned inside low

/-! ## FCLOSE (10 R216, 11 R231) -/

section
variable {u : State} {a : Word}

theorem State.fclose_noSink (sink : a.getLsbD 8 = true) (free : u.tile.sinkOf u.ws (epOf a) = none) : u.fclose a = (u, 3) := by
  rw [State.fclose, sink, free]
  rfl

theorem State.fclose_noSource (source : a.getLsbD 8 = false) (free : u.tile.sourceOf u.ws (epOf a) = none) : u.fclose a = (u, 3) := by
  rw [State.fclose, source, free]
  rfl

theorem State.fclose_sink {f : FSink} (sink : a.getLsbD 8 = true) (own : u.tile.sinkOf u.ws (epOf a) = some f) :
    u.fclose a = (((u.putTile (u.tile.setSink (epOf a) none)).closeSource f).furrowClosed, 0) := by
  rw [State.fclose, sink, own]
  rfl

theorem State.fclose_source {f : FSource} (source : a.getLsbD 8 = false) (own : u.tile.sourceOf u.ws (epOf a) = some f) :
    let r := (u.putTile (u.tile.setSource (epOf a) none)).inject u.curTile f.sinkTile
    u.fclose a = (({ r.1 with flights := r.1.flights ++ [.fdatum u.src f.fid f.sinkTile f.sinkEp none r.2] } : State).furrowClosed, 0) := by
  rw [State.fclose, source, own]
  rfl

end

/-- An interface has looked at the role map, and what is in flight is another. -/
theorem Resolved.endsMarked {a : Nat} {s t : State} (h : Resolved a s t) (flights : List Flight) : EndsMarked s { t with flights := flights } where
  curTile := h.curTile
  curAgent := h.curAgent
  tile n := by
    change t.tileAt n = { s.tileAt n with fsrc := (t.tileAt n).fsrc, fsink := (t.tileAt n).fsink, roleCache := (t.tileAt n).roleCache }
    by_cases at' : n = a
    · rw [at', h.here]
    · rw [h.elsewhere n at']
  source n ep free := (h.keeps (·.fsrc[ep]) (fun _ _ => rfl) n).trans free
  sink n ep free := (h.keeps (·.fsink[ep]) (fun _ _ => rfl) n).trans free

/-- The state after a source closes, its marker on the way. -/
theorem State.sourceCloses (u : State) (ep : Fin 4) (o : Src) (f : FSource) :
    let r := (u.putTile (u.tile.setSource ep none)).inject u.curTile f.sinkTile
    let w := ({ r.1 with flights := r.1.flights ++ [.fdatum o f.fid f.sinkTile f.sinkEp none r.2] } : State).furrowClosed
    EndsOnly u w ∧ w.tile.fsrc[ep] = none := by
  intro r w
  have freed : EndsOnly u (u.putTile (u.tile.setSource ep none)) := .setSource u u.curTile ep none
  have looked : Resolved u.curTile (u.putTile (u.tile.setSource ep none)) r.1 := .inject ..
  have closed : EndsMarked (u.putTile (u.tile.setSource ep none)) w := (looked.endsMarked _).trans (.furrowClosed _)
  refine ⟨freed.trans closed.toEndsOnly, ?_⟩
  have free : ((u.putTile (u.tile.setSource ep none)).tileAt u.curTile).fsrc[ep] = none := by
    rw [State.putTile, State.tileAt_setTile_same]
    exact Tile.fsrc_setSource ..
  have same : w.curTile = u.curTile := closed.curTile
  rw [State.tile, same]
  exact closed.source _ ep free

/-- The state after a sink closes. -/
theorem State.sinkCloses (u : State) (ep : Fin 4) (f : FSink) :
    let w := ((u.putTile (u.tile.setSink ep none)).closeSource f).furrowClosed
    EndsOnly u w ∧ w.tile.fsink[ep] = none := by
  intro w
  have freed : EndsOnly u (u.putTile (u.tile.setSink ep none)) := .setSink u u.curTile ep none
  have closed : EndsMarked (u.putTile (u.tile.setSink ep none)) w := (EndsMarked.closeSource _ f).trans (.furrowClosed _)
  refine ⟨freed.trans closed.toEndsOnly, ?_⟩
  have free : ((u.putTile (u.tile.setSink ep none)).tileAt u.curTile).fsink[ep] = none := by
    rw [State.putTile, State.tileAt_setTile_same]
    exact Tile.fsink_setSink ..
  have same : w.curTile = u.curTile := closed.curTile
  rw [State.tile, same]
  exact closed.sink _ ep free

theorem State.setTile_keeps {α : Type} (f : Tile → α) (s : State) (n : Nat) {T : Tile} (same : f T = f (s.tileAt n)) (m : Nat) :
    f ((s.setTile n T).tileAt m) = f (s.tileAt m) := by
  by_cases at' : m = n
  · rw [at', State.tileAt_setTile_same, same]
  · rw [State.tileAt_setTile_ne at']

/-! ## FOPEN (10 R215, 11 R230) -/

/-- Both endpoints of a furrow placed. -/
def State.placeEnds (u : State) (ep : Fin 4) (src : FSource) (k : Nat) (sep : Fin 4) (snk : FSink) : State :=
  let s1 := { u with fresh := u.fresh + 1 }.setTile u.curTile (u.tile.setSource ep (some src))
  s1.setTile k ((s1.tileAt k).setSink sep (some snk))

section
variable (u : State) (ep : Fin 4) (src : FSource) (k : Nat) (sep : Fin 4) (snk : FSink)

theorem State.placeEnds_endsOnly : EndsOnly u (u.placeEnds ep src k sep snk) :=
  have counted : EndsOnly u { u with fresh := u.fresh + 1 } := ⟨rfl, rfl, fun _ => rfl⟩
  (counted.trans (.setSource { u with fresh := u.fresh + 1 } u.curTile ep (some src))).trans (.setSink _ k sep (some snk))

theorem State.sink_placeEnds : ((u.placeEnds ep src k sep snk).tileAt k).fsink[sep] = some snk := by
  rw [State.placeEnds, State.tileAt_setTile_same]
  exact Tile.fsink_setSink ..

theorem State.source_placeEnds : (u.placeEnds ep src k sep snk).tile.fsrc[ep] = some src := by
  let s1 := { u with fresh := u.fresh + 1 }.setTile u.curTile (u.tile.setSource ep (some src))
  have own : (s1.tileAt u.curTile).fsrc[ep] = some src := by
    rw [State.tileAt_setTile_same]
    exact Tile.fsrc_setSource ..
  change ((s1.setTile k ((s1.tileAt k).setSink sep (some snk))).tileAt u.curTile).fsrc[ep] = some src
  by_cases here : u.curTile = k
  · rw [here, State.tileAt_setTile_same, ← here]
    exact own
  · rw [State.tileAt_setTile_ne here]
    exact own

theorem State.view_placeEnds (a : Nat) : SameView a u (u.placeEnds ep src k sep snk) where
  roles := rfl
  service := rfl
  dies := rfl
  cache := by
    let s1 := { u with fresh := u.fresh + 1 }.setTile u.curTile (u.tile.setSource ep (some src))
    have first : (s1.tileAt a).roleCache = (u.tileAt a).roleCache :=
      State.setTile_keeps (·.roleCache) { u with fresh := u.fresh + 1 } u.curTile (T := u.tile.setSource ep (some src)) rfl a
    exact (State.setTile_keeps (·.roleCache) s1 k (T := (s1.tileAt k).setSink sep (some snk)) rfl a).trans first

/-- A furrow through tiles none of which is in notice pending or moving sends no notices. -/
theorem State.openFurrow_calm (ws : Wsid) (l : Nat) (sinkEp : BitVec 2) (depth : Nat)
    (calm : ∀ r ∈ u.routersOn u.curTile (u.role l).ptile.toNat, (u.role (u.ltidOf r)).cstate.toNat < 2) :
    u.openFurrow ws l sinkEp ep depth = u.placeEnds ep
      { fid := u.fresh, ws := ws, sinkTile := (u.role l).ptile.toNat, sinkLtid := BitVec.ofNat 12 l, sinkEp := sinkEp, credit := depth, accepted := 0,
        severed := false, closed := false } (u.role l).ptile.toNat ⟨sinkEp.toNat, sinkEp.isLt⟩
      { fid := u.fresh, ws := ws, srcTile := u.curTile, srcEp := BitVec.ofNat 2 ep.val, depth := depth, buf := [], severed := false, drained := false,
        closed := false } := by
  refine foldl_of_fixed fun r through => ?_
  have view := u.view_placeEnds ep
    { fid := u.fresh, ws := ws, sinkTile := (u.role l).ptile.toNat, sinkLtid := BitVec.ofNat 12 l, sinkEp := sinkEp, credit := depth, accepted := 0,
      severed := false, closed := false } (u.role l).ptile.toNat ⟨sinkEp.toNat, sinkEp.isLt⟩
    { fid := u.fresh, ws := ws, srcTile := u.curTile, srcEp := BitVec.ofNat 2 ep.val, depth := depth, buf := [], severed := false, drained := false,
      closed := false } u.curTile
  have low := calm r ((view.routersOn (b := (u.role l).ptile.toNat) rfl) ▸ through)
  rw [← view.role, ← view.ltidOf] at low
  exact if_neg (Nat.not_le.mpr low)

end

/-- The operands of FOPEN are good ones. -/
def opensWell (a depth : Word) : Prop := a.toNat / 2 ^ 14 = 0 ∧ depth ≠ 0 ∧ depth.toNat ≤ 256

theorem opensWell_iff (a depth : Word) : (depth == 0 || decide (256 < depth.toNat) || nbit a.toNat 14 50 != 0) = false ↔ opensWell a depth := by
  have high : nbit a.toNat 14 50 = a.toNat / 2 ^ 14 := Nat.mod_eq_of_lt (by omega)
  simp only [opensWell, high, Bool.or_eq_false_iff, beq_eq_false_iff_ne, decide_eq_false_iff_not, Nat.not_lt, bne_eq_false_iff_eq, ne_eq]
  tauto

section
variable {u : State} {ws : Wsid} {a depth : Word}

theorem State.fopen_bad (bad : ¬ opensWell a depth) : u.fopen ws a depth = (u, 0, 4) := by
  rw [State.fopen]
  exact if_pos (Bool.of_not_eq_false fun good => bad ((opensWell_iff a depth).mp good))

variable {l : Nat} {sep : Fin 4} (names : a.toNat % 2 ^ 12 = l) (sink : a.toNat / 2 ^ 12 % 4 = sep.val) (good : opensWell a depth)
include names sink good

/-- FOPEN with good operands, by the LTID and the endpoint that they name. -/
theorem State.fopen_good : u.fopen ws a depth =
    match u.heldFurrow ws l (BitVec.ofNat 2 sep.val) with
    | some ep => (u, ep.val, 0)
    | none =>
      if !(u.role l).v || (u.role l).role != 0 then (u, 0, 2)
      else if ((u.tileAt (u.role l).ptile.toNat).fsink[sep]).isSome then (u, 0, 1)
      else match (List.finRange 4).find? fun ep => (u.tile.fsrc[ep]).isNone with
        | none => (u, 0, 3)
        | some ep => (u.openFurrow ws l (BitVec.ofNat 2 sep.val) ep depth.toNat, ep.val, 0) := by
  have ltid : nbit a.toNat 0 12 = l := (nbit_low a.toNat 12).trans names
  have endpoint : a.extractLsb' 12 2 = BitVec.ofNat 2 sep.val := by
    apply BitVec.eq_of_toNat_eq
    rw [← sink, BitVec.extractLsb'_toNat, BitVec.toNat_ofNat, Nat.shiftRight_eq_div_pow]
    omega
  have same : (BitVec.ofNat 2 sep.val).toNat = sep.val := Nat.mod_eq_of_lt sep.isLt
  have place (T : Tile) : T.fsink[(BitVec.ofNat 2 sep.val).toNat]'(BitVec.ofNat 2 sep.val).isLt = T.fsink[sep] := by
    simp only [same]
    rfl
  rw [State.fopen]
  simp only [ltid, endpoint, (opensWell_iff a depth).mpr good, place]
  rfl

theorem State.fopen_held {ep : Fin 4} (held : u.heldFurrow ws l (BitVec.ofNat 2 sep.val) = some ep) : u.fopen ws a depth = (u, ep.val, 0) := by
  rw [State.fopen_good names sink good, held]

variable (new : u.heldFurrow ws l (BitVec.ofNat 2 sep.val) = none)
include new

theorem State.fopen_unbound (unbound : ¬ ((u.role l).v = true ∧ (u.role l).role = 0)) : u.fopen ws a depth = (u, 0, 2) := by
  rw [State.fopen_good names sink good, new]
  refine if_pos ?_
  simp only [Bool.or_eq_true, Bool.not_eq_true', bne_iff_ne]
  by_cases v : (u.role l).v = true
  · exact .inr fun role => unbound ⟨v, role⟩
  · exact .inl (Bool.eq_false_iff.mpr v)

variable (bound : (u.role l).v = true ∧ (u.role l).role = 0)
include bound

theorem State.fopen_bound : u.fopen ws a depth =
    if ((u.tileAt (u.role l).ptile.toNat).fsink[sep]).isSome then (u, 0, 1)
    else match (List.finRange 4).find? fun ep => (u.tile.fsrc[ep]).isNone with
      | none => (u, 0, 3)
      | some ep => (u.openFurrow ws l (BitVec.ofNat 2 sep.val) ep depth.toNat, ep.val, 0) := by
  rw [State.fopen_good names sink good, new]
  obtain ⟨v, role⟩ := bound
  exact if_neg (by rw [v, role]; decide)

theorem State.fopen_taken (taken : (u.tileAt (u.role l).ptile.toNat).fsink[sep] ≠ none) : u.fopen ws a depth = (u, 0, 1) := by
  rw [State.fopen_bound names sink good new bound]
  exact if_pos (Option.isSome_iff_ne_none.mpr taken)

variable (free : (u.tileAt (u.role l).ptile.toNat).fsink[sep] = none)
include free

theorem State.fopen_full (full : ∀ e : Fin 4, u.tile.fsrc[e] ≠ none) : u.fopen ws a depth = (u, 0, 3) := by
  have none' : (List.finRange 4).find? (fun ep => (u.tile.fsrc[ep]).isNone) = none :=
    find?_finRange_none fun e => Bool.eq_false_iff.mpr fun isNone => full e (Option.isNone_iff_eq_none.mp isNone)
  rw [State.fopen_bound names sink good new bound, free, none']
  rfl

theorem State.fopen_opens {e : Fin 4} (isFree : u.tile.fsrc[e] = none) (first : ∀ j : Fin 4, j < e → u.tile.fsrc[j] ≠ none) :
    u.fopen ws a depth = (u.openFurrow ws l (BitVec.ofNat 2 sep.val) e depth.toNat, e.val, 0) := by
  have found : (List.finRange 4).find? (fun ep => (u.tile.fsrc[ep]).isNone) = some e :=
    find?_finRange_some (Option.isNone_iff_eq_none.mpr isFree)
      fun j below => Bool.eq_false_iff.mpr fun isNone => first j below (Option.isNone_iff_eq_none.mp isNone)
  rw [State.fopen_bound names sink good new bound, free, found]
  rfl

end

/-! ## A request of an agent: what its wait leaves of the tiles -/

section
variable {α : Type} (f : Tile → α)
  (kept : ∀ (T : Tile) (ctx : Vector Context 8) run last (ldr str : SideCore), f { T with ctx := ctx, run := run, last := last, ldr := ldr, str := str } = f T)
include kept

theorem waitsFor_keeps (w : Wait) (u : State) (n : Nat) : f ((waitsFor w u).tileAt n) = f (u.tileAt n) := by
  unfold waitsFor
  cases u.curAgent with
  | ctx c => exact State.setTile_keeps f u u.curTile (kept u.tile _ none c u.tile.ldr u.tile.str) n
  | loader => exact State.setTile_keeps f u u.curTile (kept u.tile u.tile.ctx u.tile.run u.tile.last _ u.tile.str) n
  | storer => exact State.setTile_keeps f u u.curTile (kept u.tile u.tile.ctx u.tile.run u.tile.last u.tile.ldr _) n

theorem wentOn_keeps (pc : Word) (u : State) (n : Nat) : f ((wentOn pc u).tileAt n) = f (u.tileAt n) := by
  rw [wentOn_eq]
  exact State.setTile_keeps f u u.curTile (agentTile_keeps f (fun T x l r => kept T x T.run T.last l r) ..) n

theorem sendReply_keeps (u : State) (rd : Reg) (v : Word) (n : Nat) : f ((u.sendReply rd v).tileAt n) = f (u.tileAt n) := by
  change f ((u.owes rd).tileAt n) = f (u.tileAt n)
  unfold State.owes State.setCtx
  cases u.curAgent with
  | ctx c => exact State.setTile_keeps f u u.curTile (kept u.tile _ u.tile.run u.tile.last u.tile.ldr u.tile.str) n
  | loader => rfl
  | storer => rfl

end

theorem pc_waitsFor (w : Wait) (u : State) : (waitsFor w u).pc = u.pc := by
  unfold waitsFor State.pc State.th
  cases acts : u.curAgent <;> simp [Tile.thread, acts]

theorem curTile_waitsFor (w : Wait) (u : State) : (waitsFor w u).curTile = u.curTile := by
  unfold waitsFor
  cases u.curAgent <;> rfl

theorem flights_waitsFor (w : Wait) (u : State) : (waitsFor w u).flights = u.flights := by
  unfold waitsFor
  cases u.curAgent <;> rfl

theorem pc_sendReply (u : State) (rd : Reg) (v : Word) : (u.sendReply rd v).pc = u.pc := by
  have th : (u.owes rd).th = u.th := State.th_setCtx_of_th rfl
  exact (congrArg Thread.pc th :)

theorem curTile_sendReply (u : State) (rd : Reg) (v : Word) : (u.sendReply rd v).curTile = u.curTile := by
  change (u.owes rd).curTile = u.curTile
  unfold State.owes State.setCtx
  cases u.curAgent <;> rfl

/-- A FOPEN that opens both ends and answers the source endpoint. -/
theorem completes_opens {s u O : State} {i : Instr} {d : Done} {rd : Reg} {v : Word} {e sep : Fin 4} {k : Nat} {src : FSource} {snk : FSink}
    (runs : exec i s = .next (State.finish (d.afterStreams u))) (placed : O = u.placeEnds e src k sep snk) (ends : d = .reply false (O.sendReply rd v)) :
    completes i s (fun t => t.pc = u.pc + 4 ∧ t.flights = u.flights ++ [.reply u.src rd v] ∧ t.tile.fsrc[e] = some src
      ∧ (t.tileAt k).fsink[sep] = some snk) := by
  have opened : EndsOnly u O := placed ▸ u.placeEnds_endsOnly e src k sep snk
  have pc : (O.sendReply rd v).pc = u.pc := (pc_sendReply O rd v).trans opened.pc
  obtain ⟨t, next, rfl⟩ := completes_replies runs pc ends
  have tiles {α : Type} (f : Tile → α) (kept : ∀ (T : Tile) (ctx : Vector Context 8) run last (ldr str : SideCore),
      f { T with ctx := ctx, run := run, last := last, ldr := ldr, str := str } = f T) (n : Nat) :
      f ((waitsFor .reply (wentOn (u.pc + 4) (O.sendReply rd v))).tileAt n) = f (O.tileAt n) :=
    (waitsFor_keeps f kept _ _ n).trans ((wentOn_keeps f kept _ _ n).trans (sendReply_keeps f kept O rd v n))
  have same : (waitsFor .reply (wentOn (u.pc + 4) (O.sendReply rd v))).curTile = O.curTile := by
    rw [curTile_waitsFor, wentOn_eq]
    exact curTile_sendReply O rd v
  refine ⟨_, next, ?_, ?_, ?_, ?_⟩
  · rw [pc_waitsFor, wentOn_eq, State.pc, th_agentTile]
  · have flights : O.flights = u.flights := placed ▸ rfl
    rw [flights_waitsFor, flights_wentOn]
    exact congrArg₂ (fun l x => l ++ [Flight.reply x rd v]) flights opened.src
  · rw [State.tile, same]
    refine (tiles (·.fsrc[e]) (fun _ _ _ _ _ _ => rfl) _).trans ?_
    rw [placed]
    exact u.source_placeEnds ..
  · refine (tiles (·.fsink[sep]) (fun _ _ _ _ _ _ => rfl) k).trans ?_
    rw [placed]
    exact u.sink_placeEnds ..

/-! ## The statement -/

/-- Settles O31, clause by clause from what each instruction does with the endpoint that it names. -/
theorem furrows : Obligations.Furrows := by
  unfold Obligations.Furrows
  intro s u m issued isCtx free rd rs1 rs2 a ep l k sep good held bound replies
  obtain ⟨-, noStreams, -⟩ := id free
  have noStream := noStreams true true
  obtain ⟨c, acts⟩ := State.isCtx_agent isCtx
  have endpoint : epOf a = ep := epOf_eq a
  have fopen := exec_strand (i := .fopen m rd rs1 rs2) issued acts rfl
  have fsend := exec_strand (i := .fsend m rd rs1 rs2) issued acts rfl
  have frecv := exec_strand (i := .frecv m rd rs1 rs2) issued acts rfl
  have fclose := exec_strand (i := .fclose m rd rs1 rs2) issued acts rfl
  rw [show epOf (u.x rs1) = ep from endpoint] at fsend frecv
  have answers {n st : Nat} {v : Word} (r : u.fopen u.ws a (u.x rs2) = (u, n, st)) (value : BitVec.ofNat 64 (n + st * 2 ^ 8) = v) : replies v := by
    refine completes_replies fopen (pc_sendReply u rd _) ?_
    dsimp only
    rw [r, ← value]
    rfl
  refine ⟨fun e ok isBound new free' isFree first calm => ?opens, fun bad => answers (State.fopen_bad bad) (by decide),
    fun e ok holds => answers (State.fopen_held rfl rfl ok holds) (by rw [Nat.zero_mul, Nat.add_zero]), fun ok new unbound => answers (State.fopen_unbound rfl rfl ok new unbound) (by decide),
    fun ok new isBound taken => answers (State.fopen_taken rfl rfl ok new isBound taken) (by decide),
    fun ok new isBound free' full => answers (State.fopen_full rfl rfl ok new isBound free' full) (by decide), fun f holds own => ?fsend,
    fun f v rest holds own whole data object inside => ?frecv, fun f holds own severed => ?severed, fun f holds own whole nothing => ?nothing,
    fun none' => ?noSource, fun none' => ?noSink, fun sink none' => ?closeNoSink, fun source none' => ?closeNoSource, fun f sink holds own => ?closeSink,
    fun f source holds own => ?closeSource⟩
  case opens =>
    have sinkEnd : (⟨(BitVec.ofNat 2 sep.val).toNat, (BitVec.ofNat 2 sep.val).isLt⟩ : Fin 4) = sep := Fin.ext (Nat.mod_eq_of_lt sep.isLt)
    have placed := u.openFurrow_calm e u.ws l (BitVec.ofNat 2 sep.val) (u.x rs2).toNat calm
    rw [sinkEnd] at placed
    refine completes_opens fopen placed ?_
    dsimp only
    rw [State.fopen_opens rfl rfl ok new isBound free' isFree first, Nat.zero_mul, Nat.add_zero]
    rfl
  case fsend =>
    have mine := Tile.sourceOf_own holds own
    intro open' freed rel
    exact ⟨fun ⟨whole, opened⟩ credit ready =>
        completes_sends (f := { f with credit := f.credit - 1 }) fsend noStream isCtx (State.fsend_sends mine whole opened credit ready),
      fun ⟨whole, opened⟩ spent _ => exec_of_wait fsend (State.fsend_waits mine whole opened spent),
      fun severed => completes_freesSource fsend noStream isCtx (State.fsend_severed mine severed),
      fun whole closed => completes_freesSource fsend noStream isCtx (State.fsend_closed mine whole closed)⟩
  case frecv =>
    obtain ⟨-, aligned⟩ := id object
    refine completes_takes (f := { f with buf := rest }) (wide := wideScope (tileScope f.srcTile u.curTile)) frecv noStream isCtx ?_ inside
      ((State.frecv_data (Tile.sinkOf_own holds own) whole data).trans (State.takeDatum_at object ..))
    unfold tileBase
    omega
  case severed => exact completes_setsSink frecv (State.frecv_severed (Tile.sinkOf_own holds own) severed)
  case nothing =>
    have mine := Tile.sinkOf_own holds own
    exact ⟨fun closed => completes_setsSink frecv (State.frecv_closed mine whole nothing closed),
      fun opened drained gone => completes_setsSink frecv (State.frecv_drained mine whole nothing opened drained gone),
      fun opened undrained => exec_of_wait frecv (State.frecv_waits mine whole nothing opened undrained)⟩
  case noSource => exact completes_committedTo fsend (State.pc_setX ..) noStream (State.fsend_notOpen (Tile.sourceOf_free none' u.ws))
  case noSink => exact completes_writesOnly frecv (State.frecv_notOpen (Tile.sinkOf_free none' u.ws))
  case closeNoSink =>
    refine completes_writesOnly fclose ?_
    dsimp only
    rw [State.fclose_noSink sink (endpoint ▸ Tile.sinkOf_free none' u.ws)]
    rfl
  case closeNoSource =>
    refine completes_writesOnly fclose ?_
    dsimp only
    rw [State.fclose_noSource source (endpoint ▸ Tile.sourceOf_free none' u.ws)]
    rfl
  case closeSink =>
    obtain ⟨only, freed⟩ := u.sinkCloses ep f
    obtain ⟨t, next, value, -, pc, -, fsink⟩ := completes_endsX (v := 0) fclose only
      (by dsimp only; rw [State.fclose_sink sink (endpoint ▸ Tile.sinkOf_own holds own), endpoint]; rfl)
    exact ⟨t, next, by rw [value, ite_self], pc, by rw [fsink]; exact freed⟩
  case closeSource =>
    obtain ⟨only, freed⟩ := u.sourceCloses ep u.src f
    obtain ⟨t, next, value, -, pc, fsrc, -⟩ := completes_endsX (v := 0) fclose only
      (by dsimp only; rw [State.fclose_source source (endpoint ▸ Tile.sourceOf_own holds own), endpoint]; rfl)
    exact ⟨t, next, by rw [value, ite_self], pc, by rw [fsrc]; exact freed⟩

end Sys2Proof.Machine
end

section
/-! SUPPORT. The steps of messages, furrows and copies (O49): what a packet finds at its destination, what a refusal, an acceptance, a replay and
the limit leave of the window, a datum and a credit, a piece within the tile store, the end of a copy, a slot injected. -/

namespace Sys2Proof.Machine

open Sys2Proof.Safety

/-! ## A packet (10 R213, 11 R225) -/

theorem State.advance_none (s : State) {w : Worm} (ends : w.path.length ≤ 1) : s.advance w = none := if_pos ends

/-- The entry of an LTID binds it to the tile, with the generation that the packet carries. -/
def RoleEntry.binds (e : RoleEntry) (p : Nat) (gen : BitVec 6) : Prop := e.v = true ∧ e.ptile.toNat = p ∧ e.gen = gen

section
variable {s : State} {dst p : Nat} {gen : BitVec 6}

theorem State.bindRefusal_moved (other : ¬ (s.role dst).binds p gen) : s.bindRefusal dst p gen = some .moved := by
  refine if_pos ?_
  simp only [RoleEntry.binds, not_and_or, Bool.not_eq_true] at other
  simpa only [Bool.or_eq_true, Bool.not_eq_true', bne_iff_ne, ne_eq, or_assoc] using other

theorem State.bindRefusal_none (bound : (s.role dst).binds p gen) (still : (s.role dst).cstate ≠ 3) (compute : (s.role dst).role = 0) :
    s.bindRefusal dst p gen = none := by
  obtain ⟨v, place, same⟩ := bound
  unfold State.bindRefusal
  dsimp only
  rw [v, place, same, compute, if_neg (by simp), if_neg (by simpa using still)]

end

section
variable {s : State} {i n p seq : Nat} {dst : BitVec 12} {gen : BitVec 6} {w : Worm} (flight : s.flights[i]? = some (.pkt n dst gen p seq w))
include flight

theorem State.doPacket_hop {w1 : Worm} (hop : s.advance w = some w1) : s.doPacket i = s.putFlight i (.pkt n dst gen p seq w1) := by
  rw [State.doPacket, flight]
  dsimp only
  rw [hop]

variable {m : Msg} (ends : w.path.length ≤ 1) (held : ((s.tileAt n).window dst.toNat).msgs.find? (·.seq == seq) = some m)
  (due : s.expected n dst.toNat ≤ seq)
include ends held due

theorem State.doPacket_refused {y : Nack} (refuses : s.bindRefusal dst.toNat p gen = some y) : s.doPacket i = s.putFlight i (.nack n dst seq y) := by
  rw [State.doPacket, flight]
  dsimp only
  rw [s.advance_none ends, held]
  dsimp only
  rw [if_neg (Nat.not_lt.mpr due), refuses]

variable (accepts : s.bindRefusal dst.toNat p gen = none)
include accepts

theorem State.doPacket_early (early : s.expected n dst.toNat ≠ seq) : s.doPacket i = s.putFlight i (.nack n dst seq .order) := by
  rw [State.doPacket, flight]
  dsimp only
  rw [s.advance_none ends, held]
  dsimp only
  rw [if_neg (Nat.not_lt.mpr due), accepts]
  exact if_pos (bne_iff_ne.mpr early.symm)

variable (next : s.expected n dst.toNat = seq) (idle : s.bankWaits p m = false)
include next idle

theorem State.doPacket_performs {t : State} (performs : s.perform p m = some t) :
    s.doPacket i = ((t.spoil p m.body w.bad).setExpected n dst.toNat (seq + 1)).putFlight i (.accept n dst seq) := by
  rw [State.doPacket, flight]
  dsimp only
  rw [s.advance_none ends, held]
  dsimp only
  rw [if_neg (Nat.not_lt.mpr due), accepts]
  dsimp only
  rw [next, bne_self_eq_false, if_neg Bool.false_ne_true, idle, if_neg Bool.false_ne_true, performs]

theorem State.doPacket_full (full : s.perform p m = none) : s.doPacket i = s.putFlight i (.nack n dst seq .full) := by
  rw [State.doPacket, flight]
  dsimp only
  rw [s.advance_none ends, held]
  dsimp only
  rw [if_neg (Nat.not_lt.mpr due), accepts]
  dsimp only
  rw [next, bne_self_eq_false, if_neg Bool.false_ne_true, idle, if_neg Bool.false_ne_true, full]

end

theorem State.spoil_clean (s : State) (n : Nat) (b : MsgBody) : s.spoil n b [] = s := rfl

theorem State.expected_setExpected (s : State) (n dst k : Nat) : (s.setExpected n dst k).expected n dst = k := by
  rw [State.expected, State.setExpected, sget_sset_same, Option.getD_some]

/-- The bytes of a PUT reach the store, and the acceptance its way back. -/
theorem State.doPacket_put {s : State} {i n p seq : Nat} {dst : BitVec 12} {gen : BitVec 6} {w : Worm} {m : Msg} {off : Nat} {bs : List Byte}
    (flight : s.flights[i]? = some (.pkt n dst gen p seq w)) (ends : w.path.length ≤ 1) (clean : w.bad = [])
    (held : ((s.tileAt n).window dst.toNat).msgs.find? (·.seq == seq) = some m) (accepts : s.bindRefusal dst.toNat p gen = none)
    (next : s.expected n dst.toNat = seq) (body : m.body = .put off bs) : let t := s.doPacket i
      storedAt (s.tileAt p) (t.tileAt p) off bs ∧ t.expected n dst.toNat = seq + 1 ∧ t.flights = s.flights.set i (.accept n dst seq) := by
  have idle : s.bankWaits p m = false := by rw [State.bankWaits, body]
  have performs : s.perform p m = some (s.setTile p ((s.tileAt p).writeBytes off bs)) := by rw [State.perform, body]
  rw [State.doPacket_performs flight ends held next.le accepts next idle performs, clean, State.spoil_clean]
  refine ⟨?_, State.expected_setExpected (s.setTile p ((s.tileAt p).writeBytes off bs)) n dst.toNat (seq + 1), rfl⟩
  have tile : (s.setTile p ((s.tileAt p).writeBytes off bs)).tileAt p = (s.tileAt p).writeBytes off bs := State.tileAt_setTile_same ..
  exact (congrArg (storedAt (s.tileAt p) · off bs) tile).mpr (storedAt_writeBytes ..)

/-! ## The window at a refusal, an acceptance, a replay and the limit (10 R213, R214) -/

section
variable {s : State} {i n seq : Nat} {dst : BitVec 12}

/-- A refusal of a message that the window holds. -/
theorem State.doNack_eq {y : Nack} (flight : s.flights[i]? = some (.nack n dst seq y)) (held : ((s.tileAt n).window dst.toNat).msgs.any (·.seq == seq) = true) :
    s.doNack i = (s.dropFlight i).setTile n (Tile.setWindow
      (if y = .moved then { s.tileAt n with roleCache := (s.tileAt n).roleCache.filter (fun e => e.1 != dst.toNat) } else s.tileAt n) dst.toNat
      { (s.tileAt n).window dst.toNat with backoff := true, refusals := if y = .moved then ((s.tileAt n).window dst.toNat).refusals else min (((s.tileAt n).window dst.toNat).refusals + 1) 6 }) := by
  rw [State.doNack, flight]
  exact if_pos held

/-- An acceptance of a message other than a copy's piece. -/
theorem State.doAccept_eq {m : Msg} {off : Nat} {bs : List Byte} (flight : s.flights[i]? = some (.accept n dst seq))
    (held : ((s.tileAt n).window dst.toNat).msgs.find? (·.seq == seq) = some m) (body : m.body = .put off bs) :
    let rest := ((s.tileAt n).window dst.toNat).msgs.filter (·.seq != seq)
    s.doAccept i = (s.dropFlight i).setTile n ((s.tileAt n).setWindow dst.toNat
      { (s.tileAt n).window dst.toNat with msgs := rest, refusals := 0, backoff := ((s.tileAt n).window dst.toNat).backoff && !rest.isEmpty }) := by
  have here : (s.dropFlight i).tileAt n = s.tileAt n := rfl
  rw [State.doAccept, flight]
  dsimp only
  rw [here, held]
  dsimp only
  rw [body]

end

theorem sget_filter_self (k : Nat) (l : List (Nat × Word)) : sget k (l.filter fun e => e.1 != k) = none := by
  induction l with
  | nil => rfl
  | cons e r ih =>
    rw [List.filter_cons]
    split
    next other =>
      obtain ⟨k', v⟩ := e
      have ne : k ≠ k' := fun same => by simp [same] at other
      rw [sget]
      simpa [ne] using ih
    next => exact ih

/-- The windows of a tile after a message's packet leaves, and the packet. -/
theorem State.launch_windows (s : State) (n dst seq : Nat) :
    ((s.launch n dst seq).tileAt n).windows = (s.tileAt n).windows ∧ ∃ f, (s.launch n dst seq).flights = s.flights ++ [f] := by
  obtain ⟨v, f, looked, sends⟩ := s.launch_eq n dst seq
  rw [sends]
  exact ⟨looked.keeps (·.windows) (fun _ _ => rfl) n, f, rfl⟩

/-- The messages of a window sent again. -/
theorem State.foldl_launch (s : State) (n dst : Nat) (ms : List Msg) : let t := ms.foldl (fun s m => s.launch n dst m.seq) s
    (t.tileAt n).windows = (s.tileAt n).windows ∧ ∃ fl, t.flights = s.flights ++ fl ∧ fl.length = ms.length := by
  induction ms generalizing s with
  | nil => exact ⟨rfl, [], (List.append_nil _).symm, rfl⟩
  | cons m r ih =>
    obtain ⟨windows, f, flights⟩ := s.launch_windows n dst m.seq
    obtain ⟨after, fl, sent, length⟩ := ih (s.launch n dst m.seq)
    refine ⟨after.trans windows, f :: fl, ?_, congrArg (· + 1) length⟩
    rw [List.foldl_cons, sent, flights, List.append_assoc, List.singleton_append]

/-- A window that waits to resend sends each of its messages again. -/
theorem State.doReplay_sends {s : State} {n d : Nat} (waiting : ((s.tileAt n).window d).backoff = true) (young : s.windowExpired n d = false) :
    ((s.doReplay n d).tileAt n).window d = { (s.tileAt n).window d with backoff := false }
      ∧ ∃ fl, (s.doReplay n d).flights = s.flights ++ fl ∧ fl.length = ((s.tileAt n).window d).msgs.length := by
  let T1 := (s.tileAt n).setWindow d { (s.tileAt n).window d with backoff := false }
  have tile : (s.setTile n T1).tileAt n = T1 := State.tileAt_setTile_same ..
  have done : s.doReplay n d = ((s.tileAt n).window d).msgs.foldl (fun s m => s.launch n d m.seq) (s.setTile n T1) := by
    rw [State.doReplay, waiting, young]
    rfl
  obtain ⟨windows, sends⟩ := (s.setTile n T1).foldl_launch n d ((s.tileAt n).window d).msgs
  rw [← done] at windows sends
  refine ⟨?_, sends⟩
  rw [Tile.window, windows, tile]
  exact (Tile.window_setWindow ..).trans (if_pos rfl)

/-- No tile's windows are others. -/
structure SameWindows (s t : State) : Prop where
  windows : ∀ n, (t.tileAt n).windows = (s.tileAt n).windows

theorem SameWindows.refl (s : State) : SameWindows s s := ⟨fun _ => rfl⟩

theorem SameWindows.trans {s t u : State} (h : SameWindows s t) (k : SameWindows t u) : SameWindows s u :=
  ⟨fun n => (k.windows n).trans (h.windows n)⟩

theorem faultRecord_windows (s : State) (ws code ltid info addr : Nat) : SameWindows s (s.faultRecord ws code ltid info addr) where
  windows n := (congrArg Tile.windows ((faultRecord_outside s ws code ltid info addr).tile n) :)

theorem setTile_windows (s : State) (n : Nat) {T : Tile} (same : T.windows = (s.tileAt n).windows) : SameWindows s (s.setTile n T) where
  windows := State.setTile_keeps (·.windows) s n same

theorem deliveryFault_windows (s : State) (m : Msg) (count : Nat) : SameWindows s (s.deliveryFault m count) := by
  unfold State.deliveryFault
  dsimp only
  split
  · split
    · exact setTile_windows s _ rfl
    · exact faultRecord_windows ..
  · split
    · exact setTile_windows s _ rfl
    · exact faultRecord_windows ..
  · split
    · exact setTile_windows s _ rfl
    · exact faultRecord_windows ..

theorem getDropped_windows (s : State) (m : Msg) (tag count : Nat) : SameWindows s (s.getDropped m tag count) := by
  unfold State.getDropped
  dsimp only
  split
  · exact setTile_windows s _ (Tile.setThread_keeps (·.windows) _ _ _ fun _ _ _ => rfl)
  · exact faultRecord_windows ..

theorem dropMsg_windows (s : State) (n count : Nat) (oldest : Bool) (m : Msg) : SameWindows s (s.dropMsg n count oldest m) := by
  have send : SameWindows s (if oldest then s.deliveryFault m count else s) := by
    split
    · exact deliveryFault_windows ..
    · exact .refl s
  unfold State.dropMsg
  split
  · exact getDropped_windows ..
  · exact faultRecord_windows ..
  · dsimp only
    split
    · exact setTile_windows s _ rfl
    · exact .refl s
  · exact send
  · exact send
  · exact send
  · exact send

/-- A window at the limit keeps the messages that its destination has accepted. -/
theorem State.msgs_dropWindow {s : State} {n d : Nat} (expired : s.windowExpired n d = true) :
    (((s.dropWindow n d).tileAt n).window d).msgs = ((s.tileAt n).window d).msgs.filter (fun m => decide (m.seq < s.expected n d)) := by
  let w := (s.tileAt n).window d
  let w' : Window := { w with msgs := w.msgs.filter (fun m => decide (m.seq < s.expected n d)), backoff := false, refusals := 0 }
  let s1 := (s.setTile n ((s.tileAt n).setWindow d w')).setExpected n d w.next
  have first : (s1.tileAt n).windows = ((s.tileAt n).setWindow d w').windows := by
    exact (congrArg Tile.windows (State.tileAt_setTile_same s n ((s.tileAt n).setWindow d w')) :)
  unfold State.dropWindow
  cases dropped : s.unaccepted n d with
  | nil => simp [State.windowExpired, dropped] at expired
  | cons m r =>
    have keeps : SameWindows s1 (r.foldl (fun s m' => s.dropMsg n (m :: r).length false m') (s1.dropMsg n (m :: r).length true m)) :=
      foldl_keeps (P := SameWindows s1) (fun t x k => k.trans (dropMsg_windows t ..)) r (dropMsg_windows ..)
    have windows := (keeps.windows n).trans first
    refine (congrArg (fun l => ((sget d l).getD { next := 0, msgs := [], refusals := 0, backoff := false } : Window).msgs) windows).trans ?_
    rw [Tile.setWindow, sget_sset_same]
    rfl

/-! ## A datum and a credit (10 R217) -/

section
variable {s : State} {i n fid : Nat} {ep : BitVec 2}

/-- A datum joins the buffer of its furrow's sink. -/
theorem State.doDatum_joins {o : Src} {v : Word} {w : Worm} {g : FSink} (flight : s.flights[i]? = some (.fdatum o fid n ep (some v) w)) (ends : w.path.length ≤ 1)
    (first : (s.flights.take i).any (Flight.ofFurrow fid) = false) (held : (s.tileAt n).fsink[ep.toNat]'ep.isLt = some g) (own : g.fid = fid) :
    ((s.doDatum i).tileAt n).fsink[ep.toNat]'ep.isLt = some { g with buf := g.buf ++ [(v, !w.bad.isEmpty)] } ∧ (s.doDatum i).flights = s.flights.eraseIdx i := by
  let g' : FSink := { g with buf := g.buf ++ [(v, !w.bad.isEmpty)] }
  let s1 : State := { s with flights := s.flights.eraseIdx i }
  let s2 := s1.setTile n ((s.tileAt n).setSink ⟨ep.toNat, ep.isLt⟩ (some g'))
  have done : s.doDatum i = s2.setTile g.srcTile ((s2.tileAt g.srcTile).mapSource g.srcEp (FSource.accept fid)) := by
    have here : s1.tileAt n = s.tileAt n := rfl
    have sink : (s1.tileAt n).fsink[(⟨ep.toNat, ep.isLt⟩ : Fin 4)] = some g := held
    rw [State.doDatum, flight]
    dsimp only
    rw [s.advance_none ends, first, if_neg Bool.false_ne_true]
    dsimp only
    rw [sink]
    exact if_neg (by rw [own, bne_self_eq_false]; exact Bool.false_ne_true)
  have kept : ((s.doDatum i).tileAt n).fsink = (s2.tileAt n).fsink := by
    rw [done]
    exact State.setTile_keeps (·.fsink) s2 g.srcTile (T := (s2.tileAt g.srcTile).mapSource g.srcEp (FSource.accept fid)) rfl n
  have set : (s2.tileAt n).fsink = ((s.tileAt n).setSink ⟨ep.toNat, ep.isLt⟩ (some g')).fsink := congrArg Tile.fsink (State.tileAt_setTile_same ..)
  refine ⟨?_, by rw [done]; rfl⟩
  simp only [kept, set]
  exact Tile.fsink_setSink (s.tileAt n) ⟨ep.toNat, ep.isLt⟩ (some g')

/-- A credit returns to its furrow's source. -/
theorem State.doCredit_returns {g : FSource} (flight : s.flights[i]? = some (.fcredit fid n ep)) (held : (s.tileAt n).fsrc[ep.toNat]'ep.isLt = some g)
    (own : g.fid = fid) :
    ((s.doCredit i).tileAt n).fsrc[ep.toNat]'ep.isLt = some { g with credit := g.credit + 1 } ∧ (s.doCredit i).flights = s.flights.eraseIdx i := by
  let s1 : State := { s with flights := s.flights.eraseIdx i }
  have done : s.doCredit i = s1.setTile n ((s.tileAt n).mapSource ep (FSource.repay fid)) := by
    rw [State.doCredit, flight]
    rfl
  have set : ((s.doCredit i).tileAt n).fsrc = ((s.tileAt n).mapSource ep (FSource.repay fid)).fsrc := by
    rw [done]
    exact congrArg Tile.fsrc (State.tileAt_setTile_same ..)
  have repaid : ((s.tileAt n).fsrc[ep.toNat]'ep.isLt).map (FSource.repay fid) = some { g with credit := g.credit + 1 } := by
    rw [held]
    exact congrArg some (if_pos own)
  refine ⟨?_, by rw [done]; rfl⟩
  simp only [set]
  exact (Tile.fsrc_setSource (s.tileAt n) ⟨ep.toNat, ep.isLt⟩ _).trans repaid

end

/-! ## A piece within the tile store (09 R196) -/

theorem regionOfVa_tile {a : Nat} (tile : tileBase ≤ a) : regionOfVa a = .tile := by
  have global : ¬ a < globalEnd := Nat.not_lt.mpr (le_trans (by decide) tile)
  have window : ¬ a < winBase := Nat.not_lt.mpr (le_trans (by decide) tile)
  rw [regionOfVa, if_neg global, if_neg window, if_neg (Nat.not_lt.mpr tile)]

theorem accessRegion_tile {a : Nat} (tile : tileBase ≤ a) (k : Nat) : accessRegion a k = .tile := by
  unfold accessRegion
  by_cases nothing : k = 0
  · simp [nothing, regionOfVa_tile tile]
  · simp [regionOfVa_tile tile, regionOfVa_tile (show tileBase ≤ a + k - 1 by omega)]

/-- A run in the tile window that an engine without locks may access. -/
theorem State.engRun_tile (s : State) {e : EngId} {a : Nat} (tile : tileBase ≤ a) (need : Need) (k : Nat) (unlocked : e.locks = false)
    (clean : (s.tileAt e.tile).poison = []) : s.engRun e need a k = .ok [(.store (a - tileBase), k)] := by
  have place : s.engPlace e need a k = .ok (.store (a - tileBase)) := by
    rw [State.engPlace, regionOfVa_tile tile]
    rfl
  have poison : (s.tileAt e.tile).poisoned (a - tileBase) k = false := by
    rw [Tile.poisoned, clean]
    exact List.any_eq_false.mpr fun _ _ => Bool.false_ne_true
  rw [State.engRun, accessRegion_tile tile, if_neg nofun, if_pos rfl]
  simp only [State.engLines, place, unlocked, Bool.false_and, List.any_cons, List.any_nil, State.engRead, poison, Bool.or_false, Bool.and_false,
    Bool.false_eq_true, if_false]

/-- A linear piece between two places of the tile store. -/
theorem State.linearPiece_store {s : State} {n : Nat} {ch : Fin 4} {c : Chan} {id : EngId} (own : id.tile = n) (unlocked : id.locks = false)
    (whole : c.half = []) (plain : c.opt = 0) (clean : (s.tileAt n).poison = []) (source : tileBase ≤ c.srcA.toNat + c.next)
    (target : tileBase ≤ c.dstA.toNat + c.next) : let k := min 64 (c.len - c.next)
    s.linearPiece n ch c id = (s.setTile n ((s.tileAt n).writeBytes (c.dstA.toNat + c.next - tileBase)
      ((s.tileAt n).bytes (c.srcA.toNat + c.next - tileBase) k))).pieceDone n ch k k := by
  intro k
  subst own
  have bytes : s.engBytes id [(.store (c.srcA.toNat + c.next - tileBase), k)] = (s.tileAt id.tile).bytes (c.srcA.toNat + c.next - tileBase) k :=
    List.append_nil _
  have one : firstPart (c.dstA.toNat + c.next) k 0 = k := by rw [firstPart, accessRegion_tile target]; rfl
  have noArith : opAop 0 = 0 := by decide
  rw [State.linearPiece, whole, plain]
  refine (if_neg (by decide)).trans ?_
  dsimp only
  rw [noArith, s.engRun_tile source needLoad k unlocked clean]
  dsimp only
  refine (if_neg (by decide)).trans ?_
  rw [s.engRun_tile target needStore k unlocked clean]
  dsimp only
  rw [one, bytes]
  exact (if_neg Bool.false_ne_true).trans (if_neg (lt_irrefl k))

/-- A running linear copy takes its next piece. -/
theorem State.doPiece_linear {s : State} {n : Nat} {ch : Fin 4} (running : ((s.tileAt n).chans[ch]).st = .running) (more : ((s.tileAt n).chans[ch]).over = false)
    (plain : ((s.tileAt n).chans[ch]).stage = none) (linear : ((s.tileAt n).chans[ch]).srcE = []) (free : s.fenceHoldsCopy n (s.tileAt n).chans[ch] = false) :
    s.doPiece n ch = s.linearPiece n ch (s.tileAt n).chans[ch]
      { tile := n, who := whoOf n (11 + ch.val), ws := ((s.tileAt n).chans[ch]).owner.ws, locks := false } := by
  have active : ((s.tileAt n).chans[ch]).active = true := by rw [Chan.active, running]; rfl
  rw [State.doPiece]
  dsimp only
  rw [active, more, plain, linear, free]
  rfl

/-- A tile with bytes moved from one place of its store to another. -/
theorem Tile.byte_moved (T : Tile) {from' to' k : Nat} (target : to' + k ≤ storeSize) (j : Nat) :
    (T.writeBytes to' (T.bytes from' k)).byte j = if to' ≤ j ∧ j < to' + k then T.byte (from' + (j - to')) else T.byte j := by
  obtain ⟨-, bytes, -⟩ := storedAt_writeBytes T to' (T.bytes from' k)
  rw [bytes, Tile.length_bytes]
  by_cases moved : to' ≤ j ∧ j < to' + k
  · rw [if_pos moved, if_pos ⟨moved.1, moved.2, by omega⟩, List.getD_eq_getElem _ _ (by rw [Tile.length_bytes]; omega)]
    simp only [Tile.bytes, List.getElem_map, List.getElem_range]
  · rw [if_neg moved, if_neg fun held => moved ⟨held.1, held.2.1⟩]

/-- A piece that has performed on a channel without a weir. -/
theorem State.pieceDone_plain {s : State} {n : Nat} {ch : Fin 4} {c : Chan} (chan : (s.tileAt n).chans[ch] = c) (plain : c.opt = 0) (items bytes : Nat) :
    ((s.pieceDone n ch items bytes).tileAt n).chans[ch] = { c with next := c.next + items, done := c.done + bytes }
      ∧ ∀ j, ((s.pieceDone n ch items bytes).tileAt n).byte j = (s.tileAt n).byte j := by
  have noWeir : (if c.stage.isSome then none else opWeir c.opt) = none := by
    rw [plain]
    exact ite_self _
  have done : s.pieceDone n ch items bytes = s.setTile n { s.tileAt n with
      chans := (s.tileAt n).chans.set ch { c with next := c.next + items, done := c.done + bytes } } := by
    rw [State.pieceDone]
    dsimp only
    rw [chan, noWeir]
  rw [done, State.tileAt_setTile_same]
  exact ⟨by simp, fun _ => rfl⟩

/-- What a linear piece within the tile store leaves. -/
theorem State.doPiece_store {s : State} {n : Nat} {ch : Fin 4} {c : Chan} (chan : (s.tileAt n).chans[ch] = c) (running : c.st = .running) (more : c.over = false)
    (plain : c.stage = none) (linear : c.srcE = []) (whole : c.half = []) (noOptions : c.opt = 0) (free : s.fenceHoldsCopy n c = false)
    (clean : (s.tileAt n).poison = []) {k a b : Nat} (length : k = min 64 (c.len - c.next)) (from' : a = c.srcA.toNat + c.next) (to' : b = c.dstA.toNat + c.next)
    (source : tileBase ≤ a) (target : tileBase ≤ b) (inTarget : b - tileBase + k ≤ storeSize) :
    ((s.doPiece n ch).tileAt n).chans[ch] = { c with next := c.next + k, done := c.done + k }
      ∧ ∀ j, ((s.doPiece n ch).tileAt n).byte j =
          if b - tileBase ≤ j ∧ j < b - tileBase + k then (s.tileAt n).byte (a - tileBase + (j - (b - tileBase))) else (s.tileAt n).byte j := by
  have moved : s.doPiece n ch = (s.setTile n ((s.tileAt n).writeBytes (b - tileBase) ((s.tileAt n).bytes (a - tileBase) k))).pieceDone n ch k k := by
    rw [State.doPiece_linear (chan ▸ running) (chan ▸ more) (chan ▸ plain) (chan ▸ linear) (chan ▸ free), chan, length, from', to']
    exact State.linearPiece_store rfl rfl whole noOptions clean (from' ▸ source) (to' ▸ target)
  have tile : (s.setTile n ((s.tileAt n).writeBytes (b - tileBase) ((s.tileAt n).bytes (a - tileBase) k))).tileAt n =
      (s.tileAt n).writeBytes (b - tileBase) ((s.tileAt n).bytes (a - tileBase) k) := State.tileAt_setTile_same ..
  obtain ⟨counted, bytes⟩ := State.pieceDone_plain ((congrArg (·.chans[ch]) tile).trans chan) noOptions k k
  rw [moved]
  exact ⟨counted, fun j => (bytes j).trans ((congrArg (Tile.byte · j) tile).trans ((s.tileAt n).byte_moved inTarget j))⟩

/-! ## The end of a copy (09 R192, R196) -/

/-- A running copy that is over, with every piece performed, ends well. -/
theorem State.doCopyEnd_closes {s : State} {n : Nat} {ch : Fin 4} (running : ((s.tileAt n).chans[ch]).st = .running) (ends : ((s.tileAt n).chans[ch]).over = true)
    (landed : ((s.tileAt n).chans[ch]).inAir = 0) (plain : ((s.tileAt n).chans[ch]).stage = none) (still : ((s.tileAt n).chans[ch]).recast = false)
    (good : ((s.tileAt n).chans[ch]).stop = 0) : s.doCopyEnd n ch = s.setTile n ((s.tileAt n).closed ch) := by
  have active : ((s.tileAt n).chans[ch]).active = true := by rw [Chan.active, running]; rfl
  rw [← State.closeCopy_complete still, State.doCopyEnd]
  dsimp only
  rw [active, ends, landed, good, running, plain]
  rfl

/-- The fields of a mailbox message (06 R134). -/
theorem toNat_mailMsg (kind ctx src info : Nat) (payload : Word) :
    (mailMsg kind ctx src info payload).toNat = kind % 256 + ctx % 256 * 2 ^ 8 + src % 4096 * 2 ^ 16 + info % 2 ^ 32 * 2 ^ 32 + payload.toNat * 2 ^ 64 := by
  have bound := payload.isLt
  rw [mailMsg, BitVec.toNat_ofNat]
  exact Nat.mod_eq_of_lt (by omega)

theorem kind_mailMsg (kind ctx src info : Nat) (payload : Word) : (mailMsg kind ctx src info payload).toNat % 2 ^ 8 = kind % 256 := by
  rw [toNat_mailMsg]
  omega

theorem payload_mailMsg (kind ctx src info : Nat) (payload : Word) : (mailMsg kind ctx src info payload).toNat / 2 ^ 64 = payload.toNat := by
  rw [toNat_mailMsg]
  omega

section
variable {s : State} {n : Nat} {ch : Fin 4} (posting : ((s.tileAt n).chans[ch]).st = .posting)
include posting

theorem State.doCopyPlaced_ends (noMessage : ((s.tileAt n).chans[ch]).postCmb = false) (noEntry : ((s.tileAt n).chans[ch]).postQ3 = false) :
    s.doCopyPlaced n ch = s.setTile n { s.tileAt n with chans := (s.tileAt n).chans.set ch { (s.tileAt n).chans[ch] with st := .idle } } := by
  rw [State.doCopyPlaced]
  dsimp only
  rw [posting, noMessage, noEntry]
  rfl

theorem State.doCopyPlaced_message (message : ((s.tileAt n).chans[ch]).postCmb = true) (room : (s.tileAt n).mail.length < 60) :
    s.doCopyPlaced n ch = s.setTile n { (s.tileAt n).wakeWfi with
      mail := (s.tileAt n).mail ++ [mailMsg mkCOPY_DONE (agentCode ((s.tileAt n).chans[ch]).owner.agent) (s.ltidOf n) (((s.tileAt n).chans[ch]).info ch)
        (BitVec.ofNat 64 (((s.tileAt n).chans[ch]).done % 2 ^ 40))]
      chans := (s.tileAt n).chans.set ch { (s.tileAt n).chans[ch] with postCmb := false } } := by
  rw [State.doCopyPlaced]
  dsimp only
  rw [posting, message]
  exact if_pos room

end

/-! ## A committed slot injected (15 R295) -/

theorem State.doInjection_sends {s : State} {n : Nat} {slot : BitVec 6} {late : Bool} {x : ExSend}
    (held : (s.tileAt n).xsend.find? (·.slot == slot) = some x) (room : (s.tileAt n).hasRoom (xsDltid x.entry) = true) :
    let t := s.doInjection n slot late
    (t.tileAt n).xsend = (s.tileAt n).xsend.erase x
      ∧ ((t.tileAt n).window (xsDltid x.entry)).msgs.length = ((s.tileAt n).window (xsDltid x.entry)).msgs.length + 1 := by
  let T1 : Tile := { s.tileAt n with
    xsend := (s.tileAt n).xsend.erase x
    xstat := if late && (s.tileAt n).xstat != 0xFFFF then (s.tileAt n).xstat + 1 else (s.tileAt n).xstat }
  let s1 := s.setTile n T1
  have tile : s1.tileAt n = T1 := State.tileAt_setTile_same ..
  have done : s.doInjection n slot late = s1.sendMsg n (xsDltid x.entry) x.src x.pc (BitVec.ofNat 64 (xsDoff x.entry + xsDltid x.entry * 2 ^ 24))
      (.xput (xsCh x.entry) (xsDoff x.entry) x.bytes) := by
    rw [State.doInjection]
    dsimp only
    rw [held]
    exact if_neg (by rw [room]; decide)
  have sent := s1.sendMsg_sent n (xsDltid x.entry) x.src x.pc (BitVec.ofNat 64 (xsDoff x.entry + xsDltid x.entry * 2 ^ 24))
    (.xput (xsCh x.entry) (xsDoff x.entry) x.bytes)
  intro t
  refine ⟨?_, ?_⟩
  · exact (congrArg (fun v : State => (v.tileAt n).xsend) done).trans ((sent.keeps (·.xsend) (fun _ _ _ => rfl) n).trans (congrArg Tile.xsend tile))
  · have windows : (s1.tileAt n).window (xsDltid x.entry) = (s.tileAt n).window (xsDltid x.entry) := by rw [tile]; rfl
    have entered := sent.window (xsDltid x.entry)
    rw [if_pos rfl, windows, ← done] at entered
    rw [entered]
    exact List.length_append

/-! ## The statement -/

/-- Settles O49, clause by clause from what each step leaves. -/
theorem trafficEvents : Obligations.TrafficEvents := by
  unfold Obligations.TrafficEvents
  intro s n i ch T c f lessOne
  refine ⟨?hop, ?packet, ?nack, ?accept, ?replay, ?limit, ?datum, ?credit, ?piece, ?ends, ?placed, ?message, ?slot⟩
  case hop =>
    intro dst gen p seq w w1 flight hop
    exact completes_next rfl (State.doPacket_hop flight hop)
  case packet =>
    intro dst gen p seq w m flight ends clean held e good
    refine ⟨fun moved due => ?_, fun bound still compute early => ?_, fun off bs bound still compute next body => ?_,
      fun cx l a v bound still compute next body full => ?_⟩
    · exact completes_next rfl (State.doPacket_refused flight ends held due (State.bindRefusal_moved moved))
    · exact completes_next rfl (State.doPacket_early flight ends held early.le (State.bindRefusal_none bound still compute) early.ne)
    · exact completes_next rfl (State.doPacket_put flight ends clean held (State.bindRefusal_none bound still compute) next body)
    · have idle : s.bankWaits p m = false := by rw [State.bankWaits, body]
      have refuses : s.perform p m = none := by
        rw [State.perform, body]
        exact if_neg (Nat.not_lt.mpr full)
      exact completes_next rfl (State.doPacket_full flight ends held next.le (State.bindRefusal_none bound still compute) next idle refuses)
  case nack =>
    intro dst seq y flight held
    refine completes_next rfl ?_
    rw [State.doNack_eq flight held, State.tileAt_setTile_same]
    refine ⟨(Tile.window_setWindow ..).trans (if_pos rfl), fun moved => ?_, rfl⟩
    rw [if_pos moved]
    exact sget_filter_self ..
  case accept =>
    intro dst seq m off bs flight held body
    refine completes_next rfl ?_
    rw [State.doAccept_eq flight held body, State.tileAt_setTile_same, Tile.window_setWindow, if_pos rfl]
    exact ⟨rfl, rfl, rfl⟩
  case replay =>
    intro d waiting young
    exact completes_next rfl (State.doReplay_sends waiting young)
  case limit =>
    intro d expired
    exact completes_next rfl ((congrArg (fun t : State => ((t.tileAt n).window d).msgs) (if_pos expired)).trans (State.msgs_dropWindow expired))
  case datum =>
    intro o fid ep v w g flight ends first held own
    exact completes_next rfl (State.doDatum_joins flight ends first held own)
  case credit =>
    intro fid ep g flight held own
    exact completes_next rfl (State.doCredit_returns flight held own)
  case piece =>
    intro running more plain linear whole noOptions free clean k a b source _ target inTarget
    exact completes_next rfl (State.doPiece_store rfl running more plain linear whole noOptions free clean rfl rfl rfl source target inTarget)
  case ends =>
    intro running ended landed plain still good
    refine completes_next rfl ?_
    rw [State.doCopyEnd_closes running ended landed plain still good, State.tileAt_setTile_same]
    refine ⟨?_, rfl⟩
    simp [Tile.closed, c, T]
  case placed =>
    intro posting noMessage noEntry
    exact completes_next rfl (State.doCopyPlaced_ends posting noMessage noEntry)
  case message =>
    intro posting message room
    refine completes_next rfl ?_
    rw [State.doCopyPlaced_message posting message room, State.tileAt_setTile_same]
    refine ⟨by simp [c, T], _, rfl, kind_mailMsg .., ?_⟩
    rw [payload_mailMsg, BitVec.toNat_ofNat]
    exact Nat.mod_eq_of_lt (by omega)
  case slot =>
    intro slot late x held room
    have ltid : xsDltid x.entry = x.entry.toNat % 2 ^ 12 := nbit_low ..
    rw [← ltid] at room ⊢
    exact completes_next rfl (State.doInjection_sends held room)

end Sys2Proof.Machine
end

section
/-! SUPPORT. ROLEQ where the role cache lags the role map (O45). -/

namespace Sys2Proof.Machine

open Sys2Proof.Safety

namespace LaggingCache

/-- A strand whose x6 asks for word 1 of LTID 1. -/
def context : Context :=
  { Context.reset with st := .running, th := { Thread.reset with x := (Vector.replicate 32 0).set 6 0x1001 } }

/-- The entry of LTID 1 as it stood at reset, and as it is now: its generation has advanced. -/
def old : RoleEntry := .reset true 1
def new : RoleEntry := { old with gen := 1 }

/-- The strand in context 0 of tile 0, whose interface the broadcast of the changed entry has not reached (11 R225). -/
def state : State :=
  { State.reset with
    tiles := [(0, { Tile.reset with ctx := Tile.reset.ctx.set 0 context, run := some 0, roleCache := [(1, old.word0 1)] })]
    roles := [(1, new)] }

/-- What tile 0's interface has cached after an operation. -/
def cacheAfter (i : Instr) (s : State) : Option (List (Nat × Word)) :=
  match exec i s with
  | .next t => some (t.tileAt 0).roleCache
  | _ => none

/-- ROLEQ of word 1 places word 0 as it is now in the cache (11 R245). -/
theorem cache_roleq : cacheAfter (.roleq false 5 6 0) state = some [(1, new.word0 1)] := by decide +kernel

theorem issued : issues state false state := ⟨state, rfl, rfl⟩

end LaggingCache

/-- Refutes O45: the clause of ROLEQ of word 1 leaves the role cache as it is where it holds the LTID. The read from the census also places word 0 in
the cache (11 R245), which is another word where the entry has changed and its broadcast is still on the way (11 R225), here with GEN advanced from
0 to 1. -/
theorem not_roleInstructions : ¬ Obligations.RoleInstructions := by
  unfold Obligations.RoleInstructions
  intro holds
  obtain ⟨-, -, -, -, -, -, -, -, -, -, -, word1, -⟩ := holds LaggingCache.state LaggingCache.state false 0 LaggingCache.issued rfl rfl 5 6 0
  obtain ⟨t, runs, asked⟩ := word1 (by decide) (by decide) (by decide)
  have kept : LaggingCache.cacheAfter (.roleq false 5 6 0) LaggingCache.state = some [(1, LaggingCache.old.word0 1)] := by
    rw [LaggingCache.cacheAfter, runs, asked]
    rfl
  exact absurd (LaggingCache.cache_roleq.symm.trans kept) (by decide)

end Sys2Proof.Machine
end

section
/-! SUPPORT. What no access to memory and no end of a strand changes of the census: the role map with what binds an LTID at the start, the notices,
the pages on their way, the count of ticks and the management window (O51). -/

namespace Sys2Proof.Machine

open Sys2Proof.Safety

/-- The role map, with the service and the dies that bind an LTID at the start, the notices, the moves, the count of ticks, the management window. -/
structure Census where
  roles : List (Nat × RoleEntry)
  service : Bool
  dies : BitVec 4
  notices : List (Nat × Notice)
  moves : List PageMove
  tick : Nat
  mgmt : Mgmt

def State.census (s : State) : Census :=
  { roles := s.roles, service := s.fullService, dies := s.idDies, notices := s.notices, moves := s.moves, tick := s.tick, mgmt := s.mgmt }

section
variable {s t : State} (h : t.census = s.census)
include h

theorem State.roles_of_census : t.roles = s.roles := congrArg Census.roles h
theorem State.moves_of_census : t.moves = s.moves := congrArg Census.moves h
theorem State.tick_of_census : t.tick = s.tick := congrArg Census.tick h
theorem State.mgmt_of_census : t.mgmt = s.mgmt := congrArg Census.mgmt h

theorem State.role_of_census (l : Nat) : t.role l = s.role l := by
  have service : t.fullService = s.fullService := congrArg Census.service h
  have dies : t.idDies = s.idDies := congrArg Census.dies h
  rw [State.role, State.role, State.roles_of_census h, State.boundAtStart, State.boundAtStart, service, dies]

end

section
variable {α : Type} {f : State → α}

/-- What each step of a run of steps keeps. -/
theorem State.kept_foldl {β : Type} {g : State → β → State} (h : ∀ s b, f (g s b) = f s) (l : List β) (s : State) : f (l.foldl g s) = f s :=
  foldl_keeps (P := fun t => f t = f s) (fun t b kept => (h t b).trans kept) l rfl

theorem State.kept_ite {p : Prop} [Decidable p] {a : α} {t u : State} (yes : f t = a) (no : f u = a) : f (if p then t else u) = a := by
  split
  · exact yes
  · exact no

end

@[simp] theorem State.census_setTile (s : State) (n : Nat) (T : Tile) : (s.setTile n T).census = s.census := rfl

/-! ## Lines, sectors and words at the slices (13 R253, R255, R261, R263, 18 R313, R315) -/

theorem State.census_dropL2 (s : State) (e : L2Line) : (s.dropL2 e).census = s.census := by
  unfold State.dropL2
  dsimp only
  split
  · rfl
  · split
    · split <;> rfl
    · rfl

theorem State.census_allocL2 (s : State) (e : L2Line) : (s.allocL2 e).census = s.census := by
  unfold State.allocL2
  dsimp only
  split
  · rfl
  · split
    next v _ _ => exact s.census_dropL2 v
    next => rfl

@[simp] theorem State.census_touchLine (s : State) (pa : Nat) : (s.touchLine pa).census = s.census := by
  unfold State.touchLine
  exact kept_ite rfl (census_allocL2 ..)

@[simp] theorem State.census_takeSector (s : State) (pa : Nat) (write : Bool) : (s.takeSector pa write).census = s.census := by
  unfold State.takeSector
  split
  · split
    · rfl
    · split <;> rfl
    · rfl
  · dsimp only
    split <;> split <;> rfl
  · rfl

@[simp] theorem State.census_noteNomem (s : State) (pa len ws : Nat) : (s.noteNomem pa len ws).census = s.census := by
  unfold State.noteNomem
  split <;> rfl

@[simp] theorem State.census_nomemRuns (s : State) (l : List (Nat × Nat)) (ws : Nat) : (s.nomemRuns l ws).census = s.census := by
  unfold State.nomemRuns
  split
  · exact census_noteNomem ..
  · rfl

@[simp] theorem State.census_seeRuns (s : State) (l : List (Nat × Nat)) (ws : Nat) : (s.seeRuns l ws).census = s.census := by
  unfold State.seeRuns
  exact (census_nomemRuns ..).trans (kept_foldl (fun s a => by simp) _ s)

@[simp] theorem State.census_vsee (s : State) (ws va n : Nat) : (s.vsee ws va n).census = s.census := by
  unfold State.vsee State.walkNomem
  split
  · split
    · exact census_noteNomem ..
    · rfl
  · exact census_seeRuns ..

@[simp] theorem State.census_putWord (s : State) (w : Nat) (cells : List (Nat × Byte)) (ws : Wsid) : (s.putWord w cells ws).census = s.census := by
  unfold State.putWord
  exact kept_ite (census_touchLine ..) rfl

@[simp] theorem State.census_writeBackWord (s : State) (w : Nat) (l : L1Word) (h : Holder) : (s.writeBackWord w l h).census = s.census := by
  unfold State.writeBackWord
  exact kept_ite (census_putWord ..) (census_putWord ..)

theorem State.census_revoke (s : State) (w : Nat) : (s.revoke w).census = s.census := by
  unfold State.revoke State.dropHeld
  split
  · rfl
  · dsimp only
    split
    · split <;> exact census_writeBackWord ..
    · rfl

@[simp] theorem State.census_evictWords (s : State) (tile : Nat) (p : Nat → Bool) : (s.evictWords tile p).census = s.census := by
  unfold State.evictWords
  refine (census_setTile ..).trans (kept_foldl (fun s e => ?_) _ s)
  exact kept_ite (kept_ite (census_writeBackWord ..) rfl) rfl

theorem State.census_unseal (s : State) (w : Nat) (keep : Option Nat) : (s.unseal w keep).census = s.census := by
  unfold State.unseal
  exact kept_ite rfl (kept_foldl (fun s t => census_evictWords ..) _ _)

theorem State.census_sliceWrite (s : State) (w : Nat) (cells : List (Nat × Byte)) (ws : Wsid) : (s.sliceWrite w cells ws).census = s.census :=
  (census_putWord ..).trans ((census_unseal ..).trans (census_revoke ..))

theorem State.census_putRun (s : State) (pa : Nat) (bytes : List Byte) (ws : Wsid) : (s.putRun pa bytes ws).census = s.census :=
  (kept_foldl (fun _ _ => census_sliceWrite ..) _ _).trans (kept_foldl (fun _ _ => census_takeSector ..) _ s)

@[simp] theorem State.census_writeAt (s : State) (pa : Nat) (bytes : List Byte) (ws : Wsid) : (s.writeAt pa bytes ws).census = s.census :=
  (census_noteNomem ..).trans (census_putRun ..)

@[simp] theorem State.census_putNat (s : State) (pa n v : Nat) (ws : Wsid) : (s.putNat pa n v ws).census = s.census := census_writeAt ..

theorem State.census_writePieces (ws : Wsid) (l : List (Nat × Nat)) (bs : List Byte) (s : State) : (s.writePieces ws l bs).census = s.census := by
  induction l generalizing s bs with
  | nil => rfl
  | cons c r ih => exact (ih ..).trans (census_putRun ..)

theorem State.census_vwrite {s t : State} {ws va : Nat} {bs : List Byte} (wrote : s.vwrite ws va bs = .ok t) : t.census = s.census := by
  unfold State.vwrite at wrote
  split at wrote
  · cases wrote
  · cases wrote
    exact (census_nomemRuns ..).trans (census_writePieces ..)

@[simp] theorem State.census_vput (s : State) (ws va n v : Nat) : (s.vput ws va n v).census = s.census := by
  unfold State.vput
  split
  next t wrote => exact census_vwrite wrote
  next => rfl

/-! ## The fault record and the spill frames (21 R352, 05 R106, R111) -/

@[simp] theorem State.census_faultRecord (s : State) (ws code ltid info addr : Nat) : (s.faultRecord ws code ltid info addr).census = s.census := by
  have miss : ∀ v, (s.setWsWord ws wEVCOUNT v).census = s.census := fun v => census_putNat ..
  unfold State.faultRecord
  dsimp only
  split
  · exact miss _
  · split
    · exact miss _
    · split
      next => exact miss _
      next t wrote => simp [census_vwrite wrote]

@[simp] theorem State.census_freeFrame (s : State) (ltid ws f : Nat) : (s.freeFrame ltid ws f).census = s.census := by
  unfold State.freeFrame
  refine kept_ite rfl (kept_ite rfl ?_)
  dsimp only
  split
  next => exact census_faultRecord ..
  next =>
    split
    next => exact census_faultRecord ..
    next t wrote => simp [census_vwrite wrote]

theorem State.census_popPool (s : State) (ltid ws need : Nat) : (s.popPool ltid ws need).1.census = s.census := by
  unfold State.popPool
  dsimp only
  split
  · rfl
  · split
    · exact census_faultRecord ..
    · split
      · exact census_vsee ..
      · split
        · exact census_vsee ..
        · split
          · simp
          · split
            next => simp
            next t wrote => simp [census_vwrite wrote]

theorem State.census_takeFrame (s : State) (t : Nat) (ws : Wsid) (need : Nat) (m : SaveMode) : (s.takeFrame t ws need m).1.census = s.census := by
  have popped := s.census_popPool (s.ltidOf t) ws.toNat need
  unfold State.takeFrame State.popReserve
  split
  next s1 f pool =>
    rw [pool] at popped
    exact popped
  next s1 cause pool =>
    rw [pool] at popped
    split
    · split <;> exact popped
    · exact popped

/-! ## Departures and the work of a strand (09 R189, 15 R285, R287, R291, R296) -/

theorem State.census_sendMsg (s : State) (n dst : Nat) (src : Src) (pc addr : Word) (body : MsgBody) : (s.sendMsg n dst src pc addr body).census = s.census :=
  (congrArg State.census (s.sendMsg_sent n dst src pc addr body).rest).trans rfl

theorem State.census_departEntry (s : State) (t : Nat) (src : Src) (e : Word) : (s.departEntry t src e).census = s.census := by
  unfold State.departEntry
  exact kept_ite rfl (kept_ite rfl (kept_ite rfl (census_sendMsg ..)))

@[simp] theorem State.census_departAll (s : State) (t : Nat) (src : Src) (joins : List Word) : (s.departAll t src joins).census = s.census :=
  kept_foldl (fun s e => s.census_departEntry t src e) joins s


@[simp] theorem State.census_release (s : State) (e : Strand) : (s.release e).census = s.census := by
  unfold State.release
  exact kept_ite rfl rfl

theorem State.census_templateSucc (s : State) (ws array : Nat) : (s.templateSucc ws array).1.census = s.census := by
  unfold State.templateSucc
  split
  · rfl
  · split
    · simp
    · split <;> simp

@[simp] theorem State.census_endRange (s : State) (ltid : Nat) (ws : Wsid) (array : Word) : (s.endRange ltid ws array).census = s.census := by
  unfold State.endRange
  split
  · rfl
  · exact kept_ite ((census_templateSucc ..).trans (census_vput ..)) (census_vput ..)

theorem State.census_domainFaults (s : State) (t : Nat) (g : Gang) : (s.domainFaults t g).census = s.census :=
  kept_foldl (fun _ _ => census_setTile ..) _ s

@[simp] theorem State.census_endMember (s : State) (t die id : Nat) (ws : Wsid) (lost : Bool) : (s.endMember t die id ws lost).census = s.census := by
  unfold State.endMember
  dsimp only
  split
  · rfl
  next g found =>
    have left' : (if s.otherMember t g.ch then s else s.setTile t { s.tileAt t with dommem := (s.tileAt t).dommem &&& ~~~(1#8 <<< g.ch.toNat) }).census
      = s.census := kept_ite rfl rfl
    generalize (if s.otherMember t g.ch then s else _ : State) = left at left' ⊢
    have told : (if lost = true then
        (if g.failed then left else left.faultRecord ws.toNat frGANG (left.ltidOf t) g.domain.toNat 0).domainFaults t g else left).census = s.census :=
      kept_ite ((census_domainFaults ..).trans (kept_ite left' ((census_faultRecord ..).trans left'))) left'
    exact kept_ite (kept_ite told told) told

@[simp] theorem State.census_endWork (s : State) (t : Nat) (ws : Wsid) (rec : Word) (how : EndKind) : (s.endWork t ws rec how).census = s.census := by
  unfold State.endWork
  split
  · rfl
  next e found =>
    have released : (({ s with strands := sdel (recKey ws rec) s.strands } : State).release e).census = s.census := census_release ..
    dsimp only
    split
    · exact kept_ite released released
    · exact (census_endRange ..).trans released
    · exact (census_endMember ..).trans released

/-! ## Strands ended (05 R106, R114, R118) -/

theorem State.census_killOne (s : State) (t : Nat) (src : Src) (rec : Word) : (s.killOne t src rec).census = s.census := by
  unfold State.killOne
  dsimp only
  generalize (s.vnat src.ws.toNat (rec.toNat + 16) 8).getD 0 = spill
  have seen : ∀ b : Bool, (if b = true then (s.vsee src.ws.toNat rec.toNat 24).vsee src.ws.toNat spill 128
      else s.vsee src.ws.toNat rec.toNat 24).census = s.census := fun b => kept_ite (by simp) (by simp)
  have ended : ∀ joins, (((if (spill != 0 && spill % 64 == 0) = true then (s.vsee src.ws.toNat rec.toNat 24).vsee src.ws.toNat spill 128
      else s.vsee src.ws.toNat rec.toNat 24).departAll t src joins).endWork t src.ws rec .terminated).census = s.census := fun joins =>
    ((census_endWork ..).trans (census_departAll ..)).trans (seen _)
  exact kept_ite ((census_freeFrame ..).trans (ended _)) (ended _)

theorem State.census_killRecord (s : State) (t : Nat) (src : Src) (rec : Word) : (s.killRecord t src rec).census = s.census := by
  unfold State.killRecord
  have one := s.census_killOne t src rec
  exact kept_ite one ((census_faultRecord ..).trans ((census_killOne ..).trans one))

@[simp] theorem State.census_recordDrops (s : State) (t : Nat) (ws : Wsid) (rs : List Remote) : (s.recordDrops t ws rs).census = s.census := by
  refine kept_foldl (fun s r => ?_) rs s
  split
  · exact census_faultRecord ..
  · rfl

theorem State.census_endStrandAs (s : State) (t : Nat) (c : Fin 8) (how : EndKind) (nested : Nat × Nat) :
    (s.endStrandAs t c how nested).census = s.census := by
  have ended : (((s.recordDrops t (s.cx t c).wsid (s.cx t c).th.outs).departAll t (s.srcOf t c) (s.cx t c).joins.toList).endWork t (s.cx t c).wsid
      (s.cx t c).recAddr how).census = s.census := by simp
  have killed := (State.census_killRecord _ t (s.srcOf t c) (s.cx t c).trec).trans ended
  unfold State.endStrandAs
  dsimp only
  refine Eq.trans rfl ?_
  split
  · exact (census_freeFrame ..).trans (kept_ite ((census_faultRecord ..).trans killed) ended)
  · exact kept_ite ((census_faultRecord ..).trans killed) ended

/-- A strand that finds no frame at a deadline ends (05 R106). -/
theorem State.census_evictEnd (s : State) (t : Nat) (c : Fin 8) (why : Byte) : (s.evictEnd t c why).census = s.census :=
  (census_endStrandAs ..).trans (census_faultRecord ..)

/-! ## Pre-emption at a deadline (05 R105, R106) -/

theorem State.census_beginPreempt (s : State) (t : Nat) (c : Fin 8) (cause : Nat) (m : SaveMode) : (s.beginPreempt t c cause m).census = s.census := by
  have took := s.census_takeFrame t (s.cx t c).wsid ((s.cx t c).preemptNeed cause ((s.tileAt t).mayFlag (s.srcOf t c))).size m
  unfold State.beginPreempt
  refine kept_ite rfl ?_
  split
  next s1 f taken =>
    rw [taken] at took
    exact took
  next s1 why taken =>
    rw [taken] at took
    split
    · exact (census_evictEnd ..).trans took
    · exact took

theorem State.census_beginOwnPreempt (s : State) (t : Nat) (c : Fin 8) : (s.beginOwnPreempt t c).census = s.census := by
  have took : ∀ need r, s.takeFrame t (s.cx t c).wsid need .deadline = r → r.1.census = s.census := fun need r taken =>
    taken ▸ census_takeFrame ..
  unfold State.beginOwnPreempt
  dsimp only
  split
  next s1 f taken => exact took _ _ taken
  next s1 why taken => exact took _ _ taken

theorem State.census_stopAll (s : State) (n : Nat) : (s.stopAll n).census = s.census := by
  refine kept_foldl (fun s c => ?_) _ s
  exact kept_ite rfl (kept_ite (kept_ite (census_beginOwnPreempt ..) (census_beginPreempt ..)) rfl)

theorem State.census_sever (s : State) (f : Furrow) (n : Nat) : (s.sever f n).census = s.census := rfl

theorem State.census_severThrough (s : State) (n : Nat) : (s.severThrough n).census = s.census :=
  kept_foldl (fun s f => census_sever s f n) _ s

end Sys2Proof.Machine
end

section
/-! SUPPORT. The steps of the census (O51): what none of its operations changes, and what each step leaves in the case that a clause names. -/

namespace Sys2Proof.Machine

open Sys2Proof.Safety

/-! ## Ticks and the management window through the census's operations (11 R226) -/

/-- The count of ticks and the management window. -/
def State.clock (s : State) : Nat × Mgmt := (s.tick, s.mgmt)

theorem State.clock_of_census {s t : State} (h : t.census = s.census) : t.clock = s.clock :=
  Prod.ext (tick_of_census h) (mgmt_of_census h)

theorem State.clock_setTile (s : State) (n : Nat) (T : Tile) : (s.setTile n T).clock = s.clock := rfl

theorem State.clock_sendNotices (s : State) (l : Nat) (as : List Addressee) : (s.sendNotices l as).clock = s.clock := by
  unfold State.sendNotices
  split
  · rfl
  · exact kept_foldl (f := State.clock) (fun _ _ => clock_setTile ..) as s

theorem State.clock_postNotice (s : State) (l why : Nat) : (s.postNotice l why).clock = s.clock := (clock_sendNotices ..).trans rfl

theorem State.clock_censusNotice (s : State) (l why : Nat) : (s.censusNotice l why).clock = s.clock := by
  unfold State.censusNotice
  exact kept_ite rfl (kept_ite rfl (clock_postNotice ..))

theorem State.clock_holdEnded (s : State) (l : Nat) : (s.holdEnded l).clock = s.clock := by
  unfold State.holdEnded
  exact kept_ite (clock_censusNotice ..) rfl

/-- Entering moving changes of the census no more than CSTATE of the tile. -/
theorem State.census_toMoving (s : State) (l : Nat) : (s.toMoving l).census = (s.castRole l { s.role l with cstate := 3 }).census := by
  unfold State.toMoving
  exact kept_ite (census_stopAll ..) (kept_ite (census_severThrough ..) rfl)

theorem State.clock_toMoving (s : State) (l : Nat) : (s.toMoving l).clock = s.clock := (clock_of_census (census_toMoving ..)).trans rfl

theorem State.clock_doLeaseExpiry (s : State) (l : Nat) : (s.doLeaseExpiry l).clock = s.clock := by
  unfold State.doLeaseExpiry
  exact kept_ite (clock_holdEnded ..) rfl

theorem State.clock_doDeadline (s : State) (l : Nat) : (s.doDeadline l).clock = s.clock := by
  unfold State.doDeadline
  exact kept_ite rfl (kept_ite (clock_toMoving ..) (clock_of_census (census_severThrough ..)))

theorem State.clock_applyTick (s : State) : s.applyTick.clock = s.clock :=
  (kept_foldl (f := State.clock) (fun s (e : Nat × RoleEntry) => clock_doDeadline s e.1) _ _).trans
    (kept_foldl (f := State.clock) (fun s (e : Nat × RoleEntry) => clock_doLeaseExpiry s e.1) _ s)

theorem State.census_cleanL1 (s : State) (n : Nat) : (s.cleanL1 n).census = s.census :=
  kept_foldl (f := State.census) (fun _ _ => census_evictWords ..) _ s

theorem State.census_powerOff (s : State) : s.powerOff.census = s.census := by
  unfold State.powerOff
  exact kept_foldl (f := State.census) (fun s (e : Nat × Tile) => census_cleanL1 s e.1) s.tiles s

/-! ## TICK (11 R226, R251, 21 R351, R357) -/

/-- The count one higher, the clock that was to come, the corrected errors counted anew at an epoch's boundary. -/
def State.ticked (s : State) : State :=
  { s with
    tick := s.tick + 1, mgmt := { s.mgmt with clock := if s.mgmt.held = true then 10 else s.mgmt.nextClock }
    ceSeen := if (s.tick + 1) % 50 = 0 then Vector.replicate 5 [] else s.ceSeen }

theorem execTick_eq (s : State) : execTick s = .next
    (if s.ticked.applyTick.powered || s.ticked.applyTick.tiles.any (fun e => !e.2.residents.isEmpty) then s.ticked.applyTick
      else s.ticked.applyTick.powerOff) := rfl

/-- No lease has run out, and no deadline has anything to do. -/
def State.nothingDue (s : State) : Prop := ∀ l, s.leaseDue l = false ∧ s.deadlineDue l = false

theorem State.applyTick_of_nothingDue {s : State} (none' : s.nothingDue) : s.applyTick = s := by
  have leases : s.roles.foldl (fun s e => s.doLeaseExpiry e.1) s = s := foldl_of_fixed fun e _ => by
    simp [State.doLeaseExpiry, (none' e.1).1]
  have deadlines : s.roles.foldl (fun s e => s.doDeadline e.1) s = s := foldl_of_fixed fun e _ => by
    simp [State.doDeadline, (none' e.1).2]
  unfold State.applyTick
  rw [leases, deadlines]

theorem completes_tick (s : State) : completes .tick s (fun t => t.clock = s.ticked.clock
    ∧ (s.ticked.nothingDue → s.powered = true → t = s.ticked)
    ∧ (s.ticked.nothingDue → s.powered = false → (∀ x ∈ s.tiles, x.2.residents = []) → t.tiles = [])) := by
  refine completes_next (execTick_eq s) ⟨?_, fun none' on => ?_, fun none' off gone => ?_⟩
  · have applied := s.ticked.clock_applyTick
    exact State.kept_ite applied ((State.clock_of_census (State.census_powerOff ..)).trans applied)
  · rw [State.applyTick_of_nothingDue none']
    exact if_pos (Bool.or_eq_true_iff.mpr (.inl on))
  · have none'' : ¬ (s.ticked.powered || s.ticked.tiles.any (fun e => !e.2.residents.isEmpty)) = true := by
      simp only [Bool.or_eq_true, List.any_eq_true, not_or, not_exists, not_and]
      exact ⟨ne_true_of_eq_false off, fun x hx => by simp [gone x hx]⟩
    rw [State.applyTick_of_nothingDue none', if_neg none'']
    rfl

/-! ## EPOCH_END (11 R227, R228, R241) -/

theorem State.clock_choose (s : State) (l b : Nat) : (s.choose l b).clock = s.clock := by
  unfold State.choose
  exact kept_ite rfl (clock_censusNotice ..)

/-- What every case of a recursive function on a fuel keeps of its first value, if its recursive call does, the function keeps. -/
theorem brecOn_keeps {α β γ : Type} {f : α → γ} (F : (n : Nat) → Nat.below (motive := fun _ => α → β → α × β) n → α → β → α × β)
    (zero : ∀ below a b, f (F 0 below a b).1 = f a)
    (succ : ∀ n (below : Nat.below (motive := fun _ => α → β → α × β) (n + 1)), (∀ a b, f (below.1 a b).1 = f a) →
      ∀ a b, f (F (n + 1) below a b).1 = f a) (n : Nat) :
    ∀ a b, f (Nat.brecOn (motive := fun _ => α → β → α × β) n F a b).1 = f a := by
  induction n with
  | zero => exact fun a b => zero _ a b
  | succ n ih => exact fun a b => succ n _ ih a b

/-- `State.epochWs` as the recursor that Lean compiled it to: the kernel does not finish its equation for a fuel that is a successor. -/
theorem State.epochWs_eq_brecOn : @State.epochWs = fun s die ws press stalls fuel ch =>
    Nat.brecOn (motive := fun _ => State → List Nat → State × List Nat) fuel (State.epochWs._f die ws press stalls) s ch := by
  delta State.epochWs
  exact rfl

theorem State.clock_epochWs (s : State) (die ws : Nat) (press stalls : List Nat) (fuel : Nat) (ch : List Nat) :
    (s.epochWs die ws press stalls fuel ch).1.clock = s.clock := by
  rw [State.epochWs_eq_brecOn]
  refine brecOn_keeps (f := State.clock) _ (fun _ _ _ => rfl) (fun _ below ih s ch => ?_) fuel s ch
  dsimp only [State.epochWs._f]
  split
  · rfl
  · split
    · rfl
    · exact (ih ..).trans (clock_choose ..)

/-- The searches for every workspace, one after another. -/
theorem State.clock_searches (s : State) (die : Nat) (press stalls : List Nat) (l : List Nat) :
    (l.foldl (fun (a : State × List Nat) ws => a.1.epochWs die ws press stalls 256 a.2) (s, [])).1.clock = s.clock :=
  List.foldlRecOn (motive := fun a => a.1.clock = s.clock) l _ rfl fun (a : State × List Nat) kept ws _ =>
    (clock_epochWs a.1 die ws press stalls 256 a.2).trans kept

theorem State.clock_unwant (s : State) (die : Nat) (chosen : List Nat) : (s.unwant die chosen).clock = s.clock := by
  refine kept_foldl (f := State.clock) (fun s p => ?_) _ s
  exact kept_ite rfl rfl

theorem State.clock_postOwed (s : State) (die : Nat) : (s.postOwed die).clock = s.clock := by
  refine (kept_foldl (f := State.clock) (fun s o => ?_) _ _).trans rfl
  exact kept_ite (clock_censusNotice ..) rfl

theorem State.census_setPageEnt (s : State) (r : Rgn) (page : Nat) (e : PageEnt) : (s.setPageEnt r page e).census = s.census := census_putNat ..

theorem State.clock_startMove (s : State) (r : Rgn) (page : Nat) (dst : Option (Nat × Nat)) : (s.startMove r page dst).clock = s.clock := by
  have kept := clock_of_census (census_setPageEnt s r page { s.pageEnt r page with moving := true })
  exact kept

theorem State.clock_placePages (s : State) (die : Nat) : (s.placePages die).clock = s.clock := by
  unfold State.placePages
  refine (kept_foldl (f := State.clock) (fun s r => ?_) _ _).trans (kept_foldl (f := State.clock) (fun _ _ => clock_startMove ..) _ s)
  exact kept_foldl (f := State.clock) (fun _ _ => clock_of_census (census_setPageEnt ..)) _ s

theorem State.doEpochEnd_due {s : State} {d : Fin 4} (due : 50 * s.dies[d].epoch ≤ s.tick) (done : s.censusBusy d.val = false) (press stalls : List Nat) :
    let t := s.doEpochEnd d.val press stalls
    t.dies[d].epoch = s.tick / 50 + 1 ∧ t.dies[d].refused = 0 ∧ t.tick = s.tick := by
  have ends : ¬ (!s.epochDue d.val) = true := by
    rw [State.epochDue, State.die_get, done, decide_eq_true due]
    decide
  unfold State.doEpochEnd
  rw [if_neg ends]
  have chosen : ∀ r : State × List Nat, r.1.clock = s.clock → (((r.1.unwant d.val r.2).postOwed d.val).placePages d.val).clock = s.clock := fun r kept =>
    (((State.clock_placePages ..).trans (State.clock_postOwed ..)).trans (State.clock_unwant ..)).trans kept
  dsimp only
  refine ⟨by rw [State.setDie_get], by rw [State.setDie_get], congrArg Prod.fst (chosen _ ?_)⟩
  split
  · exact State.clock_searches ..
  · rfl

/-! ## LEASE_EXPIRY and NOTICE_DEADLINE (11 R229, R231, R232) -/

theorem State.role_setRole_ne {k l : Nat} (other : k ≠ l) (s : State) (e : RoleEntry) : (s.setRole l e).role k = s.role k := by
  rw [State.role, State.setRole, sget_sset_ne other]
  rfl

/-- The end of a hold posts nothing where the tile is not wanted or a window still holds it. -/
theorem State.holdEnded_nothing {s : State} {l : Nat} (held : (s.role l).cstate ≠ 1 ∨ (s.role l).xwin = true) : s.holdEnded l = s := by
  refine if_neg fun ends => ?_
  simp only [Bool.and_eq_true, beq_iff_eq, Bool.not_eq_true'] at ends
  obtain ⟨⟨⟨-, wanted⟩, -⟩, free⟩ := ends
  rcases held with steady | window
  · exact steady wanted
  · exact absurd (window.symm.trans free) (by decide)

section
variable {s : State} {l : Nat} (bound : (s.role l).v = true)
include bound

theorem State.doLeaseExpiry_held (lease : (s.role l).lse = true) (past : s.isPast (s.role l).lexp = true)
    (held : (s.role l).cstate ≠ 1 ∨ (s.role l).xwin = true) : s.doLeaseExpiry l = s.setRole l { s.role l with lse := false } := by
  have due : s.leaseDue l = true := by simp [State.leaseDue, bound, lease, past]
  refine (if_pos due).trans (State.holdEnded_nothing ?_)
  rw [State.castRole, State.role_setRole]
  exact held

theorem State.doDeadline_pending (pending : (s.role l).cstate = 2) (past : s.isPast (s.role l).ndl = true) : s.doDeadline l = s.toMoving l := by
  have due : ¬ (!s.deadlineDue l) = true := by simp [State.deadlineDue, bound, past, pending]
  exact (if_neg due).trans (if_pos pending)

end

theorem State.role_toMoving (s : State) (l k : Nat) : (s.toMoving l).role k = if k = l then { s.role l with cstate := 3 } else s.role k := by
  rw [State.role_of_census (s.census_toMoving l), State.castRole]
  split
  next here => rw [here, State.role_setRole]
  next other => exact State.role_setRole_ne other ..

/-! ## ENTER_MOVING (11 R233, R236, R237) -/

theorem State.isCleared_setCleared (s : State) (l : Nat) : (s.setCleared l).isCleared l = true := by
  unfold State.setCleared State.isCleared
  split <;> simp

theorem State.tileAt_setCleared (s : State) (l n : Nat) : (s.setCleared l).tileAt n = s.tileAt n := by
  unfold State.setCleared
  split <;> rfl

/-- The L1s of the tiles. -/
def State.l1s (s : State) (n : Nat) : List (Nat × L1Word) := (s.tileAt n).l1

theorem State.l1s_setTile {s : State} {n : Nat} {T : Tile} (same : T.l1 = (s.tileAt n).l1) : (s.setTile n T).l1s = s.l1s :=
  funext (State.setTile_keeps (·.l1) s n same)

theorem Tile.l1_deviceMail (T : Tile) (m : BitVec 128) : (T.deviceMail m).l1 = T.l1 := by
  unfold Tile.deviceMail
  split <;> rfl

theorem State.l1s_holdEnded (s : State) (l : Nat) : (s.holdEnded l).l1s = s.l1s := by
  have sent : ∀ (t : State) (as : List Addressee), (t.sendNotices l as).l1s = t.l1s := fun t as => by
    unfold State.sendNotices
    split
    · rfl
    · exact kept_foldl (f := State.l1s) (fun _ _ => l1s_setTile (Tile.l1_deviceMail ..)) as t
  unfold State.holdEnded State.censusNotice
  refine kept_ite (kept_ite rfl (kept_ite rfl ?_)) rfl
  exact (sent ..).trans rfl

theorem State.l1s_closeWindows (s : State) (n : Nat) : (s.closeWindows n).l1s = s.l1s := by
  refine kept_foldl (f := State.l1s) (fun s w => ?_) _ s
  refine (kept_foldl (f := State.l1s) (fun s r => ?_) _ _).trans (l1s_setTile (T := { s.tileAt n with xwin := _ }) rfl)
  exact kept_ite rfl (kept_ite rfl (l1s_holdEnded ..))

theorem State.l1s_sever (s : State) (f : Furrow) (n : Nat) : (s.sever f n).l1s = s.l1s :=
  funext fun k => (congrArg Tile.l1 ((EndsMarked.sever s f n).tile k) :)

theorem State.l1s_severAt (s : State) (n : Nat) : (s.severAt n).l1s = s.l1s := by
  unfold State.severAt
  refine (l1s_setTile ?_).trans (kept_foldl (f := State.l1s) (fun s f => l1s_sever s f n) _ s)
  rfl

theorem State.tiles_writeBackWord (s : State) (w : Nat) (l : L1Word) (h : Holder) : (s.writeBackWord w l h).tiles = s.tiles := by
  unfold State.writeBackWord
  exact kept_ite (f := State.tiles) (putWord_holders ..).tiles (putWord_holders ..).tiles

/-- Of a tile's L1 the words that are named go. -/
theorem State.l1_evictWords (s : State) (n : Nat) (p : Nat → Bool) : ((s.evictWords n p).tileAt n).l1 = (s.tileAt n).l1.filter fun e => !p e.1 := by
  unfold State.evictWords
  dsimp only
  rw [State.tileAt_setTile_same, State.tileAt, State.kept_foldl (f := State.tiles)]
  · rfl
  · exact fun s e => kept_ite (kept_ite (tiles_writeBackWord ..) rfl) rfl

theorem State.l1_cleanL1 (s : State) (n : Nat) : ((s.cleanL1 n).tileAt n).l1 = [] := by
  have cleaned : ∀ (ls : List Nat) (t : State), ((ls.foldl (fun s l => s.evictLine n l) t).tileAt n).l1
      = (t.tileAt n).l1.filter fun e => !ls.contains (e.1 / 16) := fun ls => by
    induction ls with
    | nil => exact fun t => by simp
    | cons l ls ih =>
      intro t
      rw [List.foldl_cons, ih, State.evictLine, State.l1_evictWords, List.filter_filter]
      simp only [List.contains_cons, Bool.not_or, Bool.and_comm]
  refine (cleaned _ s).trans (List.filter_eq_nil_iff.mpr fun e held => ?_)
  have line : e.1 / 16 ∈ (s.tileAt n).l1Lines := List.mem_dedup.mpr (List.mem_map_of_mem held)
  simp [line]

/-- A compute tile whose strands have left and whose channels are idle is emptied in one step (11 R233). -/
theorem State.leaveCompute_idle {s : State} {l n : Nat} (gone : (s.tileAt n).residents = []) (idle : ∀ c : Fin 4, (s.tileAt n).chans[c].st = .idle)
    (unstaged : ∀ d : Fin 4, ∀ p ∈ s.dies[d].heads, p.tile ≠ some n) :
    ∃ u : State, (u.tileAt n).l1 = [] ∧ s.leaveCompute l n = (u.setTile n (u.tileAt n).clear).setCleared l := by
  have restaged : s.restage n = s := foldl_of_fixed fun d inRange => by
    have noHead : (s.die d).heads.filter (fun p => p.tile == some n) = [] := by
      rw [State.die_get s ⟨d, List.mem_range.mp inRange⟩]
      exact List.filter_eq_nil_iff.mpr fun p hp => by simpa using unstaged _ p hp
    rw [noHead]
    rfl
  have stopped : (s.tileAt n).chans.map Chan.recastCancel = (s.tileAt n).chans := Vector.ext fun c inRange => by
    have st := idle ⟨c, inRange⟩
    simp only [Fin.getElem_fin] at st
    rw [Vector.getElem_map, Chan.recastCancel, st]
    rfl
  have inactive : (s.tileAt n).chans.any Chan.active = false := by
    rw [Vector.any_eq_false]
    intro c inRange
    have st := idle ⟨c, inRange⟩
    simp only [Fin.getElem_fin] at st
    simp [Chan.active, st]
  unfold State.leaveCompute
  rw [restaged, gone]
  dsimp only [List.foldl_nil]
  rw [gone, if_neg (by decide), State.tileAt_setTile_same, if_neg, stopped]
  · refine ⟨State.closeWindows (State.severAt (State.cleanL1 _ n) n) n, ?_, rfl⟩
    exact (congrFun ((State.l1s_closeWindows ..).trans (State.l1s_severAt ..)) n).trans (State.l1_cleanL1 ..)
  · have left : ({ s.tileAt n with
        ldr := (s.tileAt n).ldr.retire, str := (s.tileAt n).str.retire, chans := (s.tileAt n).chans.map Chan.recastCancel } : Tile).residents = [] := gone
    rw [Tile.idle, left, stopped, inactive]
    decide

section
variable {s : State} {l : Nat} (bound : (s.role l).v = true) (moving : (s.role l).cstate = 3) (busy : ¬ s.isCleared l = true)
include bound moving busy

theorem State.doEnterMoving_eq : s.doEnterMoving l =
    if (s.role l).role = 0 then s.leaveCompute l (s.role l).ptile.toNat
    else if (s.role l).role = 1 then s.leaveStore l (s.role l).ptile.toNat
    else if (s.furrowsThrough (s.role l).ptile.toNat).isEmpty && !s.draining (s.role l).ptile.toNat then s.setCleared l else s :=
  if_neg (by simp [bound, moving, busy])

theorem State.doEnterMoving_routing (role : (s.role l).role = 2) (noFurrow : s.furrowsThrough (s.role l).ptile.toNat = [])
    (drained : s.draining (s.role l).ptile.toNat = false) : s.doEnterMoving l = s.setCleared l := by
  rw [State.doEnterMoving_eq bound moving busy, role, noFurrow, drained]
  rfl

theorem State.doEnterMoving_store (role : (s.role l).role = 1) (still : s.pageMoving l = false) (empty : (s.tileAt (s.role l).ptile.toNat).slots = []) :
    s.doEnterMoving l = s.setCleared l := by
  rw [State.doEnterMoving_eq bound moving busy, role, State.leaveStore, still, empty]
  rfl

theorem State.doEnterMoving_compute (role : (s.role l).role = 0) : s.doEnterMoving l = s.leaveCompute l (s.role l).ptile.toNat := by
  rw [State.doEnterMoving_eq bound moving busy, if_pos role]

end

/-! ## MOVE_COMPLETE (11 R229, R250) -/

theorem sget_map_at {α : Type} (f : α → α) (k : Nat) (l : List (Nat × α)) :
    sget k (l.map fun e => if e.1 == k then (e.1, f e.2) else e) = (sget k l).map f := by
  have keyed : (fun e : Nat × α => if e.1 == k then (e.1, f e.2) else e) = fun e => (e.1, (fun j v => if j == k then f v else v) e.1 e.2) := by
    funext e
    dsimp only
    split <;> rfl
  rw [keyed]
  exact (sget_map_keyed (fun j v => if j == k then f v else v) k l).trans (by simp)

/-- A store or routing tile that takes another role than compute keeps its LTID (11 R250). -/
theorem State.doMoveComplete_keepsLtid {s : State} {l : Nat} (bound : (s.role l).v = true) (moving : (s.role l).cstate = 3) (done : s.isCleared l = true)
    (was : (s.role l).role ≠ 0) (becomes : (s.role l).trole ≠ 0) :
    let t := s.doMoveComplete l
    t.role l = { s.role l with role := (s.role l).trole, gen := (s.role l).gen + 1, cstate := 0 } ∧ (t.tileAt (s.role l).ptile.toNat).store = []
    ∧ ∀ x, sget l s.notices = some x → sget l t.notices = some { x with cleared := false } := by
  let s1 : State := { s with notices := s.notices.map fun p => if p.1 == l then (p.1, { p.2 with cleared := false }) else p }
  have completed : s.doMoveComplete l = (s1.setTile (s.role l).ptile.toNat (s.tileAt (s.role l).ptile.toNat).clearParts).castRole l
      { s.role l with role := (s.role l).trole, gen := (s.role l).gen + 1, cstate := 0 } := by
    have goes : ¬ (!(s.role l).v || (s.role l).cstate != 3 || !s.isCleared l) = true := by simp [bound, moving, done]
    exact (if_neg goes).trans ((if_neg was).trans (if_neg becomes))
  dsimp only
  rw [completed]
  refine ⟨State.role_setRole .., ?_, fun x held => ?_⟩
  · exact (congrArg Tile.store (State.tileAt_setTile_same s1 ..)).trans rfl
  · exact (sget_map_at (fun x : Notice => { x with cleared := false }) l s.notices).trans (congrArg _ held)

/-! ## PAGE_FLIP (11 R236, R241) -/

theorem State.census_leaveSlot (s : State) (e : PageEnt) : (s.leaveSlot e).census = s.census := by
  unfold State.leaveSlot
  exact kept_ite rfl rfl

theorem State.census_setPoison (s : State) (w : Nat) (b : Bool) : (s.setPoison w b).census = s.census := rfl

theorem State.census_putPage (s : State) (r : Rgn) (page : Nat) (dst : Option (Nat × Nat)) (bytes : List Byte) (bad : List Nat) :
    (s.putPage r page dst bytes bad).census = s.census := by
  unfold State.putPage
  split
  · rfl
  · exact (kept_foldl (f := State.census) (fun _ _ => census_setPoison ..) bad _).trans (census_writeAt ..)

/-- Of the census a page's flip changes the moves alone. -/
theorem State.census_doPageFlip (s : State) (i : Nat) : (s.doPageFlip i).census = ({ s with moves := s.moves.eraseIdx i } : State).census := by
  unfold State.doPageFlip
  split
  next none' => rw [List.eraseIdx_of_length_le (List.getElem?_eq_none_iff.mp none')]
  next m found =>
    dsimp only
    split
    · rfl
    next r region =>
      refine (census_setPageEnt ..).trans ((census_putPage ..).trans ((census_leaveSlot ..).trans ?_))
      exact kept_ite rfl (census_seeRuns ..)

theorem State.census_freeRegion (s : State) (ws rid : Nat) : (s.freeRegion ws rid).census = s.census := by
  unfold State.freeRegion
  split
  · rfl
  · exact census_putNat ..

theorem State.moves_finishFree (s : State) : s.finishFree.moves = s.moves := by
  have freed := moves_of_census (census_freeRegion s (s.mgmt.sarg[0]).toNat (s.mgmt.sarg[1]).toNat)
  unfold State.finishFree
  exact kept_ite (f := State.moves) freed rfl

/-- A page that goes to a slot stands there. -/
theorem State.slots_doPageFlip {s : State} {i : Nat} {m : PageMove} {r : Rgn} {k slot : Nat} (found : s.moves[i]? = some m)
    (region : s.rgnOf m.ows m.rid = some r) (to' : m.dst = some (k, slot)) :
    sget slot ((s.doPageFlip i).tileAt (s.role k).ptile.toNat).slots = some { ws := BitVec.ofNat 12 r.ows, region := r.rid, page := m.page } := by
  have placed : ∀ (t : State) (bytes : List Byte) (bad : List Nat), t.role k = s.role k →
      sget slot ((t.putPage r m.page (some (k, slot)) bytes bad).tileAt (s.role k).ptile.toNat).slots
        = some { ws := BitVec.ofNat 12 r.ows, region := r.rid, page := m.page } := fun t bytes bad role => by
    unfold State.putPage
    dsimp only
    rw [role, State.tileAt_setTile_same, sget_sset_same]
  unfold State.doPageFlip
  rw [found]
  dsimp only
  rw [region, to']
  dsimp only
  rw [State.setPageEnt, State.putNat, (writeAt_outside ..).slots]
  refine placed _ _ _ ((State.role_of_census (s := { s with moves := s.moves.eraseIdx i }) ((census_leaveSlot ..).trans ?_) k).trans rfl)
  exact State.kept_ite rfl (census_seeRuns ..)

theorem State.finishFree_other {s : State} (other : s.mgmt.scmd ≠ 6) : s.finishFree = s :=
  if_neg fun both => other (of_decide_eq_true (Bool.and_eq_true_iff.mp both).1)

/-! ## ROLE_CACHE_INVALIDATION (11 R225) -/

theorem sget_filter_ne {k l : Nat} (other : k ≠ l) (c : List (Nat × Word)) : sget k (c.filter fun e => e.1 != l) = sget k c := by
  induction c with
  | nil => rfl
  | cons e r ih =>
    obtain ⟨j, w⟩ := e
    rw [List.filter_cons, sget]
    by_cases gone : j = l
    · have ne : k ≠ j := gone ▸ other
      simpa [gone, ne, other] using ih
    · simp [gone, sget, ih]

/-- Settles O51, clause by clause from what each step does. -/
theorem censusEvents : Obligations.CensusEvents := by
  unfold Obligations.CensusEvents
  intro s l d i
  have passed : ∀ x : BitVec 32, (x - BitVec.ofNat 32 s.tick).toInt ≤ 0 → s.isPast x = true := fun x past => decide_eq_true past
  refine ⟨?tick, ?epoch, ?lease, ?deadline, ?routing, ?store, ?compute, ?complete, ?moves, ?flip, ?cache⟩
  case tick =>
    obtain ⟨t, ends, clock, quiet, off⟩ := completes_tick s
    have ticks : t.tick = s.tick + 1 := congrArg Prod.fst clock
    exact completes_next ends ⟨ticks, congrArg (fun c => c.2.clock) clock, quiet, fun none' unpowered gone => ⟨off none' unpowered gone, ticks⟩⟩
  case epoch => exact fun pc ps pl rows due done => completes_next rfl (State.doEpochEnd_due due done ..)
  case lease => exact fun bound lease past held => completes_next rfl (State.doLeaseExpiry_held bound lease (passed _ past) held)
  case deadline =>
    intro bound pending past
    have goes : exec (.noticeDeadline l (s.role l.toNat).nid) s = .next (s.toMoving l.toNat) :=
      (congrArg Host.Outcome.next ((if_pos (beq_self_eq_true (s.role l.toNat).nid)).trans (State.doDeadline_pending bound pending (passed _ past))) :)
    refine completes_next goes ⟨?_, fun k other => ?_⟩
    · rw [State.role_toMoving, if_pos rfl]
    · rw [State.role_toMoving, if_neg other]
  case routing =>
    exact fun bound moving busy role noFurrow drained =>
      completes_next (congrArg Host.Outcome.next (State.doEnterMoving_routing bound moving busy role noFurrow drained) :) (s.isCleared_setCleared l.toNat)
  case store =>
    exact fun bound moving busy role still empty =>
      completes_next (congrArg Host.Outcome.next (State.doEnterMoving_store bound moving busy role still empty) :) (s.isCleared_setCleared l.toNat)
  case compute =>
    intro bound moving busy role gone idle unstaged
    obtain ⟨u, cleaned, left⟩ := State.leaveCompute_idle (l := l.toNat) gone idle unstaged
    refine completes_next (congrArg Host.Outcome.next ((State.doEnterMoving_compute bound moving busy role).trans left) :) ⟨State.isCleared_setCleared .., ?_⟩
    rw [State.tileAt_setCleared, State.tileAt_setTile_same]
    exact ⟨rfl, rfl, cleaned, rfl⟩
  case complete =>
    exact fun bound moving done was becomes => completes_next rfl (State.doMoveComplete_keepsLtid bound moving done was becomes)
  case moves =>
    refine completes_next rfl ((s.doPageFlip i).moves_finishFree.trans ?_)
    exact State.moves_of_census (s := { s with moves := s.moves.eraseIdx i }) (s.census_doPageFlip i)
  case flip =>
    intro m r k slot found region to' other
    have command : (s.doPageFlip i).mgmt = s.mgmt := State.mgmt_of_census (s := { s with moves := s.moves.eraseIdx i }) (s.census_doPageFlip i)
    refine completes_next rfl ?_
    rw [State.finishFree_other (command ▸ other)]
    exact State.slots_doPageFlip found region to'
  case cache =>
    refine fun j => completes_next rfl ⟨?_, fun k other => ?_⟩
    · rw [State.tileAt_setTile_same]
      exact sget_filter_self ..
    · rw [State.tileAt_setTile_same]
      exact sget_filter_ne other ..

end Sys2Proof.Machine
end

section
/-! SUPPORT. THERMAL_SHUTDOWN where the pre-emption of one strand brings a trap on another (O54). -/

namespace Sys2Proof.Machine

open Sys2Proof.Safety

namespace PoisonedShutdown

/-- A ready strand of residency 0, pre-empted before or not. -/
def strand (evict : Option Byte) : Context := { Context.reset with st := .ready, evict := evict }

/-- The strand of context `c` as it names itself. -/
def source (c : Fin 8) : Src := { tile := 0, agent := .ctx c, inc := 0, ws := 0 }

/-- VMOVZ of row 0 of panel `z` into v1, queued by the strand of context `c`. -/
def move (c : Fin 8) (z : ZReg) : TensorOp :=
  { src := source c, instr := .vmovz false 1 z 0, pc := 0, a := 0, b := 0, nanov := false, cfg := [], entry := [], fenceE := 0 }

/-- A tile whose tensor engine holds an operation of context 1, which meets an uncorrectable word of panel 1 (08 R161), and behind it one of context 0.
The pre-emption of context 0 is under way already and waits for its operation. -/
def tile : Tile :=
  { Tile.reset with
    ctx := (Tile.reset.ctx.set 0 (strand (some 1))).set 1 (strand none)
    panels := Tile.reset.panels.set 1 { Panel.reset with poison := [0] }
    tq := [move 1 1, move 0 0] }

/-- The package in full power, each of the two strands with a store that is not acknowledged. -/
def state : State :=
  { State.reset with powered := true, tiles := [(0, tile)], flights := [.ack (source 0) none, .ack (source 1) none] }

/-- Why issue of context 1 has stopped, and whether it is free, after an operation. -/
def endsAs (i : Instr) (s : State) : Option (Option Byte × Bool) :=
  match exec i s with
  | .next t => some ((t.tileAt 0).ctx[1].evict, (t.tileAt 0).ctx[1].st == .free)
  | _ => none

/-- The trap that the operation of context 1 brings on its way takes the place of its pre-emption (05 R105). -/
theorem evict_shutdown : endsAs (.thermalShutdown 120) state = some (some 0, false) := by decide +kernel

end PoisonedShutdown

/-- Refutes O54: the clause of the thermal shutdown leaves a strand without a trap and without a pre-emption either free or stopped by a pre-emption.
Pre-empting an earlier context of its tile performs its operation in the tensor engine, which meets an uncorrectable panel word (08 R161): the trap is then
on its way when the strand's own turn comes, and goes first (05 R105), so the strand waits for its delivery, here until its store is acknowledged. -/
theorem not_reliabilityEvents : ¬ Obligations.ReliabilityEvents := by
  unfold Obligations.ReliabilityEvents
  intro holds
  obtain ⟨-, -, -, -, -, -, -, -, -, -, -, -, -, -, -, -, shutdown⟩ := holds PoisonedShutdown.state
  obtain ⟨t, runs, -, strands⟩ := shutdown 120 rfl (by decide)
  have stopped := strands 0 1 (by decide) (by decide) rfl rfl
  have ends := PoisonedShutdown.evict_shutdown
  rw [PoisonedShutdown.endsAs, runs, Option.some.injEq, Prod.mk.injEq, beq_eq_false_iff_ne] at ends
  obtain ⟨evicted, resident⟩ := ends
  rcases stopped with preempted | free
  · exact absurd (evicted.symm.trans preempted) (by decide)
  · exact resident free

end Sys2Proof.Machine
end

section
/-! SUPPORT. SSEND (O35): a span of the tile window read at issue (15 R295). -/

namespace Sys2Proof.Machine

open Sys2Proof.Safety

/-! ## A span of the tile window read at issue (04 R93) -/

section
variable {u : State} {a n : Nat} (tile : tileBase ≤ a) (unlocked : u.tile.lockHit [(a, n)] = none)
include tile unlocked

/-- An engine of the acting agent reads a span of the tile window that no range lock meets and that is not poisoned. -/
theorem State.engRun_agentTile (clean : u.tile.poisoned (a - tileBase) n = false) :
    u.engRun u.agentEng needLoad a n = .ok [(.store (a - tileBase), n)] := by
  have place : u.engPlace u.agentEng needLoad a n = .ok (.store (a - tileBase)) := by
    rw [State.engPlace, regionOfVa_tile tile]
    rfl
  have free : ((u.tileAt u.agentEng.tile).lockHit [(a, n)]).isSome = false := by
    rw [show u.tileAt u.agentEng.tile = u.tile from rfl, unlocked]
    rfl
  have read : (u.engRead u.agentEng (.store (a - tileBase)) n).2 = false := clean
  rw [State.engRun, accessRegion_tile tile, if_neg nofun, if_pos rfl]
  simp only [State.engLines, place, free, read, Bool.and_false, List.any_cons, List.any_nil, Bool.or_false, Bool.false_eq_true, if_false]

/-- It is read at issue with its bytes, and what lies out of range is noted (01 R25). -/
theorem State.readNow_tile (clean : u.tile.poisoned (a - tileBase) n = false) (k : State → List Byte → Done) :
    u.readNow a n k = k (u.setTh (rangeNoted u.th (a - tileBase) n)) (u.tile.bytes (a - tileBase) n) := by
  have bytes : u.engBytes u.agentEng [(.store (a - tileBase), n)] = u.tile.bytes (a - tileBase) n := List.append_nil _
  rw [State.readNow, u.engRun_agentTile tile unlocked clean, State.engFail, bytes, accessRegion_tile tile, ← noteOut_run]
  rfl

end

/-! ## What an agent's thread and its tile's interface leave of each other -/

theorem State.src_setTh (u : State) (h : Thread) : (u.setTh h).src = u.src := by
  unfold State.setTh State.src State.ws
  cases acts : u.curAgent <;> simp [Tile.setThread, acts]

theorem State.x_putTile {u : State} {T : Tile} (same : T.thread u.curAgent = u.th) (r : Reg) : (u.putTile T).x r = u.x r := by
  rw [State.x, State.th_putTile, same, State.x]

theorem x_committedTo (u : State) (pc : Word) (r : Reg) : (committedTo pc u).x r = u.x r := by
  rw [committedTo_eq, State.x, th_agentTile]
  rfl

/-! ## SSEND (15 R295) -/

section
variable {u : State} {slot : BitVec 6} {a : Word}

/-- The entry of a slot in the tile's exchange schedule. -/
def Tile.slotEntry (t : Tile) (slot : BitVec 6) : Word := (sget slot.toNat t.xsched).getD 0

/-- A tile whose strand has committed a slot of an open window (15 R295). -/
def Tile.commitSlot (t : Tile) (x : ExSend) : Tile :=
  { t.markSent (xsCh x.entry) x.slot.toNat with xsend := t.xsend ++ [x] }

theorem Tile.thread_commitSlot (t : Tile) (x : ExSend) (ag : Agent) : (t.commitSlot x).thread ag = t.thread ag := by cases ag <;> rfl

/-- SSEND names a whole source in the tile window (15 R295). -/
def ssendGood (a : Word) : Prop := nbit a.toNat 21 3 = 0 ∧ nbit a.toNat 32 32 = 0 ∧ nbit a.toNat 0 21 % 32 = 0

theorem ssendGood_iff : ssendGood a ↔ a.toNat / 2 ^ 21 % 2 ^ 3 = 0 ∧ a.toNat / 2 ^ 32 = 0 ∧ a.toNat % 2 ^ 21 % 32 = 0 := by
  rw [ssendGood, nbit_low, nbit_high a.isLt, nbit]

theorem ssend_bad (bad : ¬ ssendGood a) : u.ssend slot a = Done.slotViolation u 4 := by
  have odd : (nbit a.toNat 21 3 != 0 || nbit a.toNat 32 32 != 0 || nbit a.toNat 0 21 % 32 != 0) = true := by
    rw [ssendGood, ← Nat.beq_eq_true_eq] at bad
    simpa [bne, or_iff_not_imp_left] using bad
  rw [State.ssend]
  exact if_pos odd

variable (good : ssendGood a)
include good

theorem ssend_good : u.ssend slot a =
    if !(u.tile.slotEntry slot).getLsbD 63 then Done.slotViolation u 0
    else match u.tile.windowOf (xsCh (u.tile.slotEntry slot)) with
      | none => Done.slotViolation u 2
      | some w =>
        if nsMem slot.toNat w.sent then Done.slotViolation u 3
        else if nbit a.toNat 24 8 != xsLen (u.tile.slotEntry slot) then Done.slotViolation u 1
        else if u.acquiring then .wait .acquire u
        else u.readNow (tileBase + nbit a.toNat 0 21) (32 * nbit a.toNat 24 8) fun s bytes =>
          .commit (s.putTile (s.tile.commitSlot { src := s.src, pc := s.pc, slot := slot, entry := u.tile.slotEntry slot, bytes := bytes })) := by
  obtain ⟨tile, wide, whole⟩ := good
  have even : ¬ (nbit a.toNat 21 3 != 0 || nbit a.toNat 32 32 != 0 || nbit a.toNat 0 21 % 32 != 0) = true := by simp [tile, wide, whole]
  rw [State.ssend]
  exact (if_neg even).trans rfl

theorem ssend_invalid (invalid : (u.tile.slotEntry slot).getLsbD 63 = false) : u.ssend slot a = Done.slotViolation u 0 := by
  rw [ssend_good good, invalid]
  rfl

variable (valid : (u.tile.slotEntry slot).getLsbD 63 = true)
include valid

theorem ssend_closed (closed : u.tile.windowOf (xsCh (u.tile.slotEntry slot)) = none) : u.ssend slot a = Done.slotViolation u 2 := by
  rw [ssend_good good, valid, closed]
  rfl

variable {w : ExWindow} (opened : u.tile.windowOf (xsCh (u.tile.slotEntry slot)) = some w)
include opened

theorem ssend_sent (sent : nsMem slot.toNat w.sent = true) : u.ssend slot a = Done.slotViolation u 3 := by
  rw [ssend_good good, valid, opened]
  exact if_pos sent

variable (unsent : nsMem slot.toNat w.sent = false)
include unsent

theorem ssend_length (other : nbit a.toNat 24 8 ≠ xsLen (u.tile.slotEntry slot)) : u.ssend slot a = Done.slotViolation u 1 := by
  rw [ssend_good good, valid, opened]
  exact (if_neg (Bool.eq_false_iff.mp unsent)).trans (if_pos (bne_iff_ne.mpr other))

variable (length : nbit a.toNat 24 8 = xsLen (u.tile.slotEntry slot))
include length

/-- The send committed: the slot counts as sent, and waits with its bytes for its injection. -/
theorem ssend_commits {off n : Nat} (off_eq : nbit a.toNat 0 21 = off) (n_eq : nbit a.toNat 24 8 = n) (free : accessFree u)
    (unlocked : u.tile.lockHit [(tileBase + off, 32 * n)] = none) (clean : u.tile.poisoned off (32 * n) = false) :
    let v := u.setTh (rangeNoted u.th off (32 * n))
    u.ssend slot a = .commit (v.putTile (v.tile.commitSlot
      { src := u.src, pc := u.pc, slot := slot, entry := u.tile.slotEntry slot, bytes := u.tile.bytes off (32 * n) })) := by
  intro v
  obtain ⟨acquired, -, -⟩ := free
  have unequal : ¬ (n != xsLen (u.tile.slotEntry slot)) = true := by rw [← n_eq, length]; simp
  have inside : tileBase + off - tileBase = off := Nat.add_sub_cancel_left ..
  have pc : v.pc = u.pc := (State.pc_setTh ..).trans (pc_rangeNoted ..)
  rw [ssend_good good, valid, opened, off_eq, n_eq, acquired]
  refine (if_neg (Bool.eq_false_iff.mp unsent)).trans ((if_neg unequal).trans ((if_neg Bool.false_ne_true).trans ?_))
  rw [State.readNow_tile (Nat.le_add_right ..) unlocked (inside.symm ▸ clean), inside, State.src_setTh]
  change Done.commit (v.putTile (v.tile.commitSlot ⟨u.src, v.pc, _, _, _⟩)) = _
  rw [pc]

end

/-- Settles O35, by the checks of SSEND in their order; what a sent slot holds is read off the commit. -/
theorem scheduledSends : Obligations.ScheduledSends := by
  unfold Obligations.ScheduledSends
  intro s u m c issued acts free slot rs1 a off e n ch good bad
  have runs := exec_strand (i := .ssend m slot rs1) issued acts rfl
  have good_eq : good ↔ ssendGood (u.x rs1) := ssendGood_iff.symm
  rw [good_eq]
  refine ⟨fun odd => exec_of_trap runs (ssend_bad odd), fun whole invalid => exec_of_trap runs (ssend_invalid whole invalid), fun whole valid none => ?_,
    fun w whole valid opened sent => exec_of_trap runs (ssend_sent whole valid opened sent),
    fun w whole valid opened unsent other => exec_of_trap runs (ssend_length whole valid opened unsent other),
    fun w whole valid opened unsent same unlocked clean => ?_⟩
  case refine_1 =>
    have closed : u.tile.windowOf ch = Option.none := List.find?_eq_none.mpr fun w mem => by simpa [bne] using List.all_eq_true.mp none w mem
    exact exec_of_trap runs (ssend_closed whole valid closed)
  case refine_2 =>
    let v := u.setTh (rangeNoted u.th off (32 * n))
    let W := v.tile.commitSlot { src := u.src, pc := u.pc, slot := slot, entry := e, bytes := u.tile.bytes off (32 * n) }
    have ends : u.ssend slot (u.x rs1) = .commit (v.putTile W) :=
      ssend_commits whole valid opened unsent same (nbit_low ..) same free unlocked clean
    have th : W.thread v.curAgent = v.th := Tile.thread_commitSlot ..
    have pc : (v.putTile W).pc = u.pc :=
      (congrArg Thread.pc ((State.th_putTile v W).trans th)).trans ((State.pc_setTh ..).trans (pc_rangeNoted ..))
    obtain ⟨t, next, rfl⟩ := completes_committedTo runs pc (free.2.1 true true) ends
    have core := sameCore_committedTo (v.putTile W) (u.pc + 4)
    have sent : v.tile.xsend = u.tile.xsend := by
      rw [State.tile_setTh]
      exact Tile.setThread_keeps (·.xsend) _ _ _ fun _ _ _ => rfl
    have windows : v.tile.xwin = u.tile.xwin := by
      rw [State.tile_setTh]
      exact Tile.setThread_keeps (·.xwin) _ _ _ fun _ _ _ => rfl
    refine completes_next next ⟨pc_committedTo .., fun r => ?_, ?_, ?_⟩
    · rw [x_committedTo, State.x_putTile th, State.x, State.th_setTh, Thread.readX_rangeNoted]
      rfl
    · rw [← sent]
      exact (congrArg Tile.xsend core :).trans (congrArg Tile.xsend (State.tile_putTile v W))
    · rw [← windows]
      exact (congrArg Tile.xwin core :).trans (congrArg Tile.xwin (State.tile_putTile v W))

end Sys2Proof.Machine
end

section
/-! SUPPORT. Grid barriers (O34, O52): what the end of a hold on a routing tile leaves (11 R229, R232), and the arrival of a member tile (15 R292). -/

namespace Sys2Proof.Machine

open Sys2Proof.Safety

/-! ## A die's entry replaced -/

theorem State.die_setDie (s : State) (n m : Nat) (D : Die) : (s.setDie n D).die m = if m = n ∧ n < 4 then D else s.die m := by
  unfold State.die State.setDie
  by_cases bound : m < 4
  · by_cases same : n = m
    · simp [Vector.getD, same, bound]
    · simp [Vector.getD, bound, same, Ne.symm same]
  · have other : ¬ (m = n ∧ n < 4) := fun ⟨same, small⟩ => bound (same ▸ small)
    simp [Vector.getD, bound, other]

theorem State.die_setDie_keeps {α : Type} (f : Die → α) (s : State) (n : Nat) {D : Die} (same : f D = f (s.die n)) (m : Nat) :
    f ((s.setDie n D).die m) = f (s.die m) := by
  rw [State.die_setDie]
  split
  next at' => rw [same, at'.1]
  next => rfl

/-! ## What the end of a hold leaves (11 R229, R232) -/

/-- Who acts, the channels of the dies, and of each tile its arrivals, its agents' threads, what its strands are members of and its releases. -/
structure Barriers where
  curTile : Nat
  curAgent : Agent
  chans : Nat → Vector Channel 8
  arrived : Nat → BitVec 8
  thread : Nat → Agent → Thread

def State.barriers (s : State) : Barriers :=
  { curTile := s.curTile, curAgent := s.curAgent, chans := fun d => (s.die d).chans, arrived := fun n => (s.tileAt n).arrived,
    thread := fun n => (s.tileAt n).thread }

section
variable {s t : State} (h : t.barriers = s.barriers)
include h

theorem State.curTile_of_barriers : t.curTile = s.curTile := congrArg Barriers.curTile h
theorem State.curAgent_of_barriers : t.curAgent = s.curAgent := congrArg Barriers.curAgent h
theorem State.arrived_of_barriers (n : Nat) : (t.tileAt n).arrived = (s.tileAt n).arrived := congrFun (congrArg Barriers.arrived h) n
theorem State.thread_of_barriers (n : Nat) : (t.tileAt n).thread = (s.tileAt n).thread := congrFun (congrArg Barriers.thread h) n

theorem State.chan_of_barriers (d : Nat) (ch : BitVec 3) : t.chan d ch = s.chan d ch := by
  have chans : (t.die d).chans = (s.die d).chans := congrFun (congrArg Barriers.chans h) d
  rw [State.chan, State.chan]
  simp only [chans]

theorem State.th_of_barriers : t.th = s.th := by
  rw [State.th, State.th, State.curAgent_of_barriers h]
  exact (congrArg (fun n => (t.tileAt n).thread s.curAgent) (State.curTile_of_barriers h)).trans (congrFun (State.thread_of_barriers h _) _)

end

theorem State.barriers_setTile {s : State} {n : Nat} {T : Tile} (arrived : T.arrived = (s.tileAt n).arrived) (thread : T.thread = (s.tileAt n).thread) :
    (s.setTile n T).barriers = s.barriers := by
  have arrivals := funext (State.setTile_keeps (·.arrived) s n arrived)
  have threads := funext (State.setTile_keeps (·.thread) s n thread)
  unfold State.barriers
  rw [arrivals, threads]
  rfl

theorem State.barriers_setDie {s : State} {n : Nat} {D : Die} (chans : D.chans = (s.die n).chans) : (s.setDie n D).barriers = s.barriers := by
  have same := funext (State.die_setDie_keeps (·.chans) s n chans)
  unfold State.barriers
  rw [same]
  rfl

theorem State.barriers_deviceMail (s : State) (n : Nat) (m : BitVec 128) : (s.setTile n ((s.tileAt n).deviceMail m)).barriers = s.barriers := by
  refine State.barriers_setTile ?_ (funext fun ag => ?_)
  · unfold Tile.deviceMail
    split <;> rfl
  · unfold Tile.deviceMail
    split
    · exact Eq.trans (by cases ag <;> rfl) (Tile.thread_wakeWfi ..)
    · cases ag <;> rfl

theorem State.barriers_sendNotices (s : State) (l : Nat) (as : List Addressee) : (s.sendNotices l as).barriers = s.barriers := by
  unfold State.sendNotices
  split
  · rfl
  · exact kept_foldl (f := State.barriers) (fun s a => s.barriers_deviceMail a.tile _) as s

theorem State.barriers_postNotice (s : State) (l why : Nat) : (s.postNotice l why).barriers = s.barriers := by
  have cast : ∀ (t : State) (e : RoleEntry) (x : List (Nat × Notice)), ({ t.castRole l e with notices := x } : State).barriers = t.barriers :=
    fun _ _ _ => rfl
  unfold State.postNotice
  dsimp only
  refine (barriers_sendNotices ..).trans ?_
  exact (cast ..).trans (barriers_setDie rfl)

theorem State.barriers_censusNotice (s : State) (l why : Nat) : (s.censusNotice l why).barriers = s.barriers := by
  have posted := s.barriers_postNotice l why
  unfold State.censusNotice
  generalize s.postNotice l why = t at posted ⊢
  refine kept_ite rfl (kept_ite (barriers_setDie rfl) (Eq.trans ?_ posted))
  exact barriers_setDie (D := { t.die _ with posted := _ }) rfl

theorem State.barriers_setXwin (s : State) (router : Nat) : (s.setXwin router).barriers = s.barriers := by
  have ended : ∀ t : State, ∀ l, (t.holdEnded l).barriers = t.barriers := fun t l => kept_ite (barriers_censusNotice ..) rfl
  unfold State.setXwin
  exact kept_ite rfl (kept_ite rfl (ended ..))

theorem State.barriers_closeWindow (s : State) (n : Nat) (ch : BitVec 3) : (s.closeWindow n ch).barriers = s.barriers := by
  unfold State.closeWindow
  refine (kept_foldl (f := State.barriers) (fun s r => s.barriers_setXwin r) _ _).trans ?_
  exact State.barriers_setTile (s := s) (n := n) (T := { s.tileAt n with xwin := _ }) rfl (funext fun ag => by cases ag <;> rfl)

/-! ## A member tile arrives (15 R292) -/

theorem chanDie_lt {n : Nat} (small : n < 1024) (ch : BitVec 3) : chanDie n ch < 4 := by
  unfold chanDie
  split <;> omega

theorem State.chan_setBarrier {d : Nat} (small : d < 4) (s : State) (ch : BitVec 3) (c : Channel) : (s.setBarrier d ch c).chan d ch = c := by
  unfold State.chan State.setBarrier
  simp [State.die_setDie, small]

/-- A channel with the arrival and the vote of tile `n`. -/
def Channel.arrival (c : Channel) (n : Nat) (vote : Option (VoteOp × Nat)) : Channel :=
  { c with arrived := nsAdd n c.arrived, votes := c.votes ++ vote.toList }

section
variable (u : State) (ch : BitVec 3) (vote : Option (VoteOp × Nat))

/-- The arrival of the acting agent's tile but for its channel: the window closed and ARRIVED set. -/
def State.arrivedTile (u : State) (ch : BitVec 3) : State :=
  let s := u.closeWindow u.curTile ch
  s.setTile u.curTile { s.tileAt u.curTile with arrived := (s.tileAt u.curTile).arrived ||| (1#8 <<< ch.toNat) }

theorem State.arriveAt_eq : u.arriveAt u.curTile ch vote =
    (u.arrivedTile ch).setBarrier (chanDie u.curTile ch) ch ((u.chan (chanDie u.curTile ch) ch).arrival u.curTile vote) := by
  have chan : (u.arrivedTile ch).chan (chanDie u.curTile ch) ch = u.chan (chanDie u.curTile ch) ch :=
    (State.chan_of_barriers (u.barriers_closeWindow u.curTile ch) .. :)
  exact congrArg (fun c : Channel => (u.arrivedTile ch).setBarrier (chanDie u.curTile ch) ch (c.arrival u.curTile vote)) chan

theorem State.curTile_arriveAt : (u.arriveAt u.curTile ch vote).curTile = u.curTile :=
  (State.curTile_of_barriers (u.barriers_closeWindow u.curTile ch) :)

theorem State.curAgent_arriveAt : (u.arriveAt u.curTile ch vote).curAgent = u.curAgent :=
  (State.curAgent_of_barriers (u.barriers_closeWindow u.curTile ch) :)

theorem State.tile_arriveAt : let T := (u.closeWindow u.curTile ch).tileAt u.curTile
    (u.arriveAt u.curTile ch vote).tile = { T with arrived := u.tile.arrived ||| (1#8 <<< ch.toNat) } := by
  have arrived := State.arrived_of_barriers (u.barriers_closeWindow u.curTile ch) u.curTile
  have at' : (u.arriveAt u.curTile ch vote).tile = (u.arriveAt u.curTile ch vote).tileAt u.curTile := congrArg _ (u.curTile_arriveAt ch vote)
  refine (at'.trans (State.tileAt_setTile_same ..)).trans ?_
  rw [arrived]
  rfl

theorem State.th_arriveAt : (u.arriveAt u.curTile ch vote).th = u.th := by
  have thread := congrFun (State.thread_of_barriers (u.barriers_closeWindow u.curTile ch) u.curTile) u.curAgent
  rw [State.th, u.curAgent_arriveAt, u.tile_arriveAt]
  refine Eq.trans ?_ thread
  cases u.curAgent <;> rfl

end

/-! ## GBAR, VOTE and GBWAIT (15 R292, R293) -/

section
variable {u : State} {ch : BitVec 3}

theorem State.isMember_iff : u.isMember ch = true ↔ u.tile.dommem.getLsbD ch.toNat = true ∧ u.ctx.gang = true := Bool.and_eq_true_iff

theorem arrive_outside (other : ¬ u.isMember ch = true) (vote : Option (VoteOp × Nat)) : u.arrive ch vote = .ok u := by
  rw [State.arrive, Bool.eq_false_iff.mpr other]
  rfl

section
variable (member : u.isMember ch = true) (vote : Option (VoteOp × Nat))
include member

theorem arrive_again (arrived : u.tile.arrived.getLsbD ch.toNat = true) : u.arrive ch vote = .wait (.arrive ch vote) u := by
  rw [State.arrive, member, arrived]
  rfl

theorem arrive_early (absent : u.tile.arrived.getLsbD ch.toNat = false) (out : u.gathered u.src ch = false) :
    u.arrive ch vote = .wait (.gather ch vote) u := by
  rw [State.arrive, member, absent, out]
  rfl

theorem arrive_now (absent : u.tile.arrived.getLsbD ch.toNat = false) (performed : u.gathered u.src ch = true) :
    u.arrive ch vote = .ok (u.arriveAt u.curTile ch vote) := by
  rw [State.arrive, member, absent, performed]
  rfl

end

/-- What an arrival leaves: the agent at the next instruction, its tile arrived, its vote on the channel. -/
theorem completes_arrival {s : State} {i : Instr} {d : Done} {vote : Option (VoteOp × Nat)} (runs : exec i s = .next (State.finish (d.afterStreams u)))
    (ends : d = .ok (u.arriveAt u.curTile ch vote)) (small : u.curTile < 1024) :
    completes i s (fun t => t.pc = u.pc + 4 ∧ (∀ r, t.x r = u.x r) ∧ t.tile.arrived = u.tile.arrived ||| (1#8 <<< ch.toNat)
      ∧ (t.chan (chanDie u.curTile ch) ch).votes = (u.chan (chanDie u.curTile ch) ch).votes ++ vote.toList
      ∧ u.curTile ∈ (t.chan (chanDie u.curTile ch) ch).arrived) := by
  let v := u.arriveAt u.curTile ch vote
  have th : v.th = u.th := u.th_arriveAt ch vote
  obtain ⟨t, next, rfl⟩ := completes_wentOn runs (congrArg Thread.pc th :) ends
  have voted : v.chan (chanDie u.curTile ch) ch = (u.chan (chanDie u.curTile ch) ch).arrival u.curTile vote :=
    (congrArg (State.chan · _ ch) (u.arriveAt_eq ch vote)).trans (State.chan_setBarrier (chanDie_lt small ch) ..)
  have chan : (wentOn (u.pc + 4) v).chan (chanDie u.curTile ch) ch = v.chan (chanDie u.curTile ch) ch := by rw [wentOn_eq]; rfl
  have arrived : (wentOn (u.pc + 4) v).tile.arrived = v.tile.arrived := by
    rw [wentOn_eq, State.tile_putTile]
    exact (congrArg Tile.arrived (agentTile_core v _ id) :)
  refine completes_next next ⟨?_, fun r => ?_, ?_, ?_, ?_⟩
  · rw [wentOn_eq, State.pc, th_agentTile]
  · rw [wentOn_eq, State.x, th_agentTile, th]
    rfl
  · rw [arrived, u.tile_arriveAt]
  · rw [chan, voted]
    rfl
  · rw [chan, voted]
    obtain ⟨n, mem, same⟩ := List.any_eq_true.mp (nsMem_nsAdd u.curTile (u.chan (chanDie u.curTile ch) ch).arrived)
    exact beq_iff_eq.mp same ▸ mem

/-- GBWAIT of a member whose limit has not passed and that has no release to wait for returns the last one, with an acquire (15 R293). -/
theorem gbwait_released (member : u.isMember ch = true) (within : u.limitPassed = false)
    (due : (u.marked || !u.tile.arrived.getLsbD ch.toNat) = true) (rd : Reg) :
    u.gbwait rd ch = .ok ((u.selfInvalidate u.curTile).setX rd ((u.tile.release[ch.toNat]'ch.isLt).getD 0)) := by
  rw [State.gbwait, member, within]
  exact if_pos due

/-- A register written after an acquire of the tile. -/
theorem completes_acquired {s : State} {i : Instr} {d : Done} {rd : Reg} {v : Word} (runs : exec i s = .next (State.finish (d.afterStreams u)))
    (ends : d = .ok ((u.selfInvalidate u.curTile).setX rd v)) :
    completes i s (fun t => t.x rd = (if rd = 0 then 0 else v) ∧ sameX u t rd ∧ t.pc = u.pc + 4
      ∧ t.tile.l1 = u.tile.l1.filter (fun e => e.2.st == .registered || e.2.sealed)) := by
  let w := u.selfInvalidate u.curTile
  obtain ⟨at', pc, -, other, -, -, -, core, -⟩ := writesOnly_setX w rd v
  have th : w.th = u.th := State.th_selfInvalidate u
  have x : ∀ r, w.x r = u.x r := fun r => (congrArg (Thread.readX · r) th :)
  refine completes_next (exec_of_ok runs ends) ⟨at', fun r hr => (other r hr).trans (x r), pc.trans (congrArg (fun h : Thread => h.pc + 4) th),
    (congrArg Tile.l1 core :).trans (State.l1_selfInvalidate u)⟩

end

/-- Settles O34, case by case along the conditions of `arrive` and `gbwait`. -/
theorem gridBarriers : Obligations.GridBarriers := by
  unfold Obligations.GridBarriers
  intro s u m c issued acts ch op rd rs1 member die there
  have gbar := exec_strand (i := .gbar m ch) issued acts rfl
  have vote := exec_strand (i := .vote m op ch rs1) issued acts rfl
  have gbwait := exec_strand (i := .gbwait m rd ch) issued acts rfl
  have member_iff : member ↔ u.isMember ch = true := State.isMember_iff.symm
  have limit : u.limitPassed = u.ctx.expired := by rw [State.limitPassed, acts]
  have marked : u.marked = u.ctx.released := by rw [State.marked, acts]
  have ballot : (some (op, nbit (u.x rs1).toNat 0 16) : Option (VoteOp × Nat)) = some (op, (u.x rs1).toNat % 2 ^ 16) := by rw [nbit_low]
  rw [member_iff]
  rw [ballot] at vote
  refine ⟨fun other => ⟨?_, ?_, ?_⟩, fun mem absent out => ⟨?_, ?_⟩, fun mem small absent performed => ⟨?_, ?_⟩, fun mem arrived => ⟨?_, ?_⟩,
    fun mem expired => ?_, fun mem within due => ?_, fun mem arrived unreleased within => ?_⟩
  case refine_1 => exact completes_jumpsTo gbar (arrive_outside other _) rfl
  case refine_2 => exact completes_jumpsTo vote (arrive_outside other _) rfl
  case refine_3 =>
    have ends : u.gbwait rd ch = .ok (u.setX rd 2) := by
      rw [State.gbwait, Bool.eq_false_iff.mpr other]
      rfl
    exact completes_next (exec_of_ok gbwait ends) (writesOnly_setX u rd 2)
  case refine_4 => exact exec_of_wait gbar (arrive_early mem _ absent out)
  case refine_5 => exact exec_of_wait vote (arrive_early mem _ absent out)
  case refine_6 => exact completes_arrival gbar (arrive_now mem _ absent performed) small
  case refine_7 => exact completes_arrival vote (arrive_now mem _ absent performed) small
  case refine_8 => exact exec_of_wait gbar (arrive_again mem _ arrived)
  case refine_9 => exact exec_of_wait vote (arrive_again mem _ arrived)
  case refine_10 =>
    have ends : u.gbwait rd ch = .ok (u.setX rd 1) := by
      rw [State.gbwait, mem, limit, expired]
      rfl
    exact completes_next (exec_of_ok gbwait ends) (writesOnly_setX u rd 1)
  case refine_11 =>
    refine completes_acquired gbwait (gbwait_released mem (limit.trans within) ?_ rd)
    rw [marked]
    rcases due with released | absent
    · rw [released]
      rfl
    · rw [absent, Bool.not_false, Bool.or_true]
  case refine_12 =>
    have ends : u.gbwait rd ch = .wait (.barrier ch) u := by
      rw [State.gbwait, mem, limit, within, marked, unreleased, arrived]
      rfl
    exact exec_of_wait gbwait ends

end Sys2Proof.Machine
end

section
/-! SUPPORT. The requests of the scheduler and SUSP (O32): objects and packets that an instruction reads at its issue, requests made, and how a
strand is suspended. -/

namespace Sys2Proof.Machine

open Sys2Proof.Safety

/-! ## A state whose tiles stand in another list -/

/-- The same state: its tiles stand perhaps in another list, and are all the same. -/
def Retiled (u w : State) : Prop := { w with tiles := u.tiles } = u ∧ ∀ n, w.tileAt n = u.tileAt n

namespace Retiled

theorem refl (u : State) : Retiled u u := ⟨rfl, fun _ => rfl⟩

theorem trans {u v w : State} (h : Retiled u v) (k : Retiled v w) : Retiled u w :=
  ⟨(congrArg (fun s : State => { s with tiles := u.tiles }) k.1).trans h.1, fun n => (k.2 n).trans (h.2 n)⟩

/-- A thread replaced by itself. -/
theorem setTh_self (u : State) : Retiled u (u.setTh u.th) := by
  have same : u.setTh u.th = u.setTile u.curTile u.tile := by
    rw [State.setTh, State.th, Tile.setThread_self]
    rfl
  rw [same]
  exact ⟨rfl, fun n => State.setTile_keeps id u u.curTile rfl n⟩

section
variable {u w : State} (h : Retiled u w)
include h

theorem curTile : w.curTile = u.curTile := (congrArg State.curTile h.1 :)
theorem curAgent : w.curAgent = u.curAgent := (congrArg State.curAgent h.1 :)
theorem flights : w.flights = u.flights := (congrArg State.flights h.1 :)
theorem tile : w.tile = u.tile := (congrArg w.tileAt h.curTile).trans (h.2 _)
theorem th : w.th = u.th := by rw [State.th, h.tile, h.curAgent, State.th]
theorem ws : w.ws = u.ws := by rw [State.ws, h.tile, h.curAgent, State.ws]
theorem src : w.src = u.src := by rw [State.src, h.tile, h.curAgent, h.curTile, h.ws, State.src]

theorem released (outs : List Remote) (src : Src) (sc : Scope) : w.released outs src sc = u.released outs src sc := by
  rw [State.released, State.released, State.loadsDone, State.loadsDone, State.storesHold, State.storesHold, h.flights, h.2]

end

end Retiled

theorem lockHit_none {t : Tile} (none : t.locks = []) (spans : List (Nat × Nat)) : t.lockHit spans = Option.none := by
  rw [Tile.lockHit, none]
  rfl

theorem poisoned_none {t : Tile} (none : t.poison = []) (off n : Nat) : t.poisoned off n = false := by
  rw [Tile.poisoned, none]
  exact List.any_eq_false.mpr fun _ _ => Bool.false_ne_true

/-- A read at issue of a span that lies wholly in a tile store without locks and without poison. -/
theorem State.readNow_inside {u : State} {a n : Nat} (tile : tileBase ≤ a) (inside : a - tileBase + n ≤ storeSize) (locks : u.tile.locks = [])
    (poison : u.tile.poison = []) (k : State → List Byte → Done) :
    u.readNow a n k = k (u.setTh u.th) (u.tile.bytes (a - tileBase) n) := by
  have noted : rangeNoted u.th (a - tileBase) n = u.th := if_pos (.inl inside)
  rw [State.readNow_tile tile (lockHit_none locks _) (poisoned_none poison ..), noted]

/-! ## What a read at issue leaves -/

/-- What a read at issue hands on tells that its checks have passed. -/
theorem readsNow_ok {u v : State} {a n : Nat} {bs : List Byte} (reads : readsNow u a n v bs) : ∃ ps, u.engRun u.agentEng needLoad a n = .ok ps
    ∧ v = if accessRegion a n = .tile then (u.engTouchAll u.agentEng ps).noteOut (outByte [(a, n)]) else u.engTouchAll u.agentEng ps := by
  have done := reads fun w _ => .ok w
  have jumped := reads fun w _ => .jump 0 w
  unfold State.readNow State.engFail at done jumped
  split at done
  case h_1 ps passes =>
    exact ⟨ps, passes, (Done.ok.inj done).symm⟩
  case h_2 w s' waits =>
    rw [waits] at jumped
    exact absurd (done.symm.trans jumped) nofun
  case h_3 c b s' faults =>
    rw [faults] at jumped
    exact absurd (done.symm.trans jumped) nofun

theorem engTouchAll_caches (s : State) (e : EngId) (ps : List (EPlace × Nat)) : sameButCaches s (s.engTouchAll e ps) :=
  foldl_keeps (P := sameButCaches s) (fun t p kept => kept.trans (engTouch_caches t e false p)) ps (.refl s)

theorem Thread.readX_noteOut (h : Thread) (a : Option Word) (r : Reg) : (h.noteOut a).readX r = h.readX r := by
  unfold Thread.noteOut
  split
  · split <;> rfl
  · rfl

theorem readsNow_x {u v : State} {a n : Nat} {bs : List Byte} (reads : readsNow u a n v bs) (r : Reg) : v.x r = u.x r := by
  obtain ⟨ps, -, rfl⟩ := readsNow_ok reads
  have touched : (u.engTouchAll u.agentEng ps).x r = u.x r := (engTouchAll_caches ..).readX r
  split
  · rw [State.x, State.noteOut, State.th_setTh, Thread.readX_noteOut, ← touched, State.x]
  · exact touched

/-! ## The checks of an object and of a packet (15 R285, 22 R360) -/

theorem State.globalObject_here {u : State} {va : Word} {n align : Nat} {need : Need} (global : accessRegion va.toNat n = .global)
    (aligned : va.toNat % align = 0) {ps : List (EPlace × Nat)} (passes : u.engRun u.agentEng need va.toNat n = .ok ps)
    (near : ∀ p ∈ ps, ∀ a k pa, p.1 ≠ EPlace.node a k pa) (k : Done) : u.globalObject va n align need k = k := by
  have local' : (ps.any fun p => match p.1 with
      | .node .. => true
      | _ => false) = false := by
    refine List.any_eq_false.mpr fun p mem => ?_
    split
    next a k pa place => exact absurd place (near p mem a k pa)
    next => exact Bool.false_ne_true
  rw [State.globalObject, global, aligned, passes]
  exact if_neg (Bool.eq_false_iff.mp local')

theorem State.localQueue_near {u : State} {q : Word} (near : ∀ k, u.fabPlace u.ws.toNat q.toNat ≠ .node k) (d : Done) : u.localQueue q d = d := by
  unfold State.localQueue
  split
  next k _ place => exact absurd place (near k)
  next => rfl

theorem State.localQueue_far {u : State} {q : Word} {k : Nat} (global : accessRegion q.toNat 64 = .global)
    (far : u.fabPlace u.ws.toNat q.toNat = .node k) (d : Done) : u.localQueue q d = Done.trapAt u trACCESS_FAULT q 0 := by
  rw [State.localQueue, global, far]

theorem State.packetRegion_tile {u : State} {va : Word} (tile : tileBase ≤ va.toNat) (n : Nat) (d : Done) : u.packetRegion va n d = d := by
  rw [State.packetRegion, accessRegion_tile tile]

/-! ## A request made (02 R28) -/

section
variable {s u w : State} {i : Instr} {d : Done} {rd : Reg} {v : Word} (runs : exec i s = .next (State.finish (d.afterStreams u)))
include runs

theorem exec_of_requested (noStream : u.tile.streams u.src true true = false) (ends : d = w.requested rd v) :
    exec i s = .next (waitsFor .reply (committedTo (w.pc + 4) (w.sendReply rd v))) := by
  rw [runs, ends, State.requested, State.answered, afterStreams_reply noStream, finish_reply, pc_sendReply]
  rfl

theorem exec_of_answered (ends : d = w.answered false rd v) : exec i s = .next (waitsFor .reply (wentOn (w.pc + 4) (w.sendReply rd v))) := by
  rw [runs, ends, State.answered]
  change Host.Outcome.next (State.finish (.reply false _)) = _
  rw [finish_reply, pc_sendReply]
  rfl

end

/-! ## A suspension (05 R107, 15 R286) -/

theorem add_sixteen_aligned {a : Word} (aligned : a.toNat % 16 = 0) : (a + 16).toNat % 16 = 0 := by
  have sixteen : (16 : Word).toNat = 16 := rfl
  rw [BitVec.toNat_add, sixteen]
  omega

/-- A save that finds no frame has changed nothing but memory. -/
theorem saveStrand_lack {s s1 : State} {n : Nat} {c : Fin 8} {sv : Save} {m : SaveMode} {y : Byte} (lacks : s.saveStrand n c sv m = (s1, .lack y)) :
    sameOutsideMemory s s1 := by
  unfold State.saveStrand at lacks
  dsimp only at lacks
  split at lacks
  · split at lacks
    next s2 cause taken =>
      split at taken
      · cases taken
      · cases lacks
        have took := takeFrame_outside s n (s.cx n c).wsid sv.size m
        rw [taken] at took
        exact took
    next => split at lacks <;> cases lacks
  · cases lacks

section
variable {v s1 : State} {c : Fin 8} {cause : Nat} {rec : Word} {before : Context} {k : State → State}

/-- The acting strand as its suspension saves it, with its record at an address. -/
def State.suspending (v : State) (c : Fin 8) (cause : Nat) (rec : Word) : State × Saved :=
  (v.setCx v.curTile c { v.cx v.curTile c with recAddr := rec }).saveStrand v.curTile c ((v.cx v.curTile c).suspSave cause) .suspend

theorem State.suspend_done (saved : v.suspending c cause rec = (s1, .done)) :
    v.suspend c cause rec before k = .gone (k ((s1.recordDrops v.curTile before.wsid before.th.outs).freeCx v.curTile c)) := by
  rw [State.suspending] at saved
  rw [State.suspend]
  dsimp only
  rw [saved]

theorem State.suspend_lack {y : Byte} (saved : v.suspending c cause rec = (s1, .lack y)) :
    v.suspend c cause rec before k = .wait .frame (s1.setCx v.curTile c before) := by
  rw [State.suspending] at saved
  rw [State.suspend]
  dsimp only
  rw [saved]

/-- The strand has left its context once its save is done. -/
theorem State.suspending_vacated (saved : v.suspending c cause rec = (s1, .done)) (ws : Wsid) (outs : List Remote) :
    vacated v ((s1.recordDrops v.curTile ws outs).freeCx v.curTile c) v.curTile c := by
  have turn := saveStrand_turn (v.setCx v.curTile c { v.cx v.curTile c with recAddr := rec }) v.curTile c ((v.cx v.curTile c).suspSave cause) .suspend
  rw [← State.suspending, saved] at turn
  exact .after ((sameTurn.setCx v ..).trans (turn.trans (recordDrops_outside ..).turn)) (.freeCx ..)

/-- A suspension without a frame leaves the context waiting for one, as it was before. -/
theorem State.suspending_waits {y : Byte} (acts : v.curAgent = .ctx c) (saved : v.suspending c cause rec = (s1, .lack y)) (before : Context) :
    let t := waitsFor .frame (s1.setCx v.curTile c before)
    t.tile.ctx[c].st = .waiting .frame ∧ t.tile.ctx[c].th = before.th ∧ t.tile.ctx[c].recAddr = before.recAddr ∧ t.tile.run = none := by
  have kept := saveStrand_lack saved
  have acts' : (s1.setCx v.curTile c before).curAgent = .ctx c := kept.curAgent.trans acts
  have here : (s1.setCx v.curTile c before).tile.ctx[c] = before := by
    have at' : (s1.setCx v.curTile c before).tile = (s1.setCx v.curTile c before).tileAt v.curTile := congrArg (State.tileAt _) kept.curTile
    rw [at']
    exact State.cx_setCx ..
  intro t
  have context : t.tile.ctx[c] = { before with st := .waiting .frame, claim := Wait.frame.keepsClaim && before.claim } := by
    simp [t, waitsFor, acts', here]
  refine ⟨?_, ?_, ?_, ?_⟩
  · rw [context]
  · rw [context]
  · rw [context]
  · simp [t, waitsFor, acts']

end

theorem State.drained_idle {u : State} (stored : u.storesOut u.src = false) (idle : u.tile.tensorBusy u.src = false) (k : Done) : u.drained k = k := by
  rw [State.drained, idle, stored]
  rfl

/-- A record moved into its counter's area leaves every tile, and who acts, as the accesses to memory do. -/
theorem State.park_outside (s : State) (ws : Wsid) (a old new q : Word) : ∃ w, sameOutsideMemory s w ∧
    ((s.moveStrand ws old new q).park ws a).curTile = w.curTile ∧ ((s.moveStrand ws old new q).park ws a).tiles = w.tiles := by
  have moved : sameOutsideMemory s (s.moveStrand ws old new q) := by
    unfold State.moveStrand
    split
    · exact .refl s
    · exact ⟨rfl, rfl, rfl, rfl, fun _ => rfl⟩
  generalize s.moveStrand ws old new q = m at moved ⊢
  unfold State.park
  split
  · exact ⟨m, moved, rfl, rfl⟩
  next w0 _ =>
    refine ⟨m.vput ws.toNat a.toNat 8 (w0 - nbit w0 34 1 * 2 ^ 34 + 2 ^ 34), moved.trans (vput_outside ..), ?_, ?_⟩
    · dsimp only
      split <;> rfl
    · dsimp only
      split <;> rfl

/-- The record that SUSP has saved put into the area of its counter (15 R286). -/
def State.intoCounter (u : State) (a : Word) (s : State) : State :=
  (s.moveStrand u.ws u.ctx.recAddr (a + 16) (BitVec.ofNat 64 ((u.vnat u.ws.toNat (a.toNat + 8) 8).getD 0))).park u.ws a

theorem intoCounter_left {u s v : State} {n : Nat} {c : Fin 8} {a : Word} (left : vacated s v n c) (acting : n = s.curTile) :
    (u.intoCounter a v).tile.ctx[c].st = .free ∧ (u.intoCounter a v).tile.run ≠ some c := by
  obtain ⟨w, outside, curTile, tiles⟩ := v.park_outside u.ws a u.ctx.recAddr (a + 16) (BitVec.ofNat 64 ((u.vnat u.ws.toNat (a.toNat + 8) 8).getD 0))
  have tile : (u.intoCounter a v).tile = w.tile := by
    rw [State.tile, State.tile, State.tileAt, State.tileAt, State.intoCounter, curTile, tiles]
  obtain ⟨vacant, -, run⟩ := (left.trans outside).left acting
  rw [tile]
  exact ⟨vacant, run⟩

/-! ## The instructions (15 R279, R285 to R289) -/

section
variable {s u : State} {m : SMark} {c : Fin 8} (issued : issues s m u) (acts : u.curAgent = .ctx c) (free : accessFree u) {rd rs1 rs2 : Reg}
include issued acts free

/-- ENQ of a packet that is read at issue asks the queue to take it. -/
theorem exec_enq {v w : State} {h p : List Byte} (nearQ : ∀ k, u.fabPlace u.ws.toNat (u.x rs1).toNat ≠ .node k)
    (nearHead : ∀ d, u.packetRegion (u.x rs2) 32 d = d) (head : readsNow u (u.x rs2).toNat 32 v h)
    (near : ∀ d, v.packetRegion (u.x rs2) (pkBytes (leNat (h.take 16))) d = d) (whole : readsNow v (u.x rs2).toNat (pkBytes (leNat (h.take 16))) w p)
    (released : w.released w.th.outs w.src .pkg = true) :
    let r := w.enqueueAs (pkWsid (pktHead p) != w.ws.toNat) w.ws (u.x rs1) p
    exec (.enq m rd rs1 rs2) s = .next (waitsFor .reply (committedTo (r.1.pc + 4) (r.1.sendReply rd (BitVec.ofNat 64 r.2)))) := by
  have queue : w.x rs1 = u.x rs1 := (readsNow_x whole rs1).trans (readsNow_x head rs1)
  refine exec_of_requested (exec_strand (i := .enq m rd rs1 rs2) issued acts rfl) (free.2.1 true true) ?_
  rw [free.1]
  refine (if_neg Bool.false_ne_true).trans ((State.localQueue_near nearQ _).trans ((nearHead _).trans ((head _).trans ?_)))
  exact (near _).trans ((whole _).trans ((if_pos released).trans (by rw [queue])))

theorem exec_enq_far {k : Nat} (global : accessRegion (u.x rs1).toNat 64 = .global) (far : u.fabPlace u.ws.toNat (u.x rs1).toNat = .node k) :
    exec (.enq m rd rs1 rs2) s = .next (u.takeTrap { code := trACCESS_FAULT, tpc := u.pc, taddr := u.x rs1, tinfo := 0, resume := .at u.pc }) := by
  refine exec_of_trap (exec_strand (i := .enq m rd rs1 rs2) issued acts rfl) ?_
  rw [free.1]
  exact (if_neg Bool.false_ne_true).trans (State.localQueue_far global far _)

/-- A packet in the tile store is read with its bytes, and the tiles stay as they are. -/
theorem exec_enq_tile (nearQ : ∀ k, u.fabPlace u.ws.toNat (u.x rs1).toNat ≠ .node k) (tile : tileBase ≤ (u.x rs2).toNat)
    (inside : (u.x rs2).toNat - tileBase + 256 ≤ storeSize) (locks : u.tile.locks = []) (poison : u.tile.poison = [])
    (released : u.released u.th.outs u.src .pkg = true) :
    let head := leNat ((List.range 16).map fun i => u.tile.byte ((u.x rs2).toNat - tileBase + i))
    let p := (List.range (pkBytes head)).map fun i => u.tile.byte ((u.x rs2).toNat - tileBase + i)
    ∃ w, Retiled u w ∧ exec (.enq m rd rs1 rs2) s =
      let r := w.enqueueAs (pkWsid (pktHead p) != u.ws.toNat) u.ws (u.x rs1) p
      .next (waitsFor .reply (committedTo (r.1.pc + 4) (r.1.sendReply rd (BitVec.ofNat 64 r.2)))) := by
  intro head p
  let v := u.setTh u.th
  have first : Retiled u v := .setTh_self u
  have second : Retiled u (v.setTh v.th) := first.trans (.setTh_self v)
  have header : (u.tile.bytes ((u.x rs2).toNat - tileBase) 32).take 16 = (List.range 16).map fun i => u.tile.byte ((u.x rs2).toNat - tileBase + i) := by
    rw [Tile.bytes, ← List.map_take, List.take_range]
    rfl
  have small : pkBytes head ≤ 256 := by
    have := Nat.mod_lt (head / 2 ^ 4) (show 0 < 8 by decide)
    unfold pkBytes pkLen nbit
    omega
  have reads : readsNow u (u.x rs2).toNat 32 v _ := State.readNow_inside tile (by omega) locks poison
  have rest : readsNow v (u.x rs2).toNat (pkBytes head) (v.setTh v.th) p := fun k => by
    have read := State.readNow_inside (u := v) (n := pkBytes head) tile (by omega) (first.tile ▸ locks) (first.tile ▸ poison) k
    rw [first.tile] at read
    exact read
  have ends := exec_enq (rd := rd) issued acts free nearQ (State.packetRegion_tile tile _) reads (State.packetRegion_tile tile _) (by rw [header]; exact rest)
    (by rw [second.th, second.src, second.released, released])
  rw [second.ws] at ends
  exact ⟨v.setTh v.th, second, ends⟩

/-- Global memory of the node that an instruction's engine may read and write. -/
def hereAt (u : State) (need : Need) (a n : Nat) : Prop :=
  accessRegion a n = .global ∧ ∃ ps, u.engRun u.agentEng need a n = .ok ps ∧ ∀ p ∈ ps, ∀ a k pa, p.1 ≠ EPlace.node a k pa

omit issued acts free in
theorem globalObject_of_here {va : Word} {n align : Nat} {need : Need} (here : hereAt u need va.toNat n) (aligned : va.toNat % align = 0) (k : Done) :
    u.globalObject va n align need k = k := by
  obtain ⟨global, ps, passes, near⟩ := here
  exact State.globalObject_here global aligned passes near k

theorem exec_depdec (here : hereAt u needAtomic (u.x rs1).toNat 16) (aligned : (u.x rs1).toNat % 16 = 0)
    (released : u.released u.th.outs u.src .pkg = true) :
    let r := u.signal (u.ltidOf u.curTile) u.ws (u.x rs1)
    exec (.depdec m rd rs1) s = .next (waitsFor .reply (committedTo (r.1.pc + 4) (r.1.sendReply rd (BitVec.ofNat 64 r.2)))) := by
  refine exec_of_requested (exec_strand (i := .depdec m rd rs1) issued acts rfl) (free.2.1 true true) ?_
  rw [free.1]
  exact (if_neg Bool.false_ne_true).trans ((globalObject_of_here here aligned _).trans (if_pos released))

section
variable (here : hereAt u needAtomic (u.x rs1).toNat 32) (aligned : (u.x rs1).toNat % 32 = 0)
include here aligned

theorem exec_rclaim : let r := u.rangeClaim u.ws (u.x rs1) (u.x rs2)
    exec (.rclaim m rd rs1 rs2) s = .next (waitsFor .reply (committedTo (r.1.pc + 4) (r.1.sendReply rd r.2))) := by
  refine exec_of_requested (exec_strand (i := .rclaim m rd rs1 rs2) issued acts rfl) (free.2.1 true true) ?_
  rw [free.1]
  exact (if_neg Bool.false_ne_true).trans (globalObject_of_here here aligned _)

theorem exec_rsplit_whole (whole : u.rangeSplit u.ws (u.x rs1) (nbit (u.x rs2).toNat 0 16) (u.rangeQueue u.ws (u.x rs1) (nbit (u.x rs2).toNat 0 16)) = none) :
    let w := u.vsee u.ws.toNat (u.x rs1).toNat 32
    exec (.rsplit m rd rs1 rs2) s = .next (waitsFor .reply (committedTo (w.pc + 4) (w.sendReply rd 0x8000_0000_0000_0000))) := by
  refine exec_of_requested (exec_strand (i := .rsplit m rd rs1 rs2) issued acts rfl) (free.2.1 true true) ?_
  rw [free.1, whole]
  exact (if_neg Bool.false_ne_true).trans (globalObject_of_here here aligned _)

theorem exec_rsplit {w : State} {j : Nat}
    (halves : u.rangeSplit u.ws (u.x rs1) (nbit (u.x rs2).toNat 0 16) (u.rangeQueue u.ws (u.x rs1) (nbit (u.x rs2).toNat 0 16)) = some (w, j)) :
    exec (.rsplit m rd rs1 rs2) s = .next (waitsFor .reply (committedTo (w.pc + 4) (w.sendReply rd (BitVec.ofNat 64 j)))) := by
  refine exec_of_requested (exec_strand (i := .rsplit m rd rs1 rs2) issued acts rfl) (free.2.1 true true) ?_
  rw [free.1, halves]
  exact (if_neg Bool.false_ne_true).trans (globalObject_of_here here aligned _)

end

/-- The first word of the counter that SUSP names. -/
def State.counterWord (u : State) (a : Word) : Nat := (u.vnat u.ws.toNat a.toNat 8).getD 0

omit issued free in
theorem State.ctx_of_acts : u.ctx = u.cx u.curTile c := by
  rw [State.ctx, acts]
  rfl

omit issued free in
theorem State.setCtx_of_acts (k : Context) : u.setCtx k = u.setCx u.curTile c k := by
  rw [State.setCtx, acts]
  rfl

/-- The strand as SUSP saves it, with 0 in rd. -/
def State.suspSaving (u : State) (c : Fin 8) (rd : Reg) (a : Word) : State × Saved := (u.setX rd 0).suspending c 3 (a + 16)

section
variable (counter : hereAt u needAtomic (u.x rs1).toNat 16) (aligned : (u.x rs1).toNat % 16 = 0) (area : hereAt u needStore (u.x rs1 + 16).toNat 64)
include counter aligned area

/-- SUSP past the checks of its counter and of the record's area. -/
theorem exec_susp : exec (.susp m rd rs1) s = .next (State.finish (Done.afterStreams u (
    if nbit (u.counterWord (u.x rs1)) 33 1 = 0 || nbit (u.counterWord (u.x rs1)) 34 1 = 1 then .commit ((u.vsee u.ws.toNat (u.x rs1).toNat 8).setX rd 1)
    else u.drained ((u.setX rd 0).suspend c 3 (u.x rs1 + 16) u.ctx (u.intoCounter (u.x rs1)))))) := by
  have area_aligned : (u.x rs1 + 16).toNat % 16 = 0 := add_sixteen_aligned aligned
  rw [exec_strand (i := .susp m rd rs1) issued acts rfl, acts]
  dsimp only
  rw [free.1, globalObject_of_here counter aligned, globalObject_of_here area area_aligned]
  exact congrArg (fun d => Host.Outcome.next (State.finish (Done.afterStreams u d))) (if_neg Bool.false_ne_true)

/-- SUSP goes on with 1 where the counter does not take the record. -/
theorem exec_susp_passes (busy : nbit (u.counterWord (u.x rs1)) 33 1 = 0 ∨ nbit (u.counterWord (u.x rs1)) 34 1 = 1) :
    exec (.susp m rd rs1) s = .next (committedTo (u.pc + 4) ((u.vsee u.ws.toNat (u.x rs1).toNat 8).setX rd 1)) := by
  have pc : ((u.vsee u.ws.toNat (u.x rs1).toNat 8).setX rd 1).pc = u.pc :=
    (State.pc_setX ..).trans (vsee_outside u u.ws.toNat (u.x rs1).toNat 8).caches.pc
  have taken : (nbit (u.counterWord (u.x rs1)) 33 1 = 0 || nbit (u.counterWord (u.x rs1)) 34 1 = 1 : Bool) = true := by simpa using busy
  rw [exec_of_commit (exec_susp issued acts free counter aligned area) (free.2.1 true true) (if_pos taken), pc]

variable (takes : nbit (u.counterWord (u.x rs1)) 33 1 = 1) (empty : nbit (u.counterWord (u.x rs1)) 34 1 = 0)
  (stored : u.storesOut u.src = false) (idle : u.tile.tensorBusy u.src = false)
include takes empty stored idle

theorem exec_susp_suspends : exec (.susp m rd rs1) s = .next (State.finish (Done.afterStreams u
    ((u.setX rd 0).suspend c 3 (u.x rs1 + 16) u.ctx (u.intoCounter (u.x rs1))))) := by
  have untaken : ¬ (nbit (u.counterWord (u.x rs1)) 33 1 = 0 || nbit (u.counterWord (u.x rs1)) 34 1 = 1 : Bool) = true := by simp [takes, empty]
  rw [exec_susp issued acts free counter aligned area, if_neg untaken, State.drained_idle stored idle]

theorem completes_susp_done (saved : (u.suspSaving c rd (u.x rs1)).2 = .done) :
    completes (.susp m rd rs1) s (fun t => t.tile.ctx[c].st = .free ∧ t.tile.run ≠ some c) := by
  have whole : u.suspSaving c rd (u.x rs1) = ((u.suspSaving c rd (u.x rs1)).1, .done) := Prod.ext rfl saved
  generalize (u.suspSaving c rd (u.x rs1)).1 = s1 at whole
  rw [State.suspSaving] at whole
  have runs := exec_susp_suspends (rd := rd) issued acts free counter aligned area takes empty stored idle
  refine completes_next (exec_of_gone runs (State.suspend_done whole)) ?_
  have left := State.suspending_vacated whole u.ctx.wsid u.ctx.th.outs
  exact intoCounter_left left rfl

theorem completes_susp_lack {y : Byte} (saved : (u.suspSaving c rd (u.x rs1)).2 = .lack y) :
    completes (.susp m rd rs1) s (fun t => t.tile.ctx[c].st = .waiting .frame ∧ t.tile.ctx[c].th = u.ctx.th ∧ t.tile.ctx[c].recAddr = u.ctx.recAddr
      ∧ t.tile.run = none) := by
  have whole : u.suspSaving c rd (u.x rs1) = ((u.suspSaving c rd (u.x rs1)).1, .lack y) := Prod.ext rfl saved
  generalize (u.suspSaving c rd (u.x rs1)).1 = s1 at whole
  rw [State.suspSaving] at whole
  have runs := exec_susp_suspends (rd := rd) issued acts free counter aligned area takes empty stored idle
  have acts' : (u.setX rd 0).curAgent = .ctx c := acts
  have waits := State.suspending_waits acts' whole u.ctx
  exact completes_next (exec_of_waits runs (State.suspend_lack whole)) waits

end

end

/-! ## The status of an ENQ (15 R279) -/

section
variable {s : State} {bad : Bool} {ws : Wsid} {q : Word} {p : List Byte} {h : QHead} (header : s.qHead ws.toNat q.toNat = some h) (whole : h.bad = false)
include header whole

theorem enqueueAs_closed (closed : h.state = 1) : s.enqueueAs bad ws q p = (s.vsee ws.toNat q.toNat 64, 2) := by
  rw [State.enqueueAs, header]
  dsimp only
  rw [whole, if_neg Bool.false_ne_true, if_pos closed]
  rfl

variable (opened : h.state = 0)
include opened

theorem enqueueAs_open : s.enqueueAs bad ws q p =
    if bad || s.pktBad p h.ws || !s.wsValid (pkWsid (pktHead p)) then (s.qDiscard ws.toNat q.toNat 16 1, stBADPKT)
    else if qCount h = 2 ^ h.log2n then (s.vsee ws.toNat q.toNat 64, stFULL)
    else
      match s.vwrite ws.toNat (q.toNat + 64 + 256 * (h.tail % 2 ^ h.log2n)) (p.take (pkBytes (pktHead p))) with
      | .error _ => (s.setQState ws.toNat q.toNat 2, stBROKEN)
      | .ok s1 => ((s1.vput ws.toNat (q.toNat + 4) 4 ((h.tail + 1) % 2 ^ 32)).notifyDies (s.qDies ws.toNat q.toNat h) q ws h.tail, stOK) := by
  have unclosed : ¬ h.state = 1 := by omega
  have unbroken : ¬ 2 ≤ h.state := by omega
  rw [State.enqueueAs, header]
  dsimp only
  rw [whole, if_neg Bool.false_ne_true, if_neg unclosed, if_neg unbroken] <;> rfl

theorem enqueueAs_bad : (s.enqueueAs true ws q p).2 = 4 := by
  rw [enqueueAs_open header whole opened]
  rfl

variable (good : s.pktBad p h.ws = false) (valid : s.wsValid (pkWsid (pktHead p)) = true)
include good valid

theorem enqueueAs_full (full : qCount h = 2 ^ h.log2n) : s.enqueueAs false ws q p = (s.vsee ws.toNat q.toNat 64, 1) := by
  rw [enqueueAs_open header whole opened, good, valid]
  exact (if_neg Bool.false_ne_true).trans (if_pos full)

theorem enqueueAs_takes (room : qCount h ≠ 2 ^ h.log2n) {s1 : State}
    (wrote : s.vwrite ws.toNat (q.toNat + 64 + 256 * (h.tail % 2 ^ h.log2n)) (p.take (pkBytes (pktHead p))) = .ok s1) :
    (s.enqueueAs false ws q p).2 = 0 := by
  rw [enqueueAs_open header whole opened, good, valid, wrote]
  exact (congrArg Prod.snd ((if_neg Bool.false_ne_true).trans (if_neg room)) :)

end

/-- Settles O32: the requests by their checks and the step each asks for, SUSP by how its save ends, ENQ's status along `enqueueAs`. -/
theorem schedulerRequests : Obligations.SchedulerRequests := by
  unfold Obligations.SchedulerRequests
  refine ⟨?requests, ?status⟩
  case requests =>
    intro s u m c issued acts free rd rs1 rs2 waiting here a head bytes near nearQ
    refine ⟨fun v h w p local' nearHead reads nearWhole whole released => ?_, fun k global far => exec_enq_far issued acts free global far,
      fun local' tile inside locks poison released => ?_, fun counter aligned released => ?_, fun array aligned => ⟨?_, fun single => ?_, fun w j halves => ?_⟩,
      ?susp⟩
    case refine_1 => exact completes_next (exec_enq issued acts free local' nearHead reads nearWhole whole released) rfl
    case refine_2 =>
      obtain ⟨w, retiled, runs⟩ := exec_enq_tile (rd := rd) issued acts free local' tile inside locks poison released
      exact completes_next runs ⟨w, retiled.1, retiled.2, rfl⟩
    case refine_3 => exact completes_next (exec_depdec issued acts free counter aligned released) rfl
    case refine_4 => exact completes_next (exec_rclaim issued acts free array aligned) rfl
    case refine_5 =>
      rw [← nbit_low] at single
      exact completes_next (exec_rsplit_whole issued acts free array aligned single) rfl
    case refine_6 =>
      rw [← nbit_low] at halves
      exact completes_next (exec_rsplit issued acts free array aligned halves) rfl
    case susp =>
      intro counter aligned area w0
      refine ⟨fun busy => completes_next (exec_susp_passes issued acts free counter aligned area busy) rfl, ?_⟩
      intro takes empty stored idle v sv
      have saving : sv = u.suspSaving c rd (u.x rs1) := by
        have acts' : v.curAgent = .ctx c := acts
        simp only [sv]
        rw [State.setCtx_of_acts acts', State.ctx_of_acts acts']
        rfl
      refine ⟨fun small => ?_, fun saved => ?_, fun y saved => ?_⟩
      · obtain ⟨s1, done⟩ := State.saveStrand_noFrame small (v.setCtx { v.ctx with recAddr := u.x rs1 + 16 }) u.curTile c .suspend
        exact congrArg Prod.snd done
      · exact completes_susp_done issued acts free counter aligned area takes empty stored idle (saving ▸ saved)
      · exact completes_susp_lack issued acts free counter aligned area takes empty stored idle (saving ▸ saved)
  case status =>
    intro s bad ws q p h header whole
    refine ⟨fun closed => enqueueAs_closed header whole closed, fun opened fine good valid full => ?_, fun opened unsent => ?_,
      fun s1 opened fine good valid room wrote => ?_⟩
    · rw [fine]
      exact enqueueAs_full header whole opened good valid full
    · rw [unsent]
      exact enqueueAs_bad header whole opened
    · rw [fine]
      exact enqueueAs_takes header whole opened good valid room wrote

end Sys2Proof.Machine
end
section
/-! SUPPORT. The steps of a die's scheduler, of its headgate and of its barriers, and the end of a decode attention (O52). -/

namespace Sys2Proof.Machine

open Sys2Proof.Safety

/-! ## The headgate (15 R297, R298) -/

theorem State.die_val (s : State) (d : Fin 4) : s.die d.val = s.dies[d] := by simp [State.die, Vector.getD]

theorem State.dies_get (s : State) (d : Fin 4) (D : Die) : (s.setDie d.val D).dies[d] = D := by
  rw [← State.die_val, State.die_setDie, if_pos ⟨rfl, d.isLt⟩]

/-- A package with no queue hands its headgates nothing. -/
theorem State.gather_empty {s : State} (none' : ∀ q : Fin 4, s.dies[q].queues = []) (die : Nat) : s.gather die = s := by
  have all : ∀ D ∈ s.dies.toList, D.queues = [] := by
    intro D inside
    obtain ⟨i, small, rfl⟩ := List.mem_iff_getElem.1 inside
    exact none' ⟨i, by simpa using small⟩
  have served : s.served die = [] := by
    unfold State.served
    rw [List.flatMap_eq_nil_iff.2 all]
    rfl
  unfold State.gather State.headsOf
  rw [served]
  rfl

/-- A packet that waits at the headgate for an open queue stays there. -/
theorem State.closeHeads_waiting {s : State} {die : Nat} {p : HeadPkt} (alone : (s.die die).heads = [p]) (waits : p.released = false)
    (fresh : p.admitted = false) (open' : s.queueOpen p.ws p.queue = true) : s.closeHeads die = s := by
  simp [State.closeHeads, alone, waits, fresh, open']

/-- The only packet of a headgate, beyond the budget: released unstaged. -/
theorem State.headgate_beyond {s : State} {d : Fin 4} {p : HeadPkt} (on : s.powered = true) (none' : ∀ q : Fin 4, s.dies[q].queues = [])
    (alone : s.dies[d].heads = [p]) (fresh : p.admitted = false) (waits : p.released = false) (idle : p.todo = [])
    (open' : s.queueOpen p.ws p.queue = true) (beyond : s.budget d.val < p.total) :
    (s.doHeadgate d.val).dies[d].heads = [{ p with released := true, unstaged := true }] := by
  have heads : (s.die d.val).heads = [p] := by rw [State.die_val, alone]
  rw [← State.die_val]
  unfold State.doHeadgate
  rw [State.gather_empty none', State.closeHeads_waiting heads waits fresh open']
  simp [on, heads, fresh, waits, beyond, State.letIn, State.die_setDie, d.isLt, idle, HeadPkt.settle, HeadPkt.staged]

theorem State.stagingDue_of {s : State} {d : Fin 4} {n : Nat} {p : HeadPkt} (there : s.dies[d].heads[n]? = some p) (waits : p.released = false)
    (limited : pkSdl (pktHead p.bytes) ≠ 0) (late : p.since + pkSdl (pktHead p.bytes) ≤ s.tick) : s.stagingDue d.val n = true := by
  unfold State.stagingDue
  rw [State.die_val, there]
  simp [waits, limited, late]

/-! ## The end of a decode attention (19 R342) -/

namespace Srv

/-- What the engine's operations on a group leave of the package. -/
abbrev outside (v w : Srv) : Prop := sameOutsideMemory v.s w.s

theorem outside_setReq (v : Srv) (i : Nat) (r : Req) : v.outside (v.setReq i r) := ⟨rfl, rfl, rfl, rfl, fun _ => rfl⟩

theorem outside_record (v : Srv) (a : Nat) : v.outside (v.record a) := faultRecord_outside ..

theorem outside_failedIn (v : Srv) (ws : Wsid) (va n : Nat) : v.outside (v.failedIn ws va n) := vsee_outside ..

theorem outside_foldl {β : Type} {f : Srv → β → Srv} (each : ∀ (v : Srv) b, v.outside (f v b)) (l : List β) (v : Srv) : v.outside (l.foldl f v) := by
  induction l generalizing v with
  | nil => exact .refl _
  | cons b r ih => exact (each v b).trans (ih _)

theorem outside_failedList (v : Srv) (r : Req) : v.outside (v.failedList r) := by
  refine outside_foldl (fun v i => ?_) _ v
  split
  · exact outside_failedIn ..
  · split
    · exact outside_failedIn ..
    · exact .refl _

theorem outside_failedSlot (v : Srv) (o : DattnOp) (r : Req) (rows : List Nat) : v.outside (v.failedSlot o r rows) := by
  have queries : ∀ (v : Srv) (row : Nat), v.outside ((List.range 128).foldl (fun v j => match v.s.coords o.src.ws.toNat (entOf o.qe) row j with
      | some c => match v.s.vread o.src.ws.toNat ((entOf o.qe).bitAddr c / 8) 2 with
        | .ok (_, false) => v
        | _ => v.failedIn o.src.ws ((entOf o.qe).bitAddr c / 8) 2
      | none => v) v) := by
    intro v row
    refine outside_foldl (fun v j => ?_) _ v
    split
    · split
      · exact .refl _
      · exact outside_failedIn ..
    · exact .refl _
  unfold Srv.failedSlot
  refine ((outside_foldl queries rows v).trans (outside_failedList ..)).trans (outside_foldl (fun v b => ?_) _ _)
  refine outside_foldl (fun v h => ?_) _ v
  split
  · exact .refl _
  · exact outside_failedIn ..

end Srv

theorem outputRow_outside {s t : State} {ws row : Nat} {e : TEnt} {vals : List Nat} (wrote : s.outputRow ws e row vals = some t) : sameOutsideMemory s t := by
  unfold State.outputRow at wrote
  refine List.foldlRecOn (motive := fun acc : Option State => ∀ t, acc = some t → sameOutsideMemory s t) _ _
    (fun t start => Option.some.inj start ▸ sameOutsideMemory.refl s) (fun acc kept p _ t after => ?_) t wrote
  obtain ⟨u, rfl, next⟩ := Option.bind_eq_some_iff.1 after
  have here := kept u rfl
  split at next
  · cases next
    exact here
  · split at next
    next s1 first =>
      cases next
      exact here.trans (vwrite_outside first)
    next => cases next

theorem putRows_outside (o : DattnOp) (l : List (Nat × List Nat)) (s : State) (bad : Bool) : sameOutsideMemory s (s.putRows o l bad).1 := by
  induction l generalizing s bad with
  | nil => exact .refl s
  | cons p r ih =>
    rw [State.putRows]
    split
    next s1 wrote => exact (outputRow_outside wrote).trans (ih ..)
    next => exact ih ..

namespace Srv

theorem outside_attendSlot (v : Srv) (o : DattnOp) (sl : Nat) : v.outside (v.attendSlot o sl).1 := by
  unfold Srv.attendSlot
  dsimp only
  split
  next => exact .refl _
  next i _ =>
    generalize slotRows _ _ _ = rows
    have wrote : ∀ (v0 : Srv) (out : List (Nat × List Nat)) (lost : Bool), v.outside v0 →
        v.outside (if lost || (v0.s.putRows o out false).2 then
          (({ v0 with s := (v0.s.putRows o out false).1 } : Srv).markKv i, true) else ({ v0 with s := (v0.s.putRows o out false).1 }, false)).1 := by
      intro v0 out lost read
      have rows := read.trans (putRows_outside o out v0.s false)
      split
      · exact rows.trans (outside_setReq { v0 with s := _ } ..)
      · exact rows
    cases v.slotValues o (v.req i) _ _ rows with
    | none => exact wrote _ _ true (v.outside_failedSlot ..)
    | some l => exact wrote _ _ false (.refl _)

theorem outside_attendAll (o : DattnOp) (l : List Nat) (v : Srv) (n : Nat) : v.outside (v.attendAll o l n).1 := by
  induction l generalizing v n with
  | nil => exact .refl _
  | cons sl r ih => exact (v.outside_attendSlot o sl).trans (ih ..)

theorem outside_close (v : Srv) : sameOutsideMemory v.s v.close := by
  have put : ∀ (s : State) (g : Group), sameOutsideMemory s (s.putGroup g) := fun _ _ => ⟨rfl, rfl, rfl, rfl, fun _ => rfl⟩
  unfold Srv.close
  split
  · exact put ..
  · exact (v.outside_record _).trans (put ..)

end Srv

/-- The oldest descriptor of a die leaves its queue once the earlier operations of its strand are over. -/
theorem State.doDattn_pops {s : State} {d : Fin 4} {o : DattnOp} {rest : List DattnOp} (queue : s.dies[d].dattn = o :: rest)
    (fence : s.fenceHolds o.src.tile o.src o.fenceE = false) (tq : (s.tileAt o.src.tile).tq = []) : (s.doDattn d.val).dies[d].dattn = rest := by
  have taken : (s.setDie d.val { s.die d.val with dattn := rest }).dies[d].dattn = rest := by rw [State.dies_get]
  have queue' : (s.die d.val).dattn = o :: rest := by rw [State.die_val, queue]
  unfold State.doDattn
  rw [queue']
  dsimp only
  rw [fence, tq, List.any_nil, Bool.or_false, if_neg Bool.false_ne_true]
  generalize s.setDie d.val { s.die d.val with dattn := rest } = s0 at taken ⊢
  have ends : ∀ (s1 : State) (dstat cnt : Nat) (word : Word), sameOutsideMemory s0 s1 →
      (if word = 0 then s1.vput o.src.ws.toNat (o.addr.toNat + 40) 8 dstat
        else (s1.vput o.src.ws.toNat (o.addr.toNat + 40) 8 dstat).sendSignals cnt o.src.ws [word]).dies[d].dattn = rest := by
    intro s1 dstat cnt word worked
    have same := (vput_outside s1 o.src.ws.toNat (o.addr.toNat + 40) 8 dstat).dies.trans worked.dies
    split <;> exact (congrArg (fun D : Vector Die 4 => D[d].dattn) same).trans taken
  cases s0.groupAt o.gid with
  | none => exact ends s0 _ _ _ (.refl s0)
  | some g => exact ends _ _ _ _ ((Srv.outside_attendAll o o.slist { s := s0, g := g, bad := none } 0).trans (Srv.outside_close _))

/-! ## The loss of a gang member (15 R296) -/

theorem State.memberLost_frees {s : State} {n die id : Nat} {c : Fin 8} {x : Strand} (live : (s.cx n c).st ≠ .free) (gang : (s.cx n c).gang = true)
    (entry : s.strand (s.cx n c).wsid (s.cx n c).recAddr = some x) (work : x.work = .gang die id) : ((s.doMemberLost n c).cx n c).st = .free := by
  unfold State.doMemberLost
  have on : ((s.cx n c).st == .free || !(s.cx n c).gang) = false := by simp [live, gang]
  dsimp only
  rw [on, if_neg Bool.false_ne_true, entry]
  dsimp only
  rw [work]
  exact State.freeCx_free ..

/-! ## The release of a barrier (15 R292) -/

theorem State.doRelease_resets {s : State} {d : Fin 4} {ch : BitVec 3} (ready : s.barrierReady d.val ch = true) : (s.doRelease d.val ch).chan d.val ch = .reset := by
  unfold State.doRelease
  rw [ready]
  exact State.chan_setBarrier d.isLt ..

end Sys2Proof.Machine

namespace Sys2Proof

open Sys2Proof.Machine

/-- Settles O52: each step is worked out in the case that the statement names; the operations of a decode attention touch
nothing of the dies. -/
theorem schedulerEvents : Obligations.SchedulerEvents := by
  unfold Obligations.SchedulerEvents
  intro s d n D
  refine ⟨?split, ?headgate, ?deadline, ?signal, ?retry, ?release, ?lost, ?dattn⟩
  case split =>
    intro rec e a i w j full idle candidate work halves
    refine ⟨_, rfl, ?_⟩
    simp [State.doSplit, full, idle, candidate, work, halves]
  case headgate =>
    intro p on none' alone fresh waits idle open' beyond
    exact ⟨_, rfl, State.headgate_beyond on none' alone fresh waits idle open' beyond⟩
  case deadline =>
    intro p there waits limited late
    refine ⟨_, rfl, ?_⟩
    have due := State.stagingDue_of there waits limited late
    unfold State.doStagingDeadline
    rw [due, State.die_val, there]
    exact congrArg Die.heads (State.dies_get ..)
  case signal =>
    intro g there first
    refine ⟨_, rfl, ?_⟩
    rw [there]
    simp [first]
  case retry =>
    intro r s1 st there late tried
    have turn : ¬ s.tick ≤ r.since := by omega
    refine ⟨?_, ?_, ?_⟩ <;> intro hst
    · refine ⟨_, rfl, ?_⟩
      simp [State.doCounterRetry, there, turn, tried, hst, stFULL, stOK]
    · refine ⟨_, rfl, ?_⟩
      simp [State.doCounterRetry, there, turn, tried, hst, stFULL]
    · intro hst1
      refine ⟨_, rfl, ?_⟩
      simp [State.doCounterRetry, there, turn, tried, hst, hst1, stFULL, stOK, frSIGNAL]
  case release =>
    intro ch ready
    refine ⟨_, rfl, ?_⟩
    have reset := State.doRelease_resets ready
    exact ⟨congrArg Channel.arrived reset, congrArg Channel.votes reset⟩
  case lost =>
    intro c k x die id hk live gang entry work
    subst hk
    exact ⟨_, rfl, State.memberLost_frees live gang entry work⟩
  case dattn =>
    intro o rest queue fence tq
    exact ⟨_, rfl, State.doDattn_pops queue fence tq⟩

end Sys2Proof
end

section
/-! SUPPORT. What no access to memory changes of the package beside its tiles, and no fault record or spill frame: the strand table (O33, O47). -/

namespace Sys2Proof.Machine

open Sys2Proof.Safety

/-- The strand table, the signals, the role map, the groups and their requests. -/
structure Books where
  strands : List (Nat × Strand)
  signals : List Signal
  roles : List (Nat × RoleEntry)
  groups : List Group
  reqs : List Req

def State.books (s : State) : Books := { strands := s.strands, signals := s.signals, roles := s.roles, groups := s.groups, reqs := s.reqs }

section
variable {s t : State} (h : t.books = s.books)
include h

theorem State.strands_of_books : t.strands = s.strands := (congrArg Books.strands h :)
theorem State.signals_of_books : t.signals = s.signals := (congrArg Books.signals h :)
theorem State.reqs_of_books : t.reqs = s.reqs := (congrArg Books.reqs h :)

theorem State.strand_of_books (ws : Wsid) (rec : Word) : t.strand ws rec = s.strand ws rec := by
  rw [State.strand, State.strands_of_books h, State.strand]

theorem State.ltidOf_of_books (n : Nat) : t.ltidOf n = s.ltidOf n := by
  have roles : t.roles = s.roles := (congrArg Books.roles h :)
  rw [State.ltidOf, State.ltidOf, roles]

end

@[simp] theorem State.books_setTile (s : State) (n : Nat) (T : Tile) : (s.setTile n T).books = s.books := rfl

/-! ## Lines, sectors and words at the slices (13 R253, R255, R261, R263, 18 R313, R315) -/

theorem State.books_dropL2 (s : State) (e : L2Line) : (s.dropL2 e).books = s.books := by
  unfold State.dropL2
  dsimp only
  split
  · rfl
  · split
    · split <;> rfl
    · rfl

theorem State.books_allocL2 (s : State) (e : L2Line) : (s.allocL2 e).books = s.books := by
  unfold State.allocL2
  dsimp only
  split
  · rfl
  · split
    next v _ _ => exact s.books_dropL2 v
    next => rfl

@[simp] theorem State.books_touchLine (s : State) (pa : Nat) : (s.touchLine pa).books = s.books := by
  unfold State.touchLine
  exact kept_ite rfl (books_allocL2 ..)

@[simp] theorem State.books_takeSector (s : State) (pa : Nat) (write : Bool) : (s.takeSector pa write).books = s.books := by
  unfold State.takeSector
  split
  · split
    · rfl
    · split <;> rfl
    · rfl
  · dsimp only
    split <;> split <;> rfl
  · rfl

@[simp] theorem State.books_noteNomem (s : State) (pa len ws : Nat) : (s.noteNomem pa len ws).books = s.books := by
  unfold State.noteNomem
  split <;> rfl

@[simp] theorem State.books_nomemRuns (s : State) (l : List (Nat × Nat)) (ws : Nat) : (s.nomemRuns l ws).books = s.books := by
  unfold State.nomemRuns
  split
  · exact books_noteNomem ..
  · rfl

@[simp] theorem State.books_seeRuns (s : State) (l : List (Nat × Nat)) (ws : Nat) : (s.seeRuns l ws).books = s.books := by
  unfold State.seeRuns
  exact (books_nomemRuns ..).trans (kept_foldl (fun s a => by simp) _ s)

@[simp] theorem State.books_vsee (s : State) (ws va n : Nat) : (s.vsee ws va n).books = s.books := by
  unfold State.vsee State.walkNomem
  split
  · split
    · exact books_noteNomem ..
    · rfl
  · exact books_seeRuns ..

@[simp] theorem State.books_putWord (s : State) (w : Nat) (cells : List (Nat × Byte)) (ws : Wsid) : (s.putWord w cells ws).books = s.books := by
  unfold State.putWord
  exact kept_ite (books_touchLine ..) rfl

@[simp] theorem State.books_writeBackWord (s : State) (w : Nat) (l : L1Word) (h : Holder) : (s.writeBackWord w l h).books = s.books := by
  unfold State.writeBackWord
  exact kept_ite (books_putWord ..) (books_putWord ..)

theorem State.books_revoke (s : State) (w : Nat) : (s.revoke w).books = s.books := by
  unfold State.revoke State.dropHeld
  split
  · rfl
  · dsimp only
    split
    · split <;> exact books_writeBackWord ..
    · rfl

@[simp] theorem State.books_evictWords (s : State) (tile : Nat) (p : Nat → Bool) : (s.evictWords tile p).books = s.books := by
  unfold State.evictWords
  refine (books_setTile ..).trans (kept_foldl (fun s e => ?_) _ s)
  exact kept_ite (kept_ite (books_writeBackWord ..) rfl) rfl

theorem State.books_unseal (s : State) (w : Nat) (keep : Option Nat) : (s.unseal w keep).books = s.books := by
  unfold State.unseal
  exact kept_ite rfl (kept_foldl (fun s t => books_evictWords ..) _ _)

theorem State.books_sliceWrite (s : State) (w : Nat) (cells : List (Nat × Byte)) (ws : Wsid) : (s.sliceWrite w cells ws).books = s.books :=
  (books_putWord ..).trans ((books_unseal ..).trans (books_revoke ..))

theorem State.books_putRun (s : State) (pa : Nat) (bytes : List Byte) (ws : Wsid) : (s.putRun pa bytes ws).books = s.books :=
  (kept_foldl (fun _ _ => books_sliceWrite ..) _ _).trans (kept_foldl (fun _ _ => books_takeSector ..) _ s)

@[simp] theorem State.books_writeAt (s : State) (pa : Nat) (bytes : List Byte) (ws : Wsid) : (s.writeAt pa bytes ws).books = s.books :=
  (books_noteNomem ..).trans (books_putRun ..)

@[simp] theorem State.books_putNat (s : State) (pa n v : Nat) (ws : Wsid) : (s.putNat pa n v ws).books = s.books := books_writeAt ..

theorem State.books_writePieces (ws : Wsid) (l : List (Nat × Nat)) (bs : List Byte) (s : State) : (s.writePieces ws l bs).books = s.books := by
  induction l generalizing s bs with
  | nil => rfl
  | cons c r ih => exact (ih ..).trans (books_putRun ..)

theorem State.books_vwrite {s t : State} {ws va : Nat} {bs : List Byte} (wrote : s.vwrite ws va bs = .ok t) : t.books = s.books := by
  unfold State.vwrite at wrote
  split at wrote
  · cases wrote
  · cases wrote
    exact (books_nomemRuns ..).trans (books_writePieces ..)

@[simp] theorem State.books_vput (s : State) (ws va n v : Nat) : (s.vput ws va n v).books = s.books := by
  unfold State.vput
  split
  next t wrote => exact books_vwrite wrote
  next => rfl

/-! ## The fault record and the spill frames (21 R352, 05 R106, R111) -/

@[simp] theorem State.books_faultRecord (s : State) (ws code ltid info addr : Nat) : (s.faultRecord ws code ltid info addr).books = s.books := by
  have miss : ∀ v, (s.setWsWord ws wEVCOUNT v).books = s.books := fun v => books_putNat ..
  unfold State.faultRecord
  dsimp only
  split
  · exact miss _
  · split
    · exact miss _
    · split
      next => exact miss _
      next t wrote => simp [books_vwrite wrote]

@[simp] theorem State.books_freeFrame (s : State) (ltid ws f : Nat) : (s.freeFrame ltid ws f).books = s.books := by
  unfold State.freeFrame
  refine kept_ite rfl (kept_ite rfl ?_)
  dsimp only
  split
  next => exact books_faultRecord ..
  next =>
    split
    next => exact books_faultRecord ..
    next t wrote => simp [books_vwrite wrote]
@[simp] theorem State.books_recordDrops (s : State) (t : Nat) (ws : Wsid) (rs : List Remote) : (s.recordDrops t ws rs).books = s.books := by
  refine kept_foldl (fun s r => ?_) rs s
  split
  · exact books_faultRecord ..
  · rfl

end Sys2Proof.Machine
end
section
/-! SUPPORT. What the batch former's operations keep of a group and of its records; the fields of a record (O47). -/

namespace Sys2Proof.Machine

open Sys2Proof.Safety

/-! ## Fields of numbers and of records (19 R322) -/

/-- The parts of a number around a field. -/
theorem putField_eq (x lo n v : Nat) : putField x lo n v = x % 2 ^ lo + 2 ^ lo * (x / 2 ^ lo / 2 ^ n * 2 ^ n + v % 2 ^ n) := by
  have field : x / 2 ^ lo / 2 ^ n * 2 ^ n + nbit x lo n = x / 2 ^ lo := Nat.div_add_mod' ..
  have whole : x = x % 2 ^ lo + 2 ^ lo * (x / 2 ^ lo / 2 ^ n * 2 ^ n) + nbit x lo n * 2 ^ lo := by
    rw [Nat.mul_comm (nbit x lo n), Nat.add_assoc, ← Nat.mul_add, field, Nat.mod_add_div]
  rw [putField, show x - nbit x lo n * 2 ^ lo = x % 2 ^ lo + 2 ^ lo * (x / 2 ^ lo / 2 ^ n * 2 ^ n) from Nat.sub_eq_of_eq_add whole,
    Nat.mul_comm (v % 2 ^ n), Nat.add_assoc, ← Nat.mul_add]

theorem nbit_mod {lo n k : Nat} (inside : lo + n ≤ k) (x : Nat) : nbit (x % 2 ^ k) lo n = nbit x lo n := by
  refine Nat.eq_of_testBit_eq fun i => ?_
  simp only [nbit, Nat.testBit_mod_two_pow, Nat.testBit_div_two_pow]
  by_cases low : i < n
  · have small : i + lo < k := by omega
    simp [small]
  · simp [low]

theorem nbit_putField_same (x lo n v : Nat) : nbit (putField x lo n v) lo n = v % 2 ^ n := by
  rw [putField_eq, nbit, Nat.add_mul_div_left _ _ (Nat.two_pow_pos lo), Nat.div_eq_of_lt (Nat.mod_lt _ (Nat.two_pow_pos lo)), Nat.zero_add,
    Nat.mul_comm, Nat.mul_add_mod, Nat.mod_mod]

theorem nbit_putField_below {lo' n' lo : Nat} (below : lo' + n' ≤ lo) (x n v : Nat) : nbit (putField x lo n v) lo' n' = nbit x lo' n' := by
  rw [← nbit_mod below (putField x lo n v), putField_eq, Nat.add_mul_mod_self_left, Nat.mod_mod, nbit_mod below]

namespace Req

variable {r : Req} {p q : RField} {a : Nat}

@[simp] theorem length_put : (r.put p a).w.length = r.w.length := List.length_set ..

theorem word_put (there : p.1 < r.w.length) : (r.put p a).w.getD p.1 0 = BitVec.ofNat 64 (putField (r.w.getD p.1 0).toNat p.2.1 p.2.2 a) := by
  simp [Req.put, lset, there]

theorem f_put_same (there : p.1 < r.w.length) (inside : p.2.1 + p.2.2 ≤ 64) : (r.put p a).f p = a % 2 ^ p.2.2 := by
  rw [Req.f, word_put there, BitVec.toNat_ofNat, nbit_mod inside, nbit_putField_same]

theorem f_put_below (word : q.1 = p.1) (there : p.1 < r.w.length) (inside : p.2.1 ≤ 64) (below : q.2.1 + q.2.2 ≤ p.2.1) : (r.put p a).f q = r.f q := by
  rw [Req.f, word, word_put there, BitVec.toNat_ofNat, nbit_mod (by omega), nbit_putField_below below, Req.f, word]

theorem f_put_elsewhere (word : q.1 ≠ p.1) : (r.put p a).f q = r.f q := by
  simp [Req.f, Req.put, lset, word.symm]

end Req

/-- A record retired, or faulted, with a code. -/
theorem ended_fields {r : Req} (whole : r.w.length = 16) {state code : Nat} (small : state < 8) (byte : code < 256) :
    ((r.put rqSTATE state).put rqFCODE code).f rqSTATE = state ∧ ((r.put rqSTATE state).put rqFCODE code).f rqFCODE = code := by
  have there : rqFCODE.1 < (r.put rqSTATE state).w.length := by simp [rqFCODE, whole]
  constructor
  · rw [Req.f_put_below (p := rqFCODE) (q := rqSTATE) rfl there (by decide) (by decide), Req.f_put_same (by simp [rqSTATE, whole]) (by decide)]
    exact Nat.mod_eq_of_lt small
  · rw [Req.f_put_same there (by decide)]
    exact Nat.mod_eq_of_lt byte

namespace Srv

/-! ## The tending of blocks: the step, what is open and the records stay -/

/-- Blocks, lists and memory changed: the group's step, whether it is open, and the records are as before. -/
structure Tended (v w : Srv) : Prop where
  step : w.g.step = v.g.step
  opn : w.g.opn = v.g.opn
  reqs : w.s.reqs = v.s.reqs

namespace Tended

theorem refl (v : Srv) : Tended v v := ⟨rfl, rfl, rfl⟩

theorem trans {u v w : Srv} (h : Tended u v) (k : Tended v w) : Tended u w := ⟨k.step.trans h.step, k.opn.trans h.opn, k.reqs.trans h.reqs⟩

theorem foldl {β : Type} {f : Srv → β → Srv} (each : ∀ (v : Srv) b, Tended v (f v b)) (l : List β) (v : Srv) : Tended v (l.foldl f v) :=
  List.foldlRecOn (motive := Tended v) l f (refl v) fun w h b _ => h.trans (each w b)

/-- A group whose lists alone are others. -/
theorem regroup {v w : Srv} {g : Group} (h : Tended { v with g := g } w) (step : g.step = v.g.step) (opn : g.opn = v.g.opn) : Tended v w :=
  ⟨h.step.trans step, h.opn.trans opn, h.reqs⟩

theorem req {v w : Srv} (h : Tended v w) (i : Nat) : w.req i = v.req i := by rw [Srv.req, h.reqs, Srv.req]

end Tended

theorem tended_note (v : Srv) (a : Nat) : Tended v (v.note a) := ⟨rfl, rfl, rfl⟩
theorem tended_failedRd (v : Srv) (va n : Nat) : Tended v (v.failedRd va n) := ⟨rfl, rfl, State.reqs_of_books (State.books_vsee ..)⟩
theorem tended_record (v : Srv) (a : Nat) : Tended v (v.record a) := ⟨rfl, rfl, State.reqs_of_books (State.books_faultRecord ..)⟩

theorem tended_wr (v : Srv) (va : Nat) (bs : List Byte) : Tended v (v.wr va bs) := by
  unfold Srv.wr
  split
  next s wrote => exact ⟨rfl, rfl, State.reqs_of_books (State.books_vwrite wrote)⟩
  next => exact tended_note ..

theorem tended_ownWr {v w : Srv} {va : Nat} {bs : List Byte} (wrote : v.ownWr va bs = .ok w) : Tended v w := by
  unfold Srv.ownWr at wrote
  split at wrote
  · cases wrote
  · split at wrote
    next s done =>
      cases wrote
      exact ⟨rfl, rfl, State.reqs_of_books (State.books_vwrite done)⟩
    next => cases wrote

theorem tended_putCtl (v : Srv) (b n : Nat) : Tended v (v.putCtl b n) := tended_wr ..
theorem tended_putEntry (v : Srv) (key i e : Nat) : Tended v (v.putEntry key i e) := tended_wr ..

theorem tended_ctl (v : Srv) (b : Nat) : Tended v (v.ctl b).2 := by
  unfold Srv.ctl
  split
  · exact .refl v
  · exact (tended_failedRd ..).trans (tended_note ..)

theorem tended_toFree (v : Srv) (b n : Nat) : Tended v (v.toFree b n) := (tended_putCtl { v with g := { v.g with free := b :: v.g.free } } ..).regroup rfl rfl
theorem tended_setLink (v : Srv) (b l : Nat) : Tended v (v.setLink b l) := (tended_ctl ..).trans (tended_putCtl ..)

theorem tended_toReclaim (v : Srv) (b n : Nat) : Tended v (v.toReclaim b n) := by
  have put : ∀ w : Srv, Tended w (({ w with g := { w.g with reclaim := w.g.reclaim ++ [b] } } : Srv).putCtl b (ckLink (ckSet n 0 (ckST n)) 0)) :=
    fun w => (tended_putCtl ..).regroup (v := w) (g := { w.g with reclaim := w.g.reclaim ++ [b] }) rfl rfl
  unfold Srv.toReclaim
  cases v.g.reclaim.getLast? with
  | none => exact put v
  | some p => exact (tended_setLink v p b).trans (put _)

theorem tended_offReclaim (v : Srv) (b : Nat) : Tended v (v.offReclaim b) := by
  have linked : Tended v (match (v.g.reclaim.takeWhile (· != b)).getLast? with
      | some p => if v.g.reclaim.contains b then v.setLink p ((v.g.reclaim.drop ((v.g.reclaim.takeWhile (· != b)).length + 1)).headD 0) else v
      | none => v) := by
    split
    · split
      · exact tended_setLink ..
      · exact .refl v
    · exact .refl v
  exact linked.trans ⟨rfl, rfl, rfl⟩

theorem tended_release (v : Srv) (b : Nat) : Tended v (v.release b) := by
  have read := tended_ctl v b
  unfold Srv.release
  dsimp only
  split
  · exact read
  · split
    · split
      · exact read.trans (tended_toReclaim ..)
      · exact read.trans (tended_toFree ..)
    · exact read.trans (tended_putCtl ..)

theorem tended_hold (v : Srv) (b : Nat) : Tended v (v.hold b) := (tended_ctl ..).trans (tended_putCtl ..)

theorem tended_bucket (v : Srv) (key : Nat) : Tended v (v.bucket key).2 := by
  unfold Srv.bucket
  split
  · exact .refl v
  · exact (tended_failedRd ..).trans (tended_note ..)

theorem tended_look (v : Srv) (key : Nat) : Tended v (v.look key).2 := tended_bucket ..
theorem tended_pin (v : Srv) (key : Nat) (h : Nat × Nat) : Tended v (v.pin key h) := ((tended_putEntry ..).trans (tended_offReclaim ..)).trans (tended_hold ..)

theorem tended_dropEntry (v : Srv) (key b : Nat) : Tended v (v.dropEntry key b) := by
  unfold Srv.dropEntry
  dsimp only
  split
  · exact (tended_bucket ..).trans (tended_putEntry ..)
  · exact tended_bucket ..

theorem tended_take {v w : Srv} {b : Nat} (taken : v.take = some (b, w)) : Tended v w := by
  unfold Srv.take at taken
  split at taken
  next r _ =>
    obtain ⟨-, rfl⟩ := Prod.mk.inj (Option.some.inj taken)
    exact ((tended_ctl ..).trans (tended_putCtl ..)).regroup (g := { v.g with free := r }) rfl rfl
  next =>
    split at taken
    next r _ =>
      obtain ⟨-, rfl⟩ := Prod.mk.inj (Option.some.inj taken)
      exact (((tended_ctl ..).trans (tended_dropEntry ..)).trans (tended_putCtl ..)).regroup (g := { v.g with reclaim := r }) rfl rfl
    next => cases taken

theorem tended_failedList (v : Srv) (r : Req) : Tended v (v.failedList r) := by
  refine Tended.foldl (fun v i => ?_) _ v
  split
  · exact tended_failedRd ..
  · split
    · exact tended_failedRd ..
    · exact .refl v

theorem tended_finish (v : Srv) (r : Nat) : Tended v (v.finish r) :=
  (tended_wr ..).regroup (g := { v.g with last := BitVec.ofNat 64 (v.result r) }) rfl rfl

theorem tended_writeSlots (v : Srv) : Tended v v.writeSlots := by
  unfold Srv.writeSlots
  exact (tended_wr ..).regroup rfl rfl

/-! ## Requests changed: the step and the number of records stay -/

/-- Records changed too: the group's step and the number of records are as before. -/
structure Kept (v w : Srv) : Prop where
  step : w.g.step = v.g.step
  count : w.s.reqs.length = v.s.reqs.length

theorem Tended.kept {v w : Srv} (h : Tended v w) : Kept v w := ⟨h.step, congrArg List.length h.reqs⟩

namespace Kept

theorem refl (v : Srv) : Kept v v := ⟨rfl, rfl⟩

theorem trans {u v w : Srv} (h : Kept u v) (k : Kept v w) : Kept u w := ⟨k.step.trans h.step, k.count.trans h.count⟩

theorem foldl {β : Type} {f : Srv → β → Srv} (each : ∀ (v : Srv) b, Kept v (f v b)) (l : List β) (v : Srv) : Kept v (l.foldl f v) :=
  List.foldlRecOn (motive := Kept v) l f (refl v) fun w h b _ => h.trans (each w b)

end Kept

theorem kept_onReq (v : Srv) (i : Nat) (f : Req → Req) : Kept v (v.onReq i f) := ⟨rfl, List.length_set ..⟩

theorem req_onReq {v : Srv} {i : Nat} (there : i < v.s.reqs.length) (f : Req → Req) : (v.onReq i f).req i = f (v.req i) := by
  simp [Srv.req, Srv.onReq, Srv.setReq, lset, there]

theorem kept_fault (v : Srv) (i : Nat) : Kept v (v.fault i) := by
  unfold Srv.fault
  split
  · exact kept_onReq ..
  · exact kept_onReq ..

theorem kept_own (v : Srv) (i va : Nat) (bs : List Byte) : Kept v (v.own i va bs) := by
  unfold Srv.own
  split
  next w wrote => exact (tended_ownWr wrote).kept
  next => exact ((tended_failedRd ..).kept.trans (kept_fault ..)).trans (tended_record ..).kept

/-- What becomes of a record whose blocks are released: faulted where its list cannot be read (19 R323). -/
def released (v : Srv) (i : Nat) (f : Req → Req) (q : Req) : Req :=
  if v.listBad (v.req i) then (f { q with reserve := none }).fail fcKVFAULT else f { q with reserve := none }

theorem releaseAll_eq (v : Srv) (i : Nat) (f : Req → Req) : ∃ w, Tended v w ∧ v.releaseAll i f = w.onReq i (v.released i f) := by
  have listed : Tended v (if v.listBad (v.req i) then v.failedList (v.req i) else v) := by
    split
    · exact tended_failedList ..
    · exact .refl v
  have blocks := listed.trans (Tended.foldl tended_release (v.blocksOf (v.req i)) _)
  unfold Srv.releaseAll
  dsimp only
  cases (v.req i).reserve with
  | none => exact ⟨_, blocks, rfl⟩
  | some b => exact ⟨_, blocks.trans (tended_release ..), rfl⟩

theorem kept_releaseAll (v : Srv) (i : Nat) (f : Req → Req) : Kept v (v.releaseAll i f) := by
  obtain ⟨w, tended, same⟩ := v.releaseAll_eq i f
  rw [same]
  exact tended.kept.trans (kept_onReq ..)

theorem req_releaseAll {v : Srv} {i : Nat} (there : i < v.s.reqs.length) (f : Req → Req) : (v.releaseAll i f).req i = v.released i f (v.req i) := by
  obtain ⟨w, tended, same⟩ := v.releaseAll_eq i f
  rw [same, req_onReq (by rwa [tended.reqs]), tended.req]

/-! ## Forming a step (19 R325 to R327) -/

theorem kept_leaveSlot (v : Srv) (i : Nat) (f : Req → Req) : Kept v (v.leaveSlot i f) := by
  have all := kept_releaseAll v i fun r => f ((r.put rqSLOT noSlot).put rqQTOK 0)
  exact ⟨all.step, all.count⟩

theorem kept_vacate (l : List Nat) (v : Srv) (n : Nat) : Kept v (v.vacate l n).1 := by
  induction l generalizing v n with
  | nil => exact .refl v
  | cons sl r ih =>
    rw [Srv.vacate]
    split
    · exact ih ..
    · dsimp only
      split
      · exact (kept_leaveSlot ..).trans (ih ..)
      · split
        · exact ih ..
        · exact (kept_leaveSlot ..).trans (ih ..)
        · exact (kept_leaveSlot ..).trans (ih ..)

theorem step_intake (n : Nat) (v : Srv) (itail : Nat) : (v.intake itail n).g.step = v.g.step := by
  induction n generalizing v with
  | zero => rfl
  | succ k ih =>
    rw [Srv.intake]
    split
    · rfl
    · split
      · rfl
      · exact ih ..

theorem kept_readLists (v : Srv) : Kept v v.readLists := by
  refine Kept.foldl (fun v i => ?_) _ v
  split
  · exact (tended_failedList ..).kept.trans (kept_fault ..)
  · exact .refl v

theorem kept_watermark (k : Nat) (v : Srv) (n : Nat) : Kept v (v.watermark k n).1 := by
  induction k generalizing v n with
  | zero => exact .refl v
  | succ k ih =>
    rw [Srv.watermark]
    split
    · exact .refl v
    · dsimp only
      split
      · exact kept_readLists v
      · exact ((kept_readLists v).trans (kept_leaveSlot ..)).trans (ih ..)

theorem kept_extend (k : Nat) (v : Srv) (i : Nat) : Kept v (v.extend i k) := by
  induction k generalizing v with
  | zero => exact .refl v
  | succ k ih =>
    rw [Srv.extend]
    split
    · exact .refl v
    next b w taken =>
      have written := (tended_take taken).kept.trans (kept_own w i ((w.req i).f rqBLIST + 4 * (w.req i).f rqNBLK) (leBytes b 4))
      dsimp only
      split
      · exact written.trans (tended_release ..).kept
      · exact (written.trans (kept_onReq ..)).trans (ih ..)

theorem kept_grant (v : Srv) (i q : Nat) : Kept v (v.grant i q) := by
  have blocks : Kept v (if v.tailBad (v.req i) q then (v.failedList (v.req i)).fault i else v.extend i (newBlocks (v.req i) q)) := by
    split
    · exact (tended_failedList ..).kept.trans (kept_fault ..)
    · exact kept_extend ..
  unfold Srv.grant
  dsimp only
  generalize (if v.tailBad (v.req i) q then (v.failedList (v.req i)).fault i else v.extend i (newBlocks (v.req i) q)) = v1 at blocks ⊢
  split
  · exact blocks.trans (kept_onReq ..)
  · split
    · exact blocks.trans (kept_onReq ..)
    · split
      next b w taken => exact ((blocks.trans (tended_take taken).kept).trans (kept_onReq ..)).trans (kept_onReq ..)
      next => exact blocks.trans (kept_onReq ..)

theorem kept_giveActive (l : List Nat) (v : Srv) (b : Nat) : Kept v (v.giveActive l b).1 := by
  induction l generalizing v b with
  | nil => exact .refl v
  | cons sl r ih =>
    rw [Srv.giveActive]
    split
    · exact ih ..
    · dsimp only
      split
      · exact ih ..
      · exact ((kept_grant ..).trans (kept_onReq ..)).trans (ih ..)

theorem kept_reuse (k : Nat) (v : Srv) (q i parent : Nat) : Kept v (v.reuse q i parent k) := by
  induction k generalizing v i parent with
  | zero => exact .refl v
  | succ k ih =>
    unfold Srv.reuse
    split
    · exact (tended_failedRd ..).kept.trans (kept_fault ..)
    next toks _ =>
      have looked := (tended_look v (v.keyOf parent toks)).kept
      dsimp only
      split
      next w miss => rwa [miss] at looked
      next h w hit =>
        rw [hit] at looked
        have written := (looked.trans (tended_pin w (v.keyOf parent toks) h).kept).trans
          (kept_own _ q ((w.req q).f rqBLIST + 4 * i) (leBytes (peBID h.2) 4))
        split
        · exact written.trans (tended_release ..).kept
        · exact (written.trans (kept_onReq ..)).trans (ih ..)

theorem kept_failWaiting (v : Srv) (i : Nat) : Kept v (v.failWaiting i) := kept_releaseAll ..

theorem kept_letIn (l : List Nat) (v : Srv) (b n : Nat) : Kept v (v.letIn l b n).1 := by
  induction l generalizing v b n with
  | nil => exact .refl v
  | cons i r ih =>
    rw [Srv.letIn]
    split
    · exact .refl v
    next sl _ =>
      split
      · exact .refl v
      · dsimp only
        have looked : Kept v (if (v.req i).f rqNBLK == 0 then (v.onReq i fun r => r.put rqPOS 0).reuse i 0 0 (((v.req i).f rqKNOWN - 1) / 64) else v) := by
          split
          · exact (kept_onReq ..).trans (kept_reuse ..)
          · exact .refl v
        generalize (if (v.req i).f rqNBLK == 0 then (v.onReq i fun r => r.put rqPOS 0).reuse i 0 0 (((v.req i).f rqKNOWN - 1) / 64) else v) = v1 at looked ⊢
        split
        · exact (looked.trans (kept_failWaiting ..)).trans (ih ..)
        · split
          · refine Kept.trans ?_ (ih ..)
            split
            · exact looked.trans (kept_releaseAll ..)
            · exact looked
          · have granted := looked.trans (kept_grant v1 i (min ((v1.req i).f rqKNOWN - (v1.req i).f rqPOS) b))
            split
            · exact (granted.trans (kept_failWaiting ..)).trans (ih ..)
            · exact (granted.trans (kept_onReq ..)).trans (ih ..)

theorem form_busy {v : Srv} (busy : v.g.opn = true) (x : Nat) : v.form x = (v.finish svBUSY, svBUSY) := if_pos busy

/-- A forming counts the step and opens the group. -/
theorem form_opens {v : Srv} (closed : v.g.opn = false) (x : Nat) :
    (v.form x).1.g.step = v.g.step + 1 ∧ (v.form x).1.g.opn = true ∧ (v.form x).2 % 256 = 0 := by
  unfold Srv.form
  split
  next busy => exact absurd busy (by simp [closed])
  dsimp only
  have vacated := kept_vacate (List.range slotCount) { v with g := { v.g with step := v.g.step + 1, quar := v.g.leaving, leaving := [] } } v.g.leaving.length
  generalize Srv.vacate _ (List.range slotCount) v.g.leaving.length = p1 at vacated ⊢
  have taken := (step_intake maxReqs p1.1 x).trans vacated.step
  generalize p1.1.intake x maxReqs = v2 at taken ⊢
  have headed := (tended_wr v2 (v2.g.mgd.toNat + 24) (leBytes v2.g.ihead.toNat 4)).step.trans taken
  generalize v2.wr (v2.g.mgd.toNat + 24) (leBytes v2.g.ihead.toNat 4) = v3 at headed ⊢
  have marked := (kept_watermark slotCount v3 0).step.trans headed
  generalize v3.watermark slotCount 0 = p4 at marked ⊢
  have given := (kept_giveActive (List.range slotCount) p4.1 p4.1.g.tokb).step.trans marked
  generalize p4.1.giveActive (List.range slotCount) p4.1.g.tokb = p5 at given ⊢
  have admitted := (kept_letIn p5.1.waitOrder p5.1 p5.2 0).step.trans given
  generalize p5.1.letIn p5.1.waitOrder p5.2 0 = p6 at admitted ⊢
  have written := (tended_writeSlots p6.1).step.trans admitted
  generalize p6.1.writeSlots = v7 at written ⊢
  refine ⟨(tended_finish ..).step.trans written, (tended_finish ..).opn, ?_⟩
  rw [svOK]
  omega

/-! ## Committing it (19 R328) -/

theorem commit_busy {v : Srv} (closed : v.g.opn = false) (ws : Wsid) (x : Nat) : v.commit ws x = (v.finish svBUSY, svBUSY) := by
  unfold Srv.commit
  rw [closed]
  exact if_pos rfl

theorem commit_misaligned {v : Srv} (busy : v.g.opn = true) (ws : Wsid) {x : Nat} (crooked : x % 64 ≠ 0) : v.commit ws x = (v.finish svBADARG, svBADARG) := by
  simp [Srv.commit, busy, crooked]

/-- A commit whose array can be read at every held slot closes the group. -/
theorem commit_closes {v : Srv} {ws : Wsid} {x : Nat} (busy : v.g.opn = true) (aligned : x % 64 = 0) (inside : x < globalEnd)
    (reads : ∀ sl, sl < 512 → (v.slotHeld sl).isSome = true → (v.rdIn ws (x + 8 * sl) 8).isSome = true) :
    (v.commit ws x).1.g.opn = false ∧ (v.commit ws x).2 % 256 = 0 := by
  have good : (x % 64 != 0 || decide (globalEnd ≤ x)) = false := by simp [aligned, inside]
  have all : ((List.range slotCount).filter fun sl => (v.slotHeld sl).isSome).find? (fun sl => (v.rdIn ws (x + 8 * sl) 8).isNone) = none := by
    refine List.find?_eq_none.2 fun sl held => ?_
    obtain ⟨small, held⟩ := List.mem_filter.1 held
    simp [Option.isSome_iff_ne_none.1 (reads sl (List.mem_range.1 small) held)]
  unfold Srv.commit
  dsimp only
  rw [busy, good, all, Bool.not_true, if_neg Bool.false_ne_true, if_neg Bool.false_ne_true]
  dsimp only
  generalize Srv.commitAll v ws x (List.range slotCount) 0 0 = p
  generalize p.1.returnReserves = v2
  refine ⟨(tended_finish ..).opn, ?_⟩
  rw [svOK]
  omega

/-! ## A request looked up, evicted, read and freed (19 R340) -/

theorem find_lt {v : Srv} {id i : Nat} (found : v.find id = some i) : i < v.s.reqs.length :=
  List.mem_range.1 (List.mem_filter.1 (List.mem_of_find?_eq_some found)).1

variable {v : Srv} {x i : Nat}

theorem evictReq_found (high : x / 2 ^ 33 = 0) (found : v.find (x % 2 ^ 32) = some i) : v.evictReq x =
    if (v.req i).waiting then (if x / 2 ^ 32 % 2 == 1 then v.releaseAll i fun r => (r.retire fcCANCELLED).put rqNBLK 0 else v, svOK)
    else if (v.req i).active then (v.onReq i fun r => { r with evict := some (x / 2 ^ 32 % 2 == 1) }, svOK) else (v, svSTATE) := by
  have top : nbit x 33 31 = 0 := by rw [nbit, high, Nat.zero_mod]
  rw [Srv.evictReq, top, nbit_low, found]
  rfl

theorem evictReq_active (high : x / 2 ^ 33 = 0) (found : v.find (x % 2 ^ 32) = some i) (active : (v.req i).f rqSTATE = 2) :
    (v.evictReq x).2 = 0 ∧ (v.evictReq x).1.req i = { v.req i with evict := some (x / 2 ^ 32 % 2 == 1) } := by
  have waits : (v.req i).waiting = false := by simp [Req.waiting, active, rsWAITING, rsEVICTED]
  have runs : (v.req i).active = true := by simp [Req.active, active, rsACTIVE]
  rw [evictReq_found high found, waits, runs, if_neg Bool.false_ne_true, if_pos rfl]
  exact ⟨rfl, req_onReq (find_lt found) _⟩

/-- The fields of a cancelled record. -/
theorem cancelled_fields {q : Req} (whole : q.w.length = 16) :
    ((q.retire fcCANCELLED).put rqNBLK 0).f rqSTATE = 3 ∧ ((q.retire fcCANCELLED).put rqNBLK 0).f rqFCODE = 0x13 ∧ ((q.retire fcCANCELLED).put rqNBLK 0).f rqNBLK = 0 := by
  obtain ⟨state, code⟩ := ended_fields whole (state := rsRETIRED) (code := fcCANCELLED) (by decide) (by decide)
  refine ⟨?_, ?_, ?_⟩
  · rw [Req.f_put_elsewhere (by decide)]
    exact state
  · rw [Req.f_put_elsewhere (by decide)]
    exact code
  · exact Req.f_put_same (by simp [Req.retire, rqNBLK, whole]) (by decide)

theorem evictReq_cancels (high : x / 2 ^ 33 = 0) (found : v.find (x % 2 ^ 32) = some i) (waits : (v.req i).waiting = true) (cancel : (x / 2 ^ 32 % 2 == 1) = true) :
    (v.evictReq x).2 = 0 ∧ (v.evictReq x).1.req i = v.released i (fun r => (r.retire fcCANCELLED).put rqNBLK 0) (v.req i) := by
  rw [evictReq_found high found, waits, cancel, if_pos rfl, if_pos rfl]
  exact ⟨rfl, req_releaseAll (find_lt found) _⟩

/-- A cancelled request: no blocks; retired, or faulted where its block list cannot be read (19 R323). -/
theorem evictReq_cancelled (high : x / 2 ^ 33 = 0) (found : v.find (x % 2 ^ 32) = some i) (whole : (v.req i).w.length = 16) (waits : (v.req i).waiting = true)
    (cancel : (x / 2 ^ 32 % 2 == 1) = true) :
    (v.evictReq x).2 = 0 ∧ ((v.evictReq x).1.req i).f rqNBLK = 0
    ∧ ((∀ k, k < (v.req i).f rqNBLK → (v.blockAt (v.req i) k).isSome = true) → ((v.evictReq x).1.req i).f rqSTATE = 3 ∧ ((v.evictReq x).1.req i).f rqFCODE = 0x13)
    ∧ (∀ k, k < (v.req i).f rqNBLK → v.blockAt (v.req i) k = none → ((v.evictReq x).1.req i).f rqSTATE = 4 ∧ ((v.evictReq x).1.req i).f rqFCODE = 2) := by
  obtain ⟨status, record⟩ := evictReq_cancels high found waits cancel
  obtain ⟨state, code, blocks⟩ := cancelled_fields (q := { v.req i with reserve := none }) whole
  obtain ⟨state', code'⟩ := ended_fields (r := (({ v.req i with reserve := none } : Req).retire fcCANCELLED).put rqNBLK 0) (state := rsFAULTED) (code := fcKVFAULT)
    (by simpa [Req.retire] using whole) (by decide) (by decide)
  rw [status, record, Srv.released]
  refine ⟨rfl, ?_, fun readable => ?_, fun k small lost => ?_⟩
  · split
    · rw [Req.fail, Req.f_put_elsewhere (by decide), Req.f_put_elsewhere (by decide)]
      exact blocks
    · exact blocks
  · have fine : v.listBad (v.req i) = false := by
      refine List.any_eq_false.2 fun k small => ?_
      simp [Option.isSome_iff_ne_none.1 (readable k (List.mem_range.1 small))]
    rw [fine, if_neg Bool.false_ne_true]
    exact ⟨state, code⟩
  · have bad : v.listBad (v.req i) = true := List.any_eq_true.2 ⟨k, List.mem_range.2 small, by simp [lost]⟩
    rw [bad, if_pos rfl]
    exact ⟨state', code'⟩

theorem evictReq_waits (high : x / 2 ^ 33 = 0) (found : v.find (x % 2 ^ 32) = some i) (waits : (v.req i).waiting = true) (keep : (x / 2 ^ 32 % 2 == 1) = false) :
    v.evictReq x = (v, 0) := by
  rw [evictReq_found high found, waits, keep, if_pos rfl, if_neg Bool.false_ne_true, svOK]

theorem statReq_found (high : x / 2 ^ 37 = 0) (found : v.find (x % 2 ^ 32) = some i) :
    v.statReq x = (if x / 2 ^ 36 % 2 = 1 && (v.req i).ended then v.freeReq i else v, (v.req i).w.getD (x / 2 ^ 32 % 16) 0) := by
  have top : nbit x 37 27 = 0 := by rw [nbit, high, Nat.zero_mod]
  have free : (nbit x 36 1 = 1) = (x / 2 ^ 36 % 2 = 1) := rfl
  rw [Srv.statReq, top, nbit_low, found]
  simp only [free]
  rfl

theorem statReq_lost (high : x / 2 ^ 37 = 0) (lost : v.find (x % 2 ^ 32) = none) : v.statReq x = (v, 0xFFFF_FFFF_FFFF_FFFF) := by
  have top : nbit x 37 27 = 0 := by rw [nbit, high, Nat.zero_mod]
  rw [Srv.statReq, top, nbit_low, lost]
  rfl

theorem freeReq_slotless (slotless : (v.req i).f rqSLOT = 0x3FF) : (v.freeReq i).s.reqs = v.s.reqs.eraseIdx i := by
  simp [Srv.freeReq, slotless, noSlot]

theorem readSlot_eq (small : x < 512) (half : Nat) (two : half < 2) :
    v.readSlot (1024 * half + x) = ((sget x v.g.slots).getD 0).extractLsb' (64 * half) 64 := by
  have high : nbit (1024 * half + x) 11 53 = 0 := by simp only [nbit]; omega
  have slot : nbit (1024 * half + x) 0 10 = x := by simp only [nbit]; omega
  have which : nbit (1024 * half + x) 10 1 = half := by simp only [nbit]; omega
  have inside : ¬ slotCount ≤ x := by simp only [slotCount]; omega
  simp [Srv.readSlot, high, slot, which, inside]

/-! ## Holds taken and released (19 R341) -/

theorem nblks_lt (g : Group) : g.nblks < 2 ^ 24 := Nat.mod_lt _ (by decide)

theorem drop_beyond (high : x / 2 ^ 32 = 0) (beyond : v.g.nblks ≤ x) : v.drop x = (v, 5) := by
  have low : nbit x 0 32 = x := by rw [nbit_low]; omega
  simp [Srv.drop, low, beyond, svBADARG]

theorem drop_held {n : Nat} (inside : x < v.g.nblks) (word : v.ctl? x = some n) :
    v.drop x = if n / 2 ^ 128 % 2 ^ 16 = 0 then (v, svBADARG) else (v.release x, svOK) := by
  have small := Nat.lt_trans inside (nblks_lt v.g)
  have high : nbit x 32 32 = 0 := by rw [nbit]; omega
  have low : nbit x 0 32 = x := by rw [nbit_low]; omega
  have inside' : ¬ v.g.nblks ≤ x := by omega
  have held : (ckREF n = 0) = (n / 2 ^ 128 % 2 ^ 16 = 0) := rfl
  simp only [Srv.drop, high, low, inside', word, held, bne_self_eq_false, decide_false, Bool.or_self, Bool.false_eq_true, if_false]

/-- One hold fewer of a control word, of two or more. -/
theorem ckSet_fewer {n : Nat} (held : 2 ≤ n / 2 ^ 128 % 2 ^ 16) : ckSet n (ckREF n - 1) (ckST n) = n - 2 ^ 128 := by
  simp only [ckSet, putField, ckREF, ckST, nbit]
  omega

theorem release_held {n : Nat} (word : v.ctl? x = some n) (held : 2 ≤ n / 2 ^ 128 % 2 ^ 16) : v.release x = v.putCtl x (n - 2 ^ 128) := by
  have some' : ¬ ckREF n = 0 := by unfold ckREF nbit; omega
  have more : ¬ ckREF n = 1 := by unfold ckREF nbit; omega
  have read : v.ctl x = (n, v) := by rw [Srv.ctl, word]
  unfold Srv.release
  rw [read]
  dsimp only
  rw [if_neg some', if_neg more, ckSet_fewer held]

/-! ## A fork (19 R339) -/

/-- A fork with status 0 found the group closed and adds one record. -/
theorem fork_adds {ws : Wsid} (done : (v.fork ws x).2 = 0) : v.g.opn = false ∧ (v.fork ws x).1.s.reqs.length = v.s.reqs.length + 1 := by
  generalize forked : v.fork ws x = p at done ⊢
  unfold Srv.fork at forked
  split at forked
  next => subst forked; cases done
  rename_i closed
  refine ⟨Bool.eq_false_iff.2 closed, ?_⟩
  split at forked
  next => subst forked; cases done
  split at forked
  next => subst forked; cases done
  dsimp only at forked
  split at forked
  next => subst forked; cases done
  split at forked
  next => subst forked; cases done
  split at forked
  next => subst forked; cases done
  split at forked
  next => subst forked; cases done
  split at forked
  next toks list _ _ =>
    split at forked
    next => subst forked; cases done
    next =>
      subst forked
      exact (((kept_own ..).trans (kept_own ..)).trans (Tended.foldl tended_hold ..).kept).count.trans List.length_append
  next => subst forked; cases done
  next => subst forked; cases done

end Srv

end Sys2Proof.Machine

namespace Sys2Proof

open Sys2Proof.Machine

/-- Settles O47: a clause is the lemma of its operation; what an operation leaves of the group's step and of the records is
carried through the parts it is made of (`Srv.Tended`, `Srv.Kept`). -/
theorem servingEffects : Obligations.ServingEffects := by
  unfold Obligations.ServingEffects
  intro v ws x
  refine ⟨?forms, ?formBusy, ?commitBusy, ?commits, ?misaligned, ?evict, ?stat, ?statLost, ?slot, ?miss, ?hit, ?beyond, ?drops, ?fork⟩
  case forms => exact fun closed => Srv.form_opens closed x
  case formBusy =>
    intro busy
    have kept := v.tended_finish svBUSY
    rw [Srv.form_busy busy]
    exact ⟨rfl, kept.step, kept.opn.trans busy, kept.reqs⟩
  case commitBusy =>
    intro closed
    rw [Srv.commit_busy closed]
    exact ⟨rfl, (v.tended_finish svBUSY).reqs⟩
  case commits => exact fun busy aligned inside reads => Srv.commit_closes busy aligned inside reads
  case misaligned =>
    intro busy crooked
    rw [Srv.commit_misaligned busy ws crooked]
    exact ⟨rfl, (v.tended_finish svBADARG).opn.trans busy⟩
  case evict =>
    intro i cancel high choice found whole
    subst choice
    exact ⟨fun active => Srv.evictReq_active high found active, fun waits cancel => Srv.evictReq_cancelled high found whole waits cancel,
      fun waits keep => Srv.evictReq_waits high found waits keep⟩
  case stat =>
    intro i high found
    rw [Srv.statReq_found high found]
    refine ⟨rfl, fun keep => ?_, fun free state slotless => ?_⟩
    · rw [keep]
      rfl
    · have over' : (v.req i).ended = true := by simp [Req.ended, state, rsRETIRED]
      rw [free, over']
      exact Srv.freeReq_slotless slotless
  case statLost => exact fun high lost => Srv.statReq_lost high lost
  case slot =>
    intro small
    exact ⟨by simpa using Srv.readSlot_eq (v := v) small 0 (by decide), Srv.readSlot_eq small 1 (by decide)⟩
  case miss =>
    intro missed
    rw [Srv.lookup]
    split
    next => rfl
    next w hit => rw [hit] at missed; cases missed
  case hit =>
    intro h found
    rw [Srv.lookup]
    split
    next w miss => rw [miss] at found; cases found
    next w hit =>
      rw [hit] at found
      cases found
      rfl
  case beyond => exact fun high beyond => Srv.drop_beyond high beyond
  case drops =>
    intro n inside word
    rw [Srv.drop_held inside word]
    refine ⟨fun none' => if_pos none', fun some' => ?_, fun held => ?_⟩
    · rw [if_neg some', svOK]
    · rw [if_neg (by omega)]
      exact Srv.release_held word held
  case fork => exact Srv.fork_adds

end Sys2Proof
end
section
/-! SUPPORT. Reads and translations do not see in which list the tiles stand; the serving instructions (O46). -/

namespace Sys2Proof.Machine

open Sys2Proof.Safety

/-! ## What is read of memory decides every translation -/

/-- The same numbers stand in memory, and what a translation reads beside them is the same. -/
structure ReadsAlike (u w : State) : Prop where
  natAt : w.natAt = u.natAt
  mgmt : w.mgmt = u.mgmt
  node : w.idNode = u.idNode
  device : w.devLeaf = u.devLeaf

namespace ReadsAlike

variable {u w : State} (h : ReadsAlike u w)
include h

theorem wsWord : w.wsWord = u.wsWord := by
  funext ws i
  rw [State.wsWord, State.wsAddr, h.natAt, h.mgmt, State.wsWord, State.wsAddr]

theorem rgnOf : w.rgnOf = u.rgnOf := by
  funext ws rid
  rw [State.rgnOf, h.wsWord, h.natAt, State.rgnOf]

theorem walkFrom (va : Nat) : w.walkFrom va = u.walkFrom va := by
  have grouped : w.group64 = u.group64 := by
    funext table va
    rw [State.group64, h.natAt, State.group64]
  funext level
  induction level with
  | zero =>
    funext table
    rw [State.walkFrom, h.natAt, grouped, State.walkFrom]
  | succ l ih =>
    funext table
    rw [State.walkFrom, h.natAt, ih, State.walkFrom]

theorem leafOf : w.leafOf = u.leafOf := by
  funext ws va
  rw [State.leafOf, h.wsWord, h.walkFrom, h.device, State.leafOf]

theorem fabByte : w.fabByte = u.fabByte := by
  funext ws va
  rw [State.fabByte, h.wsWord, State.fabByte]

theorem fabPlace : w.fabPlace = u.fabPlace := by
  funext ws va
  rw [State.fabPlace, h.fabByte, h.wsWord, h.leafOf, h.natAt, h.node, State.fabPlace]

theorem xlate : w.xlate = u.xlate := by
  funext ws va write
  rw [State.xlate, h.fabPlace, h.leafOf, State.xlate]

end ReadsAlike

namespace Retiled

/-! ## What a state whose tiles stand in another list reads -/

theorem split {u w : State} (h : Retiled u w) : ∃ ts, w = { u with tiles := ts } :=
  ⟨w.tiles, congrArg (fun s : State => { s with tiles := w.tiles }) h.1⟩

section
variable {u w : State} (h : Retiled u w)
include h

theorem latestWord (a : Nat) : w.latestWord a = u.latestWord a := by
  have slice : w.sliceWord = u.sliceWord := by
    obtain ⟨ts, rfl⟩ := h.split
    rfl
  have holder : ∀ p, w.holderWord p a = u.holderWord p a := by
    intro p
    cases p with
    | tile t => exact congrArg (fun T : Tile => sget a T.l1) (h.2 t)
    | cluster t =>
      obtain ⟨ts, rfl⟩ := h.split
      rfl
  have reg : w.reg = u.reg := (congrArg State.reg h.1 :)
  simp only [State.latestWord, State.heldBytes, State.heldBad, slice, holder, reg]

theorem readAt : w.readAt = u.readAt := by
  have latest : w.latestWord = u.latestWord := funext h.latestWord
  funext pa n
  rw [State.readAt, latest, State.readAt]

theorem reads : ReadsAlike u w where
  natAt := by
    funext pa n
    rw [State.natAt, h.readAt, State.natAt]
  mgmt := (congrArg State.mgmt h.1 :)
  node := (congrArg State.idNode h.1 :)
  device := (congrArg State.devLeaf h.1 :)

theorem winPlace : w.winPlace = u.winPlace := by
  have role : w.role = u.role := (congrArg State.role h.1 :)
  have page : w.pageEnt = u.pageEnt := by
    funext r page
    rw [State.pageEnt, h.reads.natAt, State.pageEnt]
  funext r off
  rw [State.winPlace, page, role, State.winPlace]

theorem rgnFor : w.rgnFor = u.rgnFor := by
  have listed : w.listedWs = u.listedWs := (congrArg State.listedWs h.1 :)
  have owners : w.tableOwners = u.tableOwners := by rw [State.tableOwners, listed, h.reads.wsWord, State.tableOwners]
  funext ws rid write
  rw [State.rgnFor, h.reads.rgnOf, owners, State.rgnFor]

theorem tileAt : w.tileAt = u.tileAt := funext h.2

theorem winBytes : w.winBytes = u.winBytes := by
  funext ows rid off n
  rw [State.winBytes, h.reads.rgnOf, h.winPlace, h.readAt, h.tileAt, State.winBytes]

theorem sectorTurn : w.sectorTurn = u.sectorTurn := by
  have order : w.biOrder = u.biOrder := (congrArg State.biOrder h.1 :)
  have live : w.keyLive = u.keyLive := by
    funext k
    unfold State.keyLive
    rw [h.tileAt, h.flights]
  funext k pa
  rw [State.sectorTurn, order, live, State.sectorTurn]

/-- An operation on sectors that goes on. -/
theorem hostGate {k pas : List Nat} {write : Bool} (goes : u.hostGate k pas write = none) : w.hostGate k pas write = none := by
  refine List.findSome?_eq_none_iff.2 fun pa mem => ?_
  have here := List.findSome?_eq_none_iff.1 goes pa mem
  have on : w.biOn = u.biOn := (congrArg State.biOn h.1 :)
  have holds : w.hostHolds = u.hostHolds := (congrArg State.hostHolds h.1 :)
  split at here
  next => cases here
  next turn =>
    split at here
    next => cases here
    next free => rw [on, h.sectorTurn, if_neg turn, holds, if_neg free]

theorem winGate {k : List Nat} {ows rid off n : Nat} {write : Bool} (goes : u.winGate k ows rid off n write = none) : w.winGate k ows rid off n write = none := by
  unfold State.winGate at goes ⊢
  rw [h.reads.rgnOf, h.winPlace]
  cases found : u.rgnOf ows rid with
  | none => rfl
  | some r =>
    rw [found, Option.bind_some] at goes
    rw [Option.bind_some]
    split at goes
    next pa _ => exact h.hostGate goes
    next => exact goes

theorem engRead (e : EngId) (p : EPlace) (n : Nat) : w.engRead e p n = u.engRead e p n := by
  cases p with
  | store off => rw [State.engRead, h.2, State.engRead]
  | mem va pa => exact congrFun (congrFun h.readAt pa) n
  | node va k pa =>
    obtain ⟨ts, rfl⟩ := h.split
    rfl
  | win ows rid off => rw [State.engRead, h.winBytes, State.engRead]

/-! ## The checks of an engine's access -/

theorem viaTlb {tile who : Nat} {ws : Wsid} {va : Nat} {n : Need} {p : Nat × Bool} (passes : u.viaTlb tile who ws va n = .ok p) :
    w.viaTlb tile who ws va n = .ok p := by
  have walks : ∀ p : Nat × Bool, u.needWalk who ws va n ≠ .ok p := by
    intro p
    unfold State.needWalk
    split <;> nofun
  unfold State.viaTlb at passes ⊢
  rw [h.2, h.reads.leafOf]
  split at passes
  next e found =>
    split at passes
    next => cases passes
    next unsealed =>
      split at passes
      next allowed => rw [if_neg unsealed, if_pos allowed, passes]
      next => exact absurd passes (walks p)
  next =>
    split at passes
    next device => rw [if_pos device, passes]
    next => exact absurd passes (walks p)

theorem reachGlobal {tile who : Nat} {ws : Wsid} {va : Nat} {n : Need} {p : Place} (passes : u.reachGlobal tile who ws va n = .ok p) :
    w.reachGlobal tile who ws va n = .ok p := by
  unfold State.reachGlobal at passes ⊢
  rw [h.reads.fabPlace]
  split at passes
  next =>
    have walks : ∀ p : Place, u.needWalk who ws (u.fabByte ws.toNat va) needLoad ≠ .ok p := by
      intro p
      unfold State.needWalk
      split <;> nofun
    split at passes
    next => cases passes
    next other => exact absurd passes (walks p)
  next k =>
    split at passes
    next pa sl found =>
      rw [h.viaTlb found]
      exact passes
    next => cases passes
    next => cases passes
  next =>
    split at passes
    next pa sl found =>
      rw [h.viaTlb found]
      exact passes
    next => cases passes
    next => cases passes

theorem engGlobal {e : EngId} {need : Need} {va n : Nat} {p : EPlace} (passes : u.engGlobal e need va n = .ok p) : w.engGlobal e need va n = .ok p := by
  unfold State.engGlobal at passes ⊢
  rw [h.flights]
  split at passes
  next => cases passes
  next => cases passes
  next ows rid off found =>
    rw [h.reachGlobal found]
    exact passes
  next k pa found =>
    rw [h.reachGlobal found]
    split at passes
    next => cases passes
    next free => exact (if_neg free).trans passes
  next pa sl found =>
    rw [h.reachGlobal found]
    split at passes
    next => cases passes
    next free =>
      refine (if_neg free).trans ?_
      split at passes
      next => cases passes
      next gate =>
        rw [h.hostGate gate]
        exact passes

theorem engWindow {e : EngId} {need : Need} {va n : Nat} {p : EPlace} (passes : u.engWindow e need va n = .ok p) : w.engWindow e need va n = .ok p := by
  unfold State.engWindow at passes ⊢
  rw [h.rgnFor, h.flights]
  split at passes
  next => cases passes
  next r found =>
    rw [h.winPlace]
    split at passes
    next => cases passes
    next granted =>
      split at passes
      next => cases passes
      next still =>
        refine (if_neg granted).trans ((if_neg still).trans ?_)
        split at passes
        next => cases passes
        next gate =>
          rw [h.winGate gate]
          exact passes

theorem engPlace {e : EngId} {need : Need} {va n : Nat} {p : EPlace} (passes : u.engPlace e need va n = .ok p) : w.engPlace e need va n = .ok p := by
  unfold State.engPlace at passes ⊢
  split at passes
  next => cases passes
  next => exact passes
  next => exact h.engWindow passes
  next => exact h.engGlobal passes

theorem engLines {e : EngId} {need : Need} {l : List (Nat × Nat × Nat)} {ps : List (EPlace × Nat)} (passes : u.engLines e need l = .ok ps) :
    w.engLines e need l = .ok ps := by
  induction l generalizing ps with
  | nil => exact passes
  | cons c r ih =>
    obtain ⟨pos, va, n⟩ := c
    unfold State.engLines at passes ⊢
    split at passes
    next => cases passes
    next => cases passes
    next p place =>
      rw [h.engPlace place]
      split at passes
      next qs rest =>
        rw [ih rest]
        exact passes
      next other => exact absurd passes (other ps)

/-- A run that passes its checks. -/
theorem engRun {e : EngId} {need : Need} {va n : Nat} {ps : List (EPlace × Nat)} (passes : u.engRun e need va n = .ok ps) : w.engRun e need va n = .ok ps := by
  unfold State.engRun at passes ⊢
  rw [h.2]
  split at passes
  next => cases passes
  next assigned =>
    refine (if_neg assigned).trans ?_
    dsimp only at passes ⊢
    split at passes
    next => cases passes
    next => cases passes
    next qs lines =>
      rw [h.engLines lines]
      simp only [h.engRead]
      split at passes
      next => cases passes
      next unlocked =>
        refine (if_neg unlocked).trans ?_
        split at passes
        next => cases passes
        next clean => exact (if_neg clean).trans passes

theorem x (r : Reg) : w.x r = u.x r := by rw [State.x, h.th, State.x]
theorem agentEng : w.agentEng = u.agentEng := by
  rw [State.agentEng, State.agentEng, State.who, State.who, h.curTile, h.curAgent, h.ws]

theorem hereAt {need : Need} {a n : Nat} (here : hereAt u need a n) : hereAt w need a n := by
  obtain ⟨global, ps, passes, near⟩ := here
  exact ⟨global, ps, by rw [h.agentEng]; exact h.engRun passes, near⟩

end

end Retiled

/-! ## The checks of a serving instruction (19 R344) -/

section
variable {u : State} {m rd : Reg} (clear : u.acquiring = false) (here : hereAt u needLoad (u.x m).toNat 128) (aligned : (u.x m).toNat % 128 = 0)
include clear here aligned

theorem State.serving_full (full : u.fullService = true) (commit : Bool) (k : State → Done) : u.serving m rd commit k = k u := by
  rw [State.serving, clear, globalObject_of_here here aligned, full]
  rfl

theorem State.serving_reduced (reduced : u.fullService = false) (commit : Bool) (k : State → Done) :
    u.serving m rd commit k = u.answered commit rd (BitVec.ofNat 64 svBUSY) := by
  rw [State.serving, clear, globalObject_of_here here aligned, reduced]
  rfl

end

theorem State.localOperand_near {u : State} {a : Word} (near : ∀ k, u.fabPlace u.ws.toNat a.toNat ≠ .node k) (d : Done) : u.localOperand a d = d := by
  unfold State.localOperand
  split
  next k place => exact absurd place (near k)
  next => rfl

theorem State.applyGroup_found {u : State} {m rd : Reg} {v : Srv} (found : u.findGroup u.ws (u.x m) = .ok v) (commit : Bool) (f : Srv → Srv × Word) :
    u.applyGroup m rd commit f = (f v).1.close.answered commit rd (if (f v).1.bad.isSome then 7 else (f v).2) := by
  rw [State.applyGroup, found]
  rfl

theorem State.applyGroup_error {u : State} {m rd : Reg} {st : Nat} (lost : u.findGroup u.ws (u.x m) = .error st) (commit : Bool) (f : Srv → Srv × Word) :
    u.applyGroup m rd commit f = u.answered commit rd (BitVec.ofNat 64 st) := by
  rw [State.applyGroup, lost]

/-! ## The span of a descriptor inside the span that was checked -/

theorem regionOfVa_global_iff (a : Nat) : regionOfVa a = .global ↔ a < globalEnd := by
  unfold regionOfVa
  split
  next low => simp [low]
  next high =>
    refine iff_of_false ?_ high
    split
    · nofun
    · split <;> nofun

theorem accessRegion_global_prefix {a n k : Nat} (global : accessRegion a n = .global) (some' : 0 < k) (part : k ≤ n) : accessRegion a k = .global := by
  unfold accessRegion at global ⊢
  dsimp only at global ⊢
  split at global
  next same =>
    have last : regionOfVa (a + n - 1) = .global := by
      simp only [Bool.or_eq_true, decide_eq_true_eq] at same
      exact (same.resolve_left (by omega)).trans global
    have near : regionOfVa (a + k - 1) = .global := (regionOfVa_global_iff _).2 (by have := (regionOfVa_global_iff _).1 last; omega)
    rw [near, global]
    simp
  next => cases global

/-! ## The instructions (19 R344, R345) -/

/-- The agent waits for the reply that brings a value. -/
def repliedTo (commit : Bool) (w : State) (rd : Reg) (r : Word) : State :=
  waitsFor .reply (if commit = true then committedTo (w.pc + 4) (w.sendReply rd r) else wentOn (w.pc + 4) (w.sendReply rd r))

/-- The reply brings the value of an operation on a group, or KVFAULT. -/
def servedTo (commit : Bool) (rd : Reg) (p : Srv × Word) : State := repliedTo commit p.1.close rd (if p.1.bad.isSome then 7 else p.2)

section
variable {s u : State} {m : SMark} {rd rs1 rs2 : Reg}

theorem exec_of_reply {i : Instr} {d : Done} {w : State} {r : Word} {commit : Bool} (runs : exec i s = .next (State.finish (d.afterStreams u)))
    (noStream : u.tile.streams u.src true true = false) (ends : d = w.answered commit rd r) : exec i s = .next (repliedTo commit w rd r) := by
  cases commit with
  | true => exact exec_of_requested runs noStream ends
  | false => exact exec_of_answered runs ends

variable (free : accessFree u) (here : hereAt u needLoad (u.x rs1).toNat 128) (aligned : (u.x rs1).toNat % 128 = 0)
include free here aligned

section
variable {i : Instr} {commit : Bool} {d : Done} {k : State → Done} {f : Srv → Srv × Word} (runs : exec i s = .next (State.finish (d.afterStreams u)))
  (checks : d = u.serving rs1 rd commit k)
include runs checks

/-- An instruction that, past its checks, applies an operation to the group that rs1 names. -/
theorem exec_served (applies : k u = u.applyGroup rs1 rd commit f) (full : u.fullService = true) {v : Srv} (found : u.findGroup u.ws (u.x rs1) = .ok v) :
    exec i s = .next (servedTo commit rd (f v)) := by
  refine exec_of_reply runs (free.2.1 true true) ?_
  rw [checks, State.serving_full free.1 here aligned full, applies, State.applyGroup_found found]

/-- Where there is no such group, the reply brings the status alone. -/
theorem exec_unserved (applies : k u = u.applyGroup rs1 rd commit f) (full : u.fullService = true) {st : Nat} (lost : u.findGroup u.ws (u.x rs1) = .error st) :
    exec i s = .next (repliedTo commit u rd (BitVec.ofNat 64 st)) := by
  refine exec_of_reply runs (free.2.1 true true) ?_
  rw [checks, State.serving_full free.1 here aligned full, applies, State.applyGroup_error lost]

theorem exec_reduced (reduced : u.fullService = false) : exec i s = .next (repliedTo commit u rd 1) := by
  refine exec_of_reply runs (free.2.1 true true) ?_
  rw [checks, State.serving_reduced free.1 here aligned reduced]
  rfl

end

variable {c : Fin 8} (issued : issues s m u) (acts : u.curAgent = .ctx c)
include issued acts

theorem exec_bform (unheld : u.launchHeld = false) (stored : u.storesOut u.src = false) (full : u.fullService = true) :
    exec (.bform m rd rs1 rs2) s = .next (repliedTo true (u.doBform u.ws (u.x rs1)).1 rd (BitVec.ofNat 64 (u.doBform u.ws (u.x rs1)).2)) := by
  refine exec_of_reply (exec_strand (i := .bform m rd rs1 rs2) issued acts rfl) (free.2.1 true true) ?_
  rw [unheld, if_neg Bool.false_ne_true, State.serving_full free.1 here aligned full]
  exact if_neg (Bool.eq_false_iff.1 stored)

section
variable (full : u.fullService = true) {v : Srv} (found : u.findGroup u.ws (u.x rs1) = .ok v)
include full found

theorem exec_rqevict : exec (.rqevict m rd rs1 rs2) s = .next (servedTo true rd (asWord (v.evictReq (u.x rs2).toNat))) :=
  exec_served free here aligned (f := fun v => asWord (v.evictReq (u.x rs2).toNat)) (exec_strand (i := .rqevict m rd rs1 rs2) issued acts rfl) rfl rfl full found

theorem exec_rqstat : exec (.rqstat m rd rs1 rs2) s = .next (servedTo false rd (v.statReq (u.x rs2).toNat)) :=
  exec_served free here aligned (f := fun v => v.statReq (u.x rs2).toNat) (exec_strand (i := .rqstat m rd rs1 rs2) issued acts rfl) rfl rfl full found

theorem exec_slotrd : exec (.slotrd m rd rs1 rs2) s = .next (servedTo false rd (v, v.readSlot (u.x rs2).toNat)) :=
  exec_served free here aligned (f := fun v => (v, v.readSlot (u.x rs2).toNat)) (exec_strand (i := .slotrd m rd rs1 rs2) issued acts rfl) rfl rfl full found

theorem exec_kvrel : exec (.kvrel m rd rs1 rs2) s = .next (servedTo true rd (asWord (v.drop (u.x rs2).toNat))) :=
  exec_served free here aligned (f := fun v => asWord (v.drop (u.x rs2).toNat)) (exec_strand (i := .kvrel m rd rs1 rs2) issued acts rfl) rfl rfl full found

section
variable (near : ∀ k, u.fabPlace u.ws.toNat (u.x rs2).toNat ≠ .node k)
include near

theorem exec_kvlook {bs : List Byte} (even : (u.x rs2).toNat % 16 = 0) (inside : (u.x rs2).toNat < globalEnd)
    (reads : u.vread u.ws.toNat (u.x rs2).toNat 16 = .ok (bs, false)) :
    exec (.kvlook m rd rs1 rs2) s = .next (servedTo true rd (({ v with s := v.s.vsee u.ws.toNat (u.x rs2).toNat 16 } : Srv).lookup (leNat bs))) := by
  have good : ((u.x rs2).toNat % 16 != 0 || decide (globalEnd ≤ (u.x rs2).toNat)) = false := by simp [even, inside]
  refine exec_served free here aligned (f := fun v => ({ v with s := v.s.vsee u.ws.toNat (u.x rs2).toNat 16 } : Srv).lookup (leNat bs))
    (exec_strand (i := .kvlook m rd rs1 rs2) issued acts rfl) rfl ((State.localOperand_near near _).trans ?_) full found
  dsimp only
  rw [good, reads]
  rfl

variable (stored : u.storesOut u.src = false)
include stored

theorem exec_bcommit (unheld : u.launchHeld = false) : exec (.bcommit m rd rs1 rs2) s = .next (servedTo true rd (asWord (v.commit u.ws (u.x rs2).toNat))) :=
  exec_served free here aligned (f := fun v => asWord (v.commit u.ws (u.x rs2).toNat)) (exec_strand (i := .bcommit m rd rs1 rs2) issued acts rfl)
    (if_neg (Bool.eq_false_iff.1 unheld)) ((State.localOperand_near near _).trans (if_neg (Bool.eq_false_iff.1 stored))) full found

theorem exec_rqfork : exec (.rqfork m rd rs1 rs2) s = .next (servedTo true rd (asWord (v.fork u.ws (u.x rs2).toNat))) :=
  exec_served free here aligned (f := fun v => asWord (v.fork u.ws (u.x rs2).toNat)) (exec_strand (i := .rqfork m rd rs1 rs2) issued acts rfl)
    rfl ((State.localOperand_near near _).trans (if_neg (Bool.eq_false_iff.1 stored))) full found

end

end

/-- KVAPP reads its 512 bytes of the tile store, then applies them to the group. -/
theorem exec_kvapp (unheld : u.launchHeld = false) (full : u.fullService = true) (tile : tileBase ≤ (u.x rd).toNat)
    (inside : (u.x rd).toNat - tileBase + 512 ≤ storeSize) (even : (u.x rd).toNat % 64 = 0) (locks : u.tile.locks = []) (poison : u.tile.poison = []) :
    ∃ t, exec (.kvapp m rd rs1 rs2) s = .next t ∧ ∃ w, Retiled u w ∧ ∀ v, w.findGroup u.ws (u.x rs1) = .ok v →
      t = servedTo true rd (asWord (v.append (u.x rs2).toNat (u.tile.bytes ((u.x rd).toNat - tileBase) 512))) := by
  have same : Retiled u (u.setTh u.th) := .setTh_self u
  have here' : hereAt (u.setTh u.th) needLoad ((u.setTh u.th).x rs1).toNat 128 := by rw [same.x]; exact same.hereAt here
  have full' : (u.setTh u.th).fullService = true := full
  have runs : exec (.kvapp m rd rs1 rs2) s = .next (State.finish (Done.afterStreams u ((u.setTh u.th).applyGroup rs1 rd true fun v =>
      asWord (v.append ((u.setTh u.th).x rs2).toNat (u.tile.bytes ((u.x rd).toNat - tileBase) 512))))) := by
    rw [exec_strand (i := .kvapp m rd rs1 rs2) issued acts rfl]
    dsimp only
    rw [free.1, unheld, if_neg Bool.false_ne_true, if_neg Bool.false_ne_true, globalObject_of_here here aligned, accessRegion_tile tile,
      bne_self_eq_false, if_neg Bool.false_ne_true, even, bne_self_eq_false, if_neg Bool.false_ne_true, State.readNow_inside tile inside locks poison]
    have clear : (u.setTh u.th).acquiring = false := by rw [State.acquiring, same.th]; exact free.1
    rw [State.serving_full clear here' (by rwa [same.x]) full']
  rw [same.x] at runs
  cases found : (u.setTh u.th).findGroup (u.setTh u.th).ws ((u.setTh u.th).x rs1) with
  | error st =>
    refine ⟨_, exec_of_reply runs (free.2.1 true true) (State.applyGroup_error found ..), u.setTh u.th, same, fun v found' => ?_⟩
    rw [same.ws, same.x, found'] at found
    cases found
  | ok v =>
    refine ⟨_, exec_of_reply runs (free.2.1 true true) (State.applyGroup_found found ..), u.setTh u.th, same, fun v' found' => ?_⟩
    rw [same.ws, same.x, found'] at found
    cases found
    rfl

/-- DATTN, its order held, reads its descriptor and is launched with it. -/
theorem exec_dattn {ps : List (EPlace × Nat)} (full : u.fullService = true) (released : u.released u.th.outs u.src .pkg = true)
    (passes : u.engRun u.agentEng needLoad (u.x rs1).toNat 64 = .ok ps) (near : ∀ p ∈ ps, ∀ a k pa, p.1 ≠ EPlace.node a k pa) :
    exec (.dattn m rd rs1 rs2) s = .next (State.finish (Done.afterStreams u (
      (u.engTouchAll u.agentEng ps).launchDattn rd ((u.engTouchAll u.agentEng ps).x rs1) (u.engBytes u.agentEng ps)))) := by
  have global : accessRegion (u.x rs1).toNat 64 = .global := accessRegion_global_prefix here.1 (by decide) (by decide)
  have reads : ∀ k : State → List Byte → Done, u.readNow (u.x rs1).toNat 64 k = k (u.engTouchAll u.agentEng ps) (u.engBytes u.agentEng ps) := by
    intro k
    rw [State.readNow, passes, global]
    rfl
  rw [exec_strand (i := .dattn m rd rs1 rs2) issued acts rfl]
  rw [free.1, State.globalObject_here global (by omega) passes near, released, full, reads]
  rfl

end

/-- DATTN puts its descriptor last in its die's queue, and its status 0 in rd (19 R342). -/
theorem State.launchDattn_queues {w w1 w2 : State} {rd : Reg} {addr : Word} {desc qe oe sl : List Byte} {v : Srv}
    (found : w.findGroup w.ws (daMGD (leNat desc)) = .ok v) (queries : w.ttRead w.who w.curTile w.ws (daQTID (leNat desc)) = .ok (w1, some qe))
    (outputs : w1.ttRead w1.who w1.curTile w1.ws (daOTID (leNat desc)) = .ok (w2, some oe)) (good : daBad (leNat desc) v.g.nlayer = false)
    (goodQ : daTensorBad qe = false) (goodO : daTensorBad oe = false) (slots : w2.vread w2.ws.toNat (daSLIST (leNat desc)) (2 * daNSL (leNat desc)) = .ok (sl, false))
    (room : (w2.die (w2.curTile / 256)).dattn.length < 16) :
    let w3 := w2.vsee w2.ws.toNat (daSLIST (leNat desc)) (2 * daNSL (leNat desc))
    w.launchDattn rd addr desc = .commit ((w3.setDie (w2.curTile / 256) { w3.die (w2.curTile / 256) with dattn := (w3.die (w2.curTile / 256)).dattn ++
      [{ src := w2.src, addr := addr, gid := v.g.pa, desc := desc, slist := chop 2 (daNSL (leNat desc)) sl, qe := qe, oe := oe, fenceE := w2.th.fenceE }] }).setX rd 0) := by
  have room' : ¬ dattnSlots ≤ (w2.die (w2.curTile / 256)).dattn.length := by simpa [dattnSlots] using room
  intro w3
  unfold State.launchDattn
  dsimp only
  rw [found]
  dsimp only
  rw [queries]
  dsimp only
  rw [outputs]
  dsimp only
  rw [good, goodQ, goodO, slots]
  exact (if_neg Bool.false_ne_true).trans (if_neg room')

end Sys2Proof.Machine

namespace Sys2Proof

open Sys2Proof.Machine Sys2Proof.Safety

/-- Settles O46: past its checks an instruction applies its operation to the group it finds, and the reply brings the value (`exec_served`);
KVAPP works in the state that its read at issue leaves, which differs at most in the list that its tiles stand in (`Retiled`). -/
theorem servingInstructions : Obligations.ServingInstructions := by
  unfold Obligations.ServingInstructions
  intro s u m c issued acts free unheld stored rd rs1 rs2 here x back served status local' aligned near
  refine ⟨fun v full found => ⟨?commit, ?fork, ?evict, ?stat, ?slot, ?kvrel, fun bs even inside reads => ?kvlook⟩, fun full => ?bform,
    fun full tile inside even locks poison => ?kvapp, fun st full lost => ?lost, fun reduced => ⟨?slotReduced, ?kvrelReduced⟩, ?dattn⟩
  case commit => exact completes_next (exec_bcommit free local' aligned issued acts full found near stored unheld) rfl
  case fork => exact completes_next (exec_rqfork free local' aligned issued acts full found near stored) rfl
  case evict => exact completes_next (exec_rqevict free local' aligned issued acts full found) rfl
  case stat => exact completes_next (exec_rqstat free local' aligned issued acts full found) rfl
  case slot => exact completes_next (exec_slotrd free local' aligned issued acts full found) rfl
  case kvrel => exact completes_next (exec_kvrel free local' aligned issued acts full found) rfl
  case kvlook => exact completes_next (exec_kvlook free local' aligned issued acts full found near even inside reads) rfl
  case bform => exact completes_next (exec_bform free local' aligned issued acts unheld stored full) rfl
  case kvapp =>
    obtain ⟨t, runs, w, same, value⟩ := exec_kvapp free local' aligned issued acts unheld full tile inside even locks poison
    exact completes_next runs ⟨w, same.1, same.2, fun v found => value v found⟩
  case lost =>
    exact exec_unserved free local' aligned (f := fun v => v.statReq (u.x rs2).toNat) (exec_strand (i := .rqstat m rd rs1 rs2) issued acts rfl) rfl rfl full lost
  case slotReduced => exact completes_next (exec_reduced free local' aligned (exec_strand (i := .slotrd m rd rs1 rs2) issued acts rfl) rfl reduced) rfl
  case kvrelReduced => exact completes_next (exec_reduced free local' aligned (exec_strand (i := .kvrel m rd rs1 rs2) issued acts rfl) rfl reduced) rfl
  case dattn =>
    intro ps v w1 w2 qe oe sl full released passes near' w desc d found queries outputs good goodQ goodO slots room w3
    have runs := exec_dattn (rd := rd) (rs2 := rs2) free local' aligned issued acts full released passes near'
    have ends := exec_of_commit runs (free.2.1 true true) (State.launchDattn_queues found queries outputs good goodQ goodO slots room)
    have pc : w3.pc = w2.pc := (vsee_outside ..).caches.pc
    refine completes_next ends ?_
    rw [State.pc_setX]
    exact congrArg (fun pc => committedTo (pc + 4) _) pc

end Sys2Proof
end

section
/-! SUPPORT. Runs that differ in the list their tiles stand in: what the accesses to memory of a save read and write is the same (O33). -/

namespace Sys2Proof.Machine

open Sys2Proof.Safety

/-! ## What no access to memory decides on -/

/-- The state without its tiles, its bytes and flights, and without what is only kept for reports: poison, the ages of lines, errors. -/
def State.core (s : State) : State :=
  { s with
    tiles := [], mem := [], mpoison := [], l2Bad := [], regLines := [], regOver := [], flights := [], charges := [],
    rings := Vector.replicate 5 [], errWritten := Vector.replicate 5 0 }

/-- An operation whose effect on the core is that on the core alone. -/
def coreStep (f : State → State) : Prop := ∀ s : State, (f s).core = (f s.core).core

theorem coreStep.of_core {f : State → State} (step : coreStep f) {s t : State} (same : t.core = s.core) : (f t).core = (f s).core := by
  rw [step t, same, ← step s]

theorem coreStep.comp {f g : State → State} (hf : coreStep f) (hg : coreStep g) : coreStep fun s => g (f s) :=
  fun s => (hg.of_core (hf s))

theorem coreStep_dropL2 (e : L2Line) : coreStep fun s => s.dropL2 e := by
  intro s
  unfold State.dropL2
  dsimp only
  split
  · rfl
  · split
    · split <;> split <;> rfl
    · rfl

theorem coreStep_allocL2 (e : L2Line) : coreStep fun s => s.allocL2 e := by
  intro s
  have l2 : s.core.l2 = s.l2 := rfl
  unfold State.allocL2
  dsimp only
  rw [l2]
  split
  · rfl
  · split
    next v _ _ => exact congrArg (fun t : State => { t with l2 := t.l2 ++ [e] }) (coreStep_dropL2 v s)
    next => rfl

theorem coreStep_touchLine (pa : Nat) : coreStep fun s => s.touchLine pa := by
  intro s
  unfold State.touchLine
  dsimp only
  have test : (!s.core.fullService || homeDie pa == 4 || regionOf pa == .device || !backed s.core pa || s.core.l2Has (pa / 128))
    = (!s.fullService || homeDie pa == 4 || regionOf pa == .device || !backed s pa || s.l2Has (pa / 128)) := rfl
  rw [test]
  split
  · rfl
  · exact coreStep_allocL2 _ s

theorem coreStep_markDirty (line : Nat) (ws : Wsid) : coreStep fun s => s.markDirty line ws := fun _ => rfl
theorem coreStep_unregister (w : Nat) : coreStep fun s => s.unregister w := fun _ => rfl

/-- A word written in memory. -/
theorem core_putWord {s : State} {w : Nat} (written : writable s (8 * w) = true) (cells : List (Nat × Byte)) (ws : Wsid) :
    (s.putWord w cells ws).core = ((s.touchLine (8 * w)).markDirty (w / 16) ws).core := by
  rw [State.putWord, if_pos written]
  exact (coreStep_markDirty _ ws).of_core ((coreStep_touchLine _).of_core rfl)

theorem coreStep_putWord (w : Nat) (cells : List (Nat × Byte)) (ws : Wsid) : coreStep fun s => s.putWord w cells ws := by
  intro s
  dsimp only
  cases written : writable s (8 * w) with
  | true =>
    rw [core_putWord written, core_putWord (s := s.core) written]
    exact ((coreStep_touchLine (8 * w)).comp (coreStep_markDirty (w / 16) ws)) s
  | false =>
    have unwritten : writable s.core (8 * w) = false := written
    rw [State.putWord, State.putWord, written, unwritten]
    rfl

/-! ## The list that the tiles stand in -/

/-- Another list in which each tile is found as before, whatever is set in it. -/
structure Faithful (f : List (Nat × Tile) → List (Nat × Tile)) : Prop where
  get : ∀ l n, (sget n (f l)).getD .reset = (sget n l).getD .reset
  set : ∀ l n T, sset n T (f l) = f (sset n T l)
  l1 : ∀ l (p : Nat × L1Word → Bool), ((f l).any fun e => e.2.l1.any p) = l.any fun e => e.2.l1.any p

/-- A tile set to what it is. -/
def touched (k : Nat) (l : List (Nat × Tile)) : List (Nat × Tile) := sset k ((sget k l).getD .reset) l

theorem sset_comm {α : Type} {j k : Nat} (other : j ≠ k) (a b : α) (l : List (Nat × α)) : sset j a (sset k b l) = sset k b (sset j a l) := by
  induction l with
  | nil =>
    rcases Nat.lt_or_gt_of_ne other with lt | gt
    · simp [sset, other, lt, other.symm, Nat.lt_asymm lt]
    · simp [sset, other, gt, other.symm, Nat.lt_asymm gt]
  | cons e r ih =>
    obtain ⟨i, v⟩ := e
    rcases Nat.lt_trichotomy j i with hj | hj | hj <;> rcases Nat.lt_trichotomy k i with hk | hk | hk <;>
      rcases Nat.lt_or_gt_of_ne other with lt | gt <;>
      simp [sset, *, Nat.ne_of_lt, Nat.ne_of_gt, Nat.lt_asymm] <;> omega

/-- A tile set to what it is stays in its place, or comes before keys above its own. -/
theorem sset_sget_cases {α : Type} (k : Nat) (d : α) (l : List (Nat × α)) : sset k ((sget k l).getD d) l = l
    ∨ ∃ a b, l = a ++ b ∧ sset k ((sget k l).getD d) l = a ++ (k, (sget k b).getD d) :: b ∧ (∀ e ∈ a, e.1 ≠ k) := by
  induction l with
  | nil => exact .inr ⟨[], [], rfl, rfl, nofun⟩
  | cons e r ih =>
    obtain ⟨i, v⟩ := e
    rcases Nat.lt_trichotomy k i with lt | eq | gt
    · refine .inr ⟨[], (i, v) :: r, rfl, ?_, nofun⟩
      simp [sset, Nat.ne_of_lt lt, lt]
    · exact .inl (by simp [sset, sget, eq])
    · have other : k ≠ i := by omega
      have passed : sset k ((sget k ((i, v) :: r)).getD d) ((i, v) :: r) = (i, v) :: sset k ((sget k r).getD d) r := by
        simp [sset, sget, other, Nat.lt_asymm gt]
      rcases ih with same | ⟨a, b, parts, inserted, before⟩
      · exact .inl (passed.trans (congrArg _ same))
      · refine .inr ⟨(i, v) :: a, b, congrArg _ parts, passed.trans (congrArg _ inserted), fun e he => ?_⟩
        rcases List.mem_cons.1 he with rfl | he
        · exact other.symm
        · exact before e he

theorem Faithful.touched (k : Nat) : Faithful (touched k) where
  get l n := by
    by_cases same : n = k
    · rw [same, Machine.touched, sget_sset_same]
      rfl
    · rw [Machine.touched, sget_sset_ne same]
  set l n T := by
    by_cases same : n = k
    · rw [same, Machine.touched, Machine.touched, sset_sset, sset_sset, sget_sset_same]
      rfl
    · rw [Machine.touched, Machine.touched, sset_comm same, sget_sset_ne (Ne.symm same)]
  l1 l p := by
    rcases sset_sget_cases k Tile.reset l with same | ⟨a, b, parts, inserted, -⟩
    · rw [Machine.touched, same]
    · rw [Machine.touched, inserted, parts, List.any_append, List.any_append, List.any_cons]
      cases found : sget k b with
      | none => rfl
      | some T =>
        cases held : T.l1.any p with
        | false => simp [held]
        | true =>
          have there : (b.any fun e => e.2.l1.any p) = true := List.any_eq_true.2 ⟨_, mem_of_sget found, held⟩
          simp [there]

theorem sliceBytes_of {s t : State} (core : t.core = s.core) (mem : ∀ a, mget t.mem a = mget s.mem a) (w : Nat) :
    (t.sliceWord w).bytes = (s.sliceWord w).bytes := by
  have keeps : t.hostKeeps (8 * w) = s.hostKeeps (8 * w) := (congrArg (fun c : State => c.hostKeeps (8 * w)) core :)
  have fresh : t.fresh = s.fresh := (congrArg State.fresh core :)
  have bytes : mread t.mem (8 * w) 8 = mread s.mem (8 * w) 8 := by
    rw [mread_eq_map, mread_eq_map]
    exact List.map_congr_left fun i _ => mem _
  rw [State.sliceWord, State.sliceWord, keeps, fresh, bytes]

/-! ## Two states alike -/

/-- The same core and bytes, the same words on their way as sealed, and the same tiles in another list. -/
structure Alike (f : List (Nat × Tile) → List (Nat × Tile)) (s t : State) : Prop where
  core : t.core = s.core
  mem : ∀ a, mget t.mem a = mget s.mem a
  sealed : ∀ line, t.flights.any (Flight.sealedOf line) = s.flights.any (Flight.sealedOf line)
  tiles : t.tiles = f s.tiles

namespace Alike

variable {f : List (Nat × Tile) → List (Nat × Tile)} (good : Faithful f) {s t : State} (h : Alike f s t)
include h

theorem slice (w : Nat) : (t.sliceWord w).bytes = (s.sliceWord w).bytes := sliceBytes_of h.core h.mem w

theorem heldBytes (w : Nat) (l : L1Word) : t.heldBytes w l = s.heldBytes w l := by
  rw [State.heldBytes, h.slice, State.heldBytes]

include good

theorem tileAt (n : Nat) : t.tileAt n = s.tileAt n := by
  rw [State.tileAt, h.tiles, good.get, State.tileAt]

theorem holderWord (p : Holder) (w : Nat) : t.holderWord p w = s.holderWord p w := by
  cases p with
  | tile n => exact congrArg (fun T : Tile => sget w T.l1) (h.tileAt good n)
  | cluster c =>
    have cu : t.cu = s.cu := (congrArg State.cu h.core :)
    rw [State.holderWord, cu, State.holderWord]

theorem latestWord (w : Nat) : (t.latestWord w).bytes = (s.latestWord w).bytes := by
  have reg : t.reg = s.reg := (congrArg State.reg h.core :)
  unfold State.latestWord
  rw [reg]
  split
  · exact h.slice w
  · rw [h.holderWord good]
    split
    · exact h.slice w
    · exact h.heldBytes w _

theorem readAt (pa n : Nat) : (t.readAt pa n).1 = (s.readAt pa n).1 := by
  have all : ((wordsOf pa n).map t.latestWord).flatMap (·.bytes) = ((wordsOf pa n).map s.latestWord).flatMap (·.bytes) := by
    rw [List.flatMap_map, List.flatMap_map]
    exact List.flatMap_congr fun w _ => h.latestWord good w
  rw [State.readAt]
  dsimp only
  rw [all]
  rfl

theorem reads : ReadsAlike s t where
  natAt := by
    funext pa n
    rw [State.natAt, h.readAt good, State.natAt]
  mgmt := (congrArg State.mgmt h.core :)
  node := (congrArg State.idNode h.core :)
  device := (congrArg State.devLeaf h.core :)

theorem xlateRun (ws : Nat) (write : Bool) (l : List (Nat × Nat)) : t.xlateRun ws write l = s.xlateRun ws write l := by
  induction l with
  | nil => rfl
  | cons c r ih =>
    rw [State.xlateRun, (h.reads good).xlate, ih]
    rfl

theorem vnat (ws va n : Nat) : t.vnat ws va n = s.vnat ws va n := by
  unfold State.vnat State.vread
  rw [h.xlateRun good]
  cases s.xlateRun ws false (chunksOf va n) with
  | error e => rfl
  | ok l =>
    have bytes : (l.map fun c => t.readAt c.1 c.2).flatMap (·.1) = (l.map fun c => s.readAt c.1 c.2).flatMap (·.1) := by
      rw [List.flatMap_map, List.flatMap_map]
      exact List.flatMap_congr fun c _ => h.readAt good c.1 c.2
    dsimp only
    rw [bytes]

end Alike

/-! ## Operations that leave bytes, flights and tiles -/

/-- Bytes, flights and tiles as they were. -/
structure Calm (s t : State) : Prop where
  mem : t.mem = s.mem
  flights : t.flights = s.flights
  tiles : t.tiles = s.tiles

namespace Calm

theorem refl (s : State) : Calm s s := ⟨rfl, rfl, rfl⟩

theorem trans {s t u : State} (h : Calm s t) (k : Calm t u) : Calm s u := ⟨k.mem.trans h.mem, k.flights.trans h.flights, k.tiles.trans h.tiles⟩

theorem dropL2 (s : State) (e : L2Line) : Calm s (s.dropL2 e) := by
  unfold State.dropL2
  dsimp only
  split
  · exact ⟨rfl, rfl, rfl⟩
  · split
    · split <;> exact ⟨rfl, rfl, rfl⟩
    · exact ⟨rfl, rfl, rfl⟩

theorem touchLine (s : State) (pa : Nat) : Calm s (s.touchLine pa) := by
  have entered : ∀ (t : State) (e : L2Line), Calm t { t with l2 := t.l2 ++ [e] } := fun _ _ => ⟨rfl, rfl, rfl⟩
  unfold State.touchLine State.allocL2
  dsimp only
  split
  · exact refl s
  · split
    · exact entered ..
    · split
      · exact (dropL2 ..).trans (entered ..)
      · exact entered ..

theorem noteNomem (s : State) (pa n ws : Nat) : Calm s (s.noteNomem pa n ws) := by
  unfold State.noteNomem
  split
  · exact ⟨rfl, rfl, rfl⟩
  · exact refl s

end Calm

theorem core_noteNomem (s : State) (pa n ws : Nat) : (s.noteNomem pa n ws).core = s.core := by
  unfold State.noteNomem
  split <;> rfl

theorem putWord_flights (s : State) (w : Nat) (cells : List (Nat × Byte)) (ws : Wsid) : (s.putWord w cells ws).flights = s.flights := by
  unfold State.putWord
  split
  · exact (Calm.touchLine ..).flights
  · rfl

namespace Alike

variable {f : List (Nat × Tile) → List (Nat × Tile)} {s t : State}

theorem calm {s' t' : State} (h : Alike f s t) (hs : Calm s s') (ht : Calm t t') (core : t'.core = s'.core) : Alike f s' t' where
  core := core
  mem a := by rw [ht.mem, hs.mem, h.mem]
  sealed line := by rw [ht.flights, hs.flights, h.sealed]
  tiles := by rw [ht.tiles, hs.tiles, h.tiles]

theorem foldl {β : Type} {g : State → β → State} (each : ∀ {s t : State} (b : β), Alike f s t → Alike f (g s b) (g t b)) (l : List β) (h : Alike f s t) :
    Alike f (l.foldl g s) (l.foldl g t) := by
  induction l generalizing s t with
  | nil => exact h
  | cons b r ih => exact ih (each b h)

theorem touchLine (h : Alike f s t) (pa : Nat) : Alike f (s.touchLine pa) (t.touchLine pa) :=
  h.calm (.touchLine ..) (.touchLine ..) ((coreStep_touchLine pa).of_core h.core)

theorem noteNomem (h : Alike f s t) (pa n ws : Nat) : Alike f (s.noteNomem pa n ws) (t.noteNomem pa n ws) :=
  h.calm (.noteNomem ..) (.noteNomem ..) ((core_noteNomem ..).trans (h.core.trans (core_noteNomem ..).symm))

theorem laySector (h : Alike f s t) (pa : Nat) : Alike f (s.laySector pa) (t.laySector pa) where
  core := (show coreStep fun s => s.laySector pa from fun _ => rfl).of_core h.core
  mem a := by
    have fresh : t.fresh = s.fresh := (congrArg State.fresh h.core :)
    unfold State.laySector State.hostBytes
    dsimp only
    rw [fresh]
    generalize (List.range 64).map (fun i => Config.hostByte (pa / 64 * 64 + i) s.fresh) = bs
    by_cases outside : a < pa / 64 * 64 ∨ pa / 64 * 64 + bs.length ≤ a
    · rw [mget_mwrite_outside _ _ outside, mget_mwrite_outside _ _ outside, h.mem]
    · obtain ⟨i, rfl⟩ := Nat.exists_eq_add_of_le (show pa / 64 * 64 ≤ a by omega)
      have inside : i < bs.length := by omega
      rw [mget_mwrite_inside _ _ _ _ inside, mget_mwrite_inside _ _ _ _ inside]
  sealed := h.sealed
  tiles := h.tiles

theorem takeSector (h : Alike f s t) (pa : Nat) (write : Bool) : Alike f (s.takeSector pa write) (t.takeSector pa write) := by
  have hold : t.hold = s.hold := (congrArg State.hold h.core :)
  have host : t.hostHeld = s.hostHeld := (congrArg State.hostHeld h.core :)
  have setHold : ∀ {s t : State}, Alike f s t → ∀ x, Alike f (s.setHold pa x) (t.setHold pa x) := fun h x =>
    h.calm ⟨rfl, rfl, rfl⟩ ⟨rfl, rfl, rfl⟩ ((show coreStep fun s => s.setHold pa x from fun _ => rfl).of_core h.core)
  have setHost : ∀ {s t : State}, Alike f s t → ∀ x, Alike f (s.setHostSt pa x) (t.setHostSt pa x) := fun h x =>
    h.calm ⟨rfl, rfl, rfl⟩ ⟨rfl, rfl, rfl⟩ ((show coreStep fun s => s.setHostSt pa x from fun _ => rfl).of_core h.core)
  unfold State.takeSector
  rw [hold, host]
  split
  · split
    · exact setHold (h.laySector pa) _
    · split
      · exact setHold h _
      · exact h
    · exact h
  · have laid : Alike f (if (sget (sectorOf pa) s.hostHeld).isNone then s.laySector pa else s)
        (if (sget (sectorOf pa) s.hostHeld).isNone then t.laySector pa else t) := by
      split
      · exact h.laySector pa
      · exact h
    dsimp only
    split
    · exact setHost laid _
    · exact laid
  · exact h

theorem nomemRuns (h : Alike f s t) (l : List (Nat × Nat)) (ws : Nat) : Alike f (s.nomemRuns l ws) (t.nomemRuns l ws) := by
  have back : backed t = backed s := (congrArg backed h.core :)
  unfold State.nomemRuns
  rw [back]
  split
  · exact h.noteNomem ..
  · exact h

theorem vsee (good : Faithful f) (h : Alike f s t) (ws va n : Nat) : Alike f (s.vsee ws va n) (t.vsee ws va n) := by
  unfold State.vsee
  rw [h.xlateRun good]
  split
  next a _ =>
    have idle : ∀ s : State, Calm s (s.walkNomem ws a) ∧ (s.walkNomem ws a).core = s.core := by
      intro s
      unfold State.walkNomem
      split
      · exact ⟨.noteNomem .., core_noteNomem ..⟩
      · exact ⟨.refl s, rfl⟩
    exact h.calm (idle s).1 (idle t).1 ((idle t).2.trans (h.core.trans (idle s).2.symm))
  next l _ => exact (h.foldl (fun a h => (h.touchLine a).takeSector a false) _).nomemRuns l ws

theorem putWord (h : Alike f s t) (w : Nat) (cells : List (Nat × Byte)) (ws : Wsid) : Alike f (s.putWord w cells ws) (t.putWord w cells ws) where
  core := (coreStep_putWord w cells ws).of_core h.core
  mem a := by
    have same : writable t (8 * w) = writable s (8 * w) := (congrArg (fun c => writable c (8 * w)) h.core :)
    rw [mem_putWord, mem_putWord, same]
    split
    · rw [mget_cells, mget_cells, h.mem]
    · exact h.mem a
  sealed line := by rw [putWord_flights, putWord_flights, h.sealed]
  tiles := by rw [(putWord_holders ..).tiles, (putWord_holders ..).tiles, h.tiles]

theorem writeBackWord (h : Alike f s t) (w : Nat) (l : L1Word) (p : Holder) : Alike f (s.writeBackWord w l p) (t.writeBackWord w l p) := by
  have wrote := h.putWord w (wordCells (s.heldBytes w l)) l.ws
  have idle : ∀ (s s1 : State), Calm s1 (if s.heldBad w l then (s1.setPoison w true).chargeEvict 0 (holderTile p) (holderTile p) l.ws (8 * w) else s1)
      ∧ (if s.heldBad w l then (s1.setPoison w true).chargeEvict 0 (holderTile p) (holderTile p) l.ws (8 * w) else s1).core = s1.core := by
    intro s s1
    split
    · exact ⟨⟨rfl, rfl, rfl⟩, rfl⟩
    · exact ⟨.refl _, rfl⟩
  unfold State.writeBackWord
  rw [h.heldBytes]
  exact wrote.calm (idle s _).1 (idle t _).1 ((idle t _).2.trans (wrote.core.trans (idle s _).2.symm))

theorem unregister (h : Alike f s t) (w : Nat) : Alike f (s.unregister w) (t.unregister w) :=
  h.calm ⟨rfl, rfl, rfl⟩ ⟨rfl, rfl, rfl⟩ ((coreStep_unregister w).of_core h.core)

theorem setTile (good : Faithful f) (h : Alike f s t) (n : Nat) (T : Tile) : Alike f (s.setTile n T) (t.setTile n T) where
  core := h.core
  mem := h.mem
  sealed := h.sealed
  tiles := by
    rw [State.setTile, h.tiles]
    exact good.set ..

theorem ackLate (h : Alike f s t) (n w : Nat) : Alike f { s with flights := s.flights.map (Flight.ackLate n w) } { t with flights := t.flights.map (Flight.ackLate n w) } where
  core := h.core
  mem := h.mem
  sealed line := by
    have kept : (Flight.sealedOf line ∘ Flight.ackLate n w) = Flight.sealedOf line := funext fun x => sealedOf_ackLate line n w x
    rw [List.any_map, List.any_map, kept, h.sealed]
  tiles := h.tiles

theorem dropHeld (good : Faithful f) (h : Alike f s t) (p : Holder) (w : Nat) : Alike f (s.dropHeld p w) (t.dropHeld p w) := by
  cases p with
  | tile n =>
    unfold State.dropHeld
    dsimp only
    rw [h.tileAt good]
    exact (h.setTile good n _).ackLate n w
  | cluster c => exact h.calm ⟨rfl, rfl, rfl⟩ ⟨rfl, rfl, rfl⟩ ((show coreStep fun s => s.dropHeld (.cluster c) w from fun _ => rfl).of_core h.core)

theorem revoke (good : Faithful f) (h : Alike f s t) (w : Nat) : Alike f (s.revoke w) (t.revoke w) := by
  have reg : t.reg = s.reg := (congrArg State.reg h.core :)
  unfold State.revoke
  rw [reg]
  split
  · exact h
  · dsimp only
    rw [h.holderWord good]
    split
    · exact ((h.writeBackWord ..).dropHeld good ..).unregister w
    · exact h.unregister w

end Alike

end Sys2Proof.Machine
end

section
/-! SUPPORT. The words of a sealed line given back by the tiles that hold them: the order of the tiles does not matter (13 R263; O33). -/

namespace Sys2Proof.Machine

open Sys2Proof.Safety

/-! ## Addresses of one line -/

/-- The region of an address some bytes further on in it. -/
def Region.plus : Region → Nat → Region
  | .hbm d off, r => .hbm d (off + r)
  | .cxl p off, r => .cxl p (off + r)
  | .host a, r => .host (a + r)
  | x, _ => x

theorem regionOf_line (q : Nat) {r : Nat} (small : r < 128) : regionOf (128 * q + r) = (regionOf (128 * q)).plus r := by
  have c1 : (128 * q + r < 0x1_0000_0000) = (128 * q < 0x1_0000_0000) := propext (by omega)
  have c2 : (128 * q + r < 0x80_0000_0000) = (128 * q < 0x80_0000_0000) := propext (by omega)
  have c3 : (128 * q + r < 0x100_0000_0000) = (128 * q < 0x100_0000_0000) := propext (by omega)
  have c4 : (128 * q + r < 0x500_0000_0000) = (128 * q < 0x500_0000_0000) := propext (by omega)
  have c5 : (128 * q + r < 0x8_0000_0000_0000) = (128 * q < 0x8_0000_0000_0000) := propext (by omega)
  have c6 : (2 ^ 52 ≤ 128 * q + r) = (2 ^ 52 ≤ 128 * q) := propext (by omega)
  unfold regionOf
  simp only [c1, c2, c3, c4, c5, c6]
  split
  · rfl
  · split
    · rfl
    · split
      · exact congrArg₂ Region.hbm (by omega) (by omega)
      · split
        · exact congrArg₂ Region.cxl (by omega) (by omega)
        · split
          · rfl
          · split
            · rfl
            · exact congrArg Region.host (by omega)

/-- Offsets in the regions that start a line. -/
theorem regionOf_aligned (q : Nat) : (∀ d off, regionOf (128 * q) = .hbm d off → off % 128 = 0) ∧ (∀ p off, regionOf (128 * q) = .cxl p off → off % 128 = 0) := by
  unfold regionOf
  constructor
  · intro d off
    split
    · nofun
    · split
      · nofun
      · split
        · intro same
          cases same
          omega
        · split
          · nofun
          · split
            · nofun
            · split <;> nofun
  · intro p off
    split
    · nofun
    · split
      · nofun
      · split
        · nofun
        · split
          · intro same
            cases same
            omega
          · split
            · nofun
            · split <;> nofun

theorem homeDie_line (q : Nat) {r : Nat} (small : r < 128) : homeDie (128 * q + r) = homeDie (128 * q) := by
  unfold homeDie
  rw [regionOf_line q small]
  cases regionOf (128 * q) with
  | host a =>
    change (128 * q + r) / 2 ^ 13 % 4 = 128 * q / 2 ^ 13 % 4
    omega
  | _ => rfl

theorem backed_line (s : State) (q : Nat) {r : Nat} (small : r < 128) : backed s (128 * q + r) = backed s (128 * q) := by
  obtain ⟨hbm, cxl⟩ := regionOf_aligned q
  unfold backed
  rw [regionOf_line q small]
  cases region : regionOf (128 * q) with
  | hbm d off =>
    have start := hbm d off region
    have full : (off + r < 128000000000) = (off < 128000000000) := propext (by omega)
    have half : (off + r < 64000000000) = (off < 64000000000) := propext (by omega)
    have part : (off + r < 64 * 0x20_0000) = (off < 64 * 0x20_0000) := propext (by omega)
    simp only [Region.plus, hbmBacked, full, half, part]
  | cxl p off =>
    have start := cxl p off region
    have units : (off + r < Config.cxlUnits p * 2 ^ 28) = (off < Config.cxlUnits p * 2 ^ 28) := propext (by omega)
    simp only [Region.plus, units]
  | _ => rfl

theorem sliceAt_line (s : State) (q : Nat) {r : Nat} (small : r < 128) : s.sliceAt (128 * q + r) = s.sliceAt (128 * q) := by
  unfold State.sliceAt sliceOf
  dsimp only
  split
  · have high : ∀ l, 7 ≤ l → (128 * q + r) / 2 ^ l = 128 * q / 2 ^ l := by
      intro l hl
      obtain ⟨m, rfl⟩ := Nat.exists_eq_add_of_le hl
      rw [Nat.pow_add, ← Nat.div_div_eq_div_mul, ← Nat.div_div_eq_div_mul]
      congr 1
      omega
    rw [high 7 (by decide), high 13 (by decide), high 19 (by decide), high 25 (by decide), high 31 (by decide), high 37 (by decide), high 43 (by decide),
      high 49 (by decide)]
  · omega

/-- A line is fetched for each of its bytes alike. -/
theorem touchLine_line (s : State) (q : Nat) {r : Nat} (small : r < 128) : s.touchLine (128 * q + r) = s.touchLine (128 * q) := by
  have device : (regionOf (128 * q + r) == .device) = (regionOf (128 * q) == .device) := by
    rw [regionOf_line q small]
    cases regionOf (128 * q) <;> rfl
  have line : (128 * q + r) / 128 = 128 * q / 128 := by omega
  unfold State.touchLine State.homeSlice
  rw [homeDie_line q small, device, backed_line s q small, line, sliceAt_line s q small]

theorem writable_line (s : State) (q : Nat) {r : Nat} (small : r < 128) : writable s (128 * q + r) = writable s (128 * q) := by
  have regs : (regionOf (128 * q + r) != .regs) = (regionOf (128 * q) != .regs) := by
    rw [regionOf_line q small]
    cases regionOf (128 * q) <;> rfl
  rw [writable, regs, backed_line s q small, writable]

section
variable {x line : Nat} (inside : x / 16 = line)
include inside

theorem word_of_line : ∃ r < 128, 8 * x = 128 * line + r := ⟨8 * x - 128 * line, by omega, by omega⟩

theorem touchLine_word (s : State) : s.touchLine (8 * x) = s.touchLine (128 * line) := by
  obtain ⟨r, small, at'⟩ := word_of_line inside
  rw [at', touchLine_line s line small]

theorem writable_word (s : State) : writable s (8 * x) = writable s (128 * line) := by
  obtain ⟨r, small, at'⟩ := word_of_line inside
  rw [at', writable_line s line small]

end

/-! ## A line that the slice holds once it is fetched -/

/-- Nothing is to be fetched for a line: the slice has it, or does not keep it. -/
def State.lineKept (s : State) (line : Nat) : Bool :=
  !s.fullService || homeDie (128 * line) == 4 || regionOf (128 * line) == .device || !backed s (128 * line) || s.l2Has (128 * line / 128)

theorem touchLine_of_kept {s : State} {line : Nat} (kept : s.lineKept line = true) : s.touchLine (128 * line) = s := by
  rw [State.touchLine]
  exact if_pos kept

theorem lineKept_touchLine (s : State) (line : Nat) : (s.touchLine (128 * line)).lineKept line = true := by
  cases kept : s.lineKept line with
  | true => rw [touchLine_of_kept kept, kept]
  | false =>
    have fetched : s.touchLine (128 * line) = s.allocL2 { slice := s.homeSlice (128 * line), line := 128 * line / 128, dirty := none, copy := none } := by
      rw [State.touchLine]
      exact if_neg (Bool.eq_false_iff.1 kept)
    have has : (s.touchLine (128 * line)).l2Has (128 * line / 128) = true := by
      rw [fetched, State.l2Has, State.allocL2]
      simp
    rw [State.lineKept, has, Bool.or_true]

/-! ## A line's last writer left out -/

def L2Line.shaded (line : Nat) (e : L2Line) : L2Line := if e.line = line && e.copy.isNone then { e with dirty := none } else e

/-- The state without the last writer of a line. -/
def State.shaded (line : Nat) (s : State) : State := { s with l2 := s.l2.map (L2Line.shaded line) }

theorem shaded_markDirty (s : State) (line : Nat) (ws : Wsid) : (s.markDirty line ws).shaded line = s.shaded line := by
  have each : L2Line.shaded line ∘ (fun e => if e.line = line && e.copy.isNone then { e with dirty := some ws } else e) = L2Line.shaded line := by
    funext e
    by_cases hl : e.line = line <;> by_cases hc : e.copy = none <;> simp [L2Line.shaded, hl, hc]
  rw [State.markDirty, State.shaded, List.map_map, each]
  rfl

theorem markDirty_shaded (s : State) (line : Nat) (ws : Wsid) : (s.shaded line).markDirty line ws = s.markDirty line ws := by
  have each : (fun e : L2Line => if e.line = line && e.copy.isNone then { e with dirty := some ws } else e) ∘ L2Line.shaded line
      = fun e => if e.line = line && e.copy.isNone then { e with dirty := some ws } else e := by
    funext e
    by_cases hl : e.line = line <;> by_cases hc : e.copy = none <;> simp [L2Line.shaded, hl, hc]
  rw [State.markDirty, State.shaded, List.map_map, each]
  rfl

theorem l2Has_shaded (s : State) (line n : Nat) : (s.shaded line).l2Has n = s.l2Has n := by
  have each : (fun e : L2Line => e.line == n && e.copy.isNone) ∘ L2Line.shaded line = fun e => e.line == n && e.copy.isNone := by
    funext e
    by_cases at' : (e.line = line && e.copy.isNone : Bool) = true <;> simp [L2Line.shaded, at']
  rw [State.l2Has, State.shaded, List.any_map, each, State.l2Has]

theorem shaded_of_absent {s : State} {line : Nat} (absent : s.l2Has line = false) : s.shaded line = s := by
  have each : ∀ e ∈ s.l2, L2Line.shaded line e = e := by
    intro e he
    have other := List.any_eq_false.1 absent e he
    rw [L2Line.shaded, if_neg (by simpa using other)]
  rw [State.shaded, List.map_congr_left each, List.map_id']

section
variable {line : Nat} {s t : State} (core : (t.shaded line).core = (s.shaded line).core)
include core

theorem l2Has_of_core : t.l2Has line = s.l2Has line := by
  rw [← l2Has_shaded t line, ← l2Has_shaded s line]
  exact (congrArg (fun c : State => c.l2Has line) core :)

/-- The line fetched. -/
theorem core_touchLine : ((t.touchLine (128 * line)).shaded line).core = ((s.touchLine (128 * line)).shaded line).core := by
  cases has : s.l2Has line with
  | true =>
    have kept : ∀ v : State, v.l2Has line = true → v.lineKept line = true := by
      intro v has
      rw [State.lineKept, Nat.mul_div_cancel_left line (by decide), has, Bool.or_true]
    rw [touchLine_of_kept (kept s has), touchLine_of_kept (kept t ((l2Has_of_core core).trans has)), core]
  | false =>
    have whole : t.core = s.core := by
      rw [← shaded_of_absent has, ← shaded_of_absent ((l2Has_of_core core).trans has), core]
    exact congrArg (State.shaded line) ((coreStep_touchLine _).of_core whole)

end

/-! ## The host's sectors of a line that is fetched -/

theorem sget_filter_keyed {α : Type} {p : Nat × α → Bool} {k : Nat} (kept : ∀ v, p (k, v) = true) (l : List (Nat × α)) :
    sget k (l.filter p) = sget k l := by
  induction l with
  | nil => rfl
  | cons e r ih =>
    obtain ⟨j, v⟩ := e
    by_cases same : k = j
    · rw [same, List.filter_cons_of_pos (by rw [← same]; exact kept v), sget, sget, if_pos rfl, if_pos rfl]
    · rw [List.filter_cons]
      split
      · rw [sget, sget, if_neg same, if_neg same, ih]
      · rw [sget, if_neg same, ih]

/-- What the host holds of a line is left when another line leaves the slice. -/
theorem dropL2_hostHeld {s : State} {line k : Nat} {e : L2Line} (other : e.copy = none → e.line ≠ line) (inside : k / 2 = line) :
    sget k (s.dropL2 e).hostHeld = sget k s.hostHeld := by
  cases copy : e.copy with
  | some ws =>
    rw [State.dropL2]
    dsimp only
    rw [if_pos (by rw [copy]; rfl)]
    rfl
  | none =>
    have away := other copy
    have kept : ∀ v : HostSt, (fun (h : Nat × HostSt) => (h.1 / 2 != e.line || s.reg.any fun r => r.1 / 8 == h.1)) (k, v) = true := by
      intro v
      have apart : (k / 2 != e.line) = true := by
        rw [inside]
        simpa using away.symm
      simp [apart]
    rw [State.dropL2]
    dsimp only
    rw [if_neg (by rw [copy]; decide)]
    split
    · split <;> exact sget_filter_keyed kept _
    · exact sget_filter_keyed kept _

theorem touchLine_hostHeld {s : State} {line k : Nat} (inside : k / 2 = line) : sget k (s.touchLine (128 * line)).hostHeld = sget k s.hostHeld := by
  cases kept : s.lineKept line with
  | true => rw [touchLine_of_kept kept]
  | false =>
    have absent : s.l2Has line = false := by
      have last := (Bool.or_eq_false_iff.1 kept).2
      rwa [Nat.mul_div_cancel_left line (by decide)] at last
    have other : ∀ e ∈ s.l2, e.copy = none → e.line ≠ line := by
      intro e he copy same
      have here := List.any_eq_false.1 absent e he
      simp [same, copy] at here
    have fetched : s.touchLine (128 * line) = s.allocL2 { slice := s.homeSlice (128 * line), line := 128 * line / 128, dirty := none, copy := none } := by
      rw [State.touchLine]
      exact if_neg (Bool.eq_false_iff.1 kept)
    rw [fetched, State.allocL2]
    dsimp only
    split
    · rfl
    · split
      next v _ victim => exact dropL2_hostHeld (other v (List.mem_of_mem_filter (victim ▸ List.mem_cons_self))) inside
      next => rfl

theorem touchLine_hostKeeps {s : State} {line w : Nat} (inside : w / 16 = line) : (s.touchLine (128 * line)).hostKeeps (8 * w) = s.hostKeeps (8 * w) := by
  have sector : sectorOf (8 * w) / 2 = line := by
    unfold sectorOf
    omega
  rw [State.hostKeeps, (touchLine_holders ..).hold, touchLine_hostHeld sector, State.hostKeeps]

end Sys2Proof.Machine
end

section
/-! SUPPORT. The words of a line that its registrants have given back: what a state is after it, whatever the order (13 R261, R263; O33). -/

namespace Sys2Proof.Machine

open Sys2Proof.Safety

/-! ## A state whose registrants have given words back -/

/-- The state after the words of a line that a list names were given back, but for bytes and for the line's last writer. -/
def State.given (line : Nat) (G : List (Nat × L1Word)) (s : State) : State :=
  let s1 := if G.isEmpty || !writable s (128 * line) then s else s.touchLine (128 * line)
  { s1 with reg := s1.reg.filter fun r => (sget r.1 G).isNone }

/-- The bytes in memory after these words were given back. -/
def State.givenMem (G : List (Nat × L1Word)) (s : State) (w : Nat) : Mem :=
  match sget w G with
  | some l => (s.putWord w (wordCells (s.heldBytes w l)) l.ws).mem
  | none => s.mem

/-- The words of a line that a list names were given back. -/
structure Given (line : Nat) (G : List (Nat × L1Word)) (s t : State) : Prop where
  core : (t.shaded line).core = ((s.given line G).shaded line).core
  dry : writable s (128 * line) = false → t.core = (s.given line G).core
  mem : ∀ a, mget t.mem a = mget (s.givenMem G (a / 8)) a
  sealed : ∀ n, t.flights.any (Flight.sealedOf n) = s.flights.any (Flight.sealedOf n)
  inside : ∀ w, (sget w G).isSome → w / 16 = line

theorem given_nil (line : Nat) (s : State) : s.given line [] = s := by
  have all : (s.reg.filter fun r => (sget r.1 ([] : List (Nat × L1Word))).isNone) = s.reg := List.filter_eq_self.2 fun _ _ => rfl
  show { s with reg := s.reg.filter fun r => (sget r.1 ([] : List (Nat × L1Word))).isNone } = s
  rw [all]

theorem given_dry {line : Nat} {s : State} (dry : writable s (128 * line) = false) (G : List (Nat × L1Word)) :
    s.given line G = { s with reg := s.reg.filter fun r => (sget r.1 G).isNone } := by
  rw [State.given, dry]
  simp

theorem given_cons {line : Nat} {s : State} (written : writable s (128 * line) = true) (e : Nat × L1Word) (G : List (Nat × L1Word)) :
    s.given line (e :: G) = { s.touchLine (128 * line) with reg := s.reg.filter fun r => (sget r.1 (e :: G)).isNone } := by
  rw [State.given, written]
  dsimp only [List.isEmpty_cons, Bool.false_or, Bool.not_true]
  rw [if_neg (by decide), (touchLine_holders ..).reg]

theorem given_reg (line : Nat) (G : List (Nat × L1Word)) (s : State) : (s.given line G).reg = s.reg.filter fun r => (sget r.1 G).isNone := by
  rw [State.given]
  dsimp only
  split
  · rfl
  · rw [(touchLine_holders ..).reg]

theorem given_backed (line : Nat) (G : List (Nat × L1Word)) (s : State) : backed (s.given line G) = backed s := by
  rw [State.given]
  split
  · rfl
  · exact (touchLine_holders s (128 * line)).backed

/-- The line fetched after words of it were given back. -/
theorem given_touchLine {line : Nat} {s : State} (written : writable s (128 * line) = true) (G : List (Nat × L1Word)) :
    (s.given line G).touchLine (128 * line) = { s.touchLine (128 * line) with reg := s.reg.filter fun r => (sget r.1 G).isNone } := by
  cases G with
  | nil =>
    have all : (s.reg.filter fun r => (sget r.1 ([] : List (Nat × L1Word))).isNone) = s.reg := List.filter_eq_self.2 fun _ _ => rfl
    rw [given_nil, all, ← (touchLine_holders s (128 * line)).reg]
  | cons e r =>
    rw [given_cons written]
    exact touchLine_of_kept (lineKept_touchLine s line)

theorem given_hostKeeps {line w : Nat} (inside : w / 16 = line) (G : List (Nat × L1Word)) (s : State) :
    (s.given line G).hostKeeps (8 * w) = s.hostKeeps (8 * w) := by
  rw [State.given]
  split
  · rfl
  · exact touchLine_hostKeeps inside

theorem given_fresh (line : Nat) (G : List (Nat × L1Word)) (s : State) : (s.given line G).fresh = s.fresh := by
  have touch : ∀ pa, (s.touchLine pa).fresh = s.fresh := by
    intro pa
    unfold State.touchLine State.allocL2 State.dropL2 State.lapse State.chargeEvict
    dsimp only
    split
    · rfl
    · split
      · rfl
      · split
        · split
          · rfl
          · split
            · split <;> rfl
            · rfl
        · rfl
  rw [State.given]
  dsimp only
  split
  · rfl
  · exact touch _

theorem Given.refl (line : Nat) (s : State) : Given line [] s s where
  core := by rw [given_nil]
  dry _ := by rw [given_nil]
  mem _ := rfl
  sealed _ := rfl
  inside _ some := by cases some

/-! ## One more word given back -/

theorem sdel_eq_filter {α : Type} (k : Nat) (l : List (Nat × α)) : sdel k l = l.filter fun e => e.1 != k := by
  induction l with
  | nil => rfl
  | cons e r ih =>
    obtain ⟨j, v⟩ := e
    by_cases same : k = j
    · rw [sdel, if_pos same, List.filter_cons_of_neg (by simp [same]), ih]
    · rw [sdel, if_neg same, List.filter_cons_of_pos (by simpa using Ne.symm same), ih]

namespace Given

variable {line : Nat} {G : List (Nat × L1Word)} {s t : State} (h : Given line G s t)
include h

theorem reg : t.reg = s.reg.filter fun r => (sget r.1 G).isNone := by
  rw [← given_reg line]
  exact (congrArg State.reg h.core :)

theorem writable (pa : Nat) : writable t pa = writable s pa := by
  have backs : backed t = backed s := (congrArg Machine.backed h.core :).trans (given_backed line G s)
  rw [Machine.writable, backs, Machine.writable]

theorem sget_reg {w : Nat} : sget w t.reg = if (sget w G).isNone then sget w s.reg else none := by
  rw [h.reg]
  split
  next kept => exact sget_filter_keyed (fun _ => kept) _
  next given =>
    cases found : sget w (s.reg.filter fun r => (sget r.1 G).isNone) with
    | none => rfl
    | some r => exact absurd (List.mem_filter.1 (mem_of_sget found)).2 given

/-- The bytes of a word that is not given back yet. -/
theorem heldBytes {w : Nat} (inside : w / 16 = line) (kept : sget w G = none) (l : L1Word) : t.heldBytes w l = s.heldBytes w l := by
  have keeps : t.hostKeeps (8 * w) = s.hostKeeps (8 * w) := (congrArg (fun c : State => c.hostKeeps (8 * w)) h.core :).trans (given_hostKeeps inside G s)
  have fresh : t.fresh = s.fresh := (congrArg State.fresh h.core :).trans (given_fresh line G s)
  have bytes : mread t.mem (8 * w) 8 = mread s.mem (8 * w) 8 := by
    rw [mread_eq_map, mread_eq_map]
    refine List.map_congr_left fun i hi => ?_
    have word : (8 * w + i) / 8 = w := by
      have := List.mem_range.1 hi
      omega
    rw [h.mem, State.givenMem, word, kept]
  rw [State.heldBytes, State.sliceWord, keeps, fresh, bytes, State.heldBytes, State.sliceWord]

/-- A registered word written back and freed. -/
theorem cons {w : Nat} (inside : w / 16 = line) (kept : sget w G = none) (l : L1Word) :
    Given line ((w, l) :: G) s ((t.putWord w (wordCells (s.heldBytes w l)) l.ws).unregister w) := by
  have regs : sdel w t.reg = s.reg.filter fun r => (sget r.1 ((w, l) :: G)).isNone := by
    rw [sdel_eq_filter, h.reg, List.filter_filter]
    refine List.filter_congr fun r _ => ?_
    by_cases same : r.1 = w
    · simp [sget, same]
    · simp [sget, same]
  have regsPut : sdel w (t.putWord w (wordCells (s.heldBytes w l)) l.ws).reg = s.reg.filter fun r => (sget r.1 ((w, l) :: G)).isNone := by
    rw [(putWord_holders ..).reg, regs]
  have same : Machine.writable t (8 * w) = Machine.writable s (128 * line) := by rw [h.writable, writable_word inside]
  refine ⟨?_, fun dry => ?_, fun a => ?_, fun n => ?_, fun x given => ?_⟩
  · cases written : Machine.writable s (128 * line) with
    | false =>
      have unput : t.putWord w (wordCells (s.heldBytes w l)) l.ws = t := by
        rw [State.putWord, same, written]
        rfl
      have core := h.core
      rw [given_dry written] at core ⊢
      rw [unput]
      have set : ∀ r, (({ t with reg := r } : State).shaded line).core = (({ s with reg := r } : State).shaded line).core := fun r =>
        (congrArg (fun c : State => { c with reg := r }) core :)
      exact (congrArg (fun r => (({ t with reg := r } : State).shaded line).core) regs).trans (set _)
    | true =>
      have put : ((t.putWord w (wordCells (s.heldBytes w l)) l.ws).shaded line).core
          = (({ s.touchLine (128 * line) with reg := s.reg.filter fun r => (sget r.1 G).isNone } : State).shaded line).core := by
        have core : ((t.putWord w (wordCells (s.heldBytes w l)) l.ws).shaded line).core
            = (((t.touchLine (8 * w)).markDirty (w / 16) l.ws).shaded line).core :=
          congrArg (State.shaded line) (core_putWord (same.trans written) ..)
        rw [core, inside, shaded_markDirty, touchLine_word inside, core_touchLine h.core, given_touchLine written]
      rw [given_cons written]
      have set : ∀ r, (({ t.putWord w (wordCells (s.heldBytes w l)) l.ws with reg := r } : State).shaded line).core
          = (({ s.touchLine (128 * line) with reg := r } : State).shaded line).core := fun r =>
        (congrArg (fun c : State => { c with reg := r }) put :)
      exact (congrArg (fun r => (({ t.putWord w (wordCells (s.heldBytes w l)) l.ws with reg := r } : State).shaded line).core) regsPut).trans (set _)
  · have unput : t.putWord w (wordCells (s.heldBytes w l)) l.ws = t := by
      rw [State.putWord, same, dry]
      rfl
    have core := h.dry dry
    rw [given_dry dry] at core ⊢
    rw [unput]
    have set : ∀ r, ({ t with reg := r } : State).core = ({ s with reg := r } : State).core := fun r =>
      (congrArg (fun c : State => { c with reg := r }) core :)
    exact (congrArg (fun r => ({ t with reg := r } : State).core) regs).trans (set _)
  · show mget (t.putWord w (wordCells (s.heldBytes w l)) l.ws).mem a = _
    by_cases word : a / 8 = w
    · have before : mget t.mem a = mget s.mem a := by rw [h.mem, State.givenMem, word, kept]
      rw [State.givenMem, word, sget, if_pos rfl]
      dsimp only
      rw [mem_putWord, mem_putWord, h.writable]
      split
      · rw [mget_cells, mget_cells, before]
      · exact before
    · rw [mget_putWord_outside wordCells_inWord (by omega), h.mem, State.givenMem, State.givenMem, sget, if_neg word]
  · show (t.putWord w (wordCells (s.heldBytes w l)) l.ws).flights.any _ = _
    rw [putWord_flights, h.sealed]
  · by_cases word : x = w
    · rw [word, inside]
    · rw [sget, if_neg word] at given
      exact h.inside x given

end Given

end Sys2Proof.Machine
end

section
/-! SUPPORT. A sealed line taken from the tiles of a die: which words they give back, and what is left of them (13 R261, R263; O33). -/

namespace Sys2Proof.Machine

open Sys2Proof.Safety

/-! ## The words that one tile gives back -/

/-- One word of an eviction. -/
def State.surrender (n : Nat) (s : State) (e : Nat × L1Word) : State :=
  if e.2.st = .registered then
    if (sget e.1 s.reg).any (·.holder == .tile n) then
      let s2 := (s.writeBackWord e.1 e.2 (.tile n)).unregister e.1
      { s2 with flights := s2.flights.map (Flight.ackLate n e.1) }
    else { s with flights := carryBytes n e.1 e.2 s.flights }
  else s

/-- A tile without the words that are named. -/
def Tile.without (p : Nat → Bool) (T : Tile) : Tile := { T with l1 := T.l1.filter fun e => !p e.1 }

theorem evictWords_eq (s : State) (n : Nat) (p : Nat → Bool) : s.evictWords n p =
    let s1 := ((s.tileAt n).l1.filter fun e => p e.1).foldl (State.surrender n) s
    s1.setTile n ((s1.tileAt n).without p) := rfl

/-- The tile that a word is registered to. -/
def State.tileOf (s : State) (w : Nat) : Option Nat :=
  match sget w s.reg with
  | some ⟨.tile n, _⟩ => some n
  | _ => none

theorem tileOf_eq_some {s : State} {w n : Nat} : s.tileOf w = some n ↔ (sget w s.reg).any (·.holder == .tile n) = true := by
  unfold State.tileOf
  split
  next m _ found => simp [found]
  next other =>
    cases found : sget w s.reg with
    | none => simp
    | some r =>
      obtain ⟨holder, ws⟩ := r
      cases holder with
      | tile m => exact absurd found (other m ws)
      | cluster c => simp

/-- The word of a tile's L1 that the tile gives back, being the registrant. -/
def State.returned (s : State) (n : Nat) (l : List (Nat × L1Word)) (w : Nat) : Option L1Word :=
  if s.tileOf w = some n then (l.find? fun e => e.1 == w && e.2.st == .registered).map (·.2) else none

theorem returned_cons (s : State) (n : Nat) (e : Nat × L1Word) (r : List (Nat × L1Word)) (w : Nat) :
    s.returned n (e :: r) w = (s.returned n [e] w).or (s.returned n r w) := by
  unfold State.returned
  split
  · rw [List.find?_cons, List.find?_cons]
    split <;> simp
  · rfl

theorem sealedOf_carryBytes (line n w : Nat) (l : L1Word) (fs : List Flight) :
    (carryBytes n w l fs).any (Flight.sealedOf line) = fs.any (Flight.sealedOf line) := by
  induction fs with
  | nil => rfl
  | cons x r ih =>
    unfold carryBytes
    split
    next eq => cases eq
    next src sid w' r' eq =>
      cases eq
      split
      · rfl
      · rw [List.any_cons, List.any_cons, ih]
    next y r' _ eq =>
      cases eq
      rw [List.any_cons, List.any_cons, ih]

/-- A word written back leaves no more than the word does. -/
theorem writeBackWord_idle (s : State) (w : Nat) (l : L1Word) (p : Holder) :
    Calm (s.putWord w (wordCells (s.heldBytes w l)) l.ws) (s.writeBackWord w l p)
      ∧ (s.writeBackWord w l p).core = (s.putWord w (wordCells (s.heldBytes w l)) l.ws).core := by
  unfold State.writeBackWord
  dsimp only
  split
  · exact ⟨⟨rfl, rfl, rfl⟩, rfl⟩
  · exact ⟨.refl _, rfl⟩

theorem surrender_tiles (n : Nat) (s : State) (e : Nat × L1Word) : (s.surrender n e).tiles = s.tiles := by
  unfold State.surrender
  split
  · split
    · exact (writeBackWord_idle ..).1.tiles.trans (putWord_holders ..).tiles
    · rfl
  · rfl

theorem surrenders_tiles (n : Nat) (l : List (Nat × L1Word)) (s : State) : (l.foldl (State.surrender n) s).tiles = s.tiles := by
  induction l generalizing s with
  | nil => rfl
  | cons e r ih => rw [List.foldl_cons, ih, surrender_tiles]

theorem Given.idle {line : Nat} {G : List (Nat × L1Word)} {s t u : State} (h : Given line G s t) (core : u.core = t.core)
    (mem : u.mem = t.mem) (sealed : ∀ x, u.flights.any (Flight.sealedOf x) = t.flights.any (Flight.sealedOf x)) : Given line G s u where
  core := (congrArg (State.shaded line) core :).trans h.core
  dry none := core.trans (h.dry none)
  mem a := by rw [mem, h.mem]
  sealed x := by rw [sealed, h.sealed]
  inside := h.inside

/-- The words given back so far and one tile's word. -/
theorem Given.surrender {line n : Nat} {G : List (Nat × L1Word)} {s t : State} (h : Given line G s t) {e : Nat × L1Word} (inside : e.1 / 16 = line) :
    ∃ G', Given line G' s (t.surrender n e) ∧ ∀ w, sget w G' = (sget w G).or (s.returned n [e] w) := by
  unfold State.surrender
  split
  next registered =>
    split
    next holds =>
      have kept : sget e.1 G = none := by
        rw [h.sget_reg] at holds
        split at holds
        next none => exact Option.isNone_iff_eq_none.1 none
        next => cases holds
      have holder : s.tileOf e.1 = some n := by
        rw [h.sget_reg, if_pos (by rw [kept]; rfl)] at holds
        exact tileOf_eq_some.2 holds
      obtain ⟨calm, core⟩ := writeBackWord_idle t e.1 e.2 (.tile n)
      rw [h.heldBytes inside kept] at calm core
      refine ⟨(e.1, e.2) :: G, (h.cons inside kept e.2).idle ((coreStep_unregister e.1).of_core core) calm.mem fun x => ?_, fun w => ?_⟩
      · have same : (Flight.sealedOf x ∘ Flight.ackLate n e.1) = Flight.sealedOf x := funext fun y => sealedOf_ackLate x n e.1 y
        show ((t.writeBackWord e.1 e.2 (.tile n)).flights.map (Flight.ackLate n e.1)).any _ = _
        rw [List.any_map, same, calm.flights]
        rfl
      · by_cases word : w = e.1
        · rw [word, sget, if_pos rfl, kept, State.returned, if_pos holder]
          simp [registered]
        · have none : s.returned n [e] w = none := by
            unfold State.returned
            simp [Ne.symm word]
          rw [sget, if_neg word, none, Option.or_none]
    next other =>
      refine ⟨G, h.idle rfl rfl fun x => sealedOf_carryBytes x n e.1 e.2 t.flights, fun w => ?_⟩
      cases given : sget w G with
      | some l => rfl
      | none =>
        rw [Option.none_or, State.returned]
        split
        next holder =>
          by_cases word : e.1 = w
          · refine absurd ?_ other
            rw [h.sget_reg, word, given]
            exact tileOf_eq_some.1 holder
          · simp [word]
        next => rfl
  next other =>
    refine ⟨G, h, fun w => ?_⟩
    have none : s.returned n [e] w = none := by
      unfold State.returned
      simp [other]
    rw [none, Option.or_none]

theorem Given.surrenders {line n : Nat} {s : State} (l : List (Nat × L1Word)) (inside : ∀ e ∈ l, e.1 / 16 = line) :
    ∀ {G : List (Nat × L1Word)} {t : State}, Given line G s t →
      ∃ G', Given line G' s (l.foldl (State.surrender n) t) ∧ ∀ w, sget w G' = (sget w G).or (s.returned n l w) := by
  induction l with
  | nil =>
    intro G t h
    refine ⟨G, h, fun w => ?_⟩
    have none : s.returned n [] w = none := by
      unfold State.returned
      simp
    rw [none, Option.or_none]
  | cons e r ih =>
    intro G t h
    obtain ⟨G1, h1, at1⟩ := h.surrender (n := n) (inside e List.mem_cons_self)
    obtain ⟨G2, h2, at2⟩ := ih (fun x hx => inside x (List.mem_cons_of_mem _ hx)) h1
    exact ⟨G2, h2, fun w => by rw [at2, at1, returned_cons s n e r, Option.or_assoc]⟩

/-! ## The words that the tiles of a list give back -/

/-- The words of a line. -/
def ofLine (line w : Nat) : Bool := w / 16 == line

/-- The word that its registrant, one of these tiles, gives back. -/
def State.returnedBy (s : State) (line : Nat) (ks : List Nat) (w : Nat) : Option L1Word :=
  match s.tileOf w with
  | some n => if n ∈ ks then s.returned n ((s.tileAt n).l1.filter fun e => ofLine line e.1) w else none
  | none => none

theorem returned_of_other {s : State} {n w : Nat} (other : s.tileOf w ≠ some n) (l : List (Nat × L1Word)) : s.returned n l w = none := by
  rw [State.returned, if_neg other]

theorem returnedBy_snoc (s : State) (line : Nat) {done : List Nat} {n : Nat} (fresh : n ∉ done) (w : Nat) :
    s.returnedBy line (done ++ [n]) w = (s.returnedBy line done w).or (s.returned n ((s.tileAt n).l1.filter fun e => ofLine line e.1) w) := by
  unfold State.returnedBy
  cases holder : s.tileOf w with
  | none => rw [returned_of_other (by rw [holder]; nofun)]; rfl
  | some m =>
    dsimp only
    by_cases same : m = n
    · rw [same, if_pos (by simp), if_neg fresh, Option.none_or]
    · rw [returned_of_other (n := n) (by rw [holder]; simpa using same), Option.or_none]
      simp [same]

theorem returnedBy_congr (s : State) (line : Nat) {ks ks' : List Nat} (same : ∀ n, n ∈ ks ↔ n ∈ ks') (w : Nat) : s.returnedBy line ks w = s.returnedBy line ks' w := by
  unfold State.returnedBy
  split
  · rw [if_congr (same _) rfl rfl]
  · rfl

/-- Tiles from which the named words are taken. -/
def emptied (p : Nat → Bool) (ts : List (Nat × Tile)) (n : Nat) : List (Nat × Tile) := sset n (((sget n ts).getD .reset).without p) ts

theorem evictWords_tiles (s : State) (n : Nat) (p : Nat → Bool) : (s.evictWords n p).tiles = emptied p s.tiles n := by
  rw [evictWords_eq]
  dsimp only [State.setTile, State.tileAt]
  rw [surrenders_tiles]
  rfl

theorem without_without (p : Nat → Bool) (T : Tile) : (T.without p).without p = T.without p := by
  unfold Tile.without
  simp [List.filter_filter]

theorem evicts_tiles (ks : List Nat) (s : State) (p : Nat → Bool) : (ks.foldl (fun s n => s.evictWords n p) s).tiles = ks.foldl (emptied p) s.tiles := by
  induction ks generalizing s with
  | nil => rfl
  | cons n r ih => rw [List.foldl_cons, ih, evictWords_tiles, List.foldl_cons]

/-- The tiles of a list give back what they are registrants of, each once. -/
theorem Given.evicts {line : Nat} {s : State} (ks : List Nat) : ∀ {done : List Nat} {G : List (Nat × L1Word)} {t : State}, Given line G s t →
    (∀ w, sget w G = s.returnedBy line done w) → (∀ n, t.tileAt n = if n ∈ done then (s.tileAt n).without (ofLine line) else s.tileAt n) →
      ∃ G', Given line G' s (ks.foldl (fun s n => s.evictWords n (ofLine line)) t) ∧ ∀ w, sget w G' = s.returnedBy line (done ++ ks) w := by
  induction ks with
  | nil =>
    intro done G t h at' _
    exact ⟨G, h, by simpa using at'⟩
  | cons n r ih =>
    intro done G t h at' tiles
    have inside : ∀ e ∈ (t.tileAt n).l1.filter (fun e => ofLine line e.1), e.1 / 16 = line := fun e he => by
      simpa [ofLine] using (List.mem_filter.1 he).2
    obtain ⟨G1, h1, at1⟩ := Given.surrenders (n := n) _ inside h
    have evicted : Given line G1 s (t.evictWords n (ofLine line)) := h1.idle rfl rfl fun _ => rfl
    have given : ∀ w, sget w G1 = s.returnedBy line (done ++ [n]) w := by
      intro w
      rw [at1, at']
      by_cases again : n ∈ done
      · have none : s.returned n ((t.tileAt n).l1.filter fun e => ofLine line e.1) w = none := by
          rw [tiles, if_pos again, State.returned, Tile.without, List.filter_filter]
          simp
        rw [none, Option.or_none]
        exact returnedBy_congr s line (by simp [again]) w
      · rw [tiles, if_neg again, returnedBy_snoc s line again]
    have left : ∀ m, (t.evictWords n (ofLine line)).tileAt m = if m ∈ done ++ [n] then (s.tileAt m).without (ofLine line) else s.tileAt m := by
      intro m
      have before := tiles m
      rw [State.tileAt, evictWords_tiles, emptied]
      by_cases same : m = n
      · rw [same] at before ⊢
        rw [sget_sset_same, if_pos (by simp)]
        show (t.tileAt n).without _ = _
        rw [before]
        split
        · exact without_without ..
        · rfl
      · rw [sget_sset_ne same]
        show t.tileAt m = _
        rw [before]
        simp [same]
    obtain ⟨G2, h2, at2⟩ := ih evicted given left
    exact ⟨G2, h2, by simpa using at2⟩

/-! ## A list of tiles with one set to what it is -/

theorem emptied_comm (p : Nat → Bool) (ts : List (Nat × Tile)) (m n : Nat) : emptied p (emptied p ts m) n = emptied p (emptied p ts n) m := by
  by_cases same : m = n
  · rw [same]
  · rw [emptied, emptied, emptied, emptied, sget_sset_ne same, sget_sset_ne (Ne.symm same), sset_comm (Ne.symm same)]

theorem emptieds_comm (p : Nat → Bool) (ks : List Nat) (ts : List (Nat × Tile)) (n : Nat) :
    ks.foldl (emptied p) (emptied p ts n) = emptied p (ks.foldl (emptied p) ts) n := by
  induction ks generalizing ts with
  | nil => rfl
  | cons m r ih => rw [List.foldl_cons, emptied_comm, ih, List.foldl_cons]

theorem Faithful.emptieds {f : List (Nat × Tile) → List (Nat × Tile)} (good : Faithful f) (p : Nat → Bool) (ks : List Nat) (ts : List (Nat × Tile)) :
    ks.foldl (emptied p) (f ts) = f (ks.foldl (emptied p) ts) := by
  induction ks generalizing ts with
  | nil => rfl
  | cons n r ih =>
    have one : emptied p (f ts) n = f (emptied p ts n) := by rw [emptied, good.get, good.set, emptied]
    rw [List.foldl_cons, one, ih, List.foldl_cons]

theorem get_emptieds (p : Nat → Bool) (ks : List Nat) (ts : List (Nat × Tile)) (n : Nat) : (sget n (ks.foldl (emptied p) ts)).getD .reset
    = if n ∈ ks then ((sget n ts).getD .reset).without p else (sget n ts).getD .reset := by
  induction ks generalizing ts with
  | nil => rfl
  | cons m r ih =>
    rw [List.foldl_cons, ih, emptied]
    by_cases same : n = m
    · rw [same, sget_sset_same, Option.getD_some, without_without]
      simp
    · rw [sget_sset_ne same]
      simp [same]

theorem without_reset (p : Nat → Bool) : Tile.reset.without p = Tile.reset := rfl

theorem get_of_no_key {n : Nat} {ts : List (Nat × Tile)} (absent : n ∉ ts.map (·.1)) : sget n ts = none := by
  cases found : sget n ts with
  | none => rfl
  | some T => exact absurd (List.mem_map.2 ⟨_, mem_of_sget found, rfl⟩) absent

/-- The keys of a list in which one tile is set to what it is. -/
theorem keys_touched (k : Nat) (ts : List (Nat × Tile)) : (touched k ts).map (·.1) = ts.map (·.1)
    ∨ ∃ a b, ts.map (·.1) = a ++ b ∧ (touched k ts).map (·.1) = a ++ k :: b := by
  rcases sset_sget_cases k Tile.reset ts with same | ⟨a, b, parts, inserted, -⟩
  · exact .inl (by rw [touched, same])
  · exact .inr ⟨a.map (·.1), b.map (·.1), by rw [parts, List.map_append], by rw [touched, inserted, List.map_append, List.map_cons]⟩

/-- Words taken from all tiles of a die. -/
theorem emptieds_touched (p q : Nat → Bool) (k : Nat) (ts : List (Nat × Tile)) :
    (((touched k ts).map (·.1)).filter q).foldl (emptied p) (touched k ts) = touched k ((((ts.map (·.1)).filter q)).foldl (emptied p) ts) := by
  rcases keys_touched k ts with same | ⟨a, b, parts, inserted⟩
  · rw [same, (Faithful.touched k).emptieds]
  · have keys : (ts.map (·.1)).filter q = a.filter q ++ b.filter q := by rw [parts, List.filter_append]
    cases in' : q k with
    | false =>
      have more : ((touched k ts).map (·.1)).filter q = (ts.map (·.1)).filter q := by
        rw [inserted, List.filter_append, List.filter_cons_of_neg (by simp [in']), keys]
      rw [more, (Faithful.touched k).emptieds]
    | true =>
      have more : ((touched k ts).map (·.1)).filter q = a.filter q ++ k :: b.filter q := by
        rw [inserted, List.filter_append, List.filter_cons_of_pos (by simp [in'])]
      have left : ((sget k (((ts.map (·.1)).filter q).foldl (emptied p) ts)).getD .reset).without p
          = (sget k (((ts.map (·.1)).filter q).foldl (emptied p) ts)).getD .reset := by
        rw [get_emptieds]
        split
        · exact without_without ..
        next absent =>
          have none : sget k ts = none := get_of_no_key fun there => absent (List.mem_filter.2 ⟨there, in'⟩)
          rw [none, Option.getD_none, without_reset]
      calc (((touched k ts).map (·.1)).filter q).foldl (emptied p) (touched k ts)
          = emptied p (((ts.map (·.1)).filter q).foldl (emptied p) (touched k ts)) k := by
            rw [more, List.foldl_append, List.foldl_cons, emptieds_comm, keys, List.foldl_append]
        _ = emptied p (touched k (((ts.map (·.1)).filter q).foldl (emptied p) ts)) k := by rw [(Faithful.touched k).emptieds]
        _ = touched k (((ts.map (·.1)).filter q).foldl (emptied p) ts) := by
          rw [emptied, (Faithful.touched k).get, left, touched, sset_sset]

end Sys2Proof.Machine
end

section
/-! SUPPORT. A write to a sealed line in runs that differ in the list their tiles stand in (13 R263; O33). -/

namespace Sys2Proof.Machine

open Sys2Proof.Safety

/-! ## The copies of a line removed -/

/-- The replicas and redirects of a word's line are gone, and what is on its way to an L1 is not kept there. -/
def State.uncopied (s : State) (w : Nat) : State :=
  { s with
    l2 := s.l2.filter fun e => !(e.line == w / 16 && e.copy.isSome)
    coppice := s.coppice.filter fun c => c.line != w / 16
    hot := s.hot.filter fun h => h.line != w / 16
    flights := s.flights.map (Flight.unkeep fun src _ x => src.tile / 256 == homeDie (8 * w) && x / 16 == w / 16) }

/-- The tiles of a word's home die, as they stand in the list. -/
def State.keysOfDie (s : State) (w : Nat) : List Nat := (s.tiles.map (·.1)).filter (· / 256 == homeDie (8 * w))

theorem unseal_eq (s : State) (w : Nat) : s.unseal w none =
    if s.sealedTrace (w / 16) then (s.keysOfDie w).foldl (fun s n => s.evictWords n (ofLine (w / 16))) (s.uncopied w) else s := by
  have all : (fun x : Nat => x / 16 == w / 16 && !(x == w && (none : Option Nat) == some 0)) = ofLine (w / 16) := by
    funext x
    simp [ofLine]
  unfold State.unseal
  dsimp only
  rw [← all]
  cases s.sealedTrace (w / 16) <;> rfl

theorem sealedOf_unkeep (line : Nat) (p : Src → Bool → Nat → Bool) (x : Flight) : (x.unkeep p).sealedOf line = x.sealedOf line := by
  unfold Flight.unkeep
  split <;> simp [Flight.sealedOf]

/-! ## Words given back in both -/

theorem given_congr {G G' : List (Nat × L1Word)} (same : ∀ w, sget w G' = sget w G) (line : Nat) (s : State) : s.given line G' = s.given line G := by
  have some : ∀ {G : List (Nat × L1Word)}, G ≠ [] → ∃ w, sget w G ≠ none := by
    intro G more
    obtain ⟨e, r, rfl⟩ := List.exists_cons_of_ne_nil more
    exact ⟨e.1, by rw [sget, if_pos rfl]; nofun⟩
  have empty : G'.isEmpty = G.isEmpty := by
    rw [Bool.eq_iff_iff, List.isEmpty_iff, List.isEmpty_iff]
    constructor
    · rintro rfl
      by_contra more
      obtain ⟨w, found⟩ := some more
      exact found (same w).symm
    · rintro rfl
      by_contra more
      obtain ⟨w, found⟩ := some more
      exact found (same w)
  simp only [State.given, empty, same]

theorem coreStep_given (line : Nat) (G : List (Nat × L1Word)) : coreStep fun s => s.given line G := by
  intro s
  have test : writable s.core (128 * line) = writable s (128 * line) := rfl
  unfold State.given
  dsimp only
  rw [test]
  split
  · rfl
  · exact (congrArg (fun c : State => { c with reg := c.reg.filter fun r => (sget r.1 G).isNone }) (coreStep_touchLine (128 * line) s) :)

/-! ## What becomes of a save (05 R105, R111) -/

/-- What becomes of a save that has, or has not, filled its frame. -/
def savedIn : FrameRes → Saved
  | .frame _ => .done
  | .none _ => .broken

section
variable {s : State} {n : Nat} {c : Fin 8} {sv : Save} {m : SaveMode} {f : Nat} (needs : sv.needsFrame = true)
include needs

/-- A save into the frame that the strand has. -/
theorem saveStrand_own (has : (s.cx n c).frame = some f) : (s.saveStrand n c sv m).2 = savedIn (s.fillFrame n c sv f).2 := by
  unfold State.saveStrand
  dsimp only
  rw [needs, if_pos rfl, has]
  dsimp only
  generalize s.fillFrame n c sv f = filled
  obtain ⟨s1, r⟩ := filled
  cases r <;> rfl

variable (has : (s.cx n c).frame = none)
include has

/-- A save into a frame that it takes. -/
theorem saveStrand_framed (took : (s.takeFrame n (s.cx n c).wsid sv.size m).2 = .frame f) :
    (s.saveStrand n c sv m).2 = savedIn ((s.takeFrame n (s.cx n c).wsid sv.size m).1.fillFrame n c sv f).2 := by
  unfold State.saveStrand
  dsimp only
  rw [needs, if_pos rfl, has]
  dsimp only
  revert took
  generalize s.takeFrame n (s.cx n c).wsid sv.size m = taken
  obtain ⟨s1, r⟩ := taken
  rintro rfl
  dsimp only
  generalize s1.fillFrame n c sv f = filled
  obtain ⟨s2, r⟩ := filled
  cases r <;> rfl

/-- A save that finds no frame. -/
theorem saveStrand_unframed {y : Byte} (took : (s.takeFrame n (s.cx n c).wsid sv.size m).2 = .none y) : (s.saveStrand n c sv m).2 = .lack y := by
  unfold State.saveStrand
  dsimp only
  rw [needs, if_pos rfl, has]
  dsimp only
  revert took
  generalize s.takeFrame n (s.cx n c).wsid sv.size m = taken
  obtain ⟨s1, r⟩ := taken
  rintro rfl
  rfl

end

namespace Alike

variable {f : List (Nat × Tile) → List (Nat × Tile)} {s t : State}

theorem uncopied (h : Alike f s t) (w : Nat) : Alike f (s.uncopied w) (t.uncopied w) where
  core := (show coreStep fun s => s.uncopied w from fun _ => rfl).of_core h.core
  mem := h.mem
  sealed line := by
    have kept : ∀ p, (Flight.sealedOf line ∘ Flight.unkeep p) = Flight.sealedOf line := fun p => funext fun x => sealedOf_unkeep line p x
    show (t.flights.map _).any _ = (s.flights.map _).any _
    rw [List.any_map, List.any_map, kept, h.sealed]
  tiles := h.tiles

theorem sealedTrace (good : Faithful f) (h : Alike f s t) (line : Nat) : t.sealedTrace line = s.sealedTrace line := by
  have l2 : t.l2 = s.l2 := (congrArg State.l2 h.core :)
  have coppice : t.coppice = s.coppice := (congrArg State.coppice h.core :)
  rw [State.sealedTrace, l2, coppice, h.sealed, h.tiles, good.l1, State.sealedTrace]

theorem givenMem (h : Alike f s t) {G G' : List (Nat × L1Word)} (same : ∀ w, sget w G' = sget w G) (w a : Nat) :
    mget (t.givenMem G' w) a = mget (s.givenMem G w) a := by
  rw [State.givenMem, same, State.givenMem]
  cases sget w G with
  | none => exact h.mem a
  | some l =>
    dsimp only
    rw [h.heldBytes]
    exact (h.putWord ..).mem a

/-- The same words of a line given back, then a word of it written. -/
theorem putWord_given (h : Alike f s t) {line : Nat} {G G' : List (Nat × L1Word)} (same : ∀ w, sget w G' = sget w G) {s' t' : State}
    (hs : Given line G s s') (ht : Given line G' t t') (tiles : t'.tiles = f s'.tiles) {w : Nat} (inside : w / 16 = line)
    (cells : List (Nat × Byte)) (ws : Wsid) : Alike f (s'.putWord w cells ws) (t'.putWord w cells ws) := by
  have backs : ∀ pa, writable t pa = writable s pa := fun pa => (congrArg (fun c => writable c pa) h.core :)
  have writes : writable t' (8 * w) = writable s' (8 * w) := by rw [ht.writable, hs.writable, backs]
  have given : (t.given line G').core = (s.given line G).core := by
    rw [given_congr same]
    exact (coreStep_given line G).of_core h.core
  have mem : ∀ a, mget t'.mem a = mget s'.mem a := fun a => by rw [ht.mem, hs.mem, h.givenMem same]
  refine ⟨?_, fun a => ?_, fun n => ?_, ?_⟩
  · cases written : writable s' (8 * w) with
    | true =>
      have shaded : (t'.shaded line).core = (s'.shaded line).core := by
        rw [ht.core, hs.core]
        exact (congrArg (State.shaded line) given :)
      have marked : ∀ v : State, ((v.touchLine (8 * w)).markDirty (w / 16) ws).core = (((v.touchLine (128 * line)).shaded line).core.markDirty line ws).core := by
        intro v
        rw [touchLine_word inside, inside, ← markDirty_shaded]
        rfl
      rw [core_putWord written, core_putWord (writes.trans written), marked, marked, core_touchLine shaded]
    | false =>
      have dry : writable s (128 * line) = false := by rw [← writable_word inside, ← hs.writable, written]
      have same : t'.core = s'.core := by rw [ht.dry ((backs _).trans dry), hs.dry dry, given]
      exact (coreStep_putWord w cells ws).of_core same
  · rw [mem_putWord, mem_putWord, writes]
    split
    · rw [mget_cells, mget_cells, mem]
    · exact mem a
  · rw [putWord_flights, putWord_flights, ht.sealed, hs.sealed, h.sealed]
  · rw [(putWord_holders ..).tiles, (putWord_holders ..).tiles, tiles]

variable {k : Nat}

/-- A tile more in the list, that holds nothing, gives nothing back. -/
theorem returnedBy_keysOfDie (h : Alike (touched k) s t) (w x : Nat) : t.returnedBy (w / 16) (t.keysOfDie w) x = s.returnedBy (w / 16) (s.keysOfDie w) x := by
  have reg : t.reg = s.reg := (congrArg State.reg h.core :)
  have holder : t.tileOf x = s.tileOf x := by rw [State.tileOf, reg, State.tileOf]
  unfold State.returnedBy
  rw [holder]
  cases s.tileOf x with
  | none => rfl
  | some n =>
    have found : t.returned n ((t.tileAt n).l1.filter fun e => ofLine (w / 16) e.1) x = s.returned n ((s.tileAt n).l1.filter fun e => ofLine (w / 16) e.1) x := by
      rw [State.returned, holder, h.tileAt (.touched k), State.returned]
    dsimp only
    rw [found]
    by_cases before : n ∈ s.keysOfDie w
    · rw [if_pos before, if_pos]
      rw [State.keysOfDie, List.mem_filter] at before ⊢
      refine ⟨?_, before.2⟩
      rw [h.tiles]
      rcases keys_touched k s.tiles with same | ⟨a, b, parts, inserted⟩
      · rw [same]
        exact before.1
      · rw [inserted]
        have there := before.1
        rw [parts, List.mem_append] at there
        simp [there.imp_right Or.inr]
    · rw [if_neg before]
      split
      next after =>
        have home := (List.mem_filter.1 after).2
        have none : sget n s.tiles = none := get_of_no_key fun there => before (List.mem_filter.2 ⟨there, home⟩)
        have nothing : (s.tileAt n).l1 = [] := by
          rw [State.tileAt, none]
          rfl
        rw [nothing, State.returned]
        simp
      next => rfl

/-- A word written at a line that copies may be held of. -/
theorem unseal_putWord (h : Alike (touched k) s t) (w : Nat) (cells : List (Nat × Byte)) (ws : Wsid) :
    Alike (touched k) ((s.unseal w none).putWord w cells ws) ((t.unseal w none).putWord w cells ws) := by
  rw [unseal_eq, unseal_eq, h.sealedTrace (.touched k)]
  split
  · have start := h.uncopied w
    have nothing : ∀ (v : State) (x : Nat), sget x ([] : List (Nat × L1Word)) = v.returnedBy (w / 16) [] x := fun v x => by
      unfold State.returnedBy
      split <;> rfl
    obtain ⟨G, hs, gs⟩ := (Given.refl (w / 16) (s.uncopied w)).evicts (s.keysOfDie w) (done := []) (nothing _) fun n => by simp
    obtain ⟨G', ht, gt⟩ := (Given.refl (w / 16) (t.uncopied w)).evicts (t.keysOfDie w) (done := []) (nothing _) fun n => by simp
    have same : ∀ x, sget x G' = sget x G := fun x => by
      rw [gs, gt]
      exact start.returnedBy_keysOfDie w x
    refine start.putWord_given same hs ht ?_ rfl cells ws
    rw [evicts_tiles, evicts_tiles]
    show (((t.tiles.map (·.1)).filter _).foldl _ t.tiles) = touched k (((s.tiles.map (·.1)).filter _).foldl _ s.tiles)
    rw [h.tiles, emptieds_touched]
  · exact h.putWord w cells ws

theorem sliceWrite (h : Alike (touched k) s t) (w : Nat) (cells : List (Nat × Byte)) (ws : Wsid) :
    Alike (touched k) (s.sliceWrite w cells ws) (t.sliceWrite w cells ws) := (h.revoke (.touched k) w).unseal_putWord w cells ws

/-! ## Runs of bytes, and what an engine writes -/

theorem writeRun (h : Alike (touched k) s t) (pa : Nat) (bs : List Byte) (ws : Wsid) : Alike (touched k) (s.writeRun pa bs ws) (t.writeRun pa bs ws) :=
  h.foldl (g := fun s w => s.sliceWrite w (cellsIn pa bs w) ws) (fun w h => h.sliceWrite w _ ws) _

theorem putRun (h : Alike (touched k) s t) (pa : Nat) (bs : List Byte) (ws : Wsid) : Alike (touched k) (s.putRun pa bs ws) (t.putRun pa bs ws) :=
  (h.foldl (g := fun s a => s.takeSector a true) (fun a h => h.takeSector a true) _).writeRun pa bs ws

theorem writeAt (h : Alike (touched k) s t) (pa : Nat) (bs : List Byte) (ws : Wsid) : Alike (touched k) (s.writeAt pa bs ws) (t.writeAt pa bs ws) :=
  (h.putRun pa bs ws).noteNomem ..

theorem writePieces (ws : Wsid) (l : List (Nat × Nat)) : ∀ {s t : State}, Alike (touched k) s t → ∀ bs, Alike (touched k) (s.writePieces ws l bs) (t.writePieces ws l bs) := by
  induction l with
  | nil => exact fun h _ => h
  | cons c r ih => exact fun h bs => ih (h.putRun c.1 (bs.take c.2) ws) (bs.drop c.2)

/-- A write by an engine faults in both, or comes to pass in both. -/
theorem vwrite (h : Alike (touched k) s t) (ws va : Nat) (bs : List Byte) :
    (∃ e, s.vwrite ws va bs = .error e ∧ t.vwrite ws va bs = .error e)
      ∨ ∃ s' t', s.vwrite ws va bs = .ok s' ∧ t.vwrite ws va bs = .ok t' ∧ Alike (touched k) s' t' := by
  unfold State.vwrite
  rw [h.xlateRun (.touched k)]
  cases s.xlateRun ws true (chunksOf va bs.length) with
  | error e => exact .inl ⟨e, rfl, rfl⟩
  | ok l => exact .inr ⟨_, _, rfl, rfl, ((writePieces _ l h bs).nomemRuns l ws)⟩

theorem vput (h : Alike (touched k) s t) (ws va n v : Nat) : Alike (touched k) (s.vput ws va n v) (t.vput ws va n v) := by
  unfold State.vput
  rcases h.vwrite ws va (leBytes v n) with ⟨e, hs, ht⟩ | ⟨s', t', hs, ht, next⟩
  · rw [hs, ht]
    exact h
  · rw [hs, ht]
    exact next

theorem wsWord (h : Alike (touched k) s t) (ws i : Nat) : t.wsWord ws i = s.wsWord ws i := by
  have base : t.wsAddr ws i = s.wsAddr ws i := (congrArg (fun c : State => c.wsAddr ws i) h.core :)
  rw [State.wsWord, base, (h.reads (.touched k)).natAt, State.wsWord]

theorem setWsWord (h : Alike (touched k) s t) (ws i : Nat) (v : Word) : Alike (touched k) (s.setWsWord ws i v) (t.setWsWord ws i v) := by
  have base : t.wsAddr ws i = s.wsAddr ws i := (congrArg (fun c : State => c.wsAddr ws i) h.core :)
  unfold State.setWsWord
  rw [base]
  exact h.writeAt ..

theorem faultRecord (h : Alike (touched k) s t) (ws code ltid info addr : Nat) :
    Alike (touched k) (s.faultRecord ws code ltid info addr) (t.faultRecord ws code ltid info addr) := by
  have miss : ∀ v, Alike (touched k) (s.setWsWord ws wEVCOUNT v) (t.setWsWord ws wEVCOUNT v) := h.setWsWord ws wEVCOUNT
  have tick : t.tick = s.tick := (congrArg State.tick h.core :)
  unfold State.faultRecord
  dsimp only
  rw [h.wsWord, h.wsWord, h.vnat (.touched k), tick]
  split
  · exact miss _
  · split
    · exact miss _
    next count _ =>
      rcases (h.vsee (.touched k) ws (s.wsWord ws wFRBASE).toNat 8).vwrite ws ((s.wsWord ws wFRBASE).toNat + 64 + 32 * (count % 126))
        (faultEntry code ltid info addr s.tick) with ⟨e, hs, ht⟩ | ⟨s', t', hs, ht, next⟩
      · rw [hs, ht]
        exact miss _
      · rw [hs, ht]
        exact next.vput ..

/-! ## Frames -/

/-- A frame of the pool is found in both, the same one, or in neither. -/
theorem popPool (h : Alike (touched k) s t) (ltid ws need : Nat) : (t.popPool ltid ws need).2 = (s.popPool ltid ws need).2
    ∧ Alike (touched k) (s.popPool ltid ws need).1 (t.popPool ltid ws need).1 := by
  unfold State.popPool
  dsimp only
  rw [h.wsWord, h.vnat (.touched k)]
  generalize (s.wsWord ws wSPOOL).toNat = head
  have seen := h.vsee (.touched k) ws head 8
  have words : (t.vsee ws head 8).poolFrame ws = (s.vsee ws head 8).poolFrame ws := by rw [State.poolFrame, seen.wsWord, State.poolFrame]
  rw [words]
  split
  · exact ⟨rfl, h⟩
  · split
    · exact ⟨rfl, h.faultRecord ..⟩
    next f _ =>
      rw [seen.vnat (.touched k)]
      split
      · exact ⟨rfl, seen⟩
      · split
        · exact ⟨rfl, seen⟩
        · split
          · exact ⟨rfl, seen.faultRecord ..⟩
          next link _ =>
            rcases (seen.vsee (.touched k) ws f 8).vwrite ws head (leBytes link 8) with ⟨e, hs, ht⟩ | ⟨s', t', hs, ht, next⟩
            · rw [hs, ht]
              exact ⟨rfl, seen.faultRecord ..⟩
            · rw [hs, ht]
              exact ⟨rfl, next⟩

theorem popReserve (h : Alike (touched k) s t) (die : Nat) (ws : Wsid) (cause : Byte) : (t.popReserve die ws cause).2 = (s.popReserve die ws cause).2
    ∧ Alike (touched k) (s.popReserve die ws cause).1 (t.popReserve die ws cause).1 := by
  have used : t.framesUsed = s.framesUsed := (congrArg State.framesUsed h.core :)
  unfold State.popReserve
  rw [used]
  split
  next i _ => exact ⟨rfl, (congrArg (fun c : State => { c with framesUsed := sset (die * 64 + i) ws s.framesUsed }) h.core :), h.mem, h.sealed, h.tiles⟩
  next => exact ⟨rfl, h⟩

theorem ltidOf (h : Alike (touched k) s t) (n : Nat) : t.ltidOf n = s.ltidOf n :=
  (congrArg (fun c : State => c.ltidOf n) h.core :)

theorem putFrame_isSome (h : Alike (touched k) s t) (n : Nat) (c : Fin 8) (sv : Save) (g : Nat) :
    (t.putFrame n c sv g).isSome = (s.putFrame n c sv g).isSome := by
  have tile := h.tileAt (.touched k) n
  unfold State.putFrame
  rw [State.cx, tile, State.cx]
  dsimp only
  rcases h.vwrite ((s.tileAt n).ctx[c].wsid).toNat g ((s.tileAt n).spillBytes (s.tileAt n).ctx[c] sv) with ⟨e, hs, ht⟩ | ⟨s', t', hs, ht, -⟩
  · rw [hs, ht]
  · rw [hs, ht]
    rfl

/-- A frame is filled in both, or in neither. -/
theorem fillFrame (h : Alike (touched k) s t) (n : Nat) (c : Fin 8) (sv : Save) (g : Nat) : (t.fillFrame n c sv g).2 = (s.fillFrame n c sv g).2 := by
  have filled := h.putFrame_isSome n c sv g
  have cx : t.cx n c = s.cx n c := by rw [State.cx, h.tileAt (.touched k), State.cx]
  unfold State.fillFrame
  rw [cx, h.ltidOf]
  cases hs : s.putFrame n c sv g with
  | some s1 =>
    rw [hs] at filled
    obtain ⟨t1, ht⟩ := Option.isSome_iff_exists.1 filled
    rw [ht]
  | none =>
    rw [hs] at filled
    rw [Option.isNone_iff_eq_none.1 (Option.isSome_eq_false_iff.1 filled)]
    obtain ⟨same, next⟩ := (h.faultRecord (s.cx n c).wsid.toNat frSPILL (s.ltidOf n) 0 g).popReserve (n / 256) (s.cx n c).wsid trSPILL_EMPTY
    dsimp only
    revert same next
    generalize (t.faultRecord (s.cx n c).wsid.toNat frSPILL (s.ltidOf n) 0 g).popReserve (n / 256) (s.cx n c).wsid trSPILL_EMPTY = t1
    generalize (s.faultRecord (s.cx n c).wsid.toNat frSPILL (s.ltidOf n) 0 g).popReserve (n / 256) (s.cx n c).wsid trSPILL_EMPTY = s1
    obtain ⟨s1, r⟩ := s1
    obtain ⟨t1, r'⟩ := t1
    rintro rfl next
    cases r' with
    | none y => rfl
    | frame g' =>
      have again := next.putFrame_isSome n c sv g'
      dsimp only
      cases hs : s1.putFrame n c sv g' with
      | some s2 =>
        rw [hs] at again
        obtain ⟨t2, ht⟩ := Option.isSome_iff_exists.1 again
        rw [ht]
      | none =>
        rw [hs] at again
        rw [Option.isNone_iff_eq_none.1 (Option.isSome_eq_false_iff.1 again)]

/-! ## A strand saved -/

theorem takeFrame (h : Alike (touched k) s t) (n : Nat) (ws : Wsid) (need : Nat) : (t.takeFrame n ws need .suspend).2 = (s.takeFrame n ws need .suspend).2
    ∧ Alike (touched k) (s.takeFrame n ws need .suspend).1 (t.takeFrame n ws need .suspend).1 := by
  obtain ⟨same, next⟩ := h.popPool (s.ltidOf n) ws.toNat need
  unfold State.takeFrame
  rw [h.ltidOf]
  revert same next
  generalize t.popPool (s.ltidOf n) ws.toNat need = t1
  generalize s.popPool (s.ltidOf n) ws.toNat need = s1
  obtain ⟨s1, r⟩ := s1
  obtain ⟨t1, r'⟩ := t1
  rintro rfl next
  cases r' with
  | frame f => exact ⟨rfl, next⟩
  | none y => exact ⟨rfl, next⟩

/-- What becomes of a save. -/
theorem saveStrand (h : Alike (touched k) s t) (n : Nat) (c : Fin 8) (sv : Save) : (t.saveStrand n c sv .suspend).2 = (s.saveStrand n c sv .suspend).2 := by
  have cx : t.cx n c = s.cx n c := by rw [State.cx, h.tileAt (.touched k), State.cx]
  cases needs : sv.needsFrame with
  | false =>
    obtain ⟨s1, hs⟩ := State.saveStrand_noFrame needs s n c .suspend
    obtain ⟨t1, ht⟩ := State.saveStrand_noFrame needs t n c .suspend
    rw [hs, ht]
  | true =>
    cases has : (s.cx n c).frame with
    | some f => rw [saveStrand_own needs has, saveStrand_own needs (cx ▸ has), h.fillFrame]
    | none =>
      obtain ⟨same, next⟩ := h.takeFrame n (s.cx n c).wsid sv.size
      have hasT : (t.cx n c).frame = none := cx ▸ has
      rw [← cx] at same next
      cases took : (t.takeFrame n (t.cx n c).wsid sv.size .suspend).2 with
      | none y => rw [saveStrand_unframed needs hasT took, saveStrand_unframed needs has (cx ▸ same.symm.trans took)]
      | frame f => rw [saveStrand_framed needs hasT took, saveStrand_framed needs has (cx ▸ same.symm.trans took), next.fillFrame, cx]

end Alike

/-- A context set to what it is changes at most where its tile stands in the list. -/
theorem setCx_same (s : State) (n : Nat) (c : Fin 8) : Alike (touched n) s (s.setCx n c (s.cx n c)) where
  core := rfl
  mem _ := rfl
  sealed _ := rfl
  tiles := by
    have whole : ∀ T : Tile, { T with ctx := T.ctx.set c T.ctx[c] } = T := by
      intro T
      rw [show T.ctx.set c T.ctx[c] = T.ctx from Vector.set_getElem_self ..]
    exact congrArg (fun T => sset n T s.tiles) (whole (s.tileAt n))

end Sys2Proof.Machine
end

section
/-! SUPPORT. TDONE and YIELD: what they wait for, and what the strand leaves behind (15 R285, R286; O33). -/

namespace Sys2Proof.Machine

open Sys2Proof.Safety

/-! ## The end of a plain strand (15 R285) -/

/-- A strand that has joined no weir departs from none. -/
theorem State.departAll_none (s : State) (n : Nat) (src : Src) : s.departAll n src (Vector.replicate 4 (0 : Word)).toList = s := by
  have none : ∀ s : State, s.departEntry n src 0 = s := fun s => by
    rw [State.departEntry]
    exact if_pos rfl
  simp only [State.departAll, Vector.toList_replicate, List.replicate_succ, List.replicate_zero, List.foldl_cons, List.foldl_nil, none]

/-- A plain strand that TDONE ends signals its successors, and its entry leaves the table. -/
theorem State.endWork_plain {s : State} {n : Nat} {ws : Wsid} {rec : Word} {e : Strand} (found : s.strand ws rec = some e) (plain : e.work = .plain)
    (unreserved : e.reserve = 0) : s.endWork n ws rec .tdone = { s with
      strands := sdel (recKey ws rec) s.strands
      signals := s.signals ++ e.succ.map fun x => { counter := x, ws := e.ws, ltid := s.ltidOf n } } := by
  unfold State.endWork
  rw [found]
  dsimp only
  rw [plain, State.release, if_pos unreserved]
  rfl

/-- What the frame and the context of an ended strand leave is what its work's end has left. -/
theorem State.books_endStrand {s : State} {n : Nat} {c : Fin 8} (untrapped : (s.cx n c).trec = 0) (unjoined : (s.cx n c).joins = Vector.replicate 4 0) :
    (s.endStrand n c .tdone).books
      = ((s.recordDrops n (s.cx n c).wsid (s.cx n c).th.outs).endWork n (s.cx n c).wsid (s.cx n c).recAddr .tdone).books := by
  have freed : ∀ s : State, (s.freeCx n c).books = s.books := fun _ => rfl
  unfold State.endStrand State.endStrandAs
  dsimp only
  rw [freed, untrapped, unjoined, departAll_none]
  cases (s.cx n c).frame with
  | none => rfl
  | some f => exact books_freeFrame ..

section
variable {u : State} {n : Nat} {c : Fin 8} {e : Strand} (untrapped : (u.cx n c).trec = 0) (unjoined : (u.cx n c).joins = Vector.replicate 4 0)
  (found : u.strand (u.cx n c).wsid (u.cx n c).recAddr = some e) (plain : e.work = .plain) (unreserved : e.reserve = 0)
include untrapped unjoined found plain unreserved

theorem State.endStrand_signals : (u.endStrand n c .tdone).signals = u.signals ++ e.succ.map fun x => { counter := x, ws := e.ws, ltid := u.ltidOf n } := by
  have kept := books_recordDrops u n (u.cx n c).wsid (u.cx n c).th.outs
  rw [signals_of_books (books_endStrand untrapped unjoined), endWork_plain ((strand_of_books kept ..).trans found) plain unreserved]
  dsimp only
  rw [signals_of_books kept, ltidOf_of_books kept]

theorem State.endStrand_strand : (u.endStrand n c .tdone).strand (u.cx n c).wsid (u.cx n c).recAddr = Option.none := by
  have kept := books_recordDrops u n (u.cx n c).wsid (u.cx n c).th.outs
  rw [strand_of_books (books_endStrand untrapped unjoined), endWork_plain ((strand_of_books kept ..).trans found) plain unreserved, State.strand]
  exact sget_sdel_same ..

end

/-! ## A record on a resume list (15 R286) -/

theorem State.pushResume_resume (s : State) (q : Word) (ws : Wsid) (rec : Word) (prio : BitVec 3) :
    ∃ d : Fin 4, ∃ r ∈ (s.pushResume q ws rec prio).dies[d].resume, r.record = rec ∧ r.ws = ws ∧ r.prio = prio := by
  have inDie : ∀ d < 4, ∃ d' : Fin 4, ∃ r ∈ (s.setDie d { s.die d with resume := (s.die d).resume ++ [{ record := rec, queue := q, ws := ws, prio := prio }] }).dies[d'].resume,
      r.record = rec ∧ r.ws = ws ∧ r.prio = prio := fun d small => by
    refine ⟨⟨d, small⟩, { record := rec, queue := q, ws := ws, prio := prio }, ?_, rfl, rfl, rfl⟩
    rw [State.dies_get s ⟨d, small⟩]
    exact List.mem_append_right _ List.mem_cons_self
  unfold State.pushResume
  split
  next h _ => exact inDie _ (State.qDies_headD_lt ..)
  next => exact inDie 0 (by decide)

theorem State.pushResume_tile (s : State) (q : Word) (ws : Wsid) (rec : Word) (prio : BitVec 3) : (s.pushResume q ws rec prio).tile = s.tile := rfl

/-! ## The two instructions -/

section
variable {s u : State} {m : SMark} {c : Fin 8} (issued : issues s m u) (acts : u.curAgent = .ctx c)
include issued acts

theorem exec_tdone : exec (.tdone m) s = .next (State.finish (Done.afterStreams u (
    if u.tile.streams u.src true true then u.streamHold else if u.storesOut u.src then .wait .stores u
    else match u.departWait with
      | some w => .wait w u
      | none => .gone (u.endStrand u.curTile c .tdone)))) := by
  have runs := exec_strand (i := .tdone m) issued acts rfl
  rw [acts] at runs
  exact runs

section
variable (streamless : u.tile.streams u.src true true = false) (stored : u.storesOut u.src = false)
include streamless stored

theorem exec_tdone_departs : exec (.tdone m) s = .next (State.finish (Done.afterStreams u (match u.departWait with
      | some w => .wait w u
      | none => .gone (u.endStrand u.curTile c .tdone)))) := by
  rw [exec_tdone issued acts, streamless, stored]
  rfl

theorem exec_tdone_ends (room : u.departWait = none) : exec (.tdone m) s = .next (u.endStrand u.curTile c .tdone) :=
  exec_of_gone (exec_tdone_departs issued acts streamless stored) (by rw [room])

end

omit issued in
/-- The strand as YIELD saves it, its record where it stood. -/
theorem suspending_status : (u.suspending c 4 u.ctx.recAddr).2 = (u.saveStrand u.curTile c (u.ctx.suspSave 4) .suspend).2 := by
  rw [State.ctx_of_acts acts]
  exact (setCx_same u u.curTile c).saveStrand ..

section
variable (stored : u.storesOut u.src = false) (idle : u.tile.tensorBusy u.src = false)
include stored idle

theorem exec_yield : exec (.yield m) s = .next (State.finish (Done.afterStreams u
    (u.suspend c 4 u.ctx.recAddr u.ctx fun s1 => s1.pushResume (s1.returnQueue u.ws u.ctx.recAddr) u.ws u.ctx.recAddr u.ctx.prio))) := by
  rw [exec_strand (i := .yield m) issued acts rfl, acts]
  dsimp only
  rw [State.drained_idle stored idle]

theorem completes_yield_done (saved : (u.suspending c 4 u.ctx.recAddr).2 = .done) :
    completes (.yield m) s (fun t => t.tile.ctx[c].st = .free ∧ t.tile.run ≠ some c
      ∧ ∃ d : Fin 4, ∃ r ∈ t.dies[d].resume, r.record = u.ctx.recAddr ∧ r.ws = u.ws ∧ r.prio = u.ctx.prio) := by
  have whole : u.suspending c 4 u.ctx.recAddr = ((u.suspending c 4 u.ctx.recAddr).1, .done) := Prod.ext rfl saved
  obtain ⟨vacant, -, run⟩ := (State.suspending_vacated whole u.ctx.wsid u.ctx.th.outs).left rfl
  refine completes_next (exec_of_gone (exec_yield issued acts stored idle) (State.suspend_done whole)) ⟨?_, ?_, State.pushResume_resume ..⟩
  · rw [State.pushResume_tile]
    exact vacant
  · rw [State.pushResume_tile]
    exact run

theorem completes_yield_lack {y : Byte} (saved : (u.suspending c 4 u.ctx.recAddr).2 = .lack y) :
    completes (.yield m) s (fun t => t.tile.ctx[c].st = .waiting .frame ∧ t.tile.ctx[c].th = u.ctx.th ∧ t.tile.run = none) := by
  have whole : u.suspending c 4 u.ctx.recAddr = ((u.suspending c 4 u.ctx.recAddr).1, .lack y) := Prod.ext rfl saved
  obtain ⟨waits, th, -, run⟩ := State.suspending_waits acts whole u.ctx
  exact completes_next (exec_of_waits (exec_yield issued acts stored idle) (State.suspend_lack whole)) ⟨waits, th, run⟩

end

end

end Sys2Proof.Machine

namespace Sys2Proof

open Sys2Proof.Machine Sys2Proof.Safety

/-- Settles O33: each wait is a branch of TDONE, and the end that is left frees the context and signals the successors. What becomes of YIELD's save is what
the statement's save comes to, because the record stays where it is: setting the context to what it is moves at most the tile in its list. -/
theorem strandEnds : Obligations.StrandEnds := by
  unfold Obligations.StrandEnds
  intro s u m c issued acts drained
  have ctx : u.ctx = u.cx u.curTile c := State.ctx_of_acts acts
  have ws : u.ws = (u.cx u.curTile c).wsid := by
    rw [State.ws, acts]
    rfl
  refine ⟨?streamHeld, ?streamWaits, ?stores, ?window, ?freed, ?signalled, ?yield⟩
  case streamHeld =>
    intro busy still
    exact exec_of_hold (exec_tdone issued acts) (by rw [if_pos busy, State.streamHold, still]; rfl)
  case streamWaits =>
    intro busy walks
    exact exec_of_wait (exec_tdone issued acts) (by rw [if_pos busy, State.streamHold, walks]; rfl)
  case stores =>
    intro idle out
    exact exec_of_wait (exec_tdone issued acts) (by rw [idle, out]; rfl)
  case window =>
    rintro w ⟨idle, stored⟩ full
    exact exec_of_wait (exec_tdone_departs issued acts idle stored) (by rw [full])
  case freed =>
    rintro ⟨idle, stored⟩ room
    obtain ⟨vacant, -, run⟩ := (vacated.endStrand u u.curTile c .tdone).left rfl
    exact completes_next (exec_tdone_ends issued acts idle stored room) ⟨vacant, run⟩
  case signalled =>
    rintro e ⟨idle, stored⟩ untrapped unjoined found plain unreserved
    rw [ctx] at untrapped unjoined
    rw [ws, ctx] at found ⊢
    have room : u.departWait = Option.none := by
      have unjoinedHere : u.ctx.joins = Vector.replicate 4 0 := by rw [ctx, unjoined]
      have invalid : joinV 0#64 = false := by decide
      rw [State.departWait, unjoinedHere, Vector.toList_replicate]
      simp [List.replicate_succ, invalid]
    exact completes_next (exec_tdone_ends issued acts idle stored room)
      ⟨State.endStrand_signals untrapped unjoined found plain unreserved, State.endStrand_strand untrapped unjoined found plain unreserved⟩
  case yield =>
    intro stored idle sv
    have same : (u.suspending c 4 u.ctx.recAddr).2 = sv.2 := suspending_status acts
    refine ⟨fun small => ?_, fun saved => completes_yield_done issued acts stored idle (same.trans saved),
      fun y saved => completes_yield_lack issued acts stored idle (same.trans saved)⟩
    obtain ⟨s1, done⟩ := State.saveStrand_noFrame small u u.curTile c .suspend
    exact congrArg Prod.snd done

end Sys2Proof
end
